-- ==== Sys2Proof/Word.lean ====
section
/-! DEFINITION. The word types of the part and nothing else: bytes, instruction words and 64-bit words (R8, R52). -/

namespace Sys2Proof

/-- A byte of memory (R8). -/
abbrev Byte := BitVec 8

/-- An instruction word (R148). -/
abbrev IWord := BitVec 32

/-- A 64-bit scalar register, address or CSR value (R52). -/
abbrev Word := BitVec 64

end Sys2Proof
end

