-- ==== Sys2Proof/Syntax.lean ====
section
/-! DEFINITION. The instruction set as syntax: one constructor of `Instr` for every row of spec/opcode_table.json.
Rows with an encoding are the level-1 instruction words (R148 to R154); their arguments are the fields of the word,
each exactly as wide as its field (R149, R150). Rows without an encoding are the part's other indivisible steps
("What each step holds"); their arguments are what the outside of the modelled package brings to the step. -/

namespace Sys2Proof

/-- The four spans that the hang watchdog measures (R356). -/
inductive Span where
  | instrAtP | codeAtS | save | restore
deriving DecidableEq, Repr

/-- The part of a tile that fails: a working lane by number, or a scalar front end (R413 to R415). -/
inductive TilePart where
  | lane (n : Nat)
  | frontEnd (n : Nat)
deriving DecidableEq, Repr

/-- One memory error that a scrub pass finds: the word or granule, the bits of it that are wrong, and its syndrome. The bits
of a word of tile memory are its 64 data bits and, from 64 on, its check bits; those of a granule its 512 data bits and,
from 512 on, those of its word of the check granule (R416, R417, R419). -/
structure EccFinding where
  unit : Nat
  errors : List Nat
  syndrome : Word
deriving DecidableEq, Repr

/-- What boot finds in the nonvolatile store (R399, R481): the two copies of stage 1 and the monitor's image, and which
of them verify. -/
structure BootFindings where
  copyAOk : Bool
  copyBOk : Bool
  monitorOk : Bool
  copyA : List Byte
  copyB : List Byte
  monitor : List Byte
deriving DecidableEq, Repr

/-- The rank entries that another home die sends (R368): its package, the network, the image's DIGEST and NPROC, the
first rank it placed, and the 8-byte entries from that rank on. -/
structure RankExchange where
  pkg : Nat
  netid : Nat
  digest : List Byte
  nproc : Nat
  rankLo : Nat
  entries : List Word
deriving DecidableEq, Repr

/-- The operation of a request packet (R116, R443): on memory, or from the channel unit of another package: a slot, or the
token, written by a producer there, or a slot freed by a consumer there (R22, R25, R28). -/
inductive PacketOp where
  | read (n : Nat)
  | write (data : List Byte)
  | mark (data : List Byte)
  | atomic (op : Nat) (n : Nat) (operand compare : Word)
  | setFull | setEmpty
  | slot (chan : Nat) (data : List Byte)
  | token (chan : Nat)
  | slotFree (chan : Nat)
deriving DecidableEq, Repr

/-- A request packet of another endpoint (R395, R443): source, destination, sequence number, issuing device and network, the
key-map entry of the page (R397), the endpoint-local address and the operation. -/
structure Packet where
  src : Nat
  dst : Nat
  seq : Nat
  vdid : Nat
  netid : Nat
  ksel : Nat
  addr : Nat
  op : PacketOp
deriving DecidableEq, Repr

/-- A whole message of the host transport (R451 to R454): connection, device, host endpoint, number and payload. -/
structure HostMsg where
  conn : Nat
  vdid : Nat
  endpoint : Nat
  seq : Nat
  payload : List Byte
deriving DecidableEq, Repr

/-- The header of a class-1 message (R453), which goes to endpoint 65,535: connection, device and number. -/
structure LaunchHead where
  conn : Nat
  vdid : Nat
  seq : Nat
deriving DecidableEq, Repr

/-- A class-8 or class-10 request (R455): the connection, whether it is the management MAC's, the device that the
header names, and the payload from the request header on. -/
structure HostRequest where
  conn : Nat
  management : Bool
  vdid : Nat
  payload : List Byte
deriving DecidableEq, Repr

/-- The steps of the part, one constructor per row of spec/opcode_table.json. -/
inductive Instr where
  /-- R173. Writes the 64-bit sum of x[a] and x[b] to x[d]. -/
  | add (d : BitVec 5) (a : BitVec 5) (b : BitVec 5)
  /-- R173. Writes x[a] minus x[b], modulo 2^64, to x[d]. -/
  | sub (d : BitVec 5) (a : BitVec 5) (b : BitVec 5)
  /-- R173. Writes the bitwise AND of x[a] and x[b] to x[d]. -/
  | and (d : BitVec 5) (a : BitVec 5) (b : BitVec 5)
  /-- R173. Writes the bitwise OR of x[a] and x[b] to x[d]. -/
  | or (d : BitVec 5) (a : BitVec 5) (b : BitVec 5)
  /-- R173. Writes the bitwise XOR of x[a] and x[b] to x[d]. -/
  | xor (d : BitVec 5) (a : BitVec 5) (b : BitVec 5)
  /-- R173. Writes x[a] AND NOT x[b] to x[d]. -/
  | andn (d : BitVec 5) (a : BitVec 5) (b : BitVec 5)
  /-- R173. Writes x[a] OR NOT x[b] to x[d]. -/
  | orn (d : BitVec 5) (a : BitVec 5) (b : BitVec 5)
  /-- R173. Shifts x[a] left by x[b][5:0] into x[d]. -/
  | sll (d : BitVec 5) (a : BitVec 5) (b : BitVec 5)
  /-- R173. Shifts x[a] right logically by x[b][5:0] into x[d]. -/
  | srl (d : BitVec 5) (a : BitVec 5) (b : BitVec 5)
  /-- R173. Shifts x[a] right arithmetically by x[b][5:0] into x[d]. -/
  | sra (d : BitVec 5) (a : BitVec 5) (b : BitVec 5)
  /-- R173. Rotates x[a] left by x[b][5:0] into x[d]. -/
  | rol (d : BitVec 5) (a : BitVec 5) (b : BitVec 5)
  /-- R173. Rotates x[a] right by x[b][5:0] into x[d]. -/
  | ror (d : BitVec 5) (a : BitVec 5) (b : BitVec 5)
  /-- R173. Writes 1 to x[d] if x[a] is less than x[b] as signed integers, else 0. -/
  | slt (d : BitVec 5) (a : BitVec 5) (b : BitVec 5)
  /-- R173. Writes 1 to x[d] if x[a] is less than x[b] as unsigned integers, else 0. -/
  | sltu (d : BitVec 5) (a : BitVec 5) (b : BitVec 5)
  /-- R173. Writes the signed minimum of x[a] and x[b] to x[d]. -/
  | min (d : BitVec 5) (a : BitVec 5) (b : BitVec 5)
  /-- R173. Writes the signed maximum of x[a] and x[b] to x[d]. -/
  | max (d : BitVec 5) (a : BitVec 5) (b : BitVec 5)
  /-- R173. Writes the unsigned minimum of x[a] and x[b] to x[d]. -/
  | minu (d : BitVec 5) (a : BitVec 5) (b : BitVec 5)
  /-- R173. Writes the unsigned maximum of x[a] and x[b] to x[d]. -/
  | maxu (d : BitVec 5) (a : BitVec 5) (b : BitVec 5)
  /-- R173. Counts the leading zero bits of x[a] into x[d]. -/
  | clz (d : BitVec 5) (a : BitVec 5)
  /-- R173. Counts the trailing zero bits of x[a] into x[d]. -/
  | ctz (d : BitVec 5) (a : BitVec 5)
  /-- R173. Counts the one bits of x[a] into x[d]. -/
  | popc (d : BitVec 5) (a : BitVec 5)
  /-- R173. Sign-extends the low byte of x[a] into x[d]. -/
  | sextb (d : BitVec 5) (a : BitVec 5)
  /-- R173. Sign-extends the low half-word of x[a] into x[d]. -/
  | sexth (d : BitVec 5) (a : BitVec 5)
  /-- R173. Sign-extends the low word of x[a] into x[d]. -/
  | sextw (d : BitVec 5) (a : BitVec 5)
  /-- R173. Zero-extends the low word of x[a] into x[d]. -/
  | zextw (d : BitVec 5) (a : BitVec 5)
  /-- R174. Adds the sign-extended imm16 to x[a] into x[d]. -/
  | addi (d : BitVec 5) (a : BitVec 5) (i : BitVec 16)
  /-- R174. ANDs x[a] with the zero-extended imm16 into x[d]. -/
  | andi (d : BitVec 5) (a : BitVec 5) (i : BitVec 16)
  /-- R174. ORs x[a] with the zero-extended imm16 into x[d]. -/
  | ori (d : BitVec 5) (a : BitVec 5) (i : BitVec 16)
  /-- R174. XORs x[a] with the zero-extended imm16 into x[d]. -/
  | xori (d : BitVec 5) (a : BitVec 5) (i : BitVec 16)
  /-- R174. Writes 1 to x[d] if x[a] is below the sign-extended imm16, compared signed. -/
  | slti (d : BitVec 5) (a : BitVec 5) (i : BitVec 16)
  /-- R174. Writes 1 to x[d] if x[a] is below the sign-extended imm16, compared unsigned. -/
  | sltiu (d : BitVec 5) (a : BitVec 5) (i : BitVec 16)
  /-- R175. Shifts x[a] left by the immediate amount into x[d]. -/
  | slli (d : BitVec 5) (a : BitVec 5) (h : BitVec 6)
  /-- R175. Shifts x[a] right logically by the immediate amount into x[d]. -/
  | srli (d : BitVec 5) (a : BitVec 5) (h : BitVec 6)
  /-- R175. Shifts x[a] right arithmetically by the immediate amount into x[d]. -/
  | srai (d : BitVec 5) (a : BitVec 5) (h : BitVec 6)
  /-- R176. Shifts x[a] left by 16 and inserts imm16 into x[d]. -/
  | lih (d : BitVec 5) (a : BitVec 5) (i : BitVec 16)
  /-- R177. Writes PC plus x[a] plus the sign-extended imm16 to x[d]. -/
  | addpc (d : BitVec 5) (a : BitVec 5) (i : BitVec 16)
  /-- R178. Writes the low 64 bits of x[a] times x[b] to x[d]. -/
  | mul (d : BitVec 5) (a : BitVec 5) (b : BitVec 5)
  /-- R178. Writes the high 64 bits of the signed product to x[d]. -/
  | mulh (d : BitVec 5) (a : BitVec 5) (b : BitVec 5)
  /-- R178. Writes the high 64 bits of the unsigned product to x[d]. -/
  | mulhu (d : BitVec 5) (a : BitVec 5) (b : BitVec 5)
  /-- R178. Writes the high 64 bits of the signed-by-unsigned product to x[d]. -/
  | mulhsu (d : BitVec 5) (a : BitVec 5) (b : BitVec 5)
  /-- R178. Writes the signed quotient, truncated, to x[d], with fixed results for zero and overflow. -/
  | div (d : BitVec 5) (a : BitVec 5) (b : BitVec 5)
  /-- R178. Writes the unsigned quotient to x[d], all ones on division by zero. -/
  | divu (d : BitVec 5) (a : BitVec 5) (b : BitVec 5)
  /-- R178. Writes the signed remainder to x[d]. -/
  | rem (d : BitVec 5) (a : BitVec 5) (b : BitVec 5)
  /-- R178. Writes the unsigned remainder to x[d]. -/
  | remu (d : BitVec 5) (a : BitVec 5) (b : BitVec 5)
  /-- R179. Loads a sign-extended byte from TM into x[d]. -/
  | ldb (d : BitVec 5) (a : BitVec 5) (i : BitVec 16)
  /-- R179. Loads a zero-extended byte from TM into x[d]. -/
  | ldbu (d : BitVec 5) (a : BitVec 5) (i : BitVec 16)
  /-- R179. Loads a sign-extended half-word from TM into x[d]. -/
  | ldh (d : BitVec 5) (a : BitVec 5) (i : BitVec 16)
  /-- R179. Loads a zero-extended half-word from TM into x[d]. -/
  | ldhu (d : BitVec 5) (a : BitVec 5) (i : BitVec 16)
  /-- R179. Loads a sign-extended word from TM into x[d]. -/
  | ldw (d : BitVec 5) (a : BitVec 5) (i : BitVec 16)
  /-- R179. Loads a zero-extended word from TM into x[d]. -/
  | ldwu (d : BitVec 5) (a : BitVec 5) (i : BitVec 16)
  /-- R179. Loads a dword from TM into x[d]. -/
  | ldd (d : BitVec 5) (a : BitVec 5) (i : BitVec 16)
  /-- R179. Stores the low byte of x[d] to TM. -/
  | stb (d : BitVec 5) (a : BitVec 5) (i : BitVec 16)
  /-- R179. Stores the low half-word of x[d] to TM. -/
  | sth (d : BitVec 5) (a : BitVec 5) (i : BitVec 16)
  /-- R179. Stores the low word of x[d] to TM. -/
  | stw (d : BitVec 5) (a : BitVec 5) (i : BitVec 16)
  /-- R179. Stores x[d] as a dword to TM, clearing poison of the word. -/
  | std (d : BitVec 5) (a : BitVec 5) (i : BitVec 16)
  /-- R241. Loads 1 to 8 bytes from global memory at x[a] into x[d], signed or unsigned. -/
  | ldg (d : BitVec 5) (a : BitVec 5) (z : BitVec 2) (u : BitVec 1)
  /-- R241. Stores the low 1 to 8 bytes of x[b] to global memory at x[a]. -/
  | stg (a : BitVec 5) (b : BitVec 5) (z : BitVec 2)
  /-- R242. Waits for the granule holding x[a] to be full, then loads it as an acquire. -/
  | ldsync (d : BitVec 5) (a : BitVec 5) (z : BitVec 1)
  /-- R242. Waits for the granule to be full, loads it and empties it indivisibly, as an acquire. -/
  | ldsyncE (d : BitVec 5) (a : BitVec 5) (z : BitVec 1)
  /-- R243. Sets the full/empty bit of the granule holding x[a] to full. -/
  | setf (a : BitVec 5)
  /-- R243. Sets the full/empty bit of the granule holding x[a] to empty. -/
  | sete (a : BitVec 5)
  /-- R245. Acts as a release and an acquire at VTYPE.SCOPE. -/
  | fence
  /-- R246. Atomically adds x[b] to global memory at x[a], returning the old value in x[d]. -/
  | amoAdd (d : BitVec 5) (a : BitVec 5) (b : BitVec 5) (z : BitVec 1) (q : BitVec 1) (r : BitVec 1)
  /-- R246. Atomically ANDs x[b] into global memory, returning the old value. -/
  | amoAnd (d : BitVec 5) (a : BitVec 5) (b : BitVec 5) (z : BitVec 1) (q : BitVec 1) (r : BitVec 1)
  /-- R246. Atomically ORs x[b] into global memory, returning the old value. -/
  | amoOr (d : BitVec 5) (a : BitVec 5) (b : BitVec 5) (z : BitVec 1) (q : BitVec 1) (r : BitVec 1)
  /-- R246. Atomically XORs x[b] into global memory, returning the old value. -/
  | amoXor (d : BitVec 5) (a : BitVec 5) (b : BitVec 5) (z : BitVec 1) (q : BitVec 1) (r : BitVec 1)
  /-- R246. Atomically keeps the signed minimum in global memory, returning the old value. -/
  | amoMin (d : BitVec 5) (a : BitVec 5) (b : BitVec 5) (z : BitVec 1) (q : BitVec 1) (r : BitVec 1)
  /-- R246. Atomically keeps the signed maximum in global memory, returning the old value. -/
  | amoMax (d : BitVec 5) (a : BitVec 5) (b : BitVec 5) (z : BitVec 1) (q : BitVec 1) (r : BitVec 1)
  /-- R246. Atomically keeps the unsigned minimum in global memory, returning the old value. -/
  | amoMinu (d : BitVec 5) (a : BitVec 5) (b : BitVec 5) (z : BitVec 1) (q : BitVec 1) (r : BitVec 1)
  /-- R246. Atomically keeps the unsigned maximum in global memory, returning the old value. -/
  | amoMaxu (d : BitVec 5) (a : BitVec 5) (b : BitVec 5) (z : BitVec 1) (q : BitVec 1) (r : BitVec 1)
  /-- R246. Atomically replaces global memory with x[b], returning the old value. -/
  | amoSwap (d : BitVec 5) (a : BitVec 5) (b : BitVec 5) (z : BitVec 1) (q : BitVec 1) (r : BitVec 1)
  /-- R246. Atomically writes x[b] if memory equals x[d], returning the old value. -/
  | amoCas (d : BitVec 5) (a : BitVec 5) (b : BitVec 5) (z : BitVec 1) (q : BitVec 1) (r : BitVec 1)
  /-- R182. Branches when x[a] equals x[b]. -/
  | beq (a : BitVec 5) (b : BitVec 5) (i : BitVec 16)
  /-- R182. Branches when x[a] differs from x[b]. -/
  | bne (a : BitVec 5) (b : BitVec 5) (i : BitVec 16)
  /-- R182. Branches when x[a] is below x[b], signed. -/
  | blt (a : BitVec 5) (b : BitVec 5) (i : BitVec 16)
  /-- R182. Branches when x[a] is at least x[b], signed. -/
  | bge (a : BitVec 5) (b : BitVec 5) (i : BitVec 16)
  /-- R182. Branches when x[a] is below x[b], unsigned. -/
  | bltu (a : BitVec 5) (b : BitVec 5) (i : BitVec 16)
  /-- R182. Branches when x[a] is at least x[b], unsigned. -/
  | bgeu (a : BitVec 5) (b : BitVec 5) (i : BitVec 16)
  /-- R183. Jumps PC-relative by the 26-bit word displacement. -/
  | j (i : BitVec 26)
  /-- R183. Writes PC+4 to x1 and jumps PC-relative. -/
  | jal (i : BitVec 26)
  /-- R184. Jumps to x[a] plus offset, writing PC+4 to x[d], trapping MISALIGN if unaligned. -/
  | jalr (d : BitVec 5) (a : BitVec 5) (i : BitVec 16)
  /-- R205. Sets VL to min(x[a], VLMAX) and writes it to x[d]. -/
  | setvl (d : BitVec 5) (a : BitVec 5)
  /-- R205. Writes VTYPE from x[a] subject to legality, then writes VL to x[d]. -/
  | vsett (d : BitVec 5) (a : BitVec 5)
  /-- R205. Writes to x[d] the VLMAX that VTYPE value x[a] would give, or 0 if illegal. -/
  | vlmaxq (d : BitVec 5) (a : BitVec 5)
  /-- R205. Sets VL to min(imm16, VLMAX) and writes it to x[d]. -/
  | setvli (d : BitVec 5) (i : BitVec 16)
  /-- R206. Adds elements modulo 2^SEW. -/
  | vadd (d : BitVec 5) (a : BitVec 5) (b : BitVec 5) (p : BitVec 3) (s : BitVec 1)
  /-- R206. Subtracts elements modulo 2^SEW. -/
  | vsub (d : BitVec 5) (a : BitVec 5) (b : BitVec 5) (p : BitVec 3) (s : BitVec 1)
  /-- R206. Subtracts a from b elementwise. -/
  | vrsub (d : BitVec 5) (a : BitVec 5) (b : BitVec 5) (p : BitVec 3) (s : BitVec 1)
  /-- R206. Multiplies elements, keeping the low SEW bits. -/
  | vmul (d : BitVec 5) (a : BitVec 5) (b : BitVec 5) (p : BitVec 3) (s : BitVec 1)
  /-- R206. Keeps the high SEW bits of the signed product. -/
  | vmulh (d : BitVec 5) (a : BitVec 5) (b : BitVec 5) (p : BitVec 3) (s : BitVec 1)
  /-- R206. Keeps the high SEW bits of the unsigned product. -/
  | vmulhu (d : BitVec 5) (a : BitVec 5) (b : BitVec 5) (p : BitVec 3) (s : BitVec 1)
  /-- R206. Divides elements signed, with fixed results for zero and overflow. -/
  | vdiv (d : BitVec 5) (a : BitVec 5) (b : BitVec 5) (p : BitVec 3) (s : BitVec 1)
  /-- R206. Divides elements unsigned. -/
  | vdivu (d : BitVec 5) (a : BitVec 5) (b : BitVec 5) (p : BitVec 3) (s : BitVec 1)
  /-- R206. Takes the signed remainder of elements. -/
  | vrem (d : BitVec 5) (a : BitVec 5) (b : BitVec 5) (p : BitVec 3) (s : BitVec 1)
  /-- R206. ANDs elements. -/
  | vand (d : BitVec 5) (a : BitVec 5) (b : BitVec 5) (p : BitVec 3) (s : BitVec 1)
  /-- R206. ORs elements. -/
  | vor (d : BitVec 5) (a : BitVec 5) (b : BitVec 5) (p : BitVec 3) (s : BitVec 1)
  /-- R206. XORs elements. -/
  | vxor (d : BitVec 5) (a : BitVec 5) (b : BitVec 5) (p : BitVec 3) (s : BitVec 1)
  /-- R206. Shifts elements left by b mod SEW. -/
  | vsll (d : BitVec 5) (a : BitVec 5) (b : BitVec 5) (p : BitVec 3) (s : BitVec 1)
  /-- R206. Shifts elements right logically. -/
  | vsrl (d : BitVec 5) (a : BitVec 5) (b : BitVec 5) (p : BitVec 3) (s : BitVec 1)
  /-- R206. Shifts elements right arithmetically. -/
  | vsra (d : BitVec 5) (a : BitVec 5) (b : BitVec 5) (p : BitVec 3) (s : BitVec 1)
  /-- R206. Takes the signed minimum of elements. -/
  | vmin (d : BitVec 5) (a : BitVec 5) (b : BitVec 5) (p : BitVec 3) (s : BitVec 1)
  /-- R206. Takes the signed maximum of elements. -/
  | vmax (d : BitVec 5) (a : BitVec 5) (b : BitVec 5) (p : BitVec 3) (s : BitVec 1)
  /-- R206. Takes the unsigned minimum of elements. -/
  | vminu (d : BitVec 5) (a : BitVec 5) (b : BitVec 5) (p : BitVec 3) (s : BitVec 1)
  /-- R206. Takes the unsigned maximum of elements. -/
  | vmaxu (d : BitVec 5) (a : BitVec 5) (b : BitVec 5) (p : BitVec 3) (s : BitVec 1)
  /-- R206. Adds elements with signed saturation. -/
  | vsadd (d : BitVec 5) (a : BitVec 5) (b : BitVec 5) (p : BitVec 3) (s : BitVec 1)
  /-- R206. Adds elements with unsigned saturation. -/
  | vsaddu (d : BitVec 5) (a : BitVec 5) (b : BitVec 5) (p : BitVec 3) (s : BitVec 1)
  /-- R206. Subtracts elements with signed saturation. -/
  | vssub (d : BitVec 5) (a : BitVec 5) (b : BitVec 5) (p : BitVec 3) (s : BitVec 1)
  /-- R206. Subtracts elements with unsigned saturation. -/
  | vssubu (d : BitVec 5) (a : BitVec 5) (b : BitVec 5) (p : BitVec 3) (s : BitVec 1)
  /-- R207. Sets predicate bits where elements are equal. -/
  | vcmpEq (d : BitVec 3) (a : BitVec 5) (b : BitVec 5) (p : BitVec 3) (s : BitVec 1)
  /-- R207. Sets predicate bits where elements differ. -/
  | vcmpNe (d : BitVec 3) (a : BitVec 5) (b : BitVec 5) (p : BitVec 3) (s : BitVec 1)
  /-- R207. Sets predicate bits where a is below b, signed. -/
  | vcmpLt (d : BitVec 3) (a : BitVec 5) (b : BitVec 5) (p : BitVec 3) (s : BitVec 1)
  /-- R207. Sets predicate bits where a is below b, unsigned. -/
  | vcmpLtu (d : BitVec 3) (a : BitVec 5) (b : BitVec 5) (p : BitVec 3) (s : BitVec 1)
  /-- R207. Sets predicate bits where a is at most b, signed. -/
  | vcmpLe (d : BitVec 3) (a : BitVec 5) (b : BitVec 5) (p : BitVec 3) (s : BitVec 1)
  /-- R207. Sets predicate bits where a is at most b, unsigned. -/
  | vcmpLeu (d : BitVec 3) (a : BitVec 5) (b : BitVec 5) (p : BitVec 3) (s : BitVec 1)
  /-- R207. Sets predicate bits where a is above b, signed. -/
  | vcmpGt (d : BitVec 3) (a : BitVec 5) (b : BitVec 5) (p : BitVec 3) (s : BitVec 1)
  /-- R207. Sets predicate bits where a is above b, unsigned. -/
  | vcmpGtu (d : BitVec 3) (a : BitVec 5) (b : BitVec 5) (p : BitVec 3) (s : BitVec 1)
  /-- R208. Selects v[a] where the predicate is set and B elsewhere, for every element below VL. -/
  | vmerge (d : BitVec 5) (a : BitVec 5) (b : BitVec 5) (p : BitVec 3) (s : BitVec 1)
  /-- R208. Copies active elements of v[a] to v[d]. -/
  | vmvV (d : BitVec 5) (a : BitVec 5) (p : BitVec 3)
  /-- R208. Copies the low SEW bits of x[b] to active elements of v[d]. -/
  | vmvX (d : BitVec 5) (b : BitVec 5) (p : BitVec 3)
  /-- R208. Writes element x[b] of v[a], sign-extended, to x[d], or 0 beyond VL. -/
  | vxtr (d : BitVec 5) (a : BitVec 5) (b : BitVec 5)
  /-- R208. Writes x[a] into element x[b] of v[d] when below VL. -/
  | vins (d : BitVec 5) (a : BitVec 5) (b : BitVec 5)
  /-- R209. Adds floating-point elements with one rounding. -/
  | vfadd (d : BitVec 5) (a : BitVec 5) (b : BitVec 5) (p : BitVec 3) (s : BitVec 1)
  /-- R209. Subtracts floating-point elements with one rounding. -/
  | vfsub (d : BitVec 5) (a : BitVec 5) (b : BitVec 5) (p : BitVec 3) (s : BitVec 1)
  /-- R209. Multiplies floating-point elements with one rounding. -/
  | vfmul (d : BitVec 5) (a : BitVec 5) (b : BitVec 5) (p : BitVec 3) (s : BitVec 1)
  /-- R209. Divides floating-point elements with one rounding. -/
  | vfdiv (d : BitVec 5) (a : BitVec 5) (b : BitVec 5) (p : BitVec 3) (s : BitVec 1)
  /-- R209. Takes the correctly rounded square root of elements. -/
  | vfsqrt (d : BitVec 5) (a : BitVec 5) (p : BitVec 3)
  /-- R209. Takes the floating-point minimum by R103. -/
  | vfmin (d : BitVec 5) (a : BitVec 5) (b : BitVec 5) (p : BitVec 3) (s : BitVec 1)
  /-- R209. Takes the floating-point maximum by R103. -/
  | vfmax (d : BitVec 5) (a : BitVec 5) (b : BitVec 5) (p : BitVec 3) (s : BitVec 1)
  /-- R210. Sets predicate bits where floating-point elements are equal. -/
  | vfcmpEq (d : BitVec 3) (a : BitVec 5) (b : BitVec 5) (p : BitVec 3) (s : BitVec 1)
  /-- R210. Sets predicate bits where floating-point elements are not equal. -/
  | vfcmpNe (d : BitVec 3) (a : BitVec 5) (b : BitVec 5) (p : BitVec 3) (s : BitVec 1)
  /-- R210. Sets predicate bits where a is below b. -/
  | vfcmpLt (d : BitVec 3) (a : BitVec 5) (b : BitVec 5) (p : BitVec 3) (s : BitVec 1)
  /-- R210. Sets predicate bits where a is at most b. -/
  | vfcmpLe (d : BitVec 3) (a : BitVec 5) (b : BitVec 5) (p : BitVec 3) (s : BitVec 1)
  /-- R210. Sets predicate bits where a is above b. -/
  | vfcmpGt (d : BitVec 3) (a : BitVec 5) (b : BitVec 5) (p : BitVec 3) (s : BitVec 1)
  /-- R210. Sets predicate bits where a is at least b. -/
  | vfcmpGe (d : BitVec 3) (a : BitVec 5) (b : BitVec 5) (p : BitVec 3) (s : BitVec 1)
  /-- R210. Sets predicate bits where either element is NaN. -/
  | vfcmpUn (d : BitVec 3) (a : BitVec 5) (b : BitVec 5) (p : BitVec 3) (s : BitVec 1)
  /-- R211. Replaces the sign of a with the sign of b. -/
  | vfsgnJ (d : BitVec 5) (a : BitVec 5) (b : BitVec 5) (p : BitVec 3) (s : BitVec 1)
  /-- R211. Replaces the sign of a with the inverted sign of b. -/
  | vfsgnJn (d : BitVec 5) (a : BitVec 5) (b : BitVec 5) (p : BitVec 3) (s : BitVec 1)
  /-- R211. Replaces the sign of a with the XOR of both signs. -/
  | vfsgnJx (d : BitVec 5) (a : BitVec 5) (b : BitVec 5) (p : BitVec 3) (s : BitVec 1)
  /-- R211. Writes the class number of each element. -/
  | vfclass (d : BitVec 5) (a : BitVec 5) (p : BitVec 3)
  /-- R213. Converts elements from a named float format to the current float format. -/
  | vfcvtFf (d : BitVec 5) (a : BitVec 5) (s : BitVec 3) (p : BitVec 3)
  /-- R213. Converts float elements to signed integers by R89. -/
  | vfcvtFs (d : BitVec 5) (a : BitVec 5) (s : BitVec 3) (p : BitVec 3)
  /-- R213. Converts float elements to unsigned integers by R89. -/
  | vfcvtFu (d : BitVec 5) (a : BitVec 5) (s : BitVec 3) (p : BitVec 3)
  /-- R213. Converts signed or unsigned integer elements to the current float format. -/
  | vfcvtIf (d : BitVec 5) (a : BitVec 5) (u : BitVec 1) (w : BitVec 2) (p : BitVec 3)
  /-- R216. Delivers a 12-bit truncated reciprocal estimate. -/
  | vfrcpe (d : BitVec 5) (a : BitVec 5) (p : BitVec 3)
  /-- R216. Delivers the Newton reciprocal step 2 − a·b rounded once. -/
  | vfrcps (d : BitVec 5) (a : BitVec 5) (b : BitVec 5) (p : BitVec 3) (s : BitVec 1)
  /-- R216. Delivers a 12-bit truncated reciprocal square-root estimate. -/
  | vfrsqe (d : BitVec 5) (a : BitVec 5) (p : BitVec 3)
  /-- R216. Delivers the Newton step (3 − a·b)/2 rounded once. -/
  | vfrsqs (d : BitVec 5) (a : BitVec 5) (b : BitVec 5) (p : BitVec 3) (s : BitVec 1)
  /-- R216. Delivers the correctly rounded 2^x of each element. -/
  | vfexp2 (d : BitVec 5) (a : BitVec 5) (p : BitVec 3)
  /-- R216. Delivers the correctly rounded log2 x of each element. -/
  | vflog2 (d : BitVec 5) (a : BitVec 5) (p : BitVec 3)
  /-- R212. Computes a·b + c with one rounding. -/
  | vfma (d : BitVec 5) (a : BitVec 5) (b : BitVec 5) (p : BitVec 3) (s : BitVec 1)
  /-- R212. Computes a·b − c with one rounding. -/
  | vfms (d : BitVec 5) (a : BitVec 5) (b : BitVec 5) (p : BitVec 3) (s : BitVec 1)
  /-- R212. Computes −(a·b) − c with one rounding. -/
  | vfnma (d : BitVec 5) (a : BitVec 5) (b : BitVec 5) (p : BitVec 3) (s : BitVec 1)
  /-- R212. Computes −(a·b) + c with one rounding. -/
  | vfnms (d : BitVec 5) (a : BitVec 5) (b : BitVec 5) (p : BitVec 3) (s : BitVec 1)
  /-- R217. Slides elements of v[a] up by x[b]. -/
  | vslup (d : BitVec 5) (a : BitVec 5) (b : BitVec 5) (p : BitVec 3)
  /-- R217. Slides elements of v[a] down by x[b], zero beyond VL. -/
  | vsldn (d : BitVec 5) (a : BitVec 5) (b : BitVec 5) (p : BitVec 3)
  /-- R217. Gathers elements of v[a] by index, zero for indices at or above VL. -/
  | vgath (d : BitVec 5) (a : BitVec 5) (b : BitVec 5) (p : BitVec 3) (s : BitVec 1)
  /-- R218. Compresses the selected elements of v[a] to the low elements of v[d]. -/
  | vcomp (d : BitVec 5) (a : BitVec 5) (p : BitVec 3)
  /-- R219. Writes to each element the count of set predicate bits below it. -/
  | viota (d : BitVec 5) (p : BitVec 3)
  /-- R220. Writes the ordered floating-point sum of active elements from init into element 0. -/
  | vfredo (d : BitVec 5) (a : BitVec 5) (b : BitVec 5) (p : BitVec 3) (s : BitVec 1)
  /-- R220. Writes the largest active element into element 0. -/
  | vfrmax (d : BitVec 5) (a : BitVec 5) (p : BitVec 3)
  /-- R220. Writes the smallest active element into element 0. -/
  | vfrmin (d : BitVec 5) (a : BitVec 5) (p : BitVec 3)
  /-- R222. Writes mix64 of each element XOR B, at SEW 64 only. -/
  | vhash (d : BitVec 5) (a : BitVec 5) (b : BitVec 5) (p : BitVec 3) (s : BitVec 1)
  /-- R220. Reduces active elements by modular addition from init into element 0. -/
  | vredAdd (d : BitVec 5) (a : BitVec 5) (b : BitVec 5) (p : BitVec 3) (s : BitVec 1)
  /-- R220. Reduces active elements by AND into element 0. -/
  | vredAnd (d : BitVec 5) (a : BitVec 5) (b : BitVec 5) (p : BitVec 3) (s : BitVec 1)
  /-- R220. Reduces active elements by OR into element 0. -/
  | vredOr (d : BitVec 5) (a : BitVec 5) (b : BitVec 5) (p : BitVec 3) (s : BitVec 1)
  /-- R220. Reduces active elements by XOR into element 0. -/
  | vredXor (d : BitVec 5) (a : BitVec 5) (b : BitVec 5) (p : BitVec 3) (s : BitVec 1)
  /-- R220. Reduces active elements by signed minimum into element 0. -/
  | vredMin (d : BitVec 5) (a : BitVec 5) (b : BitVec 5) (p : BitVec 3) (s : BitVec 1)
  /-- R220. Reduces active elements by signed maximum into element 0. -/
  | vredMax (d : BitVec 5) (a : BitVec 5) (b : BitVec 5) (p : BitVec 3) (s : BitVec 1)
  /-- R220. Reduces active elements by unsigned minimum into element 0. -/
  | vredMinu (d : BitVec 5) (a : BitVec 5) (b : BitVec 5) (p : BitVec 3) (s : BitVec 1)
  /-- R220. Reduces active elements by unsigned maximum into element 0. -/
  | vredMaxu (d : BitVec 5) (a : BitVec 5) (b : BitVec 5) (p : BitVec 3) (s : BitVec 1)
  /-- R221. Writes the inclusive running modular sum of active elements. -/
  | vscanAdd (d : BitVec 5) (a : BitVec 5) (b : BitVec 5) (p : BitVec 3) (s : BitVec 1)
  /-- R221. Writes the inclusive running AND of active elements. -/
  | vscanAnd (d : BitVec 5) (a : BitVec 5) (b : BitVec 5) (p : BitVec 3) (s : BitVec 1)
  /-- R221. Writes the inclusive running OR of active elements. -/
  | vscanOr (d : BitVec 5) (a : BitVec 5) (b : BitVec 5) (p : BitVec 3) (s : BitVec 1)
  /-- R221. Writes the inclusive running XOR of active elements. -/
  | vscanXor (d : BitVec 5) (a : BitVec 5) (b : BitVec 5) (p : BitVec 3) (s : BitVec 1)
  /-- R221. Writes the inclusive running signed minimum. -/
  | vscanMin (d : BitVec 5) (a : BitVec 5) (b : BitVec 5) (p : BitVec 3) (s : BitVec 1)
  /-- R221. Writes the inclusive running signed maximum. -/
  | vscanMax (d : BitVec 5) (a : BitVec 5) (b : BitVec 5) (p : BitVec 3) (s : BitVec 1)
  /-- R221. Writes the inclusive running unsigned minimum. -/
  | vscanMinu (d : BitVec 5) (a : BitVec 5) (b : BitVec 5) (p : BitVec 3) (s : BitVec 1)
  /-- R221. Writes the inclusive running unsigned maximum. -/
  | vscanMaxu (d : BitVec 5) (a : BitVec 5) (b : BitVec 5) (p : BitVec 3) (s : BitVec 1)
  /-- R221. Writes the inclusive ordered floating-point running sum. -/
  | vscanFadd (d : BitVec 5) (a : BitVec 5) (b : BitVec 5) (p : BitVec 3) (s : BitVec 1)
  /-- R223. ANDs two predicates for active elements below VL. -/
  | pand (d : BitVec 3) (a : BitVec 3) (b : BitVec 3) (p : BitVec 3)
  /-- R223. ORs two predicates for active elements below VL. -/
  | por (d : BitVec 3) (a : BitVec 3) (b : BitVec 3) (p : BitVec 3)
  /-- R223. XORs two predicates for active elements below VL. -/
  | pxor (d : BitVec 3) (a : BitVec 3) (b : BitVec 3) (p : BitVec 3)
  /-- R223. ANDs a predicate with the inverse of another. -/
  | pandn (d : BitVec 3) (a : BitVec 3) (b : BitVec 3) (p : BitVec 3)
  /-- R223. Sets predicate bits below VL where the governing predicate is set, clearing the rest to VLMAX. -/
  | pset (d : BitVec 3) (p : BitVec 3)
  /-- R223. Keeps only the lowest active set bit of a predicate. -/
  | pfirst (d : BitVec 3) (a : BitVec 3) (p : BitVec 3)
  /-- R223. Counts bits set in both predicates below VLMAX into x[d]. -/
  | pcnt (d : BitVec 5) (a : BitVec 3) (p : BitVec 3)
  /-- R223. Copies predicate bits for active elements below VL. -/
  | pmov (d : BitVec 3) (a : BitVec 3) (p : BitVec 3)
  /-- R225. Clears all 4,288 bits of a long accumulator. -/
  | eaclr (d : BitVec 2)
  /-- R225. Adds each active element exactly into a long accumulator. -/
  | eaadd (d : BitVec 2) (a : BitVec 5) (p : BitVec 3)
  /-- R225. Adds each active product a·B exactly into a long accumulator. -/
  | eadot (d : BitVec 2) (a : BitVec 5) (b : BitVec 5) (p : BitVec 3) (s : BitVec 1)
  /-- R225. Adds one long accumulator into another and ORs their flags. -/
  | eaaddx (d : BitVec 2) (a : BitVec 2)
  /-- R225. Rounds a long accumulator once to a named format into x[d]. -/
  | earnd (d : BitVec 5) (a : BitVec 2) (m : BitVec 3) (f : BitVec 2)
  /-- R225. Copies one long accumulator to another. -/
  | eamov (d : BitVec 2) (a : BitVec 2)
  /-- R237. Loads active elements from TM at unit stride. -/
  | vld (d : BitVec 5) (a : BitVec 5) (p : BitVec 3)
  /-- R237. Loads active elements from TM at the stride in x[b]. -/
  | vlds (d : BitVec 5) (a : BitVec 5) (b : BitVec 5) (p : BitVec 3)
  /-- R237. Loads active elements from TM at indices in v[b]. -/
  | vldx (d : BitVec 5) (a : BitVec 5) (b : BitVec 5) (p : BitVec 3)
  /-- R238. Loads F-field records from TM into F register groups, optionally widening or narrowing. -/
  | vlseg (d : BitVec 5) (a : BitVec 5) (p : BitVec 3) (w : BitVec 2) (f : BitVec 3)
  /-- R237. Stores active elements to TM at unit stride. -/
  | vst (d : BitVec 5) (a : BitVec 5) (p : BitVec 3)
  /-- R237. Stores active elements to TM at a stride. -/
  | vsts (d : BitVec 5) (a : BitVec 5) (b : BitVec 5) (p : BitVec 3)
  /-- R237. Stores active elements to TM at indices. -/
  | vstx (d : BitVec 5) (a : BitVec 5) (b : BitVec 5) (p : BitVec 3)
  /-- R238. Stores F register groups to TM as F-field records. -/
  | vsseg (d : BitVec 5) (a : BitVec 5) (p : BitVec 3) (w : BitVec 2) (f : BitVec 3)
  /-- R237. Loads active elements from global memory at unit stride. -/
  | vldg (d : BitVec 5) (a : BitVec 5) (p : BitVec 3)
  /-- R237. Loads active elements from global memory at a stride. -/
  | vldgs (d : BitVec 5) (a : BitVec 5) (b : BitVec 5) (p : BitVec 3)
  /-- R237. Loads active elements from global memory at indices. -/
  | vldgx (d : BitVec 5) (a : BitVec 5) (b : BitVec 5) (p : BitVec 3)
  /-- R237. Stores active elements to global memory at unit stride. -/
  | vstg (d : BitVec 5) (a : BitVec 5) (p : BitVec 3)
  /-- R237. Stores active elements to global memory at a stride. -/
  | vstgs (d : BitVec 5) (a : BitVec 5) (b : BitVec 5) (p : BitVec 3)
  /-- R237. Stores active elements to global memory at indices. -/
  | vstgx (d : BitVec 5) (a : BitVec 5) (b : BitVec 5) (p : BitVec 3)
  /-- R244. Waits until every covered granule is full, then loads as an acquire. -/
  | vldsync (d : BitVec 5) (a : BitVec 5) (p : BitVec 3)
  /-- R244. Waits for the covered granules, loads, then empties them in address order. -/
  | vldsyncE (d : BitVec 5) (a : BitVec 5) (p : BitVec 3)
  /-- R239. Stores a vector register to 64-byte-aligned TM, copying poison. -/
  | vspill (d : BitVec 5) (a : BitVec 5) (p : BitVec 3)
  /-- R239. Loads a vector register from TM, zeroing elements from VL to VLMAX. -/
  | vfill (d : BitVec 5) (a : BitVec 5) (p : BitVec 3)
  /-- R239. Writes a long accumulator as 536 bytes of TM. -/
  | easpill (d : BitVec 2) (a : BitVec 5)
  /-- R239. Loads a long accumulator from 536 bytes of TM. -/
  | eafill (d : BitVec 2) (a : BitVec 5)
  /-- R248. Multicasts active elements to every member of a group and blocks for the merged acknowledgement. -/
  | vstm (d : BitVec 5) (a : BitVec 5) (b : BitVec 5) (p : BitVec 3)
  /-- R247. Atomically adds each element at its indexed address, returning old values. -/
  | vamoAdd (d : BitVec 5) (a : BitVec 5) (b : BitVec 5) (p : BitVec 3)
  /-- R247. Atomically ANDs each element at its indexed address. -/
  | vamoAnd (d : BitVec 5) (a : BitVec 5) (b : BitVec 5) (p : BitVec 3)
  /-- R247. Atomically ORs each element at its indexed address. -/
  | vamoOr (d : BitVec 5) (a : BitVec 5) (b : BitVec 5) (p : BitVec 3)
  /-- R247. Atomically XORs each element at its indexed address. -/
  | vamoXor (d : BitVec 5) (a : BitVec 5) (b : BitVec 5) (p : BitVec 3)
  /-- R247. Atomically keeps the signed minimum at each indexed address. -/
  | vamoMin (d : BitVec 5) (a : BitVec 5) (b : BitVec 5) (p : BitVec 3)
  /-- R247. Atomically keeps the signed maximum at each indexed address. -/
  | vamoMax (d : BitVec 5) (a : BitVec 5) (b : BitVec 5) (p : BitVec 3)
  /-- R247. Atomically keeps the unsigned minimum at each indexed address. -/
  | vamoMinu (d : BitVec 5) (a : BitVec 5) (b : BitVec 5) (p : BitVec 3)
  /-- R247. Atomically keeps the unsigned maximum at each indexed address. -/
  | vamoMaxu (d : BitVec 5) (a : BitVec 5) (b : BitVec 5) (p : BitVec 3)
  /-- R247. Atomically swaps each element with memory at its indexed address. -/
  | vamoSwap (d : BitVec 5) (a : BitVec 5) (b : BitVec 5) (p : BitVec 3)
  /-- R254. Reads one 8-byte slot from a channel into x[d], blocking while empty. -/
  | crd (d : BitVec 5) (a : BitVec 3) (n : BitVec 3)
  /-- R254. Reads 8×k bytes of one slot into k consecutive x-registers. -/
  | crdm (d : BitVec 5) (a : BitVec 3) (n : BitVec 3) (k : BitVec 5)
  /-- R254. Writes x[a] as one slot as a release, blocking while full. -/
  | cwr (a : BitVec 5) (n : BitVec 3)
  /-- R254. Writes k consecutive x-registers as one slot. -/
  | cwrm (a : BitVec 5) (n : BitVec 3) (k : BitVec 5)
  /-- R254. Reads one slot into the elements of a vector register below VL. -/
  | vcrd (d : BitVec 5) (a : BitVec 3) (n : BitVec 3)
  /-- R254. Writes the elements of a vector register below VL as one slot. -/
  | vcwr (a : BitVec 5) (n : BitVec 3)
  /-- R28. Writes an end-of-stream token into the next slot of a channel. -/
  | cclose (n : BitVec 3)
  /-- R260. Binds a register group to a stream described in TM. -/
  | sbind (d : BitVec 5) (a : BitVec 5)
  /-- R262. Ends a stream binding, draining store streams and writing POS back. -/
  | sunb (d : BitVec 5)
  /-- R39. Passes the upper half of the hart's lanes to a new child hart starting at the target. -/
  | forkl (i : BitVec 16)
  /-- R41. Ends a child hart or, in a parent, waits for the child and takes back its lanes. -/
  | joinl
  /-- R270. Requests a matrix shape and precisions and writes the grant. -/
  | mshape (d : BitVec 5) (a : BitVec 5) (b : BitVec 5)
  /-- R273. Packs VL elements into a transposed bit-plane block in TM. -/
  | mpack (d : BitVec 5) (a : BitVec 5) (q : BitVec 4) (p : BitVec 3)
  /-- R274. Unpacks a plane block into floating-point elements. -/
  | munpk (d : BitVec 5) (a : BitVec 5) (q : BitVec 4) (p : BitVec 3)
  /-- R275. Zeroes the granted M×N elements of a bank. -/
  | mzero (k : BitVec 1)
  /-- R276. Accumulates the block-integer product of A and B into a bank. -/
  | mma (a : BitVec 5) (b : BitVec 5) (k : BitVec 1)
  /-- R280. Converts bank elements and writes them to TM or global memory. -/
  | mdrain (c : BitVec 5) (a : BitVec 5) (b : BitVec 5) (p : BitVec 3) (k : BitVec 1) (m : BitVec 2) (g : BitVec 1)
  /-- R249. Queues a transfer-engine copy from global memory into TM. -/
  | txin (d : BitVec 5) (a : BitVec 5) (b : BitVec 5)
  /-- R249. Queues a transfer-engine copy from TM to global memory. -/
  | txout (d : BitVec 5) (a : BitVec 5) (b : BitVec 5)
  /-- R250. Queues a two-dimensional transfer described in TM. -/
  | tx2d (a : BitVec 5)
  /-- R285. Posts a member's demand vector to the phase arbiter, opening an exchange. -/
  | dpost (a : BitVec 5)
  /-- R289. Waits for and writes the phase calendar of an open exchange. -/
  | dgrant (d : BitVec 5) (a : BitVec 5) (b : BitVec 5)
  /-- R290. Sends up to the granted bytes to a member, returning the residue. -/
  | dsend (d : BitVec 5) (a : BitVec 5) (b : BitVec 5)
  /-- R291. Sends a closing flit with SENT[r] to every member. -/
  | dclose (a : BitVec 5)
  /-- R296. Arrives at the next barrier of a group and blocks until it completes. -/
  | barrier (a : BitVec 5)
  /-- R298. Arrives at a reducing barrier with a reduction record. -/
  | barrierReduce (a : BitVec 5) (b : BitVec 5)
  /-- R297. Writes the sum of closing counts of the last exchange closed in a group. -/
  | barcnt (d : BitVec 5) (a : BitVec 5)
  /-- R189. Writes TIME sampled at issue to x[d]. -/
  | rdtime (d : BitVec 5)
  /-- R190. Stops issue until TIME reaches x[a]. -/
  | waitt (a : BitVec 5)
  /-- R193. Drains the chain, resets the steep counter and switches the process if a switch is due. -/
  | safe (i : BitVec 16)
  /-- R198. Waits for earlier instructions and traps BRK with the code. -/
  | brk (i : BitVec 16)
  /-- R477. Clears the capture block and starts a capture. -/
  | tcapStart
  /-- R477. Stops an active capture and sends its block to the host supervisor. -/
  | tcapStop
  /-- R186. Reads a CSR into x[d]. -/
  | csrr (d : BitVec 5) (c : BitVec 12)
  /-- R186. Writes x[a] into a CSR through its field map. -/
  | csrw (a : BitVec 5) (c : BitVec 12)
  /-- R186. Sets the CSR bits given in x[a]. -/
  | csrs (a : BitVec 5) (c : BitVec 12)
  /-- R186. Clears the CSR bits given in x[a]. -/
  | csrc (a : BitVec 5) (c : BitVec 12)
  /-- R197. Waits for earlier instructions and traps SYSC to the supervisor with the call number. -/
  | sysc (c : BitVec 12)
  /-- R345. Replays recorded chain instructions and returns to the interrupted privilege at TPC. -/
  | eret
  /-- R358. Drains the hart and discards fetched instructions so later fetches read TM afresh. -/
  | iinv
  /-- R359. Invalidates the tile's translations of one page or of the whole device. -/
  | tlbinv (a : BitVec 5)
  /-- R360. Ends the process at P or S, or parks the hart at M. -/
  | halt
  /-- R196. An instruction that would take STEEPCNT past STEEPLIM traps STEEP before any effect. -/
  | steepFault
  /-- R25. A write blocked on a full channel completes once a slot is freed. -/
  | channelWriteUnblock
  /-- R25. A read blocked on an empty channel completes once a slot is written. -/
  | channelReadUnblock
  /-- R120. An LDSYNC or VLDSYNC blocked on empty granules completes once they are full. -/
  | granuleWaitComplete
  /-- R42. A parent blocked in JOINL completes when its child joins. -/
  | joinlComplete
  /-- R191. A hart in WAITT issues its next instruction once TIME reaches the target. -/
  | waittWake
  /-- R233. A reply to a global load or VAMO element arrives and completes that element. -/
  | globalLoadReply (elem : Nat)
  /-- R262. SUNB of a store binding completes once every appended element has been performed. -/
  | sunbComplete
  /-- R119. An asynchronous writer's bytes in a granule are performed and the granule is marked full. -/
  | granuleMarking (pick : Nat)
  /-- R248. The merged multicast acknowledgement arrives; VSTM completes or traps MCAST. -/
  | vstmAck (failed : BitVec 1024)
  /-- R437. The governor grants leave within its 50 ns window, releasing a waiting FP64-class or MMA instruction. -/
  | leaveGrant
  /-- R229. Leave lapses after 4,096 cycles without an FP64-class or MMA start. -/
  | leaveLapse
  /-- R378. A free hart takes the head process of the highest non-empty level. -/
  | hartDispatch
  /-- R476. Every ELEM cycles a hart writes a stall-attribution record. -/
  | stallSample
  /-- R357. A watchdog span reaches HWDOG.LIMIT and traps WATCHDOG or abandons a save or restore. -/
  | hangWatchdogExpiry (span : Span)
  /-- R413. A lane is failed and replaced by the check lane, halved onto a neighbour, or the tile stops. -/
  | laneFailure (tile : Nat) (part : TilePart)
  /-- R416. The kettles scrub the TM of every tile once every 24 h. -/
  | tmScrubPass (found : List EccFinding)
  /-- R419. Each kettle reads and corrects its whole range once every 24 h. -/
  | dramScrubPass (found : List EccFinding)
  /-- R424. The monitor writes an event into the log with the next SEQ and chain hash. -/
  | logEntryWrite
  /-- R427. Every 1 ms the monitor reads ageing monitors and accrues wear. -/
  | wearSample (tile activityPpm milliVolt deciCelsius : Nat)
  /-- R428. The monitor writes the lifetime record every 60 s. -/
  | lifetimeRecordWrite
  /-- R431. Processes still holding a hart 100 ms after a margin alarm are stopped and declared lost. -/
  | marginAlarmStop (tile : Nat)
  /-- R431. A quarantined tile with no process runs a 200 ms self-test, clearing QUAR or retiring the tile. -/
  | quarantineSelfTest (tile : Nat) (pass : Bool)
  /-- R432. Once a retired tile is empty, a spare takes its logical number or the number leaves service. -/
  | spareSubstitution (tile : Nat)
  /-- R435. Every 10 µs the hottest tile governs its island's step-down, pulsing or trip. -/
  | temperatureSample (island deciCelsius : Nat)
  /-- R436. Every 100 µs the power manager lowers or raises island caps against the 3,000 W budget. -/
  | powerSample (milliWatt island : Nat)
  /-- R481. PWRGOOD rises and boot runs its five steps or enters recovery. -/
  | pwrgoodRise (found : BootFindings)
  /-- R460. A PTP sync adjusts TIME and advances the discipline state. -/
  | ptpSync (master : Word)
  /-- R460. Three sync intervals without a sync move LOCKED to HOLDOVER. -/
  | ptpHoldover
  /-- R367. A launch message with STAGE set checks, places and holds the ranks as a staged network. -/
  | launchStage (head : LaunchHead) (msg : List Byte)
  /-- R367. A launch message with GO set starts the staged network of its NETID. -/
  | launchGo (head : LaunchHead) (msg : List Byte)
  /-- R367. A launch message with neither flag stages and starts the network at once. -/
  | launchStageAndStart (head : LaunchHead) (msg : List Byte)
  /-- R369. A message waiting for TM room proceeds once other networks free it. -/
  | launchWaitResume
  /-- R365. An end-of-stream token reaching the launch channel closes it without a launch. -/
  | launchChannelClose (netid chan : Nat)
  /-- R368. Home dies exchange rank entries and end the network on a launch conflict. -/
  | rankEntryExchange (x : RankExchange)
  /-- R375. Placed processes join their run queues at once or when TIME reaches START. -/
  | processStart (netid rank : Nat)
  /-- R381. After 50 µs or 500 µs without change, the sentinel grows a channel or reports deadlock. -/
  | sentinelCheck (netid : Nat)
  /-- R306. Once all processes ended and their asynchronous writes are performed, completion is reported. -/
  | networkCompletion (netid : Nat)
  /-- R449. The primary arbiter computes the calendar once all posts of an exchange have arrived. -/
  | phaseCalendarCompute (netid group : Nat)
  /-- R289. A member's calendar arrives and a waiting DGRANT writes it. -/
  | calendarArrival (netid group member : Nat)
  /-- R449. The primary arbiter sends a heartbeat to the standby every 40 µs. -/
  | arbiterHeartbeat (netid group : Nat)
  /-- R449. After 400 µs without heartbeat the standby issues the calendar with GEN+1. -/
  | standbyTakeover (netid group : Nat)
  /-- R288. At a send run's phase time the interface transmits granted bytes. -/
  | phaseStart (netid group sender run : Nat)
  /-- R292. Exchange bytes land at the receiver, decrement its pending-byte counter and mark granules. -/
  | exchangeBytesLand (netid group sender receiver : Nat)
  /-- R292. A closing flit adds its count to the receiver's pending-byte counter. -/
  | closingFlit (netid group sender receiver : Nat)
  /-- R296. Once all members arrived and exchanges settled, the barrier completes, closes exchanges and writes reductions. -/
  | barrierCompletion (netid group : Nat)
  /-- R441. An unacknowledged flit is resent on its link and the episode logged. -/
  | flitRetry (die plane flits : Nat)
  /-- R444. After 4 µs of silence a link is taken out of service. -/
  | linkTimeout (die plane : Nat)
  /-- R444. After 40 µs without end-to-end acknowledgement a packet is resent on another plane. -/
  | switchTimeout (endpoint plane : Nat)
  /-- R444. After 400 µs of silence on every plane the destination endpoint is declared failed. -/
  | groupTimeout (endpoint : Nat)
  /-- R443. A request packet arrives and is performed once or re-acknowledged as a duplicate. -/
  | requestPacket (p : Packet)
  /-- R451. A class-0 frame carries a cumulative acknowledgement. -/
  | ghtAck (conn ack : Nat)
  /-- R451. A message unacknowledged after 50 µs is resent. -/
  | ghtRetransmit (conn : Nat)
  /-- R451. A message unacknowledged after 400 ms resets the connection. -/
  | ghtConnectionReset (conn : Nat)
  /-- R454. A class-2 slot is written into the ring, held, or discarded with a report. -/
  | hostChannelSlot (m : HostMsg)
  /-- R453. A class-2 message of length 0 closes the channel as CCLOSE does. -/
  | hostChannelClose (m : HostMsg)
  /-- R484. A class-4 write is checked whole, performed and acknowledged. -/
  | hostMemoryWrite (m : HostMsg)
  /-- R484. A class-5 read is checked whole and answered with data and poison bitmap. -/
  | hostMemoryRead (m : HostMsg)
  /-- R392. Invalidates a page or all translations of a device on every tile. -/
  | shootdown (r : HostRequest)
  /-- R404. Begins live migration of a virtual device to another package. -/
  | migrate (r : HostRequest)
  /-- R404. Once every process is saved, final copy, TM move, table rewrite and restore follow. -/
  | migrationQuiesced (vdid : Nat)
  /-- R407. STOPLIM expiry or destination failure aborts the migration and restores the source. -/
  | migrationAbort (vdid : Nat) (stoplim : Bool)
  /-- R406. Ends forwarding of peer requests to migrated frames. -/
  | peersUpdated (r : HostRequest)
  /-- R446. A member's supervisor accepts a multicast group. -/
  | multicastGroup (r : HostRequest)
  /-- R462. A checkpoint falls due for every process of the job and the engine quiesces. -/
  | checkpoint (r : HostRequest)
  /-- R462. The job is quiesced on a package and QUIESCED is reported. -/
  | checkpointQuiesced (job : Word)
  /-- R462. QBOUND expiry abandons the step and the processes resume. -/
  | checkpointAbandon (job : Word)
  /-- R462. Each engine writes and seals its primary shard, then sends it to the buddy. -/
  | copy (r : HostRequest)
  /-- R462. The buddy seals the received shard and the step completes. -/
  | buddySeal (job : Word)
  /-- R467. Restores a job from the newest fully sealed step onto a spare. -/
  | restore (r : HostRequest)
  /-- R400. Returns a signed device attestation report. -/
  | deviceAttestation (r : HostRequest)
  /-- R384. Ends every process of a network at once. -/
  | endNetwork (r : HostRequest)
  /-- R384. Ends one process of a network at once. -/
  | endProcess (r : HostRequest)
  /-- R456. The monitor writes LPART of an unoccupied tile. -/
  | partition (r : HostRequest)
  /-- R457. Returns rank-to-coordinate entries of a network. -/
  | readRankEntries (r : HostRequest)
  /-- R430. Returns health words of logical tiles. -/
  | readHealth (r : HostRequest)
  /-- R429. Returns the wear charge of a process. -/
  | readCharge (r : HostRequest)
  /-- R394. Creates a virtual device, clearing its regions and TM. -/
  | create (r : HostRequest)
  /-- R396. Destroys a virtual device once its networks end, erasing keys and zeroing TM. -/
  | destroy (r : HostRequest)
  /-- R398. Unwraps and loads an AES-256-XTS key into a slot. -/
  | keyLoad (r : HostRequest)
  /-- R398. Zeroes a key slot. -/
  | keyErase (r : HostRequest)
  /-- R400. Returns a signed package attestation report. -/
  | packageAttestation (r : HostRequest)
  /-- R425. Writes a read seal and returns log entries and seals of a range. -/
  | logRead (r : HostRequest)
  /-- R426. Clears the log store and begins a new chained segment. -/
  | archive (r : HostRequest)
  /-- R434. Sets an island's TGOV and CAP. -/
  | islandLimits (r : HostRequest)
  /-- R398. Replaces the owner key-encryption key. -/
  | setOkek (r : HostRequest)
  /-- R456. Sets package number and PTP domain for the next boot. -/
  | configuration (r : HostRequest)
  /-- R456. Verifies and stores a signed firmware image. -/
  | firmwareUpdate (r : HostRequest)
  /-- R155. A fetched word that is no instruction of the level-1 set traps ILLEGAL with TVAL set to the word. -/
  | illegalInstruction (w : IWord)
  /-- R157. A fetch from a TM address outside the kernel's granted block traps PROT with TPC and TVAL at the target. -/
  | fetchProt
  /-- R452. A GHT frame with wrong MAGIC or VERSION, a non-zero reserved field or an unlisted CLASS is dropped and counted. -/
  | ghtFrameDropped (frame : List Byte)
  /-- R455. A class-8 or class-10 request with an unknown REQ, a non-zero reserved field, a wrong BODYLEN or on the wrong connection is answered with RESULT 2 or 3 and has no other effect. -/
  | unknownRequest (r : HostRequest)
  /-- R424. A sudden loss of power stops everything, loses events not yet written to the log, and marks the shutdown as not orderly. -/
  | powerLoss
  /-- R428. At an orderly shutdown the monitor writes the lifetime record, and the next power-on logs the shutdown as orderly. -/
  | orderlyShutdown
  /-- R413. About 300 cycles after a first lane failure, the rebuild of the failed lane's slice into the check lane ends, and the check lane runs as that lane. -/
  | laneRebuildComplete (tile : Nat)
  /-- R360. The monitor restarts a hart that HALT at M or a monitor fault parked. -/
  | hartRestart (tile front : Nat)
deriving DecidableEq, Repr

end Sys2Proof
end

