-- ==== Sys2Proof/WellFormed.lean ====
section
/-! DEFINITION. Which terms of `Instr` are instructions at all. For instruction words these are the conditions of
R150 and R154 that the widths of the fields do not already say; for the other steps they are the ranges that the
spec gives the quantities an outside agent names. -/

namespace Sys2Proof

/-- A float source code of VFCVT classes 0 to 2: 0 E4M3, 1 E5M2, 2 FP16, 3 BF16, 4 FP32, 5 FP64 (R154). -/
def floatSourceOk (s : BitVec 3) : Bool := s.toNat ≤ 5

/-- A segment access has 2 to 8 fields and a width code of 0, 1 or 2 (R154, R238). -/
def segmentOk (w : BitVec 2) (f : BitVec 3) : Bool := 1 ≤ f.toNat && w.toNat ≤ 2

/-- CRDM and CWRM name 1 to 8 registers, the last at most x31 (R154). -/
def countOk (r k : BitVec 5) : Bool := 1 ≤ k.toNat && k.toNat ≤ 8 && r.toNat + k.toNat - 1 ≤ 31

/-- The conversions that MDRAIN knows: 0 to 4, and 16 to 31 for BI1 to BI16 (R154, R267). -/
def drainOk (c : BitVec 5) : Bool := c.toNat ≤ 4 || 16 ≤ c.toNat

/-- A launch message has 64 bytes (R453). -/
def launchOk (h : LaunchHead) (msg : List Byte) : Bool := h.vdid < 256 && msg.length == 64

/-- A request has its 16-byte header (R455). -/
def requestOk (r : HostRequest) : Bool := 16 ≤ r.payload.length

/-- The conditions on an instruction's fields beyond their widths (R154), and on what the other steps name. -/
def Instr.wellFormed : Instr → Bool
  | .ldg _ _ z u => !(u == 1#1 && z == 3#2)
  | .vfcvtFf _ _ s _ | .vfcvtFs _ _ s _ | .vfcvtFu _ _ s _ => floatSourceOk s
  | .earnd _ _ m _ => m.toNat ≤ 4 || m.toNat == 7
  | .vlseg _ _ _ w f | .vsseg _ _ _ w f => segmentOk w f
  | .crdm d _ _ k => countOk d k
  | .cwrm a _ k => countOk a k
  | .mdrain c _ b _ _ m _ => drainOk c && m.toNat ≤ 2 && (m != 0#2 || b == 0#5)
  | .barrierReduce _ b => b != 0#5
  | .laneFailure tile part => tile < 2048 && (match part with | .lane n => decide (n < 32) | .frontEnd n => decide (n < 8))
  | .wearSample tile activityPpm _ _ => tile < 2048 && activityPpm ≤ 1000000
  | .marginAlarmStop tile => tile < 2048
  | .quarantineSelfTest tile _ => tile < 2048
  | .spareSubstitution tile => tile < 2048
  | .temperatureSample island _ => island < 64
  | .powerSample _ island => island < 64
  | .launchStage h msg => launchOk h msg
  | .launchGo h msg => launchOk h msg
  | .launchStageAndStart h msg => launchOk h msg
  | .flitRetry die plane _ => die < 4 && plane < 18
  | .linkTimeout die plane => die < 4 && plane < 18
  | .switchTimeout endpoint plane => endpoint < 8192 && plane < 18
  | .groupTimeout endpoint => endpoint < 8192
  | .shootdown r => requestOk r
  | .migrate r => requestOk r
  | .peersUpdated r => requestOk r
  | .multicastGroup r => requestOk r
  | .checkpoint r => requestOk r
  | .copy r => requestOk r
  | .restore r => requestOk r
  | .deviceAttestation r => requestOk r
  | .endNetwork r => requestOk r
  | .endProcess r => requestOk r
  | .partition r => requestOk r
  | .readRankEntries r => requestOk r
  | .readHealth r => requestOk r
  | .readCharge r => requestOk r
  | .create r => requestOk r
  | .destroy r => requestOk r
  | .keyLoad r => requestOk r
  | .keyErase r => requestOk r
  | .packageAttestation r => requestOk r
  | .logRead r => requestOk r
  | .archive r => requestOk r
  | .islandLimits r => requestOk r
  | .setOkek r => requestOk r
  | .configuration r => requestOk r
  | .firmwareUpdate r => requestOk r
  | .unknownRequest r => requestOk r
  | .laneRebuildComplete tile => tile < 2048
  | .hartRestart tile front => tile < 2048 && front < 8
  | .add _ _ _ | .sub _ _ _ | .and _ _ _ | .or _ _ _ | .xor _ _ _ | .andn _ _ _ | .orn _ _ _ | .sll _ _ _
  | .srl _ _ _ | .sra _ _ _ | .rol _ _ _ | .ror _ _ _ | .slt _ _ _ | .sltu _ _ _ | .min _ _ _ | .max _ _ _
  | .minu _ _ _ | .maxu _ _ _ | .clz _ _ | .ctz _ _ | .popc _ _ | .sextb _ _ | .sexth _ _ | .sextw _ _
  | .zextw _ _ | .addi _ _ _ | .andi _ _ _ | .ori _ _ _ | .xori _ _ _ | .slti _ _ _ | .sltiu _ _ _ | .slli _ _ _
  | .srli _ _ _ | .srai _ _ _ | .lih _ _ _ | .addpc _ _ _ | .mul _ _ _ | .mulh _ _ _ | .mulhu _ _ _
  | .mulhsu _ _ _ | .div _ _ _ | .divu _ _ _ | .rem _ _ _ | .remu _ _ _ | .ldb _ _ _ | .ldbu _ _ _ | .ldh _ _ _
  | .ldhu _ _ _ | .ldw _ _ _ | .ldwu _ _ _ | .ldd _ _ _ | .stb _ _ _ | .sth _ _ _ | .stw _ _ _ | .std _ _ _
  | .stg _ _ _ | .ldsync _ _ _ | .ldsyncE _ _ _ | .setf _ | .sete _ | .fence | .amoAdd _ _ _ _ _ _
  | .amoAnd _ _ _ _ _ _ | .amoOr _ _ _ _ _ _ | .amoXor _ _ _ _ _ _ | .amoMin _ _ _ _ _ _ | .amoMax _ _ _ _ _ _
  | .amoMinu _ _ _ _ _ _ | .amoMaxu _ _ _ _ _ _ | .amoSwap _ _ _ _ _ _ | .amoCas _ _ _ _ _ _ | .beq _ _ _
  | .bne _ _ _ | .blt _ _ _ | .bge _ _ _ | .bltu _ _ _ | .bgeu _ _ _ | .j _ | .jal _ | .jalr _ _ _ | .setvl _ _
  | .vsett _ _ | .vlmaxq _ _ | .setvli _ _ | .vadd _ _ _ _ _ | .vsub _ _ _ _ _ | .vrsub _ _ _ _ _
  | .vmul _ _ _ _ _ | .vmulh _ _ _ _ _ | .vmulhu _ _ _ _ _ | .vdiv _ _ _ _ _ | .vdivu _ _ _ _ _ | .vrem _ _ _ _ _
  | .vand _ _ _ _ _ | .vor _ _ _ _ _ | .vxor _ _ _ _ _ | .vsll _ _ _ _ _ | .vsrl _ _ _ _ _ | .vsra _ _ _ _ _
  | .vmin _ _ _ _ _ | .vmax _ _ _ _ _ | .vminu _ _ _ _ _ | .vmaxu _ _ _ _ _ | .vsadd _ _ _ _ _
  | .vsaddu _ _ _ _ _ | .vssub _ _ _ _ _ | .vssubu _ _ _ _ _ | .vcmpEq _ _ _ _ _ | .vcmpNe _ _ _ _ _
  | .vcmpLt _ _ _ _ _ | .vcmpLtu _ _ _ _ _ | .vcmpLe _ _ _ _ _ | .vcmpLeu _ _ _ _ _ | .vcmpGt _ _ _ _ _
  | .vcmpGtu _ _ _ _ _ | .vmerge _ _ _ _ _ | .vmvV _ _ _ | .vmvX _ _ _ | .vxtr _ _ _ | .vins _ _ _
  | .vfadd _ _ _ _ _ | .vfsub _ _ _ _ _ | .vfmul _ _ _ _ _ | .vfdiv _ _ _ _ _ | .vfsqrt _ _ _ | .vfmin _ _ _ _ _
  | .vfmax _ _ _ _ _ | .vfcmpEq _ _ _ _ _ | .vfcmpNe _ _ _ _ _ | .vfcmpLt _ _ _ _ _ | .vfcmpLe _ _ _ _ _
  | .vfcmpGt _ _ _ _ _ | .vfcmpGe _ _ _ _ _ | .vfcmpUn _ _ _ _ _ | .vfsgnJ _ _ _ _ _ | .vfsgnJn _ _ _ _ _
  | .vfsgnJx _ _ _ _ _ | .vfclass _ _ _ | .vfcvtIf _ _ _ _ _ | .vfrcpe _ _ _ | .vfrcps _ _ _ _ _ | .vfrsqe _ _ _
  | .vfrsqs _ _ _ _ _ | .vfexp2 _ _ _ | .vflog2 _ _ _ | .vfma _ _ _ _ _ | .vfms _ _ _ _ _ | .vfnma _ _ _ _ _
  | .vfnms _ _ _ _ _ | .vslup _ _ _ _ | .vsldn _ _ _ _ | .vgath _ _ _ _ _ | .vcomp _ _ _ | .viota _ _
  | .vfredo _ _ _ _ _ | .vfrmax _ _ _ | .vfrmin _ _ _ | .vhash _ _ _ _ _ | .vredAdd _ _ _ _ _
  | .vredAnd _ _ _ _ _ | .vredOr _ _ _ _ _ | .vredXor _ _ _ _ _ | .vredMin _ _ _ _ _ | .vredMax _ _ _ _ _
  | .vredMinu _ _ _ _ _ | .vredMaxu _ _ _ _ _ | .vscanAdd _ _ _ _ _ | .vscanAnd _ _ _ _ _ | .vscanOr _ _ _ _ _
  | .vscanXor _ _ _ _ _ | .vscanMin _ _ _ _ _ | .vscanMax _ _ _ _ _ | .vscanMinu _ _ _ _ _ | .vscanMaxu _ _ _ _ _
  | .vscanFadd _ _ _ _ _ | .pand _ _ _ _ | .por _ _ _ _ | .pxor _ _ _ _ | .pandn _ _ _ _ | .pset _ _
  | .pfirst _ _ _ | .pcnt _ _ _ | .pmov _ _ _ | .eaclr _ | .eaadd _ _ _ | .eadot _ _ _ _ _ | .eaaddx _ _
  | .eamov _ _ | .vld _ _ _ | .vlds _ _ _ _ | .vldx _ _ _ _ | .vst _ _ _ | .vsts _ _ _ _ | .vstx _ _ _ _
  | .vldg _ _ _ | .vldgs _ _ _ _ | .vldgx _ _ _ _ | .vstg _ _ _ | .vstgs _ _ _ _ | .vstgx _ _ _ _
  | .vldsync _ _ _ | .vldsyncE _ _ _ | .vspill _ _ _ | .vfill _ _ _ | .easpill _ _ | .eafill _ _ | .vstm _ _ _ _
  | .vamoAdd _ _ _ _ | .vamoAnd _ _ _ _ | .vamoOr _ _ _ _ | .vamoXor _ _ _ _ | .vamoMin _ _ _ _
  | .vamoMax _ _ _ _ | .vamoMinu _ _ _ _ | .vamoMaxu _ _ _ _ | .vamoSwap _ _ _ _ | .crd _ _ _ | .cwr _ _
  | .vcrd _ _ _ | .vcwr _ _ | .cclose _ | .sbind _ _ | .sunb _ | .forkl _ | .joinl | .mshape _ _ _
  | .mpack _ _ _ _ | .munpk _ _ _ _ | .mzero _ | .mma _ _ _ | .txin _ _ _ | .txout _ _ _ | .tx2d _ | .dpost _
  | .dgrant _ _ _ | .dsend _ _ _ | .dclose _ | .barrier _ | .barcnt _ _ | .rdtime _ | .waitt _ | .safe _ | .brk _
  | .tcapStart | .tcapStop | .csrr _ _ | .csrw _ _ | .csrs _ _ | .csrc _ _ | .sysc _ | .eret | .iinv | .tlbinv _
  | .halt | .steepFault | .channelWriteUnblock | .channelReadUnblock | .granuleWaitComplete | .joinlComplete
  | .waittWake | .globalLoadReply _ | .sunbComplete | .granuleMarking _ | .vstmAck _ | .leaveGrant | .leaveLapse
  | .hartDispatch | .stallSample | .hangWatchdogExpiry _ | .tmScrubPass _ | .dramScrubPass _ | .logEntryWrite
  | .lifetimeRecordWrite | .pwrgoodRise _ | .ptpSync _ | .ptpHoldover | .launchWaitResume
  | .launchChannelClose _ _ | .rankEntryExchange _ | .processStart _ _ | .sentinelCheck _ | .networkCompletion _
  | .phaseCalendarCompute _ _ | .calendarArrival _ _ _ | .arbiterHeartbeat _ _ | .standbyTakeover _ _
  | .phaseStart _ _ _ _ | .exchangeBytesLand _ _ _ _ | .closingFlit _ _ _ _ | .barrierCompletion _ _
  | .requestPacket _ | .ghtAck _ _ | .ghtRetransmit _ | .ghtConnectionReset _ | .hostChannelSlot _
  | .hostChannelClose _ | .hostMemoryWrite _ | .hostMemoryRead _ | .migrationQuiesced _ | .migrationAbort _ _
  | .checkpointQuiesced _ | .checkpointAbandon _ | .buddySeal _ | .illegalInstruction _ | .fetchProt
  | .ghtFrameDropped _ | .powerLoss | .orderlyShutdown => true

end Sys2Proof
end

