-- ==== Sys2Proof/Decode.lean ====
section
/-! DEFINITION. The decoder, total on every 32-bit word (R148), and after it the encoder, written from the formats of
R149 and the opcode map of R152 to R154. A word that breaks any of those rules decodes to nothing and traps ILLEGAL.
The definitions marked noncomputable are so for one reason: Lean's compiled code has no room for the 246th constructor
with arguments of one type. The kernel evaluates them as it does the others. -/

namespace Sys2Proof

/-! ### The fields of a word (R149) -/

/-- Major opcode, bits [31:26]. -/
def fMaj (w : IWord) : BitVec 6 := w.extractLsb' 26 6
/-- Field d, bits [25:21]. -/
def fD (w : IWord) : BitVec 5 := w.extractLsb' 21 5
/-- Field a, bits [20:16]. -/
def fA (w : IWord) : BitVec 5 := w.extractLsb' 16 5
/-- Field b, bits [15:11]. -/
def fB (w : IWord) : BitVec 5 := w.extractLsb' 11 5
/-- RR function field, bits [10:0]. -/
def fFn11 (w : IWord) : BitVec 11 := w.extractLsb' 0 11
/-- imm16 or disp16, bits [15:0]. -/
def fImm (w : IWord) : BitVec 16 := w.extractLsb' 0 16
/-- JP displacement, bits [25:0]. -/
def fDisp (w : IWord) : BitVec 26 := w.extractLsb' 0 26
/-- VV, VM and MX predicate, bits [10:8]. -/
def fPred (w : IWord) : BitVec 3 := w.extractLsb' 8 3
/-- VV scalar bit, and the MX bank, bit [7]. -/
def fS (w : IWord) : BitVec 1 := w.extractLsb' 7 1
/-- VV function field, bits [6:0]. -/
def fFn7 (w : IWord) : BitVec 7 := w.extractLsb' 0 7
/-- VM addressing mode, bits [7:5]. -/
def fMode (w : IWord) : BitVec 3 := w.extractLsb' 5 3
/-- VM function field, bits [4:0]. -/
def fFn5 (w : IWord) : BitVec 5 := w.extractLsb' 0 5
/-- CH port, bits [15:13]. -/
def fPort (w : IWord) : BitVec 3 := w.extractLsb' 13 3
/-- CH count, bits [12:8]. -/
def fCount (w : IWord) : BitVec 5 := w.extractLsb' 8 5
/-- CH function field, bits [7:0]. -/
def fFn8 (w : IWord) : BitVec 8 := w.extractLsb' 0 8
/-- MX addressing mode, bits [6:5]. -/
def fAmode (w : IWord) : BitVec 2 := w.extractLsb' 5 2
/-- MX space, bit [4]. -/
def fSpace (w : IWord) : BitVec 1 := w.extractLsb' 4 1
/-- MX function field, bits [3:0]. -/
def fFn4 (w : IWord) : BitVec 4 := w.extractLsb' 0 4
/-- SY operation, bits [15:12]. -/
def fOp (w : IWord) : BitVec 4 := w.extractLsb' 12 4
/-- SY CSR number or code, bits [11:0]. -/
def fCode (w : IWord) : BitVec 12 := w.extractLsb' 0 12

/-! ### The decoder, one function per major opcode (R152, R153) -/

/-- Major 0x01: ADD, SUB, AND, OR, XOR, ANDN, ORN, SLL, SRL, SRA, ROL, ROR, SLT, SLTU, MIN, MAX, MINU, MAXU, CLZ, CTZ, POPC, SEXTB, SEXTH, SEXTW, ZEXTW. -/
def decode01 (w : IWord) : Option Instr :=
  if fFn11 w = 0#11 then some (.add (fD w) (fA w) (fB w)) else
  if fFn11 w = 1#11 then some (.sub (fD w) (fA w) (fB w)) else
  if fFn11 w = 2#11 then some (.and (fD w) (fA w) (fB w)) else
  if fFn11 w = 3#11 then some (.or (fD w) (fA w) (fB w)) else
  if fFn11 w = 4#11 then some (.xor (fD w) (fA w) (fB w)) else
  if fFn11 w = 5#11 then some (.andn (fD w) (fA w) (fB w)) else
  if fFn11 w = 6#11 then some (.orn (fD w) (fA w) (fB w)) else
  if fFn11 w = 7#11 then some (.sll (fD w) (fA w) (fB w)) else
  if fFn11 w = 8#11 then some (.srl (fD w) (fA w) (fB w)) else
  if fFn11 w = 9#11 then some (.sra (fD w) (fA w) (fB w)) else
  if fFn11 w = 0xA#11 then some (.rol (fD w) (fA w) (fB w)) else
  if fFn11 w = 0xB#11 then some (.ror (fD w) (fA w) (fB w)) else
  if fFn11 w = 0xC#11 then some (.slt (fD w) (fA w) (fB w)) else
  if fFn11 w = 0xD#11 then some (.sltu (fD w) (fA w) (fB w)) else
  if fFn11 w = 0xE#11 then some (.min (fD w) (fA w) (fB w)) else
  if fFn11 w = 0xF#11 then some (.max (fD w) (fA w) (fB w)) else
  if fFn11 w = 0x10#11 then some (.minu (fD w) (fA w) (fB w)) else
  if fFn11 w = 0x11#11 then some (.maxu (fD w) (fA w) (fB w)) else
  if fB w = 0#5 ∧ fFn11 w = 0x12#11 then some (.clz (fD w) (fA w)) else
  if fB w = 0#5 ∧ fFn11 w = 0x13#11 then some (.ctz (fD w) (fA w)) else
  if fB w = 0#5 ∧ fFn11 w = 0x14#11 then some (.popc (fD w) (fA w)) else
  if fB w = 0#5 ∧ fFn11 w = 0x15#11 then some (.sextb (fD w) (fA w)) else
  if fB w = 0#5 ∧ fFn11 w = 0x16#11 then some (.sexth (fD w) (fA w)) else
  if fB w = 0#5 ∧ fFn11 w = 0x17#11 then some (.sextw (fD w) (fA w)) else
  if fB w = 0#5 ∧ fFn11 w = 0x18#11 then some (.zextw (fD w) (fA w)) else
  none
/-- Major 0x02: ADDI. -/
def decode02 (w : IWord) : Option Instr :=
  some (.addi (fD w) (fA w) (fImm w))
/-- Major 0x03: ANDI. -/
def decode03 (w : IWord) : Option Instr :=
  some (.andi (fD w) (fA w) (fImm w))
/-- Major 0x04: ORI. -/
def decode04 (w : IWord) : Option Instr :=
  some (.ori (fD w) (fA w) (fImm w))
/-- Major 0x05: XORI. -/
def decode05 (w : IWord) : Option Instr :=
  some (.xori (fD w) (fA w) (fImm w))
/-- Major 0x06: SLTI. -/
def decode06 (w : IWord) : Option Instr :=
  some (.slti (fD w) (fA w) (fImm w))
/-- Major 0x07: SLTIU. -/
def decode07 (w : IWord) : Option Instr :=
  some (.sltiu (fD w) (fA w) (fImm w))
/-- Major 0x08: SLLI, SRLI, SRAI. -/
def decode08 (w : IWord) : Option Instr :=
  if (fImm w).extractLsb' 6 10 = 0#10 then some (.slli (fD w) (fA w) ((fImm w).extractLsb' 0 6)) else
  if (fImm w).extractLsb' 6 10 = 1#10 then some (.srli (fD w) (fA w) ((fImm w).extractLsb' 0 6)) else
  if (fImm w).extractLsb' 6 10 = 2#10 then some (.srai (fD w) (fA w) ((fImm w).extractLsb' 0 6)) else
  none
/-- Major 0x09: LIH. -/
def decode09 (w : IWord) : Option Instr :=
  some (.lih (fD w) (fA w) (fImm w))
/-- Major 0x0A: ADDPC. -/
def decode0A (w : IWord) : Option Instr :=
  some (.addpc (fD w) (fA w) (fImm w))
/-- Major 0x0B: MUL, MULH, MULHU, MULHSU, DIV, DIVU, REM, REMU. -/
def decode0B (w : IWord) : Option Instr :=
  if fFn11 w = 0#11 then some (.mul (fD w) (fA w) (fB w)) else
  if fFn11 w = 1#11 then some (.mulh (fD w) (fA w) (fB w)) else
  if fFn11 w = 2#11 then some (.mulhu (fD w) (fA w) (fB w)) else
  if fFn11 w = 3#11 then some (.mulhsu (fD w) (fA w) (fB w)) else
  if fFn11 w = 4#11 then some (.div (fD w) (fA w) (fB w)) else
  if fFn11 w = 5#11 then some (.divu (fD w) (fA w) (fB w)) else
  if fFn11 w = 6#11 then some (.rem (fD w) (fA w) (fB w)) else
  if fFn11 w = 7#11 then some (.remu (fD w) (fA w) (fB w)) else
  none
/-- Major 0x0C: LDB. -/
def decode0C (w : IWord) : Option Instr :=
  some (.ldb (fD w) (fA w) (fImm w))
/-- Major 0x0D: LDBU. -/
def decode0D (w : IWord) : Option Instr :=
  some (.ldbu (fD w) (fA w) (fImm w))
/-- Major 0x0E: LDH. -/
def decode0E (w : IWord) : Option Instr :=
  some (.ldh (fD w) (fA w) (fImm w))
/-- Major 0x0F: LDHU. -/
def decode0F (w : IWord) : Option Instr :=
  some (.ldhu (fD w) (fA w) (fImm w))
/-- Major 0x10: LDW. -/
def decode10 (w : IWord) : Option Instr :=
  some (.ldw (fD w) (fA w) (fImm w))
/-- Major 0x11: LDWU. -/
def decode11 (w : IWord) : Option Instr :=
  some (.ldwu (fD w) (fA w) (fImm w))
/-- Major 0x12: LDD. -/
def decode12 (w : IWord) : Option Instr :=
  some (.ldd (fD w) (fA w) (fImm w))
/-- Major 0x13: STB. -/
def decode13 (w : IWord) : Option Instr :=
  some (.stb (fD w) (fA w) (fImm w))
/-- Major 0x14: STH. -/
def decode14 (w : IWord) : Option Instr :=
  some (.sth (fD w) (fA w) (fImm w))
/-- Major 0x15: STW. -/
def decode15 (w : IWord) : Option Instr :=
  some (.stw (fD w) (fA w) (fImm w))
/-- Major 0x16: STD. -/
def decode16 (w : IWord) : Option Instr :=
  some (.std (fD w) (fA w) (fImm w))
/-- Major 0x17: LDG, STG, LDSYNC, LDSYNC_E, SETF, SETE, FENCE, AMO_ADD, AMO_AND, AMO_OR, AMO_XOR, AMO_MIN, AMO_MAX, AMO_MINU, AMO_MAXU, AMO_SWAP, AMO_CAS. -/
def decode17 (w : IWord) : Option Instr :=
  if fB w = 0#5 ∧ (fFn11 w).extractLsb' 6 5 = 0#5 ∧ (fFn11 w).extractLsb' 2 2 = 0#2 ∧ (fFn11 w).extractLsb' 0 1 = 0#1 then some (.ldg (fD w) (fA w) ((fFn11 w).extractLsb' 4 2) ((fFn11 w).extractLsb' 1 1)) else
  if fD w = 0#5 ∧ (fFn11 w).extractLsb' 6 5 = 1#5 ∧ (fFn11 w).extractLsb' 0 4 = 0#4 then some (.stg (fA w) (fB w) ((fFn11 w).extractLsb' 4 2)) else
  if fB w = 0#5 ∧ (fFn11 w).extractLsb' 5 6 = 5#6 ∧ (fFn11 w).extractLsb' 0 4 = 0#4 then some (.ldsync (fD w) (fA w) ((fFn11 w).extractLsb' 4 1)) else
  if fB w = 0#5 ∧ (fFn11 w).extractLsb' 5 6 = 7#6 ∧ (fFn11 w).extractLsb' 0 4 = 0#4 then some (.ldsyncE (fD w) (fA w) ((fFn11 w).extractLsb' 4 1)) else
  if fD w = 0#5 ∧ fB w = 0#5 ∧ fFn11 w = 0x100#11 then some (.setf (fA w)) else
  if fD w = 0#5 ∧ fB w = 0#5 ∧ fFn11 w = 0x140#11 then some (.sete (fA w)) else
  if fD w = 0#5 ∧ fA w = 0#5 ∧ fB w = 0#5 ∧ fFn11 w = 0x180#11 then some (.fence) else
  if (fFn11 w).extractLsb' 5 6 = 0x21#6 ∧ (fFn11 w).extractLsb' 0 2 = 0#2 then some (.amoAdd (fD w) (fA w) (fB w) ((fFn11 w).extractLsb' 4 1) ((fFn11 w).extractLsb' 3 1) ((fFn11 w).extractLsb' 2 1)) else
  if (fFn11 w).extractLsb' 5 6 = 0x23#6 ∧ (fFn11 w).extractLsb' 0 2 = 0#2 then some (.amoAnd (fD w) (fA w) (fB w) ((fFn11 w).extractLsb' 4 1) ((fFn11 w).extractLsb' 3 1) ((fFn11 w).extractLsb' 2 1)) else
  if (fFn11 w).extractLsb' 5 6 = 0x25#6 ∧ (fFn11 w).extractLsb' 0 2 = 0#2 then some (.amoOr (fD w) (fA w) (fB w) ((fFn11 w).extractLsb' 4 1) ((fFn11 w).extractLsb' 3 1) ((fFn11 w).extractLsb' 2 1)) else
  if (fFn11 w).extractLsb' 5 6 = 0x27#6 ∧ (fFn11 w).extractLsb' 0 2 = 0#2 then some (.amoXor (fD w) (fA w) (fB w) ((fFn11 w).extractLsb' 4 1) ((fFn11 w).extractLsb' 3 1) ((fFn11 w).extractLsb' 2 1)) else
  if (fFn11 w).extractLsb' 5 6 = 0x29#6 ∧ (fFn11 w).extractLsb' 0 2 = 0#2 then some (.amoMin (fD w) (fA w) (fB w) ((fFn11 w).extractLsb' 4 1) ((fFn11 w).extractLsb' 3 1) ((fFn11 w).extractLsb' 2 1)) else
  if (fFn11 w).extractLsb' 5 6 = 0x2B#6 ∧ (fFn11 w).extractLsb' 0 2 = 0#2 then some (.amoMax (fD w) (fA w) (fB w) ((fFn11 w).extractLsb' 4 1) ((fFn11 w).extractLsb' 3 1) ((fFn11 w).extractLsb' 2 1)) else
  if (fFn11 w).extractLsb' 5 6 = 0x2D#6 ∧ (fFn11 w).extractLsb' 0 2 = 0#2 then some (.amoMinu (fD w) (fA w) (fB w) ((fFn11 w).extractLsb' 4 1) ((fFn11 w).extractLsb' 3 1) ((fFn11 w).extractLsb' 2 1)) else
  if (fFn11 w).extractLsb' 5 6 = 0x2F#6 ∧ (fFn11 w).extractLsb' 0 2 = 0#2 then some (.amoMaxu (fD w) (fA w) (fB w) ((fFn11 w).extractLsb' 4 1) ((fFn11 w).extractLsb' 3 1) ((fFn11 w).extractLsb' 2 1)) else
  if (fFn11 w).extractLsb' 5 6 = 0x31#6 ∧ (fFn11 w).extractLsb' 0 2 = 0#2 then some (.amoSwap (fD w) (fA w) (fB w) ((fFn11 w).extractLsb' 4 1) ((fFn11 w).extractLsb' 3 1) ((fFn11 w).extractLsb' 2 1)) else
  if (fFn11 w).extractLsb' 5 6 = 0x33#6 ∧ (fFn11 w).extractLsb' 0 2 = 0#2 then some (.amoCas (fD w) (fA w) (fB w) ((fFn11 w).extractLsb' 4 1) ((fFn11 w).extractLsb' 3 1) ((fFn11 w).extractLsb' 2 1)) else
  none
/-- Major 0x18: BEQ. -/
def decode18 (w : IWord) : Option Instr :=
  some (.beq (fD w) (fA w) (fImm w))
/-- Major 0x19: BNE. -/
def decode19 (w : IWord) : Option Instr :=
  some (.bne (fD w) (fA w) (fImm w))
/-- Major 0x1A: BLT. -/
def decode1A (w : IWord) : Option Instr :=
  some (.blt (fD w) (fA w) (fImm w))
/-- Major 0x1B: BGE. -/
def decode1B (w : IWord) : Option Instr :=
  some (.bge (fD w) (fA w) (fImm w))
/-- Major 0x1C: BLTU. -/
def decode1C (w : IWord) : Option Instr :=
  some (.bltu (fD w) (fA w) (fImm w))
/-- Major 0x1D: BGEU. -/
def decode1D (w : IWord) : Option Instr :=
  some (.bgeu (fD w) (fA w) (fImm w))
/-- Major 0x1E: J. -/
def decode1E (w : IWord) : Option Instr :=
  some (.j (fDisp w))
/-- Major 0x1F: JAL. -/
def decode1F (w : IWord) : Option Instr :=
  some (.jal (fDisp w))
/-- Major 0x20: JALR. -/
def decode20 (w : IWord) : Option Instr :=
  some (.jalr (fD w) (fA w) (fImm w))
/-- Major 0x21: SETVL, VSETT, VLMAXQ. -/
def decode21 (w : IWord) : Option Instr :=
  if fB w = 0#5 ∧ fFn11 w = 0#11 then some (.setvl (fD w) (fA w)) else
  if fB w = 0#5 ∧ fFn11 w = 1#11 then some (.vsett (fD w) (fA w)) else
  if fB w = 0#5 ∧ fFn11 w = 2#11 then some (.vlmaxq (fD w) (fA w)) else
  none
/-- Major 0x22: SETVLI. -/
def decode22 (w : IWord) : Option Instr :=
  if fA w = 0#5 then some (.setvli (fD w) (fImm w)) else
  none
/-- Major 0x23: VADD, VSUB, VRSUB, VMUL, VMULH, VMULHU, VDIV, VDIVU, VREM, VAND, VOR, VXOR, VSLL, VSRL, VSRA, VMIN, VMAX, VMINU, VMAXU, VSADD, VSADDU, VSSUB, VSSUBU, VCMP_EQ, VCMP_NE, VCMP_LT, VCMP_LTU, VCMP_LE, VCMP_LEU, VCMP_GT, VCMP_GTU, VMERGE, VMV_V, VMV_X, VXTR, VINS. -/
def decode23 (w : IWord) : Option Instr :=
  if fFn7 w = 0#7 then some (.vadd (fD w) (fA w) (fB w) (fPred w) (fS w)) else
  if fFn7 w = 1#7 then some (.vsub (fD w) (fA w) (fB w) (fPred w) (fS w)) else
  if fFn7 w = 2#7 then some (.vrsub (fD w) (fA w) (fB w) (fPred w) (fS w)) else
  if fFn7 w = 3#7 then some (.vmul (fD w) (fA w) (fB w) (fPred w) (fS w)) else
  if fFn7 w = 4#7 then some (.vmulh (fD w) (fA w) (fB w) (fPred w) (fS w)) else
  if fFn7 w = 5#7 then some (.vmulhu (fD w) (fA w) (fB w) (fPred w) (fS w)) else
  if fFn7 w = 6#7 then some (.vdiv (fD w) (fA w) (fB w) (fPred w) (fS w)) else
  if fFn7 w = 7#7 then some (.vdivu (fD w) (fA w) (fB w) (fPred w) (fS w)) else
  if fFn7 w = 8#7 then some (.vrem (fD w) (fA w) (fB w) (fPred w) (fS w)) else
  if fFn7 w = 9#7 then some (.vand (fD w) (fA w) (fB w) (fPred w) (fS w)) else
  if fFn7 w = 0xA#7 then some (.vor (fD w) (fA w) (fB w) (fPred w) (fS w)) else
  if fFn7 w = 0xB#7 then some (.vxor (fD w) (fA w) (fB w) (fPred w) (fS w)) else
  if fFn7 w = 0xC#7 then some (.vsll (fD w) (fA w) (fB w) (fPred w) (fS w)) else
  if fFn7 w = 0xD#7 then some (.vsrl (fD w) (fA w) (fB w) (fPred w) (fS w)) else
  if fFn7 w = 0xE#7 then some (.vsra (fD w) (fA w) (fB w) (fPred w) (fS w)) else
  if fFn7 w = 0xF#7 then some (.vmin (fD w) (fA w) (fB w) (fPred w) (fS w)) else
  if fFn7 w = 0x10#7 then some (.vmax (fD w) (fA w) (fB w) (fPred w) (fS w)) else
  if fFn7 w = 0x11#7 then some (.vminu (fD w) (fA w) (fB w) (fPred w) (fS w)) else
  if fFn7 w = 0x12#7 then some (.vmaxu (fD w) (fA w) (fB w) (fPred w) (fS w)) else
  if fFn7 w = 0x13#7 then some (.vsadd (fD w) (fA w) (fB w) (fPred w) (fS w)) else
  if fFn7 w = 0x14#7 then some (.vsaddu (fD w) (fA w) (fB w) (fPred w) (fS w)) else
  if fFn7 w = 0x15#7 then some (.vssub (fD w) (fA w) (fB w) (fPred w) (fS w)) else
  if fFn7 w = 0x16#7 then some (.vssubu (fD w) (fA w) (fB w) (fPred w) (fS w)) else
  if (fD w).extractLsb' 3 2 = 0#2 ∧ fFn7 w = 0x18#7 then some (.vcmpEq ((fD w).extractLsb' 0 3) (fA w) (fB w) (fPred w) (fS w)) else
  if (fD w).extractLsb' 3 2 = 0#2 ∧ fFn7 w = 0x19#7 then some (.vcmpNe ((fD w).extractLsb' 0 3) (fA w) (fB w) (fPred w) (fS w)) else
  if (fD w).extractLsb' 3 2 = 0#2 ∧ fFn7 w = 0x1A#7 then some (.vcmpLt ((fD w).extractLsb' 0 3) (fA w) (fB w) (fPred w) (fS w)) else
  if (fD w).extractLsb' 3 2 = 0#2 ∧ fFn7 w = 0x1B#7 then some (.vcmpLtu ((fD w).extractLsb' 0 3) (fA w) (fB w) (fPred w) (fS w)) else
  if (fD w).extractLsb' 3 2 = 0#2 ∧ fFn7 w = 0x1C#7 then some (.vcmpLe ((fD w).extractLsb' 0 3) (fA w) (fB w) (fPred w) (fS w)) else
  if (fD w).extractLsb' 3 2 = 0#2 ∧ fFn7 w = 0x1D#7 then some (.vcmpLeu ((fD w).extractLsb' 0 3) (fA w) (fB w) (fPred w) (fS w)) else
  if (fD w).extractLsb' 3 2 = 0#2 ∧ fFn7 w = 0x1E#7 then some (.vcmpGt ((fD w).extractLsb' 0 3) (fA w) (fB w) (fPred w) (fS w)) else
  if (fD w).extractLsb' 3 2 = 0#2 ∧ fFn7 w = 0x1F#7 then some (.vcmpGtu ((fD w).extractLsb' 0 3) (fA w) (fB w) (fPred w) (fS w)) else
  if fFn7 w = 0x20#7 then some (.vmerge (fD w) (fA w) (fB w) (fPred w) (fS w)) else
  if fB w = 0#5 ∧ fS w = 0#1 ∧ fFn7 w = 0x21#7 then some (.vmvV (fD w) (fA w) (fPred w)) else
  if fA w = 0#5 ∧ fS w = 1#1 ∧ fFn7 w = 0x21#7 then some (.vmvX (fD w) (fB w) (fPred w)) else
  if fPred w = 0#3 ∧ fS w = 1#1 ∧ fFn7 w = 0x22#7 then some (.vxtr (fD w) (fA w) (fB w)) else
  if fPred w = 0#3 ∧ fS w = 1#1 ∧ fFn7 w = 0x23#7 then some (.vins (fD w) (fA w) (fB w)) else
  none
/-- Major 0x24: VFADD, VFSUB, VFMUL, VFDIV, VFSQRT, VFMIN, VFMAX, VFCMP_EQ, VFCMP_NE, VFCMP_LT, VFCMP_LE, VFCMP_GT, VFCMP_GE, VFCMP_UN, VFSGN_J, VFSGN_JN, VFSGN_JX, VFCLASS, VFCVT_FF, VFCVT_FS, VFCVT_FU, VFCVT_IF, VFRCPE, VFRCPS, VFRSQE, VFRSQS, VFEXP2, VFLOG2. -/
def decode24 (w : IWord) : Option Instr :=
  if fFn7 w = 0#7 then some (.vfadd (fD w) (fA w) (fB w) (fPred w) (fS w)) else
  if fFn7 w = 1#7 then some (.vfsub (fD w) (fA w) (fB w) (fPred w) (fS w)) else
  if fFn7 w = 2#7 then some (.vfmul (fD w) (fA w) (fB w) (fPred w) (fS w)) else
  if fFn7 w = 3#7 then some (.vfdiv (fD w) (fA w) (fB w) (fPred w) (fS w)) else
  if fB w = 0#5 ∧ fS w = 0#1 ∧ fFn7 w = 4#7 then some (.vfsqrt (fD w) (fA w) (fPred w)) else
  if fFn7 w = 5#7 then some (.vfmin (fD w) (fA w) (fB w) (fPred w) (fS w)) else
  if fFn7 w = 6#7 then some (.vfmax (fD w) (fA w) (fB w) (fPred w) (fS w)) else
  if (fD w).extractLsb' 3 2 = 0#2 ∧ fFn7 w = 8#7 then some (.vfcmpEq ((fD w).extractLsb' 0 3) (fA w) (fB w) (fPred w) (fS w)) else
  if (fD w).extractLsb' 3 2 = 0#2 ∧ fFn7 w = 9#7 then some (.vfcmpNe ((fD w).extractLsb' 0 3) (fA w) (fB w) (fPred w) (fS w)) else
  if (fD w).extractLsb' 3 2 = 0#2 ∧ fFn7 w = 0xA#7 then some (.vfcmpLt ((fD w).extractLsb' 0 3) (fA w) (fB w) (fPred w) (fS w)) else
  if (fD w).extractLsb' 3 2 = 0#2 ∧ fFn7 w = 0xB#7 then some (.vfcmpLe ((fD w).extractLsb' 0 3) (fA w) (fB w) (fPred w) (fS w)) else
  if (fD w).extractLsb' 3 2 = 0#2 ∧ fFn7 w = 0xC#7 then some (.vfcmpGt ((fD w).extractLsb' 0 3) (fA w) (fB w) (fPred w) (fS w)) else
  if (fD w).extractLsb' 3 2 = 0#2 ∧ fFn7 w = 0xD#7 then some (.vfcmpGe ((fD w).extractLsb' 0 3) (fA w) (fB w) (fPred w) (fS w)) else
  if (fD w).extractLsb' 3 2 = 0#2 ∧ fFn7 w = 0xE#7 then some (.vfcmpUn ((fD w).extractLsb' 0 3) (fA w) (fB w) (fPred w) (fS w)) else
  if fFn7 w = 0x10#7 then some (.vfsgnJ (fD w) (fA w) (fB w) (fPred w) (fS w)) else
  if fFn7 w = 0x11#7 then some (.vfsgnJn (fD w) (fA w) (fB w) (fPred w) (fS w)) else
  if fFn7 w = 0x12#7 then some (.vfsgnJx (fD w) (fA w) (fB w) (fPred w) (fS w)) else
  if fB w = 0#5 ∧ fS w = 0#1 ∧ fFn7 w = 0x13#7 then some (.vfclass (fD w) (fA w) (fPred w)) else
  if (fB w).extractLsb' 3 2 = 0#2 ∧ fS w = 0#1 ∧ fFn7 w = 0x14#7 then some (.vfcvtFf (fD w) (fA w) ((fB w).extractLsb' 0 3) (fPred w)) else
  if (fB w).extractLsb' 3 2 = 1#2 ∧ fS w = 0#1 ∧ fFn7 w = 0x14#7 then some (.vfcvtFs (fD w) (fA w) ((fB w).extractLsb' 0 3) (fPred w)) else
  if (fB w).extractLsb' 3 2 = 2#2 ∧ fS w = 0#1 ∧ fFn7 w = 0x14#7 then some (.vfcvtFu (fD w) (fA w) ((fB w).extractLsb' 0 3) (fPred w)) else
  if (fB w).extractLsb' 3 2 = 3#2 ∧ fS w = 0#1 ∧ fFn7 w = 0x14#7 then some (.vfcvtIf (fD w) (fA w) ((fB w).extractLsb' 2 1) ((fB w).extractLsb' 0 2) (fPred w)) else
  if fB w = 0#5 ∧ fS w = 0#1 ∧ fFn7 w = 0x18#7 then some (.vfrcpe (fD w) (fA w) (fPred w)) else
  if fFn7 w = 0x19#7 then some (.vfrcps (fD w) (fA w) (fB w) (fPred w) (fS w)) else
  if fB w = 0#5 ∧ fS w = 0#1 ∧ fFn7 w = 0x1A#7 then some (.vfrsqe (fD w) (fA w) (fPred w)) else
  if fFn7 w = 0x1B#7 then some (.vfrsqs (fD w) (fA w) (fB w) (fPred w) (fS w)) else
  if fB w = 0#5 ∧ fS w = 0#1 ∧ fFn7 w = 0x1C#7 then some (.vfexp2 (fD w) (fA w) (fPred w)) else
  if fB w = 0#5 ∧ fS w = 0#1 ∧ fFn7 w = 0x1D#7 then some (.vflog2 (fD w) (fA w) (fPred w)) else
  none
/-- Major 0x25: VFMA, VFMS, VFNMA, VFNMS. -/
def decode25 (w : IWord) : Option Instr :=
  if fFn7 w = 0#7 then some (.vfma (fD w) (fA w) (fB w) (fPred w) (fS w)) else
  if fFn7 w = 1#7 then some (.vfms (fD w) (fA w) (fB w) (fPred w) (fS w)) else
  if fFn7 w = 2#7 then some (.vfnma (fD w) (fA w) (fB w) (fPred w) (fS w)) else
  if fFn7 w = 3#7 then some (.vfnms (fD w) (fA w) (fB w) (fPred w) (fS w)) else
  none
/-- Major 0x26: VSLUP, VSLDN, VGATH, VCOMP, VIOTA, VFREDO, VFRMAX, VFRMIN, VHASH, VRED_ADD, VRED_AND, VRED_OR, VRED_XOR, VRED_MIN, VRED_MAX, VRED_MINU, VRED_MAXU, VSCAN_ADD, VSCAN_AND, VSCAN_OR, VSCAN_XOR, VSCAN_MIN, VSCAN_MAX, VSCAN_MINU, VSCAN_MAXU, VSCAN_FADD. -/
def decode26 (w : IWord) : Option Instr :=
  if fS w = 1#1 ∧ fFn7 w = 0#7 then some (.vslup (fD w) (fA w) (fB w) (fPred w)) else
  if fS w = 1#1 ∧ fFn7 w = 1#7 then some (.vsldn (fD w) (fA w) (fB w) (fPred w)) else
  if fFn7 w = 2#7 then some (.vgath (fD w) (fA w) (fB w) (fPred w) (fS w)) else
  if fB w = 0#5 ∧ fS w = 0#1 ∧ fFn7 w = 3#7 then some (.vcomp (fD w) (fA w) (fPred w)) else
  if fA w = 0#5 ∧ fB w = 0#5 ∧ fS w = 0#1 ∧ fFn7 w = 4#7 then some (.viota (fD w) (fPred w)) else
  if fFn7 w = 5#7 then some (.vfredo (fD w) (fA w) (fB w) (fPred w) (fS w)) else
  if fB w = 0#5 ∧ fS w = 0#1 ∧ fFn7 w = 6#7 then some (.vfrmax (fD w) (fA w) (fPred w)) else
  if fB w = 0#5 ∧ fS w = 0#1 ∧ fFn7 w = 7#7 then some (.vfrmin (fD w) (fA w) (fPred w)) else
  if fFn7 w = 8#7 then some (.vhash (fD w) (fA w) (fB w) (fPred w) (fS w)) else
  if fFn7 w = 0x10#7 then some (.vredAdd (fD w) (fA w) (fB w) (fPred w) (fS w)) else
  if fFn7 w = 0x11#7 then some (.vredAnd (fD w) (fA w) (fB w) (fPred w) (fS w)) else
  if fFn7 w = 0x12#7 then some (.vredOr (fD w) (fA w) (fB w) (fPred w) (fS w)) else
  if fFn7 w = 0x13#7 then some (.vredXor (fD w) (fA w) (fB w) (fPred w) (fS w)) else
  if fFn7 w = 0x14#7 then some (.vredMin (fD w) (fA w) (fB w) (fPred w) (fS w)) else
  if fFn7 w = 0x15#7 then some (.vredMax (fD w) (fA w) (fB w) (fPred w) (fS w)) else
  if fFn7 w = 0x16#7 then some (.vredMinu (fD w) (fA w) (fB w) (fPred w) (fS w)) else
  if fFn7 w = 0x17#7 then some (.vredMaxu (fD w) (fA w) (fB w) (fPred w) (fS w)) else
  if fFn7 w = 0x18#7 then some (.vscanAdd (fD w) (fA w) (fB w) (fPred w) (fS w)) else
  if fFn7 w = 0x19#7 then some (.vscanAnd (fD w) (fA w) (fB w) (fPred w) (fS w)) else
  if fFn7 w = 0x1A#7 then some (.vscanOr (fD w) (fA w) (fB w) (fPred w) (fS w)) else
  if fFn7 w = 0x1B#7 then some (.vscanXor (fD w) (fA w) (fB w) (fPred w) (fS w)) else
  if fFn7 w = 0x1C#7 then some (.vscanMin (fD w) (fA w) (fB w) (fPred w) (fS w)) else
  if fFn7 w = 0x1D#7 then some (.vscanMax (fD w) (fA w) (fB w) (fPred w) (fS w)) else
  if fFn7 w = 0x1E#7 then some (.vscanMinu (fD w) (fA w) (fB w) (fPred w) (fS w)) else
  if fFn7 w = 0x1F#7 then some (.vscanMaxu (fD w) (fA w) (fB w) (fPred w) (fS w)) else
  if fFn7 w = 0x20#7 then some (.vscanFadd (fD w) (fA w) (fB w) (fPred w) (fS w)) else
  none
/-- Major 0x27: PAND, POR, PXOR, PANDN, PSET, PFIRST, PCNT, PMOV. -/
def decode27 (w : IWord) : Option Instr :=
  if (fD w).extractLsb' 3 2 = 0#2 ∧ (fA w).extractLsb' 3 2 = 0#2 ∧ (fB w).extractLsb' 3 2 = 0#2 ∧ fS w = 0#1 ∧ fFn7 w = 0#7 then some (.pand ((fD w).extractLsb' 0 3) ((fA w).extractLsb' 0 3) ((fB w).extractLsb' 0 3) (fPred w)) else
  if (fD w).extractLsb' 3 2 = 0#2 ∧ (fA w).extractLsb' 3 2 = 0#2 ∧ (fB w).extractLsb' 3 2 = 0#2 ∧ fS w = 0#1 ∧ fFn7 w = 1#7 then some (.por ((fD w).extractLsb' 0 3) ((fA w).extractLsb' 0 3) ((fB w).extractLsb' 0 3) (fPred w)) else
  if (fD w).extractLsb' 3 2 = 0#2 ∧ (fA w).extractLsb' 3 2 = 0#2 ∧ (fB w).extractLsb' 3 2 = 0#2 ∧ fS w = 0#1 ∧ fFn7 w = 2#7 then some (.pxor ((fD w).extractLsb' 0 3) ((fA w).extractLsb' 0 3) ((fB w).extractLsb' 0 3) (fPred w)) else
  if (fD w).extractLsb' 3 2 = 0#2 ∧ (fA w).extractLsb' 3 2 = 0#2 ∧ (fB w).extractLsb' 3 2 = 0#2 ∧ fS w = 0#1 ∧ fFn7 w = 3#7 then some (.pandn ((fD w).extractLsb' 0 3) ((fA w).extractLsb' 0 3) ((fB w).extractLsb' 0 3) (fPred w)) else
  if (fD w).extractLsb' 3 2 = 0#2 ∧ fA w = 0#5 ∧ fB w = 0#5 ∧ fS w = 0#1 ∧ fFn7 w = 4#7 then some (.pset ((fD w).extractLsb' 0 3) (fPred w)) else
  if (fD w).extractLsb' 3 2 = 0#2 ∧ (fA w).extractLsb' 3 2 = 0#2 ∧ fB w = 0#5 ∧ fS w = 0#1 ∧ fFn7 w = 5#7 then some (.pfirst ((fD w).extractLsb' 0 3) ((fA w).extractLsb' 0 3) (fPred w)) else
  if (fA w).extractLsb' 3 2 = 0#2 ∧ fB w = 0#5 ∧ fS w = 0#1 ∧ fFn7 w = 6#7 then some (.pcnt (fD w) ((fA w).extractLsb' 0 3) (fPred w)) else
  if (fD w).extractLsb' 3 2 = 0#2 ∧ (fA w).extractLsb' 3 2 = 0#2 ∧ fB w = 0#5 ∧ fS w = 0#1 ∧ fFn7 w = 7#7 then some (.pmov ((fD w).extractLsb' 0 3) ((fA w).extractLsb' 0 3) (fPred w)) else
  none
/-- Major 0x28: EACLR, EAADD, EADOT, EAADDX, EARND, EAMOV. -/
def decode28 (w : IWord) : Option Instr :=
  if (fD w).extractLsb' 2 3 = 0#3 ∧ fA w = 0#5 ∧ fB w = 0#5 ∧ fPred w = 0#3 ∧ fS w = 0#1 ∧ fFn7 w = 0#7 then some (.eaclr ((fD w).extractLsb' 0 2)) else
  if (fD w).extractLsb' 2 3 = 0#3 ∧ fB w = 0#5 ∧ fS w = 0#1 ∧ fFn7 w = 1#7 then some (.eaadd ((fD w).extractLsb' 0 2) (fA w) (fPred w)) else
  if (fD w).extractLsb' 2 3 = 0#3 ∧ fFn7 w = 2#7 then some (.eadot ((fD w).extractLsb' 0 2) (fA w) (fB w) (fPred w) (fS w)) else
  if (fD w).extractLsb' 2 3 = 0#3 ∧ (fA w).extractLsb' 2 3 = 0#3 ∧ fB w = 0#5 ∧ fPred w = 0#3 ∧ fS w = 0#1 ∧ fFn7 w = 3#7 then some (.eaaddx ((fD w).extractLsb' 0 2) ((fA w).extractLsb' 0 2)) else
  if (fA w).extractLsb' 2 3 = 0#3 ∧ fPred w = 0#3 ∧ fS w = 0#1 ∧ fFn7 w = 4#7 then some (.earnd (fD w) ((fA w).extractLsb' 0 2) ((fB w).extractLsb' 2 3) ((fB w).extractLsb' 0 2)) else
  if (fD w).extractLsb' 2 3 = 0#3 ∧ (fA w).extractLsb' 2 3 = 0#3 ∧ fB w = 0#5 ∧ fPred w = 0#3 ∧ fS w = 0#1 ∧ fFn7 w = 5#7 then some (.eamov ((fD w).extractLsb' 0 2) ((fA w).extractLsb' 0 2)) else
  none
/-- Major 0x29: VLD, VLDS, VLDX, VLSEG. -/
def decode29 (w : IWord) : Option Instr :=
  if fB w = 0#5 ∧ fMode w = 0#3 ∧ fFn5 w = 0#5 then some (.vld (fD w) (fA w) (fPred w)) else
  if fMode w = 1#3 ∧ fFn5 w = 0#5 then some (.vlds (fD w) (fA w) (fB w) (fPred w)) else
  if fMode w = 2#3 ∧ fFn5 w = 0#5 then some (.vldx (fD w) (fA w) (fB w) (fPred w)) else
  if fB w = 0#5 ∧ fMode w = 3#3 then some (.vlseg (fD w) (fA w) (fPred w) ((fFn5 w).extractLsb' 3 2) ((fFn5 w).extractLsb' 0 3)) else
  none
/-- Major 0x2A: VST, VSTS, VSTX, VSSEG. -/
def decode2A (w : IWord) : Option Instr :=
  if fB w = 0#5 ∧ fMode w = 0#3 ∧ fFn5 w = 0#5 then some (.vst (fD w) (fA w) (fPred w)) else
  if fMode w = 1#3 ∧ fFn5 w = 0#5 then some (.vsts (fD w) (fA w) (fB w) (fPred w)) else
  if fMode w = 2#3 ∧ fFn5 w = 0#5 then some (.vstx (fD w) (fA w) (fB w) (fPred w)) else
  if fB w = 0#5 ∧ fMode w = 3#3 then some (.vsseg (fD w) (fA w) (fPred w) ((fFn5 w).extractLsb' 3 2) ((fFn5 w).extractLsb' 0 3)) else
  none
/-- Major 0x2B: VLDG, VLDGS, VLDGX. -/
def decode2B (w : IWord) : Option Instr :=
  if fB w = 0#5 ∧ fMode w = 0#3 ∧ fFn5 w = 0#5 then some (.vldg (fD w) (fA w) (fPred w)) else
  if fMode w = 1#3 ∧ fFn5 w = 0#5 then some (.vldgs (fD w) (fA w) (fB w) (fPred w)) else
  if fMode w = 2#3 ∧ fFn5 w = 0#5 then some (.vldgx (fD w) (fA w) (fB w) (fPred w)) else
  none
/-- Major 0x2C: VSTG, VSTGS, VSTGX. -/
def decode2C (w : IWord) : Option Instr :=
  if fB w = 0#5 ∧ fMode w = 0#3 ∧ fFn5 w = 0#5 then some (.vstg (fD w) (fA w) (fPred w)) else
  if fMode w = 1#3 ∧ fFn5 w = 0#5 then some (.vstgs (fD w) (fA w) (fB w) (fPred w)) else
  if fMode w = 2#3 ∧ fFn5 w = 0#5 then some (.vstgx (fD w) (fA w) (fB w) (fPred w)) else
  none
/-- Major 0x2D: VLDSYNC, VLDSYNC_E, VSPILL, VFILL, EASPILL, EAFILL, VSTM. -/
def decode2D (w : IWord) : Option Instr :=
  if fB w = 0#5 ∧ fMode w = 0#3 ∧ fFn5 w = 0#5 then some (.vldsync (fD w) (fA w) (fPred w)) else
  if fB w = 0#5 ∧ fMode w = 0#3 ∧ fFn5 w = 1#5 then some (.vldsyncE (fD w) (fA w) (fPred w)) else
  if fB w = 0#5 ∧ fMode w = 0#3 ∧ fFn5 w = 2#5 then some (.vspill (fD w) (fA w) (fPred w)) else
  if fB w = 0#5 ∧ fMode w = 0#3 ∧ fFn5 w = 3#5 then some (.vfill (fD w) (fA w) (fPred w)) else
  if (fD w).extractLsb' 2 3 = 0#3 ∧ fB w = 0#5 ∧ fPred w = 0#3 ∧ fMode w = 0#3 ∧ fFn5 w = 4#5 then some (.easpill ((fD w).extractLsb' 0 2) (fA w)) else
  if (fD w).extractLsb' 2 3 = 0#3 ∧ fB w = 0#5 ∧ fPred w = 0#3 ∧ fMode w = 0#3 ∧ fFn5 w = 5#5 then some (.eafill ((fD w).extractLsb' 0 2) (fA w)) else
  if fMode w = 0#3 ∧ fFn5 w = 6#5 then some (.vstm (fD w) (fA w) (fB w) (fPred w)) else
  none
/-- Major 0x2E: VAMO_ADD, VAMO_AND, VAMO_OR, VAMO_XOR, VAMO_MIN, VAMO_MAX, VAMO_MINU, VAMO_MAXU, VAMO_SWAP. -/
def decode2E (w : IWord) : Option Instr :=
  if fMode w = 2#3 ∧ fFn5 w = 0#5 then some (.vamoAdd (fD w) (fA w) (fB w) (fPred w)) else
  if fMode w = 2#3 ∧ fFn5 w = 1#5 then some (.vamoAnd (fD w) (fA w) (fB w) (fPred w)) else
  if fMode w = 2#3 ∧ fFn5 w = 2#5 then some (.vamoOr (fD w) (fA w) (fB w) (fPred w)) else
  if fMode w = 2#3 ∧ fFn5 w = 3#5 then some (.vamoXor (fD w) (fA w) (fB w) (fPred w)) else
  if fMode w = 2#3 ∧ fFn5 w = 4#5 then some (.vamoMin (fD w) (fA w) (fB w) (fPred w)) else
  if fMode w = 2#3 ∧ fFn5 w = 5#5 then some (.vamoMax (fD w) (fA w) (fB w) (fPred w)) else
  if fMode w = 2#3 ∧ fFn5 w = 6#5 then some (.vamoMinu (fD w) (fA w) (fB w) (fPred w)) else
  if fMode w = 2#3 ∧ fFn5 w = 7#5 then some (.vamoMaxu (fD w) (fA w) (fB w) (fPred w)) else
  if fMode w = 2#3 ∧ fFn5 w = 8#5 then some (.vamoSwap (fD w) (fA w) (fB w) (fPred w)) else
  none
/-- Major 0x30: CRD, CRDM, CWR, CWRM, VCRD, VCWR, CCLOSE. -/
def decode30 (w : IWord) : Option Instr :=
  if (fA w).extractLsb' 3 2 = 0#2 ∧ fCount w = 0#5 ∧ fFn8 w = 0#8 then some (.crd (fD w) ((fA w).extractLsb' 0 3) (fPort w)) else
  if (fA w).extractLsb' 3 2 = 0#2 ∧ fFn8 w = 1#8 then some (.crdm (fD w) ((fA w).extractLsb' 0 3) (fPort w) (fCount w)) else
  if fD w = 0#5 ∧ fCount w = 0#5 ∧ fFn8 w = 2#8 then some (.cwr (fA w) (fPort w)) else
  if fD w = 0#5 ∧ fFn8 w = 3#8 then some (.cwrm (fA w) (fPort w) (fCount w)) else
  if (fA w).extractLsb' 3 2 = 0#2 ∧ fCount w = 0#5 ∧ fFn8 w = 4#8 then some (.vcrd (fD w) ((fA w).extractLsb' 0 3) (fPort w)) else
  if fD w = 0#5 ∧ fCount w = 0#5 ∧ fFn8 w = 5#8 then some (.vcwr (fA w) (fPort w)) else
  if fD w = 0#5 ∧ fA w = 0#5 ∧ fCount w = 0#5 ∧ fFn8 w = 6#8 then some (.cclose (fPort w)) else
  none
/-- Major 0x31: SBIND, SUNB. -/
def decode31 (w : IWord) : Option Instr :=
  if fB w = 0#5 ∧ fFn11 w = 0#11 then some (.sbind (fD w) (fA w)) else
  if fA w = 0#5 ∧ fB w = 0#5 ∧ fFn11 w = 1#11 then some (.sunb (fD w)) else
  none
/-- Major 0x32: FORKL, JOINL. -/
def decode32 (w : IWord) : Option Instr :=
  if fD w = 0#5 ∧ fA w = 0#5 then some (.forkl (fImm w)) else
  if fD w = 0#5 ∧ fA w = 1#5 ∧ fImm w = 0#16 then some (.joinl) else
  none
/-- Major 0x33: MSHAPE, MPACK, MUNPK, MZERO, MMA, MDRAIN. -/
def decode33 (w : IWord) : Option Instr :=
  if fPred w = 0#3 ∧ fS w = 0#1 ∧ fAmode w = 0#2 ∧ fSpace w = 0#1 ∧ fFn4 w = 0#4 then some (.mshape (fD w) (fA w) (fB w)) else
  if (fB w).extractLsb' 4 1 = 0#1 ∧ fS w = 0#1 ∧ fAmode w = 0#2 ∧ fSpace w = 0#1 ∧ fFn4 w = 1#4 then some (.mpack (fD w) (fA w) ((fB w).extractLsb' 0 4) (fPred w)) else
  if (fB w).extractLsb' 4 1 = 0#1 ∧ fS w = 0#1 ∧ fAmode w = 0#2 ∧ fSpace w = 0#1 ∧ fFn4 w = 2#4 then some (.munpk (fD w) (fA w) ((fB w).extractLsb' 0 4) (fPred w)) else
  if fD w = 0#5 ∧ fA w = 0#5 ∧ fB w = 0#5 ∧ fPred w = 0#3 ∧ fAmode w = 0#2 ∧ fSpace w = 0#1 ∧ fFn4 w = 3#4 then some (.mzero (fS w)) else
  if fD w = 0#5 ∧ fPred w = 0#3 ∧ fAmode w = 0#2 ∧ fSpace w = 0#1 ∧ fFn4 w = 4#4 then some (.mma (fA w) (fB w) (fS w)) else
  if fFn4 w = 5#4 then some (.mdrain (fD w) (fA w) (fB w) (fPred w) (fS w) (fAmode w) (fSpace w)) else
  none
/-- Major 0x34: TXIN, TXOUT, TX2D. -/
def decode34 (w : IWord) : Option Instr :=
  if fFn11 w = 0#11 then some (.txin (fD w) (fA w) (fB w)) else
  if fFn11 w = 1#11 then some (.txout (fD w) (fA w) (fB w)) else
  if fD w = 0#5 ∧ fB w = 0#5 ∧ fFn11 w = 2#11 then some (.tx2d (fA w)) else
  none
/-- Major 0x35: DPOST, DGRANT, DSEND, DCLOSE. -/
noncomputable def decode35 (w : IWord) : Option Instr :=
  if fD w = 0#5 ∧ fB w = 0#5 ∧ fFn11 w = 0#11 then some (.dpost (fA w)) else
  if fFn11 w = 1#11 then some (.dgrant (fD w) (fA w) (fB w)) else
  if fFn11 w = 2#11 then some (.dsend (fD w) (fA w) (fB w)) else
  if fD w = 0#5 ∧ fB w = 0#5 ∧ fFn11 w = 3#11 then some (.dclose (fA w)) else
  none
/-- Major 0x36: BARRIER, BARRIER_REDUCE, BARCNT. -/
noncomputable def decode36 (w : IWord) : Option Instr :=
  if fD w = 0#5 ∧ fB w = 0#5 ∧ fFn11 w = 0#11 then some (.barrier (fA w)) else
  if fD w = 0#5 ∧ fFn11 w = 0#11 then some (.barrierReduce (fA w) (fB w)) else
  if fB w = 0#5 ∧ fFn11 w = 1#11 then some (.barcnt (fD w) (fA w)) else
  none
/-- Major 0x37: RDTIME, WAITT. -/
noncomputable def decode37 (w : IWord) : Option Instr :=
  if fA w = 0#5 ∧ fB w = 0#5 ∧ fFn11 w = 0#11 then some (.rdtime (fD w)) else
  if fD w = 0#5 ∧ fB w = 0#5 ∧ fFn11 w = 1#11 then some (.waitt (fA w)) else
  none
/-- Major 0x38: SAFE. -/
noncomputable def decode38 (w : IWord) : Option Instr :=
  if fD w = 0#5 ∧ fA w = 0#5 then some (.safe (fImm w)) else
  none
/-- Major 0x3E: BRK, TCAP_START, TCAP_STOP. -/
noncomputable def decode3E (w : IWord) : Option Instr :=
  if fD w = 0#5 ∧ fA w = 0#5 then some (.brk (fImm w)) else
  if fD w = 0#5 ∧ fA w = 1#5 ∧ fImm w = 1#16 then some (.tcapStart) else
  if fD w = 0#5 ∧ fA w = 1#5 ∧ fImm w = 0#16 then some (.tcapStop) else
  none
/-- Major 0x3F: CSRR, CSRW, CSRS, CSRC, SYSC, ERET, IINV, TLBINV, HALT. -/
noncomputable def decode3F (w : IWord) : Option Instr :=
  if fA w = 0#5 ∧ fOp w = 0#4 then some (.csrr (fD w) (fCode w)) else
  if fD w = 0#5 ∧ fOp w = 1#4 then some (.csrw (fA w) (fCode w)) else
  if fD w = 0#5 ∧ fOp w = 2#4 then some (.csrs (fA w) (fCode w)) else
  if fD w = 0#5 ∧ fOp w = 3#4 then some (.csrc (fA w) (fCode w)) else
  if fD w = 0#5 ∧ fA w = 0#5 ∧ fOp w = 4#4 then some (.sysc (fCode w)) else
  if fD w = 0#5 ∧ fA w = 0#5 ∧ fOp w = 5#4 ∧ fCode w = 0#12 then some (.eret) else
  if fD w = 0#5 ∧ fA w = 0#5 ∧ fOp w = 6#4 ∧ fCode w = 0#12 then some (.iinv) else
  if fD w = 0#5 ∧ fOp w = 7#4 ∧ fCode w = 0#12 then some (.tlbinv (fA w)) else
  if fD w = 0#5 ∧ fA w = 0#5 ∧ fOp w = 8#4 ∧ fCode w = 0#12 then some (.halt) else
  none

/-- The instruction that a word's major opcode and function fields select, before the sub-field conditions of R154.
A reserved major selects nothing (R152). -/
noncomputable def decodeFields (w : IWord) : Option Instr :=
  match (fMaj w).toNat with
  | 0x01 => decode01 w
  | 0x02 => decode02 w
  | 0x03 => decode03 w
  | 0x04 => decode04 w
  | 0x05 => decode05 w
  | 0x06 => decode06 w
  | 0x07 => decode07 w
  | 0x08 => decode08 w
  | 0x09 => decode09 w
  | 0x0A => decode0A w
  | 0x0B => decode0B w
  | 0x0C => decode0C w
  | 0x0D => decode0D w
  | 0x0E => decode0E w
  | 0x0F => decode0F w
  | 0x10 => decode10 w
  | 0x11 => decode11 w
  | 0x12 => decode12 w
  | 0x13 => decode13 w
  | 0x14 => decode14 w
  | 0x15 => decode15 w
  | 0x16 => decode16 w
  | 0x17 => decode17 w
  | 0x18 => decode18 w
  | 0x19 => decode19 w
  | 0x1A => decode1A w
  | 0x1B => decode1B w
  | 0x1C => decode1C w
  | 0x1D => decode1D w
  | 0x1E => decode1E w
  | 0x1F => decode1F w
  | 0x20 => decode20 w
  | 0x21 => decode21 w
  | 0x22 => decode22 w
  | 0x23 => decode23 w
  | 0x24 => decode24 w
  | 0x25 => decode25 w
  | 0x26 => decode26 w
  | 0x27 => decode27 w
  | 0x28 => decode28 w
  | 0x29 => decode29 w
  | 0x2A => decode2A w
  | 0x2B => decode2B w
  | 0x2C => decode2C w
  | 0x2D => decode2D w
  | 0x2E => decode2E w
  | 0x30 => decode30 w
  | 0x31 => decode31 w
  | 0x32 => decode32 w
  | 0x33 => decode33 w
  | 0x34 => decode34 w
  | 0x35 => decode35 w
  | 0x36 => decode36 w
  | 0x37 => decode37 w
  | 0x38 => decode38 w
  | 0x3E => decode3E w
  | 0x3F => decode3F w
  | _ => none

/-- The level-1 instruction that a word is, or nothing: the word then traps ILLEGAL. A function of the 32 bits alone
(R148). -/
noncomputable def decode (w : IWord) : Option Instr :=
  match decodeFields w with
  | some i => if i.wellFormed then some i else none
  | none => none

/-- Four bytes at rising addresses as an instruction word: memory is little-endian (R8, R148). -/
def wordOfBytes (b0 b1 b2 b3 : Byte) : IWord := b3 ++ b2 ++ b1 ++ b0

/-- The byte of a word at offset k from its address (R8). -/
def byteOfWord (w : IWord) (k : Nat) : Byte := w.extractLsb' (8 * k) 8

/-- The instruction that the decoder reads from a word numbered as spec/opcode_table.json numbers it. Every instruction
of the part is one 32-bit word (R148), so the number of bits the table gives does not matter. The word is laid out as
its four bytes in memory and read back from them. -/
noncomputable def decodeTableWord (_nbits w : Nat) : Option Instr :=
  let v := BitVec.ofNat 32 w
  decode (wordOfBytes (byteOfWord v 0) (byteOfWord v 1) (byteOfWord v 2) (byteOfWord v 3))

/-! ### The encoder (R149) -/

/-- RR format. -/
def rr (m : BitVec 6) (d a b : BitVec 5) (fn : BitVec 11) : IWord := m ++ d ++ a ++ b ++ fn
/-- RI and BR formats. -/
def ri (m : BitVec 6) (d a : BitVec 5) (imm : BitVec 16) : IWord := m ++ d ++ a ++ imm
/-- JP format. -/
def jp (m : BitVec 6) (disp : BitVec 26) : IWord := m ++ disp
/-- VV format. -/
def vv (m : BitVec 6) (d a b : BitVec 5) (p : BitVec 3) (s : BitVec 1) (fn : BitVec 7) : IWord :=
  m ++ d ++ a ++ b ++ p ++ s ++ fn
/-- VM format. -/
def vm (m : BitVec 6) (d a b : BitVec 5) (p : BitVec 3) (mode : BitVec 3) (fn : BitVec 5) : IWord :=
  m ++ d ++ a ++ b ++ p ++ mode ++ fn
/-- CH format. -/
def ch (m : BitVec 6) (d a : BitVec 5) (port : BitVec 3) (count : BitVec 5) (fn : BitVec 8) : IWord :=
  m ++ d ++ a ++ port ++ count ++ fn
/-- MX format. -/
def mx (m : BitVec 6) (d a b : BitVec 5) (p : BitVec 3) (bank : BitVec 1) (am : BitVec 2) (sp : BitVec 1)
    (fn : BitVec 4) : IWord :=
  m ++ d ++ a ++ b ++ p ++ bank ++ am ++ sp ++ fn
/-- SY format. -/
def sy (m : BitVec 6) (d a : BitVec 5) (op : BitVec 4) (code : BitVec 12) : IWord := m ++ d ++ a ++ op ++ code

/-- Whether a step is an instruction word; the others have no encoding. -/
def Instr.isWord : Instr → Bool
  | .steepFault | .channelWriteUnblock | .channelReadUnblock | .granuleWaitComplete | .joinlComplete | .waittWake
  | .globalLoadReply _ | .sunbComplete | .granuleMarking _ | .vstmAck _ | .leaveGrant | .leaveLapse
  | .hartDispatch | .stallSample | .hangWatchdogExpiry _ | .laneFailure _ _ | .tmScrubPass _ | .dramScrubPass _
  | .logEntryWrite | .wearSample _ _ _ _ | .lifetimeRecordWrite | .marginAlarmStop _ | .quarantineSelfTest _ _
  | .spareSubstitution _ | .temperatureSample _ _ | .powerSample _ _ | .pwrgoodRise _ | .ptpSync _ | .ptpHoldover
  | .launchStage _ _ | .launchGo _ _ | .launchStageAndStart _ _ | .launchWaitResume | .launchChannelClose _ _
  | .rankEntryExchange _ | .processStart _ _ | .sentinelCheck _ | .networkCompletion _
  | .phaseCalendarCompute _ _ | .calendarArrival _ _ _ | .arbiterHeartbeat _ _ | .standbyTakeover _ _
  | .phaseStart _ _ _ _ | .exchangeBytesLand _ _ _ _ | .closingFlit _ _ _ _ | .barrierCompletion _ _
  | .flitRetry _ _ _ | .linkTimeout _ _ | .switchTimeout _ _ | .groupTimeout _ | .requestPacket _ | .ghtAck _ _
  | .ghtRetransmit _ | .ghtConnectionReset _ | .hostChannelSlot _ | .hostChannelClose _ | .hostMemoryWrite _
  | .hostMemoryRead _ | .shootdown _ | .migrate _ | .migrationQuiesced _ | .migrationAbort _ _ | .peersUpdated _
  | .multicastGroup _ | .checkpoint _ | .checkpointQuiesced _ | .checkpointAbandon _ | .copy _ | .buddySeal _
  | .restore _ | .deviceAttestation _ | .endNetwork _ | .endProcess _ | .partition _ | .readRankEntries _
  | .readHealth _ | .readCharge _ | .create _ | .destroy _ | .keyLoad _ | .keyErase _ | .packageAttestation _
  | .logRead _ | .archive _ | .islandLimits _ | .setOkek _ | .configuration _ | .firmwareUpdate _
  | .illegalInstruction _ | .fetchProt | .ghtFrameDropped _ | .unknownRequest _ | .powerLoss | .orderlyShutdown
  | .laneRebuildComplete _ | .hartRestart _ _ => false
  | _ => true

/-- The word of an instruction, built field by field from R149 and R152 to R154. A step without an encoding gives the
all-zero word, which is no instruction (R152). -/
def encode : Instr → IWord
  | .add d a b => rr 1#6 d a b 0#11
  | .sub d a b => rr 1#6 d a b 1#11
  | .and d a b => rr 1#6 d a b 2#11
  | .or d a b => rr 1#6 d a b 3#11
  | .xor d a b => rr 1#6 d a b 4#11
  | .andn d a b => rr 1#6 d a b 5#11
  | .orn d a b => rr 1#6 d a b 6#11
  | .sll d a b => rr 1#6 d a b 7#11
  | .srl d a b => rr 1#6 d a b 8#11
  | .sra d a b => rr 1#6 d a b 9#11
  | .rol d a b => rr 1#6 d a b 0xA#11
  | .ror d a b => rr 1#6 d a b 0xB#11
  | .slt d a b => rr 1#6 d a b 0xC#11
  | .sltu d a b => rr 1#6 d a b 0xD#11
  | .min d a b => rr 1#6 d a b 0xE#11
  | .max d a b => rr 1#6 d a b 0xF#11
  | .minu d a b => rr 1#6 d a b 0x10#11
  | .maxu d a b => rr 1#6 d a b 0x11#11
  | .clz d a => rr 1#6 d a 0#5 0x12#11
  | .ctz d a => rr 1#6 d a 0#5 0x13#11
  | .popc d a => rr 1#6 d a 0#5 0x14#11
  | .sextb d a => rr 1#6 d a 0#5 0x15#11
  | .sexth d a => rr 1#6 d a 0#5 0x16#11
  | .sextw d a => rr 1#6 d a 0#5 0x17#11
  | .zextw d a => rr 1#6 d a 0#5 0x18#11
  | .addi d a i => ri 2#6 d a i
  | .andi d a i => ri 3#6 d a i
  | .ori d a i => ri 4#6 d a i
  | .xori d a i => ri 5#6 d a i
  | .slti d a i => ri 6#6 d a i
  | .sltiu d a i => ri 7#6 d a i
  | .slli d a h => ri 8#6 d a (0#10 ++ h)
  | .srli d a h => ri 8#6 d a (1#10 ++ h)
  | .srai d a h => ri 8#6 d a (2#10 ++ h)
  | .lih d a i => ri 9#6 d a i
  | .addpc d a i => ri 0xA#6 d a i
  | .mul d a b => rr 0xB#6 d a b 0#11
  | .mulh d a b => rr 0xB#6 d a b 1#11
  | .mulhu d a b => rr 0xB#6 d a b 2#11
  | .mulhsu d a b => rr 0xB#6 d a b 3#11
  | .div d a b => rr 0xB#6 d a b 4#11
  | .divu d a b => rr 0xB#6 d a b 5#11
  | .rem d a b => rr 0xB#6 d a b 6#11
  | .remu d a b => rr 0xB#6 d a b 7#11
  | .ldb d a i => ri 0xC#6 d a i
  | .ldbu d a i => ri 0xD#6 d a i
  | .ldh d a i => ri 0xE#6 d a i
  | .ldhu d a i => ri 0xF#6 d a i
  | .ldw d a i => ri 0x10#6 d a i
  | .ldwu d a i => ri 0x11#6 d a i
  | .ldd d a i => ri 0x12#6 d a i
  | .stb d a i => ri 0x13#6 d a i
  | .sth d a i => ri 0x14#6 d a i
  | .stw d a i => ri 0x15#6 d a i
  | .std d a i => ri 0x16#6 d a i
  | .ldg d a z u => rr 0x17#6 d a 0#5 (0#5 ++ z ++ 0#2 ++ u ++ 0#1)
  | .stg a b z => rr 0x17#6 0#5 a b (1#5 ++ z ++ 0#4)
  | .ldsync d a z => rr 0x17#6 d a 0#5 (5#6 ++ z ++ 0#4)
  | .ldsyncE d a z => rr 0x17#6 d a 0#5 (7#6 ++ z ++ 0#4)
  | .setf a => rr 0x17#6 0#5 a 0#5 0x100#11
  | .sete a => rr 0x17#6 0#5 a 0#5 0x140#11
  | .fence => rr 0x17#6 0#5 0#5 0#5 0x180#11
  | .amoAdd d a b z q r => rr 0x17#6 d a b (0x21#6 ++ z ++ q ++ r ++ 0#2)
  | .amoAnd d a b z q r => rr 0x17#6 d a b (0x23#6 ++ z ++ q ++ r ++ 0#2)
  | .amoOr d a b z q r => rr 0x17#6 d a b (0x25#6 ++ z ++ q ++ r ++ 0#2)
  | .amoXor d a b z q r => rr 0x17#6 d a b (0x27#6 ++ z ++ q ++ r ++ 0#2)
  | .amoMin d a b z q r => rr 0x17#6 d a b (0x29#6 ++ z ++ q ++ r ++ 0#2)
  | .amoMax d a b z q r => rr 0x17#6 d a b (0x2B#6 ++ z ++ q ++ r ++ 0#2)
  | .amoMinu d a b z q r => rr 0x17#6 d a b (0x2D#6 ++ z ++ q ++ r ++ 0#2)
  | .amoMaxu d a b z q r => rr 0x17#6 d a b (0x2F#6 ++ z ++ q ++ r ++ 0#2)
  | .amoSwap d a b z q r => rr 0x17#6 d a b (0x31#6 ++ z ++ q ++ r ++ 0#2)
  | .amoCas d a b z q r => rr 0x17#6 d a b (0x33#6 ++ z ++ q ++ r ++ 0#2)
  | .beq a b i => ri 0x18#6 a b i
  | .bne a b i => ri 0x19#6 a b i
  | .blt a b i => ri 0x1A#6 a b i
  | .bge a b i => ri 0x1B#6 a b i
  | .bltu a b i => ri 0x1C#6 a b i
  | .bgeu a b i => ri 0x1D#6 a b i
  | .j i => jp 0x1E#6 i
  | .jal i => jp 0x1F#6 i
  | .jalr d a i => ri 0x20#6 d a i
  | .setvl d a => rr 0x21#6 d a 0#5 0#11
  | .vsett d a => rr 0x21#6 d a 0#5 1#11
  | .vlmaxq d a => rr 0x21#6 d a 0#5 2#11
  | .setvli d i => ri 0x22#6 d 0#5 i
  | .vadd d a b p s => vv 0x23#6 d a b p s 0#7
  | .vsub d a b p s => vv 0x23#6 d a b p s 1#7
  | .vrsub d a b p s => vv 0x23#6 d a b p s 2#7
  | .vmul d a b p s => vv 0x23#6 d a b p s 3#7
  | .vmulh d a b p s => vv 0x23#6 d a b p s 4#7
  | .vmulhu d a b p s => vv 0x23#6 d a b p s 5#7
  | .vdiv d a b p s => vv 0x23#6 d a b p s 6#7
  | .vdivu d a b p s => vv 0x23#6 d a b p s 7#7
  | .vrem d a b p s => vv 0x23#6 d a b p s 8#7
  | .vand d a b p s => vv 0x23#6 d a b p s 9#7
  | .vor d a b p s => vv 0x23#6 d a b p s 0xA#7
  | .vxor d a b p s => vv 0x23#6 d a b p s 0xB#7
  | .vsll d a b p s => vv 0x23#6 d a b p s 0xC#7
  | .vsrl d a b p s => vv 0x23#6 d a b p s 0xD#7
  | .vsra d a b p s => vv 0x23#6 d a b p s 0xE#7
  | .vmin d a b p s => vv 0x23#6 d a b p s 0xF#7
  | .vmax d a b p s => vv 0x23#6 d a b p s 0x10#7
  | .vminu d a b p s => vv 0x23#6 d a b p s 0x11#7
  | .vmaxu d a b p s => vv 0x23#6 d a b p s 0x12#7
  | .vsadd d a b p s => vv 0x23#6 d a b p s 0x13#7
  | .vsaddu d a b p s => vv 0x23#6 d a b p s 0x14#7
  | .vssub d a b p s => vv 0x23#6 d a b p s 0x15#7
  | .vssubu d a b p s => vv 0x23#6 d a b p s 0x16#7
  | .vcmpEq d a b p s => vv 0x23#6 (0#2 ++ d) a b p s 0x18#7
  | .vcmpNe d a b p s => vv 0x23#6 (0#2 ++ d) a b p s 0x19#7
  | .vcmpLt d a b p s => vv 0x23#6 (0#2 ++ d) a b p s 0x1A#7
  | .vcmpLtu d a b p s => vv 0x23#6 (0#2 ++ d) a b p s 0x1B#7
  | .vcmpLe d a b p s => vv 0x23#6 (0#2 ++ d) a b p s 0x1C#7
  | .vcmpLeu d a b p s => vv 0x23#6 (0#2 ++ d) a b p s 0x1D#7
  | .vcmpGt d a b p s => vv 0x23#6 (0#2 ++ d) a b p s 0x1E#7
  | .vcmpGtu d a b p s => vv 0x23#6 (0#2 ++ d) a b p s 0x1F#7
  | .vmerge d a b p s => vv 0x23#6 d a b p s 0x20#7
  | .vmvV d a p => vv 0x23#6 d a 0#5 p 0#1 0x21#7
  | .vmvX d b p => vv 0x23#6 d 0#5 b p 1#1 0x21#7
  | .vxtr d a b => vv 0x23#6 d a b 0#3 1#1 0x22#7
  | .vins d a b => vv 0x23#6 d a b 0#3 1#1 0x23#7
  | .vfadd d a b p s => vv 0x24#6 d a b p s 0#7
  | .vfsub d a b p s => vv 0x24#6 d a b p s 1#7
  | .vfmul d a b p s => vv 0x24#6 d a b p s 2#7
  | .vfdiv d a b p s => vv 0x24#6 d a b p s 3#7
  | .vfsqrt d a p => vv 0x24#6 d a 0#5 p 0#1 4#7
  | .vfmin d a b p s => vv 0x24#6 d a b p s 5#7
  | .vfmax d a b p s => vv 0x24#6 d a b p s 6#7
  | .vfcmpEq d a b p s => vv 0x24#6 (0#2 ++ d) a b p s 8#7
  | .vfcmpNe d a b p s => vv 0x24#6 (0#2 ++ d) a b p s 9#7
  | .vfcmpLt d a b p s => vv 0x24#6 (0#2 ++ d) a b p s 0xA#7
  | .vfcmpLe d a b p s => vv 0x24#6 (0#2 ++ d) a b p s 0xB#7
  | .vfcmpGt d a b p s => vv 0x24#6 (0#2 ++ d) a b p s 0xC#7
  | .vfcmpGe d a b p s => vv 0x24#6 (0#2 ++ d) a b p s 0xD#7
  | .vfcmpUn d a b p s => vv 0x24#6 (0#2 ++ d) a b p s 0xE#7
  | .vfsgnJ d a b p s => vv 0x24#6 d a b p s 0x10#7
  | .vfsgnJn d a b p s => vv 0x24#6 d a b p s 0x11#7
  | .vfsgnJx d a b p s => vv 0x24#6 d a b p s 0x12#7
  | .vfclass d a p => vv 0x24#6 d a 0#5 p 0#1 0x13#7
  | .vfcvtFf d a s p => vv 0x24#6 d a (0#2 ++ s) p 0#1 0x14#7
  | .vfcvtFs d a s p => vv 0x24#6 d a (1#2 ++ s) p 0#1 0x14#7
  | .vfcvtFu d a s p => vv 0x24#6 d a (2#2 ++ s) p 0#1 0x14#7
  | .vfcvtIf d a u w p => vv 0x24#6 d a (3#2 ++ u ++ w) p 0#1 0x14#7
  | .vfrcpe d a p => vv 0x24#6 d a 0#5 p 0#1 0x18#7
  | .vfrcps d a b p s => vv 0x24#6 d a b p s 0x19#7
  | .vfrsqe d a p => vv 0x24#6 d a 0#5 p 0#1 0x1A#7
  | .vfrsqs d a b p s => vv 0x24#6 d a b p s 0x1B#7
  | .vfexp2 d a p => vv 0x24#6 d a 0#5 p 0#1 0x1C#7
  | .vflog2 d a p => vv 0x24#6 d a 0#5 p 0#1 0x1D#7
  | .vfma d a b p s => vv 0x25#6 d a b p s 0#7
  | .vfms d a b p s => vv 0x25#6 d a b p s 1#7
  | .vfnma d a b p s => vv 0x25#6 d a b p s 2#7
  | .vfnms d a b p s => vv 0x25#6 d a b p s 3#7
  | .vslup d a b p => vv 0x26#6 d a b p 1#1 0#7
  | .vsldn d a b p => vv 0x26#6 d a b p 1#1 1#7
  | .vgath d a b p s => vv 0x26#6 d a b p s 2#7
  | .vcomp d a p => vv 0x26#6 d a 0#5 p 0#1 3#7
  | .viota d p => vv 0x26#6 d 0#5 0#5 p 0#1 4#7
  | .vfredo d a b p s => vv 0x26#6 d a b p s 5#7
  | .vfrmax d a p => vv 0x26#6 d a 0#5 p 0#1 6#7
  | .vfrmin d a p => vv 0x26#6 d a 0#5 p 0#1 7#7
  | .vhash d a b p s => vv 0x26#6 d a b p s 8#7
  | .vredAdd d a b p s => vv 0x26#6 d a b p s 0x10#7
  | .vredAnd d a b p s => vv 0x26#6 d a b p s 0x11#7
  | .vredOr d a b p s => vv 0x26#6 d a b p s 0x12#7
  | .vredXor d a b p s => vv 0x26#6 d a b p s 0x13#7
  | .vredMin d a b p s => vv 0x26#6 d a b p s 0x14#7
  | .vredMax d a b p s => vv 0x26#6 d a b p s 0x15#7
  | .vredMinu d a b p s => vv 0x26#6 d a b p s 0x16#7
  | .vredMaxu d a b p s => vv 0x26#6 d a b p s 0x17#7
  | .vscanAdd d a b p s => vv 0x26#6 d a b p s 0x18#7
  | .vscanAnd d a b p s => vv 0x26#6 d a b p s 0x19#7
  | .vscanOr d a b p s => vv 0x26#6 d a b p s 0x1A#7
  | .vscanXor d a b p s => vv 0x26#6 d a b p s 0x1B#7
  | .vscanMin d a b p s => vv 0x26#6 d a b p s 0x1C#7
  | .vscanMax d a b p s => vv 0x26#6 d a b p s 0x1D#7
  | .vscanMinu d a b p s => vv 0x26#6 d a b p s 0x1E#7
  | .vscanMaxu d a b p s => vv 0x26#6 d a b p s 0x1F#7
  | .vscanFadd d a b p s => vv 0x26#6 d a b p s 0x20#7
  | .pand d a b p => vv 0x27#6 (0#2 ++ d) (0#2 ++ a) (0#2 ++ b) p 0#1 0#7
  | .por d a b p => vv 0x27#6 (0#2 ++ d) (0#2 ++ a) (0#2 ++ b) p 0#1 1#7
  | .pxor d a b p => vv 0x27#6 (0#2 ++ d) (0#2 ++ a) (0#2 ++ b) p 0#1 2#7
  | .pandn d a b p => vv 0x27#6 (0#2 ++ d) (0#2 ++ a) (0#2 ++ b) p 0#1 3#7
  | .pset d p => vv 0x27#6 (0#2 ++ d) 0#5 0#5 p 0#1 4#7
  | .pfirst d a p => vv 0x27#6 (0#2 ++ d) (0#2 ++ a) 0#5 p 0#1 5#7
  | .pcnt d a p => vv 0x27#6 d (0#2 ++ a) 0#5 p 0#1 6#7
  | .pmov d a p => vv 0x27#6 (0#2 ++ d) (0#2 ++ a) 0#5 p 0#1 7#7
  | .eaclr d => vv 0x28#6 (0#3 ++ d) 0#5 0#5 0#3 0#1 0#7
  | .eaadd d a p => vv 0x28#6 (0#3 ++ d) a 0#5 p 0#1 1#7
  | .eadot d a b p s => vv 0x28#6 (0#3 ++ d) a b p s 2#7
  | .eaaddx d a => vv 0x28#6 (0#3 ++ d) (0#3 ++ a) 0#5 0#3 0#1 3#7
  | .earnd d a m f => vv 0x28#6 d (0#3 ++ a) (m ++ f) 0#3 0#1 4#7
  | .eamov d a => vv 0x28#6 (0#3 ++ d) (0#3 ++ a) 0#5 0#3 0#1 5#7
  | .vld d a p => vm 0x29#6 d a 0#5 p 0#3 0#5
  | .vlds d a b p => vm 0x29#6 d a b p 1#3 0#5
  | .vldx d a b p => vm 0x29#6 d a b p 2#3 0#5
  | .vlseg d a p w f => vm 0x29#6 d a 0#5 p 3#3 (w ++ f)
  | .vst d a p => vm 0x2A#6 d a 0#5 p 0#3 0#5
  | .vsts d a b p => vm 0x2A#6 d a b p 1#3 0#5
  | .vstx d a b p => vm 0x2A#6 d a b p 2#3 0#5
  | .vsseg d a p w f => vm 0x2A#6 d a 0#5 p 3#3 (w ++ f)
  | .vldg d a p => vm 0x2B#6 d a 0#5 p 0#3 0#5
  | .vldgs d a b p => vm 0x2B#6 d a b p 1#3 0#5
  | .vldgx d a b p => vm 0x2B#6 d a b p 2#3 0#5
  | .vstg d a p => vm 0x2C#6 d a 0#5 p 0#3 0#5
  | .vstgs d a b p => vm 0x2C#6 d a b p 1#3 0#5
  | .vstgx d a b p => vm 0x2C#6 d a b p 2#3 0#5
  | .vldsync d a p => vm 0x2D#6 d a 0#5 p 0#3 0#5
  | .vldsyncE d a p => vm 0x2D#6 d a 0#5 p 0#3 1#5
  | .vspill d a p => vm 0x2D#6 d a 0#5 p 0#3 2#5
  | .vfill d a p => vm 0x2D#6 d a 0#5 p 0#3 3#5
  | .easpill d a => vm 0x2D#6 (0#3 ++ d) a 0#5 0#3 0#3 4#5
  | .eafill d a => vm 0x2D#6 (0#3 ++ d) a 0#5 0#3 0#3 5#5
  | .vstm d a b p => vm 0x2D#6 d a b p 0#3 6#5
  | .vamoAdd d a b p => vm 0x2E#6 d a b p 2#3 0#5
  | .vamoAnd d a b p => vm 0x2E#6 d a b p 2#3 1#5
  | .vamoOr d a b p => vm 0x2E#6 d a b p 2#3 2#5
  | .vamoXor d a b p => vm 0x2E#6 d a b p 2#3 3#5
  | .vamoMin d a b p => vm 0x2E#6 d a b p 2#3 4#5
  | .vamoMax d a b p => vm 0x2E#6 d a b p 2#3 5#5
  | .vamoMinu d a b p => vm 0x2E#6 d a b p 2#3 6#5
  | .vamoMaxu d a b p => vm 0x2E#6 d a b p 2#3 7#5
  | .vamoSwap d a b p => vm 0x2E#6 d a b p 2#3 8#5
  | .crd d a n => ch 0x30#6 d (0#2 ++ a) n 0#5 0#8
  | .crdm d a n k => ch 0x30#6 d (0#2 ++ a) n k 1#8
  | .cwr a n => ch 0x30#6 0#5 a n 0#5 2#8
  | .cwrm a n k => ch 0x30#6 0#5 a n k 3#8
  | .vcrd d a n => ch 0x30#6 d (0#2 ++ a) n 0#5 4#8
  | .vcwr a n => ch 0x30#6 0#5 a n 0#5 5#8
  | .cclose n => ch 0x30#6 0#5 0#5 n 0#5 6#8
  | .sbind d a => rr 0x31#6 d a 0#5 0#11
  | .sunb d => rr 0x31#6 d 0#5 0#5 1#11
  | .forkl i => ri 0x32#6 0#5 0#5 i
  | .joinl => ri 0x32#6 0#5 1#5 0#16
  | .mshape d a b => mx 0x33#6 d a b 0#3 0#1 0#2 0#1 0#4
  | .mpack d a q p => mx 0x33#6 d a (0#1 ++ q) p 0#1 0#2 0#1 1#4
  | .munpk d a q p => mx 0x33#6 d a (0#1 ++ q) p 0#1 0#2 0#1 2#4
  | .mzero k => mx 0x33#6 0#5 0#5 0#5 0#3 k 0#2 0#1 3#4
  | .mma a b k => mx 0x33#6 0#5 a b 0#3 k 0#2 0#1 4#4
  | .mdrain c a b p k m g => mx 0x33#6 c a b p k m g 5#4
  | .txin d a b => rr 0x34#6 d a b 0#11
  | .txout d a b => rr 0x34#6 d a b 1#11
  | .tx2d a => rr 0x34#6 0#5 a 0#5 2#11
  | .dpost a => rr 0x35#6 0#5 a 0#5 0#11
  | .dgrant d a b => rr 0x35#6 d a b 1#11
  | .dsend d a b => rr 0x35#6 d a b 2#11
  | .dclose a => rr 0x35#6 0#5 a 0#5 3#11
  | .barrier a => rr 0x36#6 0#5 a 0#5 0#11
  | .barrierReduce a b => rr 0x36#6 0#5 a b 0#11
  | .barcnt d a => rr 0x36#6 d a 0#5 1#11
  | .rdtime d => rr 0x37#6 d 0#5 0#5 0#11
  | .waitt a => rr 0x37#6 0#5 a 0#5 1#11
  | .safe i => ri 0x38#6 0#5 0#5 i
  | .brk i => ri 0x3E#6 0#5 0#5 i
  | .tcapStart => ri 0x3E#6 0#5 1#5 1#16
  | .tcapStop => ri 0x3E#6 0#5 1#5 0#16
  | .csrr d c => sy 0x3F#6 d 0#5 0#4 c
  | .csrw a c => sy 0x3F#6 0#5 a 1#4 c
  | .csrs a c => sy 0x3F#6 0#5 a 2#4 c
  | .csrc a c => sy 0x3F#6 0#5 a 3#4 c
  | .sysc c => sy 0x3F#6 0#5 0#5 4#4 c
  | .eret => sy 0x3F#6 0#5 0#5 5#4 0#12
  | .iinv => sy 0x3F#6 0#5 0#5 6#4 0#12
  | .tlbinv a => sy 0x3F#6 0#5 a 7#4 0#12
  | .halt => sy 0x3F#6 0#5 0#5 8#4 0#12
  | .steepFault | .channelWriteUnblock | .channelReadUnblock | .granuleWaitComplete | .joinlComplete | .waittWake
  | .globalLoadReply _ | .sunbComplete | .granuleMarking _ | .vstmAck _ | .leaveGrant | .leaveLapse
  | .hartDispatch | .stallSample | .hangWatchdogExpiry _ | .laneFailure _ _ | .tmScrubPass _ | .dramScrubPass _
  | .logEntryWrite | .wearSample _ _ _ _ | .lifetimeRecordWrite | .marginAlarmStop _ | .quarantineSelfTest _ _
  | .spareSubstitution _ | .temperatureSample _ _ | .powerSample _ _ | .pwrgoodRise _ | .ptpSync _ | .ptpHoldover
  | .launchStage _ _ | .launchGo _ _ | .launchStageAndStart _ _ | .launchWaitResume | .launchChannelClose _ _
  | .rankEntryExchange _ | .processStart _ _ | .sentinelCheck _ | .networkCompletion _
  | .phaseCalendarCompute _ _ | .calendarArrival _ _ _ | .arbiterHeartbeat _ _ | .standbyTakeover _ _
  | .phaseStart _ _ _ _ | .exchangeBytesLand _ _ _ _ | .closingFlit _ _ _ _ | .barrierCompletion _ _
  | .flitRetry _ _ _ | .linkTimeout _ _ | .switchTimeout _ _ | .groupTimeout _ | .requestPacket _ | .ghtAck _ _
  | .ghtRetransmit _ | .ghtConnectionReset _ | .hostChannelSlot _ | .hostChannelClose _ | .hostMemoryWrite _
  | .hostMemoryRead _ | .shootdown _ | .migrate _ | .migrationQuiesced _ | .migrationAbort _ _ | .peersUpdated _
  | .multicastGroup _ | .checkpoint _ | .checkpointQuiesced _ | .checkpointAbandon _ | .copy _ | .buddySeal _
  | .restore _ | .deviceAttestation _ | .endNetwork _ | .endProcess _ | .partition _ | .readRankEntries _
  | .readHealth _ | .readCharge _ | .create _ | .destroy _ | .keyLoad _ | .keyErase _ | .packageAttestation _
  | .logRead _ | .archive _ | .islandLimits _ | .setOkek _ | .configuration _ | .firmwareUpdate _
  | .illegalInstruction _ | .fetchProt | .ghtFrameDropped _ | .unknownRequest _ | .powerLoss | .orderlyShutdown
  | .laneRebuildComplete _ | .hartRestart _ _ => 0#32

end Sys2Proof
end

