-- ==== Sys2Proof/Config.lean ====
section
/-! DEFINITION. What the part fixes (numbers of R1 and R444) and the free values: constants without a body, so that
nothing can be proved of what they are. A free value stands wherever the spec leaves a value, an instant or a choice
open; it is applied to the model's step counter `ticks` or to the operands it may depend on. -/

namespace Sys2Proof.Config

/-! ### Figures of the part -/

/-- Bytes of one tile's memory, 2 MiB (R1, R109). -/
def tmBytes : Nat := 0x200000
/-- Tiles in service on a die (R1). -/
def tilesPerDie : Nat := 512
/-- Compute dies of a package (R1). -/
def diesPerPackage : Nat := 4
/-- Bytes of endpoint-local address space, 52 bits (R1, R440). -/
def localBytes : Nat := 2 ^ 52
/-- Bytes of a package's DRAM that are usable, 960 GiB (R1). -/
def dramBytes : Nat := 960 * 2 ^ 30
/-- Planes of the fabric (R1). -/
def planes : Nat := 18
/-- The lifetime budget B of a tile in wear units (R431). -/
def wearBudget : Nat := 160000000
/-- Bytes reserved for one context area, 192 KiB (R351). -/
def ctxAreaBytes : Nat := 196608
/-- Bytes of the nonvolatile store that the log occupies, 256 MiB (R426). -/
def logBytes : Nat := 268435456

/-! ### Free values of undefined state (R12, R39, R42, R60, R76) -/

/-- The value of an undefined byte of vector storage, by the instant it became undefined and its place. -/
opaque undefByte : Nat → Nat → Byte
/-- The value of an undefined scalar register. -/
opaque undefWord : Nat → Nat → Word
/-- The value of an undefined predicate register. -/
opaque undefPred : Nat → Nat → BitVec 65536
/-- The value of an undefined long-accumulator magnitude. -/
opaque undefAcc : Nat → Nat → BitVec 4263
/-- The value of an undefined accumulator bank element. -/
opaque undefBank : Nat → Nat → BitVec 128
/-- The value of an undefined VL; the model takes it modulo VLMAX + 1. -/
opaque undefVl : Nat → Nat
/-- The key that slot 0 holds, the monitor's (R397). -/
opaque monitorKey : List Byte
/-- The tweak of a granule in memory outside the devices of this package, whose regions the model does not hold. -/
opaque foreignTweak : Nat → Nat
/-- A byte of an element of a load stream that was stored to after SBIND (R139): by the step of the SBIND, the element
and its byte. -/
opaque streamByte : Nat → Nat → Nat → Byte
/-- The contents of memory that was never written and that no rule clears, by its address. -/
opaque poisonedData : Nat → Byte

/-! ### Free instants and orders (R3) -/

/-- Nanoseconds that pass during one step of the model. -/
opaque elapsed : Nat → Nat
/-- Cycles, stall cycles and admission cycles that pass during one step (R478). -/
opaque cycles : Nat → Nat
opaque stallCycles : Nat → Nat
opaque admitCycles : Nat → Nat
/-- Whether an asynchronous writer moves at this step, and which pending entry it is. -/
opaque engineMoves : Nat → Bool
opaque enginePick : Nat → Nat
/-- Where a transfer command stops in its byte order (R405), by the instant and the command. -/
opaque stopPoint : Nat → Nat → Nat
/-- Which outstanding element's reply arrives next. -/
opaque replyPick : Nat → Nat
/-- Whether an access finds its page in a TLB bank (R390, R391). -/
opaque tlbHit : Nat → Nat → Bool
/-- Whether a walk finds a non-leaf entry in the walk cache, and which entry a full bank or walk cache gives up
(R390). -/
opaque walkHit : Nat → Nat → Bool
opaque cachePick : Nat → Nat → Nat
/-- T0 and SLOTNS of a phase calendar (R288): they affect timing only. -/
opaque calendarT0 : Nat → Word
opaque calendarSlotNs : Nat → BitVec 32

/-- Whether an atomic whose reply was lost had been performed (R246), and the members of a multicast group that fail
(R248). -/
opaque amoLanded : Nat → Bool
opaque mcastFailed : Nat → BitVec 1024
/-- An error of the part's own silicon: a row position of a tile failing parity in some lanes, or in the parity slice
alone; a check-lane retry that agrees, one that the third computation decides against the working lane, one where all
three differ, each for one of the instructions of the step that were checked; an accumulator element; bits of a word of tile
memory; bits of a granule of the package's DRAM (R410, R411, R416, R419). -/
inductive Upset where
  | row (tile row : Nat) (lanes : List Nat)
  | parityRow (tile row : Nat)
  | retried (check row : Nat)
  | outvoted (check : Nat)
  | split (check row : Nat)
  | bank (tile front : Nat) (b : Bool) (elem : Nat) (correctable : Bool)
  | tmWord (word : Nat) (errors : List Nat)
  | granule (ep g : Nat) (errors : List Nat)
deriving DecidableEq, Repr
/-- The element boundary at which a hang watchdog stops an instruction that is under way (R342, R357). -/
opaque expiryElem : Nat → Nat
/-- Whether a hart had gone on by another instruction when one trapped, and the element at which that one stands (R342,
R343). -/
opaque runsAhead : Nat → Nat → Bool
opaque aheadElem : Nat → Nat → Nat
/-- Whether a plain store under way to an endpoint that is declared failed is among those that were lost, by the instant
and its place (R233, R444). -/
opaque storeLost : Nat → Nat → Bool
/-- Whether a hart that is sampled waits for leave (R230, R476). -/
opaque waitsLeave : Nat → Bool
/-- What a running hart that is sampled is held up by, if anything, and the instruction and element of its chain that it waits
on (R476). -/
opaque stallKind : Nat → Nat → Nat
/-- The error that a step meets, if any, and whether the check lane is busy when an instruction starts (R409). -/
opaque silicon : Nat → Option Upset
opaque checkBusy : Nat → Bool
/-- Which event the log's arbiters put next (R421). -/
opaque logPick : Nat → Nat
/-- The syndrome that an event carries (R423), by the instant and the place. -/
opaque syndrome : Nat → Nat → Nat

/-- Whether an in-flight store that a dump lists was in the fabric, not queued at the memory port (R479). -/
opaque inFabric : Nat → Nat → Bool

/-! ### Choices that the spec leaves to the implementation -/

/-- The TM base that the placement engine picks for a kernel block, and for a ring (R164, R370). -/
opaque blockBase : Nat → Nat
opaque ringBase : Nat → Nat
/-- The virtual address at which placement would reserve a context area (R351), by device, network and rank. -/
opaque ctxVa : Nat → Nat → Nat → Word
/-- DETAIL of a launch refused for a kernel block that no rank runs and that no tile can hold (R170, R369), by kernel. -/
opaque unusedBlock : Nat → Nat
/-- The place of a logical tile among the 512 places in service of its die: sixteen islands of two grid rows, 32 places
each (R1). -/
opaque tileSlot : Nat → Fin 512 ≃ Fin 512
/-- The places of an island's 34 physical tiles: 32 in service, then its two spares (R1). -/
opaque islandSlot : Nat → Fin 34 ≃ Fin 34
/-- The place of a package tile number in its die. -/
def slotOf (t : Nat) : Nat := (tileSlot (t / tilesPerDie) ⟨t % 512, Nat.mod_lt t (by decide)⟩).val
/-- The island of a logical tile, 0 to 63, sixteen on a die (R1, R430). -/
def islandOf (t : Nat) : Nat := 16 * (t / tilesPerDie) + slotOf t / 32
/-- The physical tile of a logical tile number: its own, or its island's spare k - 1 (R1, R432). -/
def physTile (t k : Nat) : Nat :=
  34 * islandOf t + (islandSlot (islandOf t) ⟨(if k = 0 then slotOf t % 32 else 31 + k) % 34, Nat.mod_lt _ (by decide)⟩).val
/-- Whether a tile of the package that a migration names has another LPART than the tile it stands for (R403). -/
opaque lpartDiffers : Nat → Nat → Bool
/-- Which of several ended members a TIMEOUT of a barrier names (R296). -/
opaque endedPick : Nat → Nat
/-- The monitor's regions of a tile's memory (R330): whether a TM byte of a tile lies in one. -/
opaque monitorByte : Nat → Nat → Bool
/-- Whether a real number of wear is rounded up to a unit of 2^-20 (R427, R429): the spec gives no rounding. -/
opaque roundUp : Nat → Nat → Bool
/-- The voltage in mV and the temperature in tenths of a degree of a tile before its first sample (R427, R429). -/
opaque firstStress : Nat → Nat × Nat
/-- The package's serial number and reset value of what the nonvolatile store holds before the first power-on. -/
opaque serial : List Byte
/-- Whether the ageing monitors of a tile raise a margin alarm at a sample (R431). -/
opaque marginAlarm : Nat → Nat → Bool
/-- Rows of a lane's slice that a rebuild has not reached when a second lane fails (R414). -/
opaque rowUnbuilt : Nat → Nat → Bool
/-- DETAIL of a class-14 entry: the widths of its two parts are not given (R423). -/
opaque thermalDetail : Nat → Nat → Nat
/-- The physical tile of an island, 0 to 33, that its class-14 entries name (R422). -/
opaque thermalTile : Nat → Nat
/-- Whether a tile's memory cannot be read when a process is to leave it (R361, R372, R415). -/
opaque tmUnreadable : Nat → Nat → Bool
/-- The endpoints of other packages and of memory-only nodes that answer once the links are trained (R440, R481). -/
opaque trainedEps : List Nat
/-- The largest priority ceiling the monitor allows (R457). -/
opaque monitorCeiling : Nat

/-! ### Functions that the spec names and takes from other standards -/

/-- An SLH-DSA-SHA2-128s signature by the device identity key, 7,856 bytes (R400, R425; FIPS 205). -/
opaque sign : List Byte → List Byte
/-- The Zstandard frame of a chunk (R464; RFC 8878): any of those that decompress to it. -/
opaque zstd : List Byte → List Byte
/-- LEVEL of a shard's header (R464). -/
opaque shardLevel : Nat
/-- Whether a signed firmware image verifies (R481). -/
opaque firmwareOk : List Byte → Bool

/-! ### Other packages, and values of replies that the spec leaves open -/

/-- Numbers that members on other packages bring to a group: posts, bytes, contributions (R285, R290, R298), by the
instant, the member and the item. -/
opaque remoteNum : Nat → Nat → Nat → Nat
/-- Which member a barrier's completion reaches next (R327). -/
opaque memberPick : Nat → Nat
/-- Where a moved region lies at the destination of a migration, by package and REGIONID, and the package tile there that
takes a tile's logical number (R403, R404, R406). -/
opaque movedFrame : Nat → Nat → Nat
opaque movedTile : Nat → Nat → Nat
/-- Whether the destination of a migration holds a shell device (R403), and whether the monitor's copying gets on at a
step (R404). -/
opaque shellHeld : Nat → Nat → Bool
opaque copyMoves : Nat → Bool
/-- Whether by a step every member of a multicast group has accepted it (R446). -/
opaque groupAccepted : Nat → Nat → Bool
/-- DETAIL of a malformed request whose fault lies outside its body (R455, R457). -/
opaque malformedDetail : Nat → Nat
/-- The plane that the hash of source, destination and flow chooses (R441). -/
opaque planeOf : Nat → Nat → Nat → Nat
/-- Whether a kettle of another package refuses an access by step and address: its region has been released there (R395,
R406). -/
opaque peerRefuses : Nat → Nat → Bool
/-- The host address and port of a frame that opens a connection (R451). -/
opaque hostPeer : Nat → Nat
/-- The bytes of the checkpoint reserve that the owner has set aside for the package's own shards (R462, R466), and whether
a copy succeeds (R458). -/
opaque reserveBytes : Nat
opaque copyWorks : Nat → Bool
/-- Whether every other package of a job holds a step sealed (R467), by job and step. -/
opaque peersHold : Nat → Nat → Bool
/-- Whether a spare package has the tiles, LPART, regions and key slots, and whether the buddy copies needed can be read
(R468). -/
opaque spareFit : Nat → Nat → Bool
opaque buddyReadable : Nat → Nat → Bool
/-- The state that another package's die has reported for a rank, by network, rank and the instant of the last report,
and whether a report arrives at a step (R380). -/
opaque remoteStanding : Nat → Nat → Nat → Nat
opaque remoteReport : Nat → Nat → Bool
/-- The wear charge of a rank placed on another package, and whether it was lost or ended by request (R458). -/
opaque remoteCharge : Nat → Nat → Nat
opaque remoteFlags : Nat → Nat → Nat

end Sys2Proof.Config
end

