-- ==== Sys2Proof/Machine/State.lean ====
section
/-! DEFINITION. The state of the modelled package as plain data: the selected hart and the others, tile and global
memory with their granule bits and poison marks, processes, networks and channels, tiles, virtual devices, the
asynchronous writers, and the monitor's, the fabric's and the host port's state. INVENTORY.md lists each field with
its rule. `State.reset` is the part at power-on, before PWRGOOD rises. -/

namespace Sys2Proof.Machine

/-- Why a step stops the model. -/
inductive Fault where
  /-- The head of the input queue `events` is an instruction word, or breaks `Instr.wellFormed`. Raised by `step` alone.
  Safe: no outside agent of the spec can bring such an input. -/
  | badInput
deriving DecidableEq, Repr

/-- Why an instruction is refused. -/
inductive Refusal where
  /-- No meaning is written for the instruction. Raised by an arm of `exec` alone. Safe. -/
  | notModelled (mnemonic : String)
deriving DecidableEq, Repr

/-- Memory by byte: address and byte, addresses strictly rising, no byte equal to what an unlisted address reads as. -/
abbrev Memory := List Host.Cell

/-- The privilege levels (R328). -/
inductive Priv where
  | p | s | m
deriving DecidableEq, Repr

/-- A hart by its package tile (die × 512 + logical tile) and its scalar front end, 0 to 7 (R33). -/
structure HartId where
  tile : Nat
  front : Nat
deriving DecidableEq, Repr

/-- A process by network and rank (R20). -/
structure Pid where
  netid : Nat
  rank : Nat
deriving DecidableEq, Repr

/-! ### Register files -/

/-- Byte storage that may have become undefined as a whole: an unlisted byte is zero, or the free value of the instant
`epoch` (R12, R60). -/
structure Bytes where
  epoch : Option Nat
  cells : List Host.Cell
deriving DecidableEq, Repr

/-- A long accumulator (R97): V in units of 2^-2148, and the flags N, PI and NI. -/
structure LongAcc where
  v : BitVec 4260
  n : Bool
  pi : Bool
  ni : Bool
  /-- The model's mark of R412: a restore read a poisoned word of it. -/
  pois : Bool
deriving DecidableEq, Repr

/-- A matrix accumulator bank of the hart (R34, R100): elements by number, their poison marks (R416). -/
structure Bank where
  epoch : Option Nat
  cells : List (Nat × BitVec 128)
  pois : List Nat
deriving DecidableEq, Repr

/-- An active stream binding (R258 to R262): the group it names, the descriptor and where it was read. -/
structure Binding where
  reg : Nat
  grp : Nat
  store : Bool
  base : Word
  stride0 : Word
  stride1 : Word
  stride2 : Word
  count0 : BitVec 32
  count1 : BitVec 32
  count2 : BitVec 32
  width : BitVec 2
  pos : Nat
  descAddr : Word
  /-- The model's step at which it was bound (R139). -/
  since : Nat
deriving DecidableEq, Repr

/-- What the context of a process does not hold of a binding: its register and group, its descriptor's address, and when
it was bound. -/
structure BindName where
  reg : Nat
  grp : Nat
  descAddr : Word
  since : Nat
deriving DecidableEq, Repr

/-! ### Trap state -/

/-- What a record keeps for a replay beside what software reads: the elements from PROG on that are done and that TDONE
does not mark, and the bytes of vector storage that the instruction's own results have replaced, by storage key, each with
its poison mark (R71, R201). -/
structure Kept where
  done : BitVec 256
  shadow : List (Nat × Byte × Bool)
deriving DecidableEq, Repr

/-- One of TPROG0 to TPROG3 with the word and the operands captured for it (R334, R344, R345). -/
structure TProg where
  v : Bool
  f : Bool
  pc : BitVec 21
  vl : BitVec 17
  prog : BitVec 17
  word : IWord
  xa : Word
  xb : Word
  kept : Kept
deriving DecidableEq, Repr

/-- An instruction that ERET re-issues (R345): the recorded entry, and the elements it skips, as a mask above `prog`. -/
structure Replay where
  entry : TProg
  skip : BitVec 256
deriving DecidableEq, Repr

/-- An entry of the debug table as the hart read it (R470). -/
structure DbgEntry where
  kind : Nat
  elem : Bool
  tmsp : Bool
  sample : Bool
  netid : Nat
  addr : Word
  len : Word
  element : Nat
deriving DecidableEq, Repr

/-- Where a global access goes: the global physical address (endpoint × 2^52 + local), the key slot of the page, and
the physical address of the leaf entry that translated it (R385, R389, R397). -/
structure Phys where
  addr : Nat
  slot : Nat
  leaf : Nat
deriving DecidableEq, Repr

/-- The operations of an atomic (R246). -/
inductive AmoOp where
  | add | and | or | xor | min | max | minu | maxu | swap | cas
deriving DecidableEq, Repr

/-- What a global access with a reply does at the kettle and with the value that comes back (R233, R241, R246). -/
inductive ReplyUse where
  /-- A load into x[d], sign-extended or not. -/
  | loadX (d : BitVec 5) (signed : Bool)
  /-- An atomic with its operand and comparand; the old value goes to x[d], sign-extended. -/
  | amoX (op : AmoOp) (d : BitVec 5) (src cmp : Word)
  /-- A load into element i of the group at register d. -/
  | loadV (d grp : Nat)
  /-- A vector atomic: the operand is element i of the group at register d, and the old value replaces it. -/
  | amoV (op : AmoOp) (d grp : Nat)
deriving DecidableEq, Repr

/-- One element access of a global instruction: element index, virtual and physical address. -/
structure ElemAccess where
  elem : Nat
  va : Word
  phys : Phys
deriving DecidableEq, Repr

/-- A strip of a stream: the binding's slot, the binding, the values popped, and its elements with their translations. -/
structure Strip where
  slot : Nat
  binding : Binding
  vals : List Nat
  elems : List ElemAccess
deriving DecidableEq, Repr

/-- The strips that an instruction's sources pop and its destinations append to. -/
structure Strips where
  pops : List Strip
  apps : List Strip
deriving DecidableEq, Repr

/-- The page that an invalidation names: base and size, the table entries that may have been its leaf, and the power of two
bytes around it within which an access that keeps no leaf may have used it (R359). -/
structure PageSpan where
  base : Nat
  size : Nat
  leaves : List Nat
  reach : Nat
deriving DecidableEq, Repr

/-- What a hart waits for, with all that completing the instruction needs. -/
inductive Wait where
  | crd (d : BitVec 5) (p : BitVec 3) (port : BitVec 3)
  | crdm (d : BitVec 5) (p : BitVec 3) (port : BitVec 3) (count : BitVec 5)
  | vcrd (d : BitVec 5) (p : BitVec 3) (port : BitVec 3)
  | cwr (a : BitVec 5) (port : BitVec 3)
  | cwrm (a : BitVec 5) (port : BitVec 3) (count : BitVec 5)
  | vcwr (a : BitVec 5) (port : BitVec 3)
  | cclose (port : BitVec 3)
  /-- An LDSYNC or VLDSYNC keeps the translations that it obtained (R391). -/
  | ldsync (e : Bool) (d : BitVec 5) (ea : Word) (bytes : Nat) (phys : Option Phys)
  | vldsync (e : Bool) (d a : BitVec 5) (p : BitVec 3) (es : List ElemAccess)
  /-- A load or atomic with the strips opened for it, which its elements still to come use (R261). -/
  | reply (word : IWord) (use : ReplyUse) (bytes : Nat) (todo done : List ElemAccess) (xa xb : Word) (strips : Strips)
  /-- A TLBINV, with the page it names, while accesses that used the translation are in flight (R359). -/
  | tlbinv (page : PageSpan)
  | joinl
  | waitt (target : Word)
  | sunb (d : BitVec 5)
  /-- An instruction of u units that pops strips with these elements in another package's memory; once their replies have
  come, the list is empty (R261). -/
  | pops (word : IWord) (xa xb : Word) (es : List ElemAccess) (u : Nat)
  | txEntry (word : IWord)
  | dgrant (d a b : BitVec 5) (group : Nat)
  | barrier (group : Nat)
  | vstm (word : IWord) (xa xb : Word) (group : Nat) (strips : Strips) (es : List ElemAccess)
deriving DecidableEq, Repr

/-- What a hart is doing (R360, R362). -/
inductive HartStatus where
  | idle | running | blocked (w : Wait) | parked
deriving DecidableEq, Repr

/-- What a child left for its parent at its JOINL (R41, R42, R194). -/
structure JoinRecord where
  fflags : BitVec 5
  draws : Word
  steep : BitVec 32
  units : Nat
deriving DecidableEq, Repr

/-! ### The hart -/

/-- A hart: everything R34 gives it alone, with its lanes and its place on the tile. -/
structure Hart where
  id : HartId
  status : HartStatus
  priv : Priv
  pc : Word
  pid : Option Pid
  /-- Lowest lane and number of lanes (R33, R37). -/
  lane0 : Nat
  lanes : Nat
  /-- FORKL: the parent's front end, the outstanding child's, and what an ended child left (R39 to R42). -/
  parent : Option Nat
  child : Option Nat
  joined : Option JoinRecord
  /-- Draws made since this hart's FORKL, its joined children's included (R41). -/
  draws : Word
  x : Vector Word 32
  xPois : BitVec 32
  p : Vector (BitVec 65536) 8
  v : Bytes
  vPois : List Nat
  e : Vector LongAcc 4
  m : Vector Bank 2
  streams : Vector (Option Binding) 4
  -- user CSRs (R62)
  fflags : BitVec 5
  vl : BitVec 17
  vtype : BitVec 16
  srseed : Word
  srcount : Word
  msprec : BitVec 8
  msanchor : BitVec 16
  msm : BitVec 13
  msn : BitVec 13
  msk : BitVec 13
  telem : BitVec 17
  -- system CSRs (R331)
  pchild : Bool
  pfork : Bool
  tscratch : Word
  tpc : Word
  tcause : BitVec 8
  tval : Word
  tdone : BitVec 256
  tprog : Vector (Option TProg) 4
  steepcnt : BitVec 32
  steeplim : BitVec 32
  quantum : BitVec 48
  prioLevel : BitVec 4
  prioCeil : BitVec 4
  ctxptr : Word
  tmap : BitVec 1024
  mppriv : BitVec 1
  mpfork : Bool
  mpchild : Bool
  mtvec : BitVec 21
  mtscratch : Word
  mtpc : Word
  mtcause : BitVec 8
  mtval : Word
  -- counters and engines of the hart
  /-- Units counted since the process was placed on the hart (R194). -/
  qcount : Nat
  /-- The index of the SAFE just executed, when its entry has the channel-wait flag (R48, R192). -/
  chanWait : Option Nat
  /-- Recorded instructions that ERET has re-issued and that have not run yet, and the one running (R345). -/
  replay : List Replay
  current : Option Replay
  dbg : List DbgEntry
  /-- The debug-table entry that does not match at the first element run after ERET (R472). -/
  noMatch : Option Nat
  /-- The element from which on an expiry of the hang watchdog stops the instruction that is under way (R342, R357). -/
  expireAt : Option Nat
  /-- Whether the replies for the strips of the instruction that is to be executed have come (R261). -/
  asked : Bool
  /-- Records written for the trace entry that the hart has read (R473). -/
  traceSeq : BitVec 32
  leave : Bool
  /-- The rotor of the check lane, without the reduction modulo L (R409). -/
  rotor : Nat
  /-- Tile memory as the hart's fetch sees it: as it was when the hart took its process or last executed IINV (R140). -/
  code : Memory
deriving DecidableEq, Repr

/-! ### Programs: safe-point tables, channels, processes, networks -/

/-- A safe-point table entry (R171). -/
structure SafeEntry where
  xlive : BitVec 32
  vlive : BitVec 32
  plive : BitVec 8
  emlive : BitVec 8
  slive : BitVec 8
  portable : Bool
  chanwait : Bool
  stub : Nat
  resume : Nat
  site : Nat
deriving DecidableEq, Repr

/-- A port's binding: the channel's index in its network and whether it is the producer end (R23, R167). -/
structure PortRef where
  chan : Nat
  producer : Bool
deriving DecidableEq, Repr

/-- The capture block of a process (R478). -/
structure Capture where
  cycles : Word
  instr : Word
  steep : Word
  gbytes : Word
  stall : Word
  admission : Word
  start : Word
  switches : BitVec 32
  active : Bool
deriving DecidableEq, Repr

/-- Why a process ended (R458, kind 7); `none` of the reasons is HALT at P. -/
inductive EndReason where
  | halt | haltAtS | endRequest | unsealed | watchdogSave | tileStopped | supervisorFault | monitorFault
  | tmUnreadable | launchConflict
deriving DecidableEq, Repr

/-- Where a placed process is (R373, R377, R380). -/
inductive ProcStatus where
  | staged
  /-- In its tile's run queue, not started yet (false) or with a saved context (true). -/
  | ready (saved : Bool)
  | onHart (h : HartId)
  /-- Switched out at a channel-wait safe point, waiting for this (R48, R192). -/
  | switchedOut (w : Wait)
  | ended (r : EndReason)
deriving DecidableEq, Repr

/-- A process (R20, R167, R370). -/
structure Proc where
  pid : Pid
  vdid : Nat
  status : ProcStatus
  tile : Nat
  kernel : Nat
  /-- The kernel block granted to it: TM base and length, and entry offset (R109, R164, R169). -/
  kbase : Nat
  klen : Nat
  entry : Nat
  safeTab : List SafeEntry
  ports : List (Option PortRef)
  seed : Word
  args : List Word
  level : BitVec 4
  steeplim : BitVec 32
  quantum : BitVec 48
  ctxptr : Word
  ctxphys : Nat
  /-- Save generation and context switches, as the header keeps them (R352). -/
  gen : BitVec 32
  switches : BitVec 32
  /-- Wear charge in units of 2^-20 wear units, and the cycles that the process has held its hart since it was last charged
  (R429). -/
  charge : Nat
  held : Nat
  capture : Capture
  /-- A checkpoint or a migration of the device is due for the process (R194, R350): it is saved at its next SAFE, and
  no hart takes it until the request is over. -/
  stopDue : Bool
  /-- Each binding in the saved context by its slot; the 64 bytes that the context holds of a binding do not name what it
  holds (R75, R259). -/
  binds : List (Nat × BindName)
  /-- Whether it has issued an instruction since its start (R369). -/
  issued : Bool
deriving DecidableEq, Repr

/-- One end of a channel: a process's rank or a host endpoint (R23, R168). -/
inductive ChanEnd where
  | rank (r : Nat)
  | host (ep : Nat)
deriving DecidableEq, Repr

/-- Where a channel's ring lies: in a tile's memory, or in the caddy (R370, R382). -/
inductive Ring where
  | tile (tile base : Nat)
  | caddy (va : Word) (phys : Phys)
  /-- A host consumer's slots wait in the part until the host acknowledges them (R454); those of the launch channel until
  the placement engine takes them (R365), and those of a consumer on another package until the fabric does. -/
  | host (slots : List (List Byte))
deriving DecidableEq, Repr

/-- A channel (R22): indices, closing, the slot that holds the end-of-stream token. -/
structure Chan where
  slotLog : Nat
  k : Nat
  prod : ChanEnd
  cons : ChanEnd
  wr : BitVec 32
  rd : BitVec 32
  closed : Bool
  token : Option (BitVec 32)
  ring : Ring
deriving DecidableEq, Repr

/-- The fields of a reducing barrier's record that must agree (R298). -/
structure Reduction where
  op : Nat
  width : Nat
  rm : Nat
  count : Nat
deriving DecidableEq, Repr

/-- A member's arrival at its group's next barrier (R296, R298). -/
structure Arrival where
  red : Option Reduction
  contribution : List Byte
  dst : Nat
deriving DecidableEq, Repr

/-- A phase calendar as a member holds it (R288). -/
structure Calendar where
  gen : Nat
  seq : Nat
  t0 : Word
  slotNs : BitVec 32
  nphase : Nat
  /-- OFF and GRANT by sender; GRANT and SLOTS by receiver; this member's OFF at each receiver; runs (PHASE, COUNT,
  DEST). -/
  recv : List (Nat × Nat)
  send : List (Nat × Nat)
  offs : List Nat
  runs : List (Nat × Nat × Nat)
deriving DecidableEq, Repr

/-- Where an asynchronous writer takes a byte from when it performs it. -/
inductive Source where
  | lit (b : Byte)
  | tm (key : Nat)
  | gm (p : Phys)
deriving DecidableEq, Repr

/-- One DSEND's bytes on their way (R290): the receiver, the offset at the receiver, where each byte comes from, and the
DSEND's address. -/
structure Flight where
  receiver : Nat
  offset : Nat
  /-- The address of the first byte's source. -/
  va : Word
  sources : List Source
  pc : Nat
deriving DecidableEq, Repr

/-- A member's open exchange (R284 to R292). -/
structure Exchange where
  seq : Nat
  rbase : Word
  rcap : Nat
  /-- The physical address of each 4 KiB page that the receive region touches, translated by DPOST. -/
  rpages : List Phys
  demand : List Nat
  calendar : Option Calendar
  granted : Bool
  closed : Bool
  sent : List Nat
  flights : List Flight
  /-- Bytes that a send run has put on the fabric and that have not landed. -/
  wire : List Flight
  /-- Send runs started, in order. -/
  runsDone : Nat
  /-- Receivers that this member's closing flit has not reached yet. -/
  flits : List Nat
  /-- Closing flits received, their counts' sum, and the pending-byte counter (R292, R297). -/
  closings : Nat
  closeSum : Nat
  pending : BitVec 64
deriving DecidableEq, Repr

/-- What a completed barrier brings: nothing, a reduction's result with its flags, or disagreement (R298). -/
inductive BarResult where
  | plain
  | result (bytes : List Byte) (flags : BitVec 5)
  | disagree
deriving DecidableEq, Repr

/-- A group member: its rank, its exchange, arrival, completed barriers, DPOSTs and last closing count. -/
structure Member where
  rank : Nat
  exch : Option Exchange
  arrival : Option Arrival
  /-- Its barrier is over, and the completion has not reached it yet (R134, R327). -/
  leaving : Option BarResult
  barriers : Nat
  posts : Nat
  barcnt : Word
deriving DecidableEq, Repr

/-- A calendar that an arbiter has computed: the exchange, the generation, T0 and SLOTNS (R449). -/
structure Issue where
  seq : Nat
  gen : Nat
  t0 : Word
  slotNs : BitVec 32
deriving DecidableEq, Repr

/-- A barrier or exchange group (R169, R284) with the endpoints of its phase arbiters (R448). -/
structure Group where
  members : List Member
  primary : Nat
  standby : Nat
  issued : Option Issue
  lastBeat : Word
deriving DecidableEq, Repr

/-- A network on this package (R20, R368). -/
structure Network where
  netid : Nat
  vdid : Nat
  digest : List Byte
  nproc : Nat
  chans : List Chan
  groups : List Group
  /-- The rank-to-coordinate table, one entry per rank (R373). -/
  entries : List Word
  rankLo : Nat
  rankCnt : Nat
  started : Bool
  startAt : Option Word
  caddyVa : Word
  caddyLen : Nat
  caddyUsed : Nat
  argsVa : Word
  statusVa : Word
  /-- Whether the status record of its start is still to be written (R369). -/
  statusDue : Bool
  /-- TIME of the last change of a process's state that the home has seen (R381). -/
  changedAt : Word
  deadlockTold : Bool
deriving DecidableEq, Repr

/-! ### Asynchronous writers -/

/-- A byte that an asynchronous writer puts somewhere: the key, where it comes from, its global virtual address, the
element for a dump (R479), and its place in the writer's byte order (R405). -/
structure PendByte where
  key : Nat
  src : Source
  va : Word
  elem : Nat
  pos : Nat
deriving DecidableEq, Repr

/-- The bytes an asynchronous writer puts into one granule: destination space, key slot and granule number. -/
structure Chunk where
  toTm : Bool
  slot : Nat
  granule : Nat
  bytes : List PendByte
deriving DecidableEq, Repr

/-- A report to the host supervisor or the management MAC (R455, R458). -/
structure Report where
  management : Bool
  vdid : Nat
  kind : Nat
  tag : Nat
  netid : Nat
  body : List Byte
deriving DecidableEq, Repr

/-- The asynchronous writers (R137, R369, R473). -/
inductive Writer where
  | engine | drain | vstm | trace | status | dump
deriving DecidableEq, Repr

/-- A pending asynchronous write: a transfer command, a drain, a multicast, a trace or status record. -/
structure AsyncWrite where
  writer : Writer
  owner : Option HartId
  pid : Option Pid
  pc : Nat
  chunks : List Chunk
  /-- The report that follows the last marking. -/
  done : Option Report
  /-- Every byte performed lies before this place in the byte order; and PROG of a command that R405 has stopped. -/
  reached : Nat
  prog : Option Nat
  /-- The packages at which a multicast has failed so far (R447). -/
  failed : List Nat
  /-- A transfer command as its hart issued it: the instruction word, then x[d], x[a] and x[b] or the descriptor's dwords
  (R405, R479). -/
  cmd : List Word
deriving DecidableEq, Repr

/-! ### Tiles, devices, keys -/

/-- Tile health states (R430). -/
inductive Health where
  | healthy | derated | drained | retired
deriving DecidableEq, Repr

/-- A cached translation (R390): device, page base and size, what the leaf gave, and the bank that holds it. -/
structure TlbEntry where
  vdid : Nat
  base : Nat
  size : Nat
  leafAddr : Nat
  leaf : Word
  bank : Nat
deriving DecidableEq, Repr

/-- A non-leaf entry in a tile's walk cache (R390): device, level, the part of the address above it, and the entry. -/
structure WalkEntry where
  vdid : Nat
  level : Nat
  part : Nat
  entry : Word
deriving DecidableEq, Repr

/-- A tile: its per-tile CSRs (R331), run queue (R377), health (R430), lane failures (R413), and translations (R390). -/
structure Tile where
  lpart : BitVec 2
  vdid : Option Nat
  hwdog : BitVec 32
  tvec : BitVec 21
  handlerBase : Nat
  handlerLen : Nat
  queue : Vector (List Pid) 16
  health : Health
  wear : Nat
  laneA : Option Nat
  laneB : Option Nat
  failures : Nat
  rebuilding : Bool
  quarantined : Bool
  /-- To be RETIRED once no process occupies it, and TIME of a margin alarm (R431). -/
  retiring : Bool
  alarmAt : Option Word
  /-- Spares that have taken this logical number, and whether it has left service (R432). -/
  subst : Nat
  outOfService : Bool
  /-- Lanes that failed parity, with the row position and TIME (R413). -/
  hits : List (Nat × Nat × Word)
  /-- The voltage in mV and the temperature in tenths of a degree of its last sample (R427, R429). -/
  stress : Option (Nat × Nat)
  /-- The place in the ring of a trace entry at which its next record goes (R473). -/
  traceAt : Option (DbgEntry × Nat)
  tlb : List TlbEntry
  walks : List WalkEntry
deriving DecidableEq, Repr

/-- A region of a virtual device (R393). -/
structure Region where
  id : Nat
  endpoint : Nat
  base : Nat
  size : Nat
deriving DecidableEq, Repr

/-- A key of 64 bytes, K1 ‖ K2, that a slot holds, or the monitor's in slot 0 (R397). -/
inductive XtsKey where
  | monitor
  | loaded (k : List Byte)
deriving DecidableEq, Repr

/-- A launch message that waits: one that the engine has accepted and that has no room, with the image and the argument
table that it was accepted with (R369), or one that it has not tested, since a migration holds it (R404). -/
structure Waiting where
  msg : List Byte
  accepted : Bool
  image : List Byte
  args : List (List Word)
deriving DecidableEq, Repr

/-- A virtual device (R393, R394). -/
structure VDev where
  vdid : Nat
  tiles : List Nat
  regions : List Region
  macs : List Nat
  keyMap : List Nat
  ceil : Nat
  rootEp : Nat
  rootAddr : Nat
  homeDie : Nat
  hbase : Nat
  hlen : Nat
  hwdog : BitVec 32
  tvec : BitVec 21
  vdcfg : List Byte
  /-- Launch messages that wait (R369, R404). -/
  waiting : List Waiting
  /-- Ranks of waiting messages that the supervisor has ended (R384). -/
  doomed : List Pid
  /-- Dirty logging on, and the log units marked, by region number and unit (R401). -/
  logging : Bool
  dirty : List (Nat × Nat)
  /-- Forwarding of peer requests after a migration, and those that the source holds from step 5 to step 9 of it
  (R406). -/
  forwarding : Bool
  peers : List Packet
  /-- A destroy request that waits for the device's networks to end, by its TAG (R396). -/
  destroyTag : Option Nat
deriving DecidableEq, Repr

/-- Where a live migration stands (R404): copying while the processes execute, stopping them, copying after the final
swap. -/
inductive MigPhase where
  | rounds | stopping | final
deriving DecidableEq, Repr

/-- A live migration in progress (R403, R404): its request, the round, when the stop began, the log units that are still
to be copied in this round as runs (region, first unit, count), and the bitmap words still to be swapped in the same
form (R402). -/
structure Migration where
  vdid : Nat
  tag : Nat
  destPkg : Nat
  rounds : Nat
  stoplim : Nat
  phase : MigPhase
  round : Nat
  stopAt : Word
  copy : List (Nat × Nat × Nat)
  words : List (Nat × Nat × Nat)
deriving DecidableEq, Repr

/-- A multicast group (R446): number, members' packages, this package's index and accepting device, and whether every
member has accepted it. -/
structure McastGroup where
  vdid : Nat
  group : Nat
  myIdx : Nat
  members : List Nat
  usable : Bool
deriving DecidableEq, Repr

/-- The phases of a checkpoint step (R462). -/
inductive CkptPhase where
  | stopping | quiesced | copied | complete
deriving DecidableEq, Repr

/-- A chunk of a shard (R464): its source (0 tile memory, 1 global memory), tile, first key and length; the bytes and
their writers' keys, the granules FULL and POIS in its range, and KEY. -/
structure ShardChunk where
  kind : Nat
  tile : Nat
  base : Nat
  len : Nat
  cells : Memory
  tags : List (Nat × XtsKey)
  full : List Nat
  pois : List Nat
  key : List Byte
deriving DecidableEq, Repr

/-- A shard in a reserve (R463, R464): the package, the job's networks, processes and stopped transfer records there, its
chunks, the shared store that holds them in mode 1 (R465), and its seal. -/
structure Shard where
  pkg : Nat
  job : Word
  step : Word
  nets : List Network
  procs : List Proc
  transfers : List AsyncWrite
  chunks : List ShardChunk
  store : Option Word
  sealBytes : List Byte
deriving DecidableEq, Repr

/-- What step 7 of R404 hands to the destination of a migration: the TM image of each tile by its number in the device,
the networks with their channels' indices, the processes, the transfer records, and the launch messages that wait. -/
structure Departure where
  vdid : Nat
  destPkg : Nat
  tms : List (Nat × ShardChunk)
  nets : List Network
  procs : List Proc
  transfers : List AsyncWrite
  waiting : List Waiting
deriving DecidableEq, Repr

/-- A shootdown that waits for accesses in flight (R359, R392): its page and the request to answer. -/
structure Shoot where
  page : PageSpan
  req : HostRequest
deriving DecidableEq, Repr

/-- A job's checkpoint in progress (R461). -/
structure Ckpt where
  job : Word
  step : Word
  vdid : Nat
  tag : Nat
  buddy : Nat
  mode : Nat
  nets : List Nat
  regions : List (Word × Word)
  qbound : Nat
  store : Word
  startedAt : Word
  phase : CkptPhase
deriving DecidableEq, Repr

/-! ### Log, lifetime record, clock, host port -/

/-- An event on its way to the log (R421, R423). -/
structure LogEvent where
  time : Word
  die : Nat
  cls : Nat
  source : BitVec 32
  addr : Word
  detail : Word
  netid : Nat
  vdid : Nat
deriving DecidableEq, Repr

/-- A log entry (R422). -/
structure LogEntry where
  seq : Nat
  dieSeq : Nat
  event : LogEvent
  prev : List Byte
  hash : List Byte
deriving DecidableEq, Repr

/-- A seal of the log (R425). -/
structure LogSeal where
  kind : Nat
  seq : Nat
  time : Word
  head : List Byte
  sig : List Byte
deriving DecidableEq, Repr

/-- A tile's line of the lifetime record (R428). -/
structure LifeLine where
  tile : Nat
  wear : Nat
  health : Health
  laneA : Option Nat
  laneB : Option Nat
  quarantined : Bool
deriving DecidableEq, Repr

/-- The states of the clock's discipline (R460). -/
inductive Ptp where
  | free | acquiring | locked | holdover
deriving DecidableEq, Repr

/-- Where power-on stands (R481). -/
inductive Power where
  | off | recovery | ready
deriving DecidableEq, Repr

/-- An operating point of an island with its limits (R433 to R436). -/
structure Island where
  /-- The operating point in force, CAP and TGOV, the points that the power manager has taken off the effective cap, and the
  highest point that the heat allows. -/
  point : Nat
  cap : Nat
  tgov : Nat
  lowered : Nat
  heat : Nat
  episode : Bool
  pulsing : Bool
  coolSince : Option Word
deriving DecidableEq, Repr

/-- A message to the host (R451 to R453); one of class 3 names its network and channel. -/
structure OutMsg where
  seq : Nat
  cls : Nat
  endpoint : Nat
  chan : Option (Nat × Nat)
  payload : List Byte
deriving DecidableEq, Repr

/-- A connection of the host transport (R451, R454): its MAC identity and host address and port (`connMac`), the messages
received and performed, the last number sent, messages unacknowledged, those received that wait, by class, the first of
them a class-2 slot that cannot be written yet, the fragments that have come of the next message (index, last, bytes), and
the highest number that a frame has acknowledged. -/
structure Conn where
  id : Nat
  vdid : Nat
  rxSeq : Nat
  txSeq : Nat
  unacked : List OutMsg
  resends : Nat
  held : List (Nat × HostMsg)
  frags : List (Nat × Bool × List Byte)
  acked : Nat
deriving DecidableEq, Repr

/-- A named failure record (R445). -/
structure FailureRecord where
  kind : Nat
  plane : Nat
  endpoint : Nat
  vdid : Nat
  time : Word
  netid : Nat
  addr : Word
  mask : Word
deriving DecidableEq, Repr

/-- A request packet sent to another package and not known to be acknowledged (R233, R443, R444): when it was sent first, for
which network, its bytes' keys, whether it is a plain store, its source endpoint, its number for that pair of endpoints, and
the plane it was sent on last. -/
structure Outbound where
  sentAt : Word
  netid : Nat
  addr : Nat
  len : Nat
  store : Bool
  src : Nat
  seq : Nat
  plane : Nat
deriving DecidableEq, Repr

/-- A request packet served here (R443): source, destination, number, and the answer once it has been given. -/
structure Served where
  src : Nat
  dst : Nat
  seq : Nat
  answer : Option (List Byte)
deriving DecidableEq, Repr

/-! ### The whole state -/

/-- The package. -/
structure State where
  /-- The hart that the next instruction step concerns, the other harts, and the harts to select at coming steps
  (the model's own interleaving, R35). -/
  hart : Hart
  others : List Hart
  sched : List HartId
  /-- Inputs from outside the modelled package, oldest first, each with the value of `ticks` from which on it is due. -/
  events : List (Nat × Instr)
  /-- The model's step counter, which the free values are applied to. -/
  ticks : Nat
  time : Word
  ptp : Ptp
  ptpGood : Nat
  ptpDomain : Nat
  power : Power
  -- memory
  tm : Memory
  gm : Memory
  tmFull : List Nat
  gmFull : List Nat
  tmPois : List Nat
  gmPois : List Nat
  /-- The key under which each granule of global memory was last written since it was zeroed (R397). -/
  gmKey : List (Nat × XtsKey)
  /-- The step of the last store to each byte of global memory stored to while a stream was bound (R139). -/
  gmStamp : List (Nat × Nat)
  asyncs : List AsyncWrite
  -- programs
  procs : List Proc
  nets : List Network
  -- tiles and devices
  tiles : List (Nat × Tile)
  islands : List (Nat × Island)
  vdevs : List VDev
  keySlots : List (Nat × List Byte)
  okek : Option (List Byte)
  mcasts : List McastGroup
  migrations : List Migration
  departed : List Departure
  shoots : List Shoot
  ckpts : List Ckpt
  shards : List Shard
  /-- The greatest STEP of each job that a checkpoint has been asked for (R461). -/
  lastSteps : List (Word × Word)
  /-- Chunks in shared stores, by the store's address (R465). -/
  stored : List (Word × ShardChunk)
  -- fabric
  pkg : Nat
  nextPkg : Nat
  nextPtpDomain : Nat
  liveEps : List Nat
  linksDown : List (Nat × Nat)
  switchesDown : List (Nat × Nat)
  /-- Request packets served (R443), and packets sent in answer. -/
  served : List Served
  records : List FailureRecord
  /-- Request packets to other packages that are younger than the group timeout, oldest first, and the next number of each
  pair of a source and a destination endpoint (R233, R443, R444). -/
  outbound : List Outbound
  nextSeq : List (Nat × Nat)
  packets : List (Nat × List Byte)
  -- log and lifetime
  logEvents : List LogEvent
  log : List LogEntry
  seals : List LogSeal
  logNext : Nat
  logHead : List Byte
  logUsed : Nat
  logNearFull : Bool
  lastRead : Nat
  lifetime : List LifeLine
  /-- Lines of tiles that a spare has replaced since the record was last written (R428, R432). -/
  retired : List LifeLine
  orderly : Bool
  m0 : List Byte
  m1 : List Byte
  m2 : List Byte
  firmware : List Byte
  /-- Entries of each die so far, by die (R422). -/
  dieNext : List (Nat × Nat)
  -- power
  /-- Islands that the power manager has lowered, oldest first, and since when power has been below 2,850 W (R436). -/
  powerLowered : List Nat
  powerCool : Option Word
  /-- THERMTRIP_N as the part drives it (R435, R481). -/
  thermtripN : Bool
  -- host port
  conns : List Conn
  reports : List Report
  /-- How many of the reports have been put into messages. -/
  reportsSent : Nat
  /-- Messages that wait to be sent, by device, oldest first; 0xFFFF stands for the management MAC. -/
  unsent : List (Nat × OutMsg)
  /-- Frames sent to the host, from their GHT header on, by connection, oldest first. -/
  sent : List (Nat × List Byte)
  framesDropped : Nat
deriving DecidableEq, Repr

/-! ### Power-on (R362, R438, R460, R481) -/

/-- An empty long accumulator (R97). -/
def LongAcc.zero : LongAcc := ⟨0, false, false, false, false⟩

/-- An empty bank (R362). -/
def Bank.zero : Bank := ⟨none, [], []⟩

/-- Byte storage that reads as zero. -/
def Bytes.zero : Bytes := ⟨none, []⟩

/-- A capture block that counts nothing (R478). -/
def Capture.zero : Capture := ⟨0, 0, 0, 0, 0, 0, 0, 0, false⟩

/-- A hart of a tile as power-on leaves it (R362): idle, every trap register zero, the registers cleared (R438). The
privilege and the user CSRs, which power-on does not give, stand at their process-start values. -/
def Hart.powerOn (id : HartId) (lane0 lanes : Nat) : Hart where
  id := id
  status := .idle
  priv := .p
  pc := 0
  pid := none
  lane0 := lane0
  lanes := lanes
  parent := none
  child := none
  joined := none
  draws := 0
  x := Vector.replicate 32 0
  xPois := 0
  p := Vector.replicate 8 0
  v := Bytes.zero
  vPois := []
  e := Vector.replicate 4 LongAcc.zero
  m := Vector.replicate 2 Bank.zero
  streams := Vector.replicate 4 none
  fflags := 0
  vl := 0
  vtype := 0x0043
  srseed := 0
  srcount := 0
  msprec := 0x77
  msanchor := 0
  msm := 0
  msn := 0
  msk := 0
  telem := 0
  pchild := false
  pfork := false
  tscratch := 0
  tpc := 0
  tcause := 0
  tval := 0
  tdone := 0
  tprog := Vector.replicate 4 none
  steepcnt := 0
  steeplim := 0
  quantum := 0
  prioLevel := 0
  prioCeil := 0
  ctxptr := 0
  tmap := 0
  mppriv := 0
  mpfork := false
  mpchild := false
  mtvec := 0
  mtscratch := 0
  mtpc := 0
  mtcause := 0
  mtval := 0
  qcount := 0
  chanWait := none
  replay := []
  current := none
  dbg := []
  noMatch := none
  expireAt := none
  asked := false
  traceSeq := 0
  leave := false
  rotor := 0
  code := []

/-- A tile at power-on (R362): LPART 0, VDID 0 with no device, HWDOG 10,000, TVEC 0, no process. -/
def Tile.powerOn : Tile where
  lpart := 0
  vdid := none
  hwdog := 10000
  tvec := 0
  handlerBase := 0
  handlerLen := 0
  queue := Vector.replicate 16 []
  health := .healthy
  wear := 0
  laneA := none
  laneB := none
  failures := 0
  rebuilding := false
  quarantined := false
  retiring := false
  alarmAt := none
  subst := 0
  outOfService := false
  hits := []
  stress := none
  traceAt := none
  tlb := []
  walks := []

/-- The part at power-on, before PWRGOOD rises: the one hart of tile 0 selected and idle, nothing written, no process
and no device (R362, R438, R481). -/
def State.reset : State where
  hart := Hart.powerOn ⟨0, 0⟩ 0 32
  others := []
  sched := []
  events := []
  ticks := 0
  time := 0
  ptp := .free
  ptpGood := 0
  ptpDomain := 0
  power := .off
  tm := []
  gm := []
  tmFull := []
  gmFull := []
  tmPois := []
  gmPois := []
  gmKey := []
  gmStamp := []
  asyncs := []
  procs := []
  nets := []
  tiles := []
  islands := []
  vdevs := []
  keySlots := []
  okek := none
  mcasts := []
  migrations := []
  departed := []
  shoots := []
  ckpts := []
  shards := []
  lastSteps := []
  stored := []
  pkg := 0
  nextPkg := 0
  nextPtpDomain := 0
  liveEps := [0, 1, 2, 3]
  linksDown := []
  switchesDown := []
  served := []
  records := []
  outbound := []
  nextSeq := []
  packets := []
  logEvents := []
  log := []
  seals := []
  logNext := 0
  logHead := List.replicate 32 0
  logUsed := 0
  logNearFull := false
  lastRead := 0
  lifetime := []
  retired := []
  orderly := true
  m0 := []
  m1 := []
  m2 := []
  firmware := []
  dieNext := []
  powerLowered := []
  powerCool := none
  thermtripN := false
  conns := []
  reports := []
  reportsSent := 0
  unsent := []
  sent := []
  framesDropped := 0

end Sys2Proof.Machine
end

