-- ==== Sys2Proof/Machine/Mem.lean ====
section
/-! DEFINITION. Byte memory as a sorted list in one canonical form, sorted sets of numbers, and the little-endian
reading of several bytes (R8). The keys of tile memory are tile × 2^21 + address, those of global memory are
endpoint × 2^52 + endpoint-local address. A byte that nothing has written reads as zero. -/

namespace Sys2Proof.Machine

/-- What an unlisted byte reads as: boot and CREATE write zeros to all memory (R394, R481). -/
def Memory.blank : Byte := 0

/-- The byte at a key. -/
def Memory.read : Memory → Nat → Byte
  | [], _ => Memory.blank
  | (k, b) :: m, a => if a = k then b else if a < k then Memory.blank else Memory.read m a

/-- The memory with a byte stored at a key; storing what an unlisted byte reads as removes the entry. -/
def Memory.write : Memory → Nat → Byte → Memory
  | [], a, v => if v = Memory.blank then [] else [(a, v)]
  | (k, b) :: m, a, v =>
    if a < k then (if v = Memory.blank then (k, b) :: m else (a, v) :: (k, b) :: m)
    else if a = k then (if v = Memory.blank then m else (a, v) :: m)
    else (k, b) :: Memory.write m a v

/-- The canonical form above a bound: keys strictly rising from it, no entry equal to what an unlisted byte reads as. -/
def Memory.wfFrom : Nat → Memory → Bool
  | _, [] => true
  | lo, (k, b) :: m => decide (lo ≤ k) && decide (b ≠ Memory.blank) && Memory.wfFrom (k + 1) m

/-- The canonical form of a memory. -/
def Memory.wf (m : Memory) : Bool := Memory.wfFrom 0 m

/-- The n bytes from a key on. -/
def Memory.bytes (m : Memory) (a : Nat) : Nat → List Byte
  | 0 => []
  | n + 1 => m.read a :: Memory.bytes m (a + 1) n

/-- A run of bytes stored from a key on, lowest key first. -/
def Memory.store (m : Memory) (a : Nat) : List Byte → Memory
  | [] => m
  | b :: bs => Memory.store (m.write a b) (a + 1) bs

/-- Bytes stored at separate keys, in order. -/
def Memory.storeAll (m : Memory) : List Host.Cell → Memory
  | [] => m
  | (a, b) :: cs => Memory.storeAll (m.write a b) cs

/-- Every byte of a range of keys made blank. -/
def Memory.clear (lo n : Nat) (m : Memory) : Memory := m.filter (fun c => decide (c.1 < lo) || decide (lo + n ≤ c.1))

/-! ### Sorted sets of numbers -/

/-- Membership in a sorted set. -/
def setHas : List Nat → Nat → Bool
  | [], _ => false
  | k :: m, a => if a = k then true else if a < k then false else setHas m a

/-- The set with a number. -/
def setAdd : List Nat → Nat → List Nat
  | [], a => [a]
  | k :: m, a => if a < k then a :: k :: m else if a = k then k :: m else k :: setAdd m a

/-- The set without a number. -/
def setDel : List Nat → Nat → List Nat
  | [], _ => []
  | k :: m, a => if a < k then k :: m else if a = k then m else k :: setDel m a

/-- The set with or without a number. -/
def setPut (l : List Nat) (a : Nat) (b : Bool) : List Nat := if b then setAdd l a else setDel l a

/-- The set without a range. -/
def setClear (lo n : Nat) (l : List Nat) : List Nat := l.filter (fun k => decide (k < lo) || decide (lo + n ≤ k))

/-- The rising order of a set. -/
def setWf : List Nat → Bool
  | [] => true
  | [_] => true
  | a :: b :: l => decide (a < b) && setWf (b :: l)

/-! ### Little-endian values (R8) -/

/-- The unsigned value of bytes, least significant first. -/
def leNat : List Byte → Nat
  | [] => 0
  | b :: bs => b.toNat + 256 * leNat bs

/-- The n bytes of a number, least significant first. -/
def leBytes : Nat → Nat → List Byte
  | 0, _ => []
  | n + 1, v => BitVec.ofNat 8 v :: leBytes n (v / 256)

/-- The word that bytes hold. -/
def leWord (bs : List Byte) : Word := BitVec.ofNat 64 (leNat bs)

/-- The n-byte field at an offset of a byte string; bytes beyond its end read as zero. -/
def field (bs : List Byte) (off n : Nat) : Nat := leNat ((bs.drop off).take n)

/-- The indices 0 to n - 1. -/
def upTo (n : Nat) : List Nat := List.range n

/-- The value of the low n bits read as a two's complement number. -/
def sextNat (n v : Nat) : Int :=
  let w := v % 2 ^ n
  if 2 * w < 2 ^ n then (w : Int) else (w : Int) - 2 ^ n

/-- The low n bits of an integer as a natural number. -/
def wrapNat (n : Nat) (v : Int) : Nat := (v % (2 ^ n : Int)).toNat

end Sys2Proof.Machine
end

