-- ==== Sys2Proof/Machine/Aes.lean ====
section
/-! DEFINITION. AES-256 (FIPS 197) with the two modes that the spec names: XTS over a 64-byte granule (R397, IEEE 1619)
and the unwrapping of keys (R398, RFC 3394). -/

namespace Sys2Proof.Machine

/-! ### The field of 2^8 elements -/

/-- Multiplication by x modulo x^8 + x^4 + x^3 + x + 1. -/
def aesX (a : Byte) : Byte := (a <<< 1) ^^^ (if a.getLsbD 7 then 0x1B else 0)

/-- The product, b's low n bits taken. -/
def aesMul : Nat → Byte → Byte → Byte
  | 0, _, _ => 0
  | n + 1, a, b => (if b.getLsbD 0 then a else 0) ^^^ aesMul n (aesX a) (b >>> 1)

/-- The product of two elements. -/
def aesTimes (a b : Byte) : Byte := aesMul 8 a b

/-- The 254th power, which inverts every element but zero and keeps zero. -/
def aesInv (a : Byte) : Byte :=
  let sq := fun x => aesTimes x x
  let a2 := sq a
  let a3 := aesTimes a2 a
  let a12 := sq (sq a3)
  let a15 := aesTimes a12 a3
  let a240 := sq (sq (sq (sq a15)))
  aesTimes (aesTimes a240 a12) a2

/-- The S-box: the inverse, then the affine map. -/
def aesSub (a : Byte) : Byte :=
  let b := aesInv a
  b ^^^ b.rotateLeft 1 ^^^ b.rotateLeft 2 ^^^ b.rotateLeft 3 ^^^ b.rotateLeft 4 ^^^ 0x63

/-- The inverse S-box. -/
def aesSubInv (a : Byte) : Byte := aesInv (a.rotateLeft 1 ^^^ a.rotateLeft 3 ^^^ a.rotateLeft 6 ^^^ 0x05)

/-! ### The cipher on blocks of 16 bytes, column after column -/

/-- Two byte strings added. -/
def xorBytes (a b : List Byte) : List Byte := List.zipWith (· ^^^ ·) a b

/-- The next word of the key schedule: i its number, the words before it newest first. -/
def aesNextKey (i : Nat) (rcon : Byte) (w : List (List Byte)) : List Byte :=
  let t := w.getD 0 []
  let t := if i % 8 = 0 then
      xorBytes ((t.drop 1 ++ t.take 1).map aesSub) [rcon, 0, 0, 0]
    else if i % 8 = 4 then t.map aesSub else t
  xorBytes (w.getD 7 []) t

/-- The key schedule, n further words. -/
def aesExpand : Nat → Nat → Byte → List (List Byte) → List (List Byte)
  | 0, _, _, w => w
  | n + 1, i, rcon, w => aesExpand n (i + 1) (if i % 8 = 0 then aesX rcon else rcon) (aesNextKey i rcon w :: w)

/-- The words of a byte string. -/
def aesWords (n : Nat) (b : List Byte) : List (List Byte) := (upTo n).map (fun i => (b.drop (4 * i)).take 4)

/-- The 15 round keys of a 32-byte key. -/
def aesRoundKeys (key : List Byte) : List (List Byte) :=
  let w := (aesExpand 52 8 1 (aesWords 8 key).reverse).reverse
  (upTo 15).map (fun r => ((w.drop (4 * r)).take 4).flatten)

/-- Row r of the block turned by r places: to the left where `dir` is 1, to the right where it is 3. -/
def aesShift (dir : Nat) (b : List Byte) : List Byte :=
  (upTo 16).map (fun i => b.getD ((i / 4 + dir * (i % 4)) % 4 * 4 + i % 4) 0)

/-- Every column multiplied by a circulant matrix with first row c. -/
def aesMix (c : List Byte) (b : List Byte) : List Byte :=
  (upTo 16).map (fun i => (upTo 4).foldl (fun (t : Byte) j =>
    t ^^^ aesTimes (c.getD ((j + 4 - i % 4) % 4) 0) (b.getD (i / 4 * 4 + j) 0)) 0)

/-- A block enciphered under a 32-byte key. -/
def aesEnc (key b : List Byte) : List Byte :=
  let ks := aesRoundKeys key
  let b := ((ks.drop 1).take 13).foldl (fun b k => xorBytes (aesMix [2, 3, 1, 1] (aesShift 1 (b.map aesSub))) k)
    (xorBytes b (ks.getD 0 []))
  xorBytes (aesShift 1 (b.map aesSub)) (ks.getD 14 [])

/-- A block deciphered. -/
def aesDec (key b : List Byte) : List Byte :=
  let ks := aesRoundKeys key
  let b := ((ks.drop 1).take 13).reverse.foldl
    (fun b k => aesMix [14, 11, 13, 9] (xorBytes ((aesShift 3 b).map aesSubInv) k)) (xorBytes b (ks.getD 14 []))
  xorBytes ((aesShift 3 b).map aesSubInv) (ks.getD 0 [])

/-! ### XTS (R397) -/

/-- The tweak of the next block: multiplication by x in the field of 2^128 elements, little-endian. -/
def xtsNext (t : List Byte) : List Byte :=
  let v := 2 * leNat t
  leBytes 16 (if 2 ^ 128 ≤ v then (v - 2 ^ 128) ^^^ 0x87 else v)

/-- The blocks of a data unit through a block function, from a tweak on. -/
def xtsBlocks (f : List Byte → List Byte) : Nat → List Byte → List Byte → List Byte
  | 0, _, _ => []
  | n + 1, t, b => xorBytes (f (xorBytes (b.take 16) t)) t ++ xtsBlocks f n (xtsNext t) (b.drop 16)

/-- A granule enciphered under K1 ‖ K2 with a tweak. -/
def xtsEnc (key : List Byte) (tweak : Nat) (b : List Byte) : List Byte :=
  xtsBlocks (aesEnc (key.take 32)) 4 (aesEnc (key.drop 32) (leBytes 16 tweak)) b

/-- A granule deciphered. -/
def xtsDec (key : List Byte) (tweak : Nat) (b : List Byte) : List Byte :=
  xtsBlocks (aesDec (key.take 32)) 4 (aesEnc (key.drop 32) (leBytes 16 tweak)) b

/-! ### Unwrapping of keys (R398) -/

/-- One round of unwrapping: block i + 1 of n with the number j of the pass, from the register and the blocks. -/
def unwrapRound (kek : List Byte) (n j : Nat) (st : List Byte × List (List Byte)) (i : Nat) : List Byte × List (List Byte) :=
  let a := xorBytes st.1 (leBytes 8 (n * j + i + 1)).reverse
  let b := aesDec kek (a ++ st.2.getD i [])
  (b.take 8, st.2.set i (b.drop 8))

/-- The key bytes that n + 1 blocks of 8 bytes wrap under a key, or nothing where the check fails. -/
def keyUnwrap (kek w : List Byte) : Option (List Byte) :=
  let n := w.length / 8 - 1
  let st := (upTo 6).reverse.foldl (fun st j => (upTo n).reverse.foldl (unwrapRound kek n j) st)
    (w.take 8, (upTo n).map (fun i => (w.drop (8 * (i + 1))).take 8))
  if w.length % 8 = 0 ∧ 24 ≤ w.length ∧ st.1 = List.replicate 8 0xA6 then some st.2.flatten else none

end Sys2Proof.Machine
end

