-- ==== Sys2Proof/Machine/Sha.lean ====
section
/-! DEFINITION. SHA-256 (FIPS 180-4), which image digests, context seals, the log's chain and the measurements use
(R166, R352, R399, R422). -/

namespace Sys2Proof.Machine

/-- The 64 round constants. -/
def shaK : List (BitVec 32) :=
  [0x428A2F98, 0x71374491, 0xB5C0FBCF, 0xE9B5DBA5, 0x3956C25B, 0x59F111F1, 0x923F82A4, 0xAB1C5ED5,
   0xD807AA98, 0x12835B01, 0x243185BE, 0x550C7DC3, 0x72BE5D74, 0x80DEB1FE, 0x9BDC06A7, 0xC19BF174] ++
  [0xE49B69C1, 0xEFBE4786, 0x0FC19DC6, 0x240CA1CC, 0x2DE92C6F, 0x4A7484AA, 0x5CB0A9DC, 0x76F988DA,
   0x983E5152, 0xA831C66D, 0xB00327C8, 0xBF597FC7, 0xC6E00BF3, 0xD5A79147, 0x06CA6351, 0x14292967] ++
  [0x27B70A85, 0x2E1B2138, 0x4D2C6DFC, 0x53380D13, 0x650A7354, 0x766A0ABB, 0x81C2C92E, 0x92722C85,
   0xA2BFE8A1, 0xA81A664B, 0xC24B8B70, 0xC76C51A3, 0xD192E819, 0xD6990624, 0xF40E3585, 0x106AA070] ++
  [0x19A4C116, 0x1E376C08, 0x2748774C, 0x34B0BCB5, 0x391C0CB3, 0x4ED8AA4A, 0x5B9CCA4F, 0x682E6FF3,
   0x748F82EE, 0x78A5636F, 0x84C87814, 0x8CC70208, 0x90BEFFFA, 0xA4506CEB, 0xBEF9A3F7, 0xC67178F2]

/-- The initial hash value. -/
def shaH0 : List (BitVec 32) :=
  [0x6A09E667, 0xBB67AE85, 0x3C6EF372, 0xA54FF53A, 0x510E527F, 0x9B05688C, 0x1F83D9AB, 0x5BE0CD19]

/-- A big-endian word of four bytes. -/
def beWord : List Byte → BitVec 32
  | [a, b, c, d] => a ++ b ++ c ++ d
  | _ => 0

/-- The next word of the message schedule from the sixteen before it, newest first. -/
def shaNext (w : List (BitVec 32)) : BitVec 32 :=
  let w2 := w.getD 1 0
  let w7 := w.getD 6 0
  let w15 := w.getD 14 0
  let w16 := w.getD 15 0
  let s1 := w2.rotateRight 17 ^^^ w2.rotateRight 19 ^^^ (w2 >>> 10)
  let s0 := w15.rotateRight 7 ^^^ w15.rotateRight 18 ^^^ (w15 >>> 3)
  s1 + w7 + s0 + w16

/-- The message schedule, extended n times; newest word first. -/
def shaExtend : Nat → List (BitVec 32) → List (BitVec 32)
  | 0, w => w
  | n + 1, w => shaExtend n (shaNext w :: w)

/-- One round over the eight working variables. -/
def shaRound (h : List (BitVec 32)) (k w : BitVec 32) : List (BitVec 32) :=
  match h with
  | [a, b, c, d, e, f, g, i] =>
    let s1 := e.rotateRight 6 ^^^ e.rotateRight 11 ^^^ e.rotateRight 25
    let ch := (e &&& f) ^^^ (~~~e &&& g)
    let t1 := i + s1 + ch + k + w
    let s0 := a.rotateRight 2 ^^^ a.rotateRight 13 ^^^ a.rotateRight 22
    let mj := (a &&& b) ^^^ (a &&& c) ^^^ (b &&& c)
    [t1 + (s0 + mj), a, b, c, d + t1, e, f, g]
  | l => l

/-- The rounds of one block. -/
def shaRounds : List (BitVec 32) → List (BitVec 32) → List (BitVec 32) → List (BitVec 32)
  | k :: ks, w :: ws, h => shaRounds ks ws (shaRound h k w)
  | _, _, h => h

/-- The sixteen words of a block, first word first. -/
def shaWords : Nat → List Byte → List (BitVec 32)
  | 0, _ => []
  | n + 1, bs => beWord (bs.take 4) :: shaWords n (bs.drop 4)

/-- The hash after n further blocks of a padded message. -/
def shaBlocks : Nat → List Byte → List (BitVec 32) → List (BitVec 32)
  | 0, _, h => h
  | n + 1, bs, h =>
    let w := (shaExtend 48 (shaWords 16 bs).reverse).reverse
    let h' := shaRounds shaK w h
    shaBlocks n (bs.drop 64) (List.zipWith (· + ·) h h')

/-- The message followed by its padding. -/
def shaPad (msg : List Byte) : List Byte :=
  let n := msg.length
  let zeros := (119 - n % 64) % 64
  msg ++ [0x80] ++ List.replicate zeros 0 ++ (leBytes 8 (8 * n)).reverse

/-- The SHA-256 digest, 32 bytes. -/
def sha256 (msg : List Byte) : List Byte :=
  let p := shaPad msg
  (shaBlocks (p.length / 64) p shaH0).flatMap (fun w => (leBytes 4 w.toNat).reverse)

end Sys2Proof.Machine
end

