-- ==== Sys2Proof/Machine/Access.lean ====
section
/-! DEFINITION. Reading and writing the pieces of State: registers of the selected hart, tile memory and global memory
with their granule bits and poison marks, and the lists of harts, tiles, processes, networks and devices; reports to
the host and events for the log. -/

namespace Sys2Proof.Machine

/-- Bytes filled up with zeros to a length. -/
def padTo (n : Nat) (bs : List Byte) : List Byte := bs ++ List.replicate (n - bs.length) 0

/-! ### Scalar registers (R14, R52, R54) -/

/-- The state with the selected hart changed. -/
def State.mapHart (s : State) (f : Hart → Hart) : State := { s with hart := f s.hart }

/-- x[r]; x0 reads as zero. -/
def State.x (s : State) (r : BitVec 5) : Word := if r = 0 then 0 else s.hart.x[r.toNat]'(r.isLt)

/-- The state with x[r] written; a write to x0 is discarded. A write clears the register's poison mark (R412). -/
def State.setX (s : State) (r : BitVec 5) (v : Word) : State :=
  if r = 0 then s
  else { s with hart := { s.hart with
    x := s.hart.x.set r.toNat v r.isLt
    xPois := s.hart.xPois &&& ~~~((1 : BitVec 32) <<< r.toNat) } }

/-- Whether x[r] is marked poisoned (R412); x0 never is. -/
def State.xPoisoned (s : State) (r : BitVec 5) : Bool := decide (r ≠ 0) && s.hart.xPois.getLsbD r.toNat

/-- The state with the program counter of the selected hart set; what follows follows no SAFE (R48). -/
def State.setPc (s : State) (pc : Word) : State := { s with hart := { s.hart with pc := pc, chanWait := none } }

/-- The state after the selected hart's instruction has completed: at the next instruction. One that ERET re-issues
leaves the program counter, since fetch resumes at TPC (R345). -/
def State.advance (s : State) : State :=
  match s.hart.current with
  | none => s.setPc (s.hart.pc + 4)
  | some _ => { s with hart := { s.hart with current := none, chanWait := none } }

/-! ### VTYPE (R58, R59) -/

/-- Element width in bits of a VTYPE value. -/
def vtSew (t : BitVec 16) : Nat := 8 <<< (t.extractLsb' 0 3).toNat
/-- Group multiplier. -/
def vtG (t : BitVec 16) : Nat := 1 <<< (t.extractLsb' 3 2).toNat
/-- Register count. -/
def vtRc (t : BitVec 16) : Nat := 8 <<< (t.extractLsb' 5 2).toNat
/-- Format selector at SEW 8 and 16. -/
def vtFmt (t : BitVec 16) : Nat := (t.extractLsb' 7 2).toNat
/-- Rounding mode. -/
def vtRm (t : BitVec 16) : Nat := (t.extractLsb' 9 3).toNat
/-- Stochastic rounding. -/
def vtSr (t : BitVec 16) : Bool := t.getLsbD 12
/-- Scope of releases and acquires. -/
def vtScope (t : BitVec 16) : Nat := (t.extractLsb' 13 3).toNat

/-- Whether a value may be written to VTYPE (R59). -/
def vtLegal (v : Word) : Bool :=
  let t := v.extractLsb' 0 16
  decide (v.extractLsb' 16 48 = 0) && decide ((t.extractLsb' 0 3).toNat ≤ 3) && decide ((t.extractLsb' 5 2).toNat ≤ 2) &&
  decide (vtFmt t ≤ 1) && decide (vtRm t ≤ 4) && decide (vtScope t ≤ 4) &&
  (decide (vtFmt t = 0) || decide ((t.extractLsb' 0 3).toNat ≤ 1))

/-- VLEN of L lanes at a register count (R37). -/
def vlenOf (lanes rc : Nat) : Nat := 16384 * lanes / rc

/-- VLMAX of L lanes at a VTYPE value (R38). -/
def vlmaxOf (lanes : Nat) (t : BitVec 16) : Nat := vtG t * vlenOf lanes (vtRc t) / vtSew t

/-- SEW of the selected hart. -/
def State.sew (s : State) : Nat := vtSew s.hart.vtype
/-- VL of the instruction that the selected hart executes: the recorded one while ERET replays (R345). -/
def State.vlen (s : State) : Nat :=
  match s.hart.current with
  | none => s.hart.vl.toNat
  | some r => r.entry.vl.toNat
/-- VLMAX of the selected hart. -/
def State.vlmax (s : State) : Nat := vlmaxOf s.hart.lanes s.hart.vtype

/-! ### Vector registers (R55, R201, R411) -/

/-- A cell list with one byte listed. -/
def cellPut : List Host.Cell → Nat → Byte → List Host.Cell
  | [], a, v => [(a, v)]
  | (k, b) :: m, a, v =>
    if a < k then (a, v) :: (k, b) :: m else if a = k then (a, v) :: m else (k, b) :: cellPut m a v

/-- The listed byte at a key. -/
def cellGet : List Host.Cell → Nat → Option Byte
  | [], _ => none
  | (k, b) :: m, a => if a = k then some b else if a < k then none else cellGet m a

/-- A byte of vector storage. -/
def Bytes.get (b : Bytes) (k : Nat) : Byte :=
  match b.epoch with
  | none => Memory.read b.cells k
  | some t => (cellGet b.cells k).getD (Config.undefByte t k)

/-- Vector storage with a byte written. -/
def Bytes.put (b : Bytes) (k : Nat) (v : Byte) : Bytes :=
  match b.epoch with
  | none => { b with cells := Memory.write b.cells k v }
  | some _ => { b with cells := cellPut b.cells k v }

/-- The storage key of the first byte of element i, w bits wide, of the group that begins at register r (R55). -/
def Hart.elemKey (h : Hart) (w r i : Nat) : Nat :=
  let rc := vtRc h.vtype
  let per := vlenOf h.lanes rc / w
  let reg := r + i / per
  let e := i % per
  let row := reg * (256 / rc) + e * w / (64 * h.lanes)
  (row * 32 + (h.lane0 + e % h.lanes)) * 8 + (e / h.lanes % (64 / w)) * w / 8

/-- The register that element i of a group begins in. -/
def Hart.elemReg (h : Hart) (w r i : Nat) : Nat := r + i / (vlenOf h.lanes (vtRc h.vtype) / w)

/-- Element i, w bits wide, of the group at register r, as an unsigned number. -/
def Hart.elem (h : Hart) (w r i : Nat) : Nat :=
  let k := h.elemKey w r i
  leNat ((upTo (w / 8)).map (fun j => h.v.get (k + j)))

/-- Whether some bit of an element is marked poisoned. -/
def Hart.elemPois (h : Hart) (w r i : Nat) : Bool :=
  let k := h.elemKey w r i
  (upTo (w / 8)).any (fun j => setHas h.vPois (k + j))

/-- The hart with the low w bits of a number written to an element, which ends its poison. -/
def Hart.setElem (h : Hart) (w r i v : Nat) : Hart :=
  let k := h.elemKey w r i
  { h with
    v := (upTo (w / 8)).foldl (fun b j => b.put (k + j) (BitVec.ofNat 8 (v / 256 ^ j))) h.v
    vPois := (upTo (w / 8)).foldl (fun l j => setDel l (k + j)) h.vPois }

/-- The hart with an element marked poisoned. -/
def Hart.poisonElem (h : Hart) (w r i : Nat) : Hart :=
  let k := h.elemKey w r i
  { h with vPois := (upTo (w / 8)).foldl (fun l j => setAdd l (k + j)) h.vPois }

/-- Every vector register of the hart undefined (R12, R39, R42, R60, R76). -/
def Hart.undefV (h : Hart) (t : Nat) : Hart := { h with v := ⟨some t, []⟩, vPois := [] }

/-! ### Predicates (R14, R52) -/

/-- Bit i of predicate register n; p0 is all ones. -/
def Hart.pbit (h : Hart) (n : BitVec 3) (i : Nat) : Bool := decide (n = 0) || (h.p[n.toNat]'(n.isLt)).getLsbD i

/-- The value of a predicate register. -/
def Hart.pval (h : Hart) (n : BitVec 3) : BitVec 65536 := if n = 0 then BitVec.allOnes 65536 else h.p[n.toNat]'(n.isLt)

/-- The hart with a predicate register written; p0 ignores writes. -/
def Hart.setP (h : Hart) (n : BitVec 3) (v : BitVec 65536) : Hart :=
  if n = 0 then h else { h with p := h.p.set n.toNat v n.isLt }

/-- A predicate value with bit i set or clear. -/
def pput (v : BitVec 65536) (i : Nat) (b : Bool) : BitVec 65536 :=
  if b then v ||| ((1 : BitVec 65536) <<< i) else v &&& ~~~((1 : BitVec 65536) <<< i)

/-! ### Accumulator banks (R34, R416) -/

/-- The element of a bank. -/
def Bank.get (b : Bank) (i : Nat) : BitVec 128 :=
  match b.cells.find? (fun c => c.1 == i) with
  | some c => c.2
  | none => match b.epoch with
    | none => 0
    | some t => Config.undefBank t i

/-- A numbered list with one entry written, numbers rising. -/
def numPut {α : Type} : List (Nat × α) → Nat → α → List (Nat × α)
  | [], i, v => [(i, v)]
  | (k, b) :: m, i, v =>
    if i < k then (i, v) :: (k, b) :: m else if i = k then (i, v) :: m else (k, b) :: numPut m i v

/-- The entry of a numbered list. -/
def numGet {α : Type} (l : List (Nat × α)) (i : Nat) : Option α := (l.find? (fun c => c.1 == i)).map (·.2)

/-- A numbered list without an entry. -/
def numDel {α : Type} (l : List (Nat × α)) (i : Nat) : List (Nat × α) := l.filter (fun c => c.1 != i)

/-- The bank with an element written, which ends its poison. -/
def Bank.put (b : Bank) (i : Nat) (v : BitVec 128) : Bank :=
  let cells := if b.epoch = none ∧ v = 0 then numDel b.cells i else numPut b.cells i v
  { b with cells := cells, pois := setDel b.pois i }

/-- Bank k of the hart. -/
def Hart.bank (h : Hart) (k : BitVec 1) : Bank := h.m[k.toNat]'(k.isLt)
/-- The hart with bank k changed. -/
def Hart.setBank (h : Hart) (k : BitVec 1) (b : Bank) : Hart := { h with m := h.m.set k.toNat b k.isLt }

/-- Long accumulator n of the hart. -/
def Hart.acc (h : Hart) (n : BitVec 2) : LongAcc := h.e[n.toNat]'(n.isLt)
/-- The hart with a long accumulator written. -/
def Hart.setAcc (h : Hart) (n : BitVec 2) (a : LongAcc) : Hart := { h with e := h.e.set n.toNat a n.isLt }

/-! ### Lists of State -/

/-- The tile of a package tile number; a tile with nothing recorded is as power-on leaves it. -/
def State.tile (s : State) (t : Nat) : Tile := (numGet s.tiles t).getD Tile.powerOn
/-- The state with a tile written. -/
def State.setTile (s : State) (t : Nat) (v : Tile) : State := { s with tiles := numPut s.tiles t v }
/-- The tile of the selected hart. -/
def State.myTile (s : State) : Tile := s.tile s.hart.id.tile

/-- Every hart, the selected one first. -/
def State.harts (s : State) : List Hart := s.hart :: s.others
/-- The state with every hart changed. -/
def State.mapHarts (s : State) (f : Hart → Hart) : State := { s with hart := f s.hart, others := s.others.map f }

/-- A process. -/
def State.proc? (s : State) (p : Pid) : Option Proc := s.procs.find? (fun q => decide (q.pid = p))
/-- The state with a process changed. -/
def State.mapProc (s : State) (p : Pid) (f : Proc → Proc) : State :=
  { s with procs := s.procs.map (fun q => if q.pid = p then f q else q) }
/-- The process of the selected hart. -/
def State.myProc? (s : State) : Option Proc := s.hart.pid.bind s.proc?

/-- A network. -/
def State.net? (s : State) (n : Nat) : Option Network := s.nets.find? (fun q => q.netid == n)
/-- The state with a network changed. -/
def State.mapNet (s : State) (n : Nat) (f : Network → Network) : State :=
  { s with nets := s.nets.map (fun q => if q.netid = n then f q else q) }

/-- A list with its entry at a place changed. -/
def modifyAt {α : Type} (l : List α) (i : Nat) (f : α → α) : List α := l.modify i f

/-- The state with a channel of a network changed. -/
def State.mapChan (s : State) (n c : Nat) (f : Chan → Chan) : State :=
  s.mapNet n (fun q => { q with chans := q.chans.modify c f })
/-- A channel. -/
def State.chan? (s : State) (n c : Nat) : Option Chan := (s.net? n).bind (fun q => q.chans[c]?)

/-- A virtual device. -/
def State.vdev? (s : State) (v : Nat) : Option VDev := s.vdevs.find? (fun d => d.vdid == v)
/-- The state with a virtual device changed. -/
def State.mapVdev (s : State) (v : Nat) (f : VDev → VDev) : State :=
  { s with vdevs := s.vdevs.map (fun d => if d.vdid = v then f d else d) }

/-! ### Tile memory (R109, R118, R416) -/

/-- Whether an effective address names tile memory (R232). -/
def inTm (ea : Word) : Bool := decide (ea.toNat < Config.tmBytes)

/-- The key of a TM address of a tile. -/
def tmKey (t a : Nat) : Nat := t * Config.tmBytes + a
/-- The tile of the selected hart. -/
def State.tileNo (s : State) : Nat := s.hart.id.tile

/-- n bytes of the selected hart's TM. -/
def State.tmBytes (s : State) (a n : Nat) : List Byte := s.tm.bytes (tmKey s.tileNo a) n
/-- TM[a, n] (R15). -/
def State.tmLoad (s : State) (a n : Nat) : Nat := leNat (s.tmBytes a n)

/-- Bytes stored to keys of tile memory. A store that supplies all 8 bytes of a protection word ends its poison; the
granule bits keep their state (R119, R180). -/
def State.tmStoreKey (s : State) (k : Nat) (bs : List Byte) : State :=
  let first := (k + 7) / 8
  { s with
    tm := s.tm.store k bs
    tmPois := if bs.length < 8 then s.tmPois else setClear first ((k + bs.length) / 8 - first) s.tmPois }

/-- Bytes stored to the selected hart's TM. -/
def State.tmStore (s : State) (a : Nat) (bs : List Byte) : State := s.tmStoreKey (tmKey s.tileNo a) bs

/-- Whether a protection word that n bytes of TM at a key touch is poisoned. -/
def State.tmPoisKey (s : State) (k n : Nat) : Bool :=
  (upTo ((k + n + 7) / 8 - k / 8)).any (fun j => setHas s.tmPois (k / 8 + j))
/-- The same by address in the selected hart's TM. -/
def State.tmPoisoned (s : State) (a n : Nat) : Bool := s.tmPoisKey (tmKey s.tileNo a) n

/-- Whether the process of a hart may touch a TM byte: its kernel block at P (R109), all but the monitor's regions at
S (R330), everything at M. -/
def State.tmGranted (s : State) (a : Nat) : Bool :=
  decide (a < Config.tmBytes) &&
  match s.hart.priv with
  | .p => match s.myProc? with
    | some q => decide (q.kbase ≤ a) && decide (a < q.kbase + q.klen)
    | none => false
  | .s => !Config.monitorByte s.tileNo a
  | .m => true

/-- Whether n bytes of TM may be touched. -/
def State.tmOk (s : State) (a n : Nat) : Bool :=
  match s.hart.priv with
  | .p => match s.myProc? with
    | some q => decide (q.kbase ≤ a) && decide (a + n ≤ q.kbase + q.klen) && decide (a + n ≤ Config.tmBytes)
    | none => false
  | _ => (upTo n).all (fun j => s.tmGranted (a + j))

/-- The lowest of n TM bytes that may not be touched. -/
def State.tmFirstBad (s : State) (a n : Nat) : Option Nat :=
  if s.tmOk a n then none
  else if s.tmGranted a then
    match s.hart.priv, s.myProc? with
    | .p, some q => some (Nat.min (q.kbase + q.klen) Config.tmBytes)
    | _, _ => (upTo n).findSome? (fun j => if s.tmGranted (a + j) then none else some (a + j))
  else some a

/-! ### Global memory (R15, R119, R397, R401, R419) -/

/-- The granule number of a key. -/
def granule (k : Nat) : Nat := k / 64

/-- The granules that n bytes at a key touch. -/
def granulesOf (k n : Nat) : List Nat := (upTo ((k + n + 63) / 64 - k / 64)).map (k / 64 + ·)

/-- The bytes K1 ‖ K2 of a key; those of slot 0 are the monitor's own. -/
def XtsKey.bytes : XtsKey → List Byte
  | .monitor => Config.monitorKey
  | .loaded k => k

/-- The key in a slot (R397); an erased slot is zero (R398). -/
def State.slotKey (s : State) (slot : Nat) : XtsKey :=
  if slot = 0 then .monitor else .loaded ((numGet s.keySlots slot).getD (List.replicate 64 0))

/-- Whether a region holds a key of global memory. -/
def Region.holds (r : Region) (k : Nat) : Bool :=
  decide (r.endpoint * Config.localBytes + r.base ≤ k) && decide (k < r.endpoint * Config.localBytes + r.base + r.size)

/-- The device and the region that hold a key of global memory; a device that has migrated away holds none here (step 10 of
R404). -/
def State.regionAt (s : State) (k : Nat) : Option (VDev × Region) :=
  (s.vdevs.filter (fun d => !d.forwarding)).findSome? (fun d => (d.regions.find? (·.holds k)).map (fun r => (d, r)))

/-- The number of the device whose memory a key lies in, for the log (R422). -/
def State.vdidAt (s : State) (k : Nat) : Nat :=
  match s.regionAt k with
  | some x => x.1.vdid
  | none => 0xFFFF

/-- The XTS tweak of a granule (R397); the regions of memory outside the package's devices are not the model's. -/
def State.tweak (s : State) (g : Nat) : Nat :=
  match s.regionAt (64 * g) with
  | some (_, r) => r.id * 2 ^ 64 + (64 * g - (r.endpoint * Config.localBytes + r.base)) / 64
  | none => Config.foreignTweak g

/-- A granule that was written under one key as a reader under another gets it: what the first key enciphers, the second
deciphers (R397). -/
def State.under (s : State) (w key : XtsKey) (g : Nat) : List Byte :=
  padTo 64 (xtsDec key.bytes (s.tweak g) (xtsEnc w.bytes (s.tweak g) (s.gm.bytes (64 * g) 64)))

/-- A byte of global memory as a reader under a key gets it. The model keeps each granule as the text its writer gave
with the writer's key; one that nothing has written since it was zeroed reads as zero (R394). -/
def State.gmByte (s : State) (key : XtsKey) (k : Nat) : Byte :=
  match numGet s.gmKey (granule k) with
  | none => s.gm.read k
  | some w => if w = key then s.gm.read k else (s.under w key (granule k)).getD (k % 64) 0

/-- n bytes of global memory from a physical address on. -/
def State.gmBytes (s : State) (p : Phys) (n : Nat) : List Byte :=
  let key := s.slotKey p.slot
  (upTo n).map (fun j => s.gmByte key (p.addr + j))

/-- Whether a granule that n bytes touch is poisoned. -/
def State.gmPoisoned (s : State) (p : Phys) (n : Nat) : Bool :=
  (upTo ((p.addr + n + 63) / 64 - p.addr / 64)).any (fun j => setHas s.gmPois (p.addr / 64 + j))

/-- A device whose memory is logged with the log unit of a written key marked (R401). -/
def VDev.logWrite (d : VDev) (k : Nat) : VDev :=
  if d.logging then
    match d.regions.find? (·.holds k) with
    | some r =>
      let u := (r.id, (k - (r.endpoint * Config.localBytes + r.base)) / 4096)
      if d.dirty.contains u then d else { d with dirty := u :: d.dirty }
    | none => d
  else d

/-- One key in every log unit that n bytes at a key touch. -/
def unitKeys (k n : Nat) : List Nat :=
  if n = 0 then [] else k :: (upTo ((k + n - 1) / 4096 - k / 4096)).map (fun j => (k / 4096 + j + 1) * 4096)

/-- The state after the kettles log a write of n bytes at a key. -/
def State.logDirty (s : State) (k n : Nat) : State :=
  if s.vdevs.any (·.logging) then
    { s with vdevs := s.vdevs.map (fun d => (unitKeys k n).foldl VDev.logWrite d) }
  else s

/-- A granule as it stands after the kettle has read it under a key and written it back: its other bytes are what that
key deciphers (R397). -/
def State.rekey (s : State) (key : XtsKey) (g : Nat) : State :=
  match numGet s.gmKey g with
  | none => { s with gmKey := numPut s.gmKey g key }
  | some w =>
    if w = key then s
    else { s with gm := s.gm.store (64 * g) (s.under w key g), gmKey := numPut s.gmKey g key }

/-- Whether some hart, or some process off its hart, has a stream bound. -/
def State.streaming (s : State) : Bool :=
  s.harts.any (fun h => h.streams.toList.any (·.isSome)) || s.procs.any (fun q => !q.binds.isEmpty)

/-- Bytes stored to global memory by one request. The writes of one packet that supply all 64 bytes of a granule end
its poison; its full/empty bit is unchanged (R419). While a stream is bound, the step of the store is kept for each byte
(R139). -/
def State.gmStore (s : State) (p : Phys) (bs : List Byte) : State :=
  let first := (p.addr + 63) / 64
  let s := (granulesOf p.addr bs.length).foldl (fun (s : State) g => s.rekey (s.slotKey p.slot) g) s
  let s := { s with
    gm := s.gm.store p.addr bs
    gmStamp := if s.streaming then (upTo bs.length).foldl (fun l j => numPut l (p.addr + j) s.ticks) s.gmStamp else s.gmStamp
    gmPois := if bs.length < 64 then s.gmPois else setClear first ((p.addr + bs.length) / 64 - first) s.gmPois }
  s.logDirty p.addr bs.length

/-- The full/empty bit of a granule of tile memory, by its key's granule, written (R119). -/
def State.setTmFull (s : State) (g : Nat) (b : Bool) : State := { s with tmFull := setPut s.tmFull g b }

/-- The full/empty bit of a granule of global memory written; dirty logging counts it as a write (R119, R401). -/
def State.setGmFull (s : State) (g : Nat) (b : Bool) : State :=
  { s with gmFull := setPut s.gmFull g b }.logDirty (64 * g) 64

/-! ### Reports and events -/

/-- The state with a report to a device's host supervisor (R458). -/
def State.report (s : State) (vdid kind tag netid : Nat) (body : List Byte) : State :=
  { s with reports := s.reports ++ [⟨false, vdid, kind, tag, netid, body⟩] }

/-- The state with a report on the management MAC that concerns a network. -/
def State.reportMgmtNet (s : State) (kind tag netid : Nat) (body : List Byte) : State :=
  { s with reports := s.reports ++ [⟨true, 0xFFFF, kind, tag, netid, body⟩] }

/-- The state with a report on the management MAC that concerns no network. -/
def State.reportMgmt (s : State) (kind tag : Nat) (body : List Byte) : State := s.reportMgmtNet kind tag 0 body

/-- The 64 bytes of a named failure record (R445). -/
def FailureRecord.bytes (r : FailureRecord) : List Byte :=
  leBytes 2 r.kind ++ leBytes 1 r.plane ++ leBytes 1 0 ++ leBytes 2 r.endpoint ++ leBytes 2 r.vdid ++ leBytes 8 r.time.toNat ++
  leBytes 4 r.netid ++ leBytes 4 0 ++ leBytes 8 r.addr.toNat ++ leBytes 8 r.mask.toNat ++ List.replicate 24 0

/-- A named failure record, to the supervisor of the affected device and to the management MAC (R445, R458). -/
def State.fail (s : State) (r : FailureRecord) : State :=
  let s := { s with records := s.records ++ [r] }
  let s := if r.vdid = 0xFFFF then s else s.report r.vdid 6 0 r.netid r.bytes
  s.reportMgmtNet 6 0 r.netid r.bytes

/-- The state with an event handed to the event arbiters (R421). -/
def State.event (s : State) (die cls source addr detail netid vdid : Nat) : State :=
  { s with logEvents := s.logEvents ++ [⟨s.time, die, cls, BitVec.ofNat 32 source, BitVec.ofNat 64 addr,
    BitVec.ofNat 64 detail, netid, vdid⟩] }

/-- The kettle of the package that serves an endpoint-local address (R115). -/
def kettleOf (a : Nat) : Nat :=
  let f := fun (lo : Nat) => a / 2 ^ lo % 64
  f 9 ^^^ f 15 ^^^ f 21 ^^^ f 27 ^^^ f 33 ^^^ f 39 ^^^ f 45 ^^^ (a / 2 ^ 51 % 2)

/-- The state with an event of the kettle that serves a key of global memory, which affects a network or none (0);
kettles 16 d to 16 d + 15 are on die d. -/
def State.kettleEvent (s : State) (cls key detail netid : Nat) : State :=
  let a := key % Config.localBytes
  s.event (kettleOf a / 16) cls (kettleOf a) a detail netid (s.vdidAt key)

/-- The network of the selected hart's process, or 0. -/
def State.myNet (s : State) : Nat := (s.hart.pid.map (·.netid)).getD 0

/-- The event of a store of a network that leaves a poisoned granule of this package poisoned (R237). -/
def State.partialStoreEvent (s : State) (g netid : Nat) : State :=
  if 64 * g / Config.localBytes / 4 = s.pkg then s.kettleEvent 2 (64 * g) (Config.syndrome s.ticks g) netid else s

/-- Whether a physical address lies in another package: its reply comes over the fabric, at a step of its own. -/
def State.remote (s : State) (p : Phys) : Bool := decide (p.addr / Config.localBytes / 4 ≠ s.pkg)

/-- The group timeout, in nanoseconds (R444). -/
def groupTimeout : Nat := 400000

/-- Whether a die's port to a plane and the switch on the path to an endpoint are in service (R441, R444). -/
def State.planeUp (s : State) (src dst plane : Nat) : Bool :=
  !s.linksDown.contains (src % 4, plane) && !s.switchesDown.contains (dst, plane)

/-- The plane of a packet: the first in service from one on, in turn, or that one where none is.
DESIGN CHOICE: the order in which planes take over. -/
def State.planeFrom (s : State) (src dst plane : Nat) : Nat :=
  (((upTo 18).map (fun k => (plane + k) % 18)).find? (s.planeUp src dst)).getD (plane % 18)

/-- The endpoint of the selected hart's die. -/
def State.myEp (s : State) : Nat := 4 * s.pkg + s.tileNo / Config.tilesPerDie

/-- A request packet sent from an endpoint for an access, numbered for its pair of endpoints (R441, R443). -/
def State.sendPacket (s : State) (src netid : Nat) (store : Bool) (w : Phys × Nat) : State :=
  let dst := w.1.addr / Config.localBytes
  let seq := (numGet s.nextSeq (8192 * src + dst)).getD 0
  { s with
    nextSeq := numPut s.nextSeq (8192 * src + dst) (seq + 1)
    outbound := s.outbound ++
      [⟨s.time, netid, w.1.addr, w.2, store, src, seq, s.planeFrom src dst (Config.planeOf src dst netid)⟩] }

/-- The request packets of the selected hart under way to other packages after more of them are sent, one for each access;
those older than the group timeout have been acknowledged (R444). -/
def State.sendPackets (s : State) (netid : Nat) (store : Bool) (ws : List (Phys × Nat)) : State :=
  (ws.filter (fun w => s.remote w.1)).foldl (fun s w => s.sendPacket s.myEp netid store w)
    { s with outbound := s.outbound.filter (fun o => decide (s.time.toNat < o.sentAt.toNat + groupTimeout)) }

/-- The requests of the selected hart's accesses that await replies. -/
def State.sendReads (s : State) (es : List ElemAccess) (n : Nat) : State :=
  s.sendPackets s.myNet false (es.map (fun e => (e.phys, n)))

/-- The reply for an access of the selected hart has come: its request is acknowledged. -/
def State.gotReply (s : State) (p : Phys) : State :=
  { s with outbound := match s.outbound.find? (fun o => !o.store && o.src == s.myEp && o.addr == p.addr) with
      | some o => s.outbound.erase o
      | none => s.outbound }

/-- What the writes of one request packet, by address and length, do to the poison of the granules they touch: those
they supply whole lose it, and each other one is logged (R116, R237, R419). -/
def State.packet (s : State) (netid : Nat) (ws : List (Phys × Nat)) : State :=
  let s := s.sendPackets netid true ws
  let gs := ((ws.flatMap (fun w => granulesOf w.1.addr w.2)).eraseDups).filter (setHas s.gmPois)
  gs.foldl (fun (s : State) g =>
    if (upTo 64).all (fun j => ws.any (fun w =>
        decide (w.1.addr ≤ 64 * g + j) && decide (64 * g + j < w.1.addr + w.2)))
    then { s with gmPois := setDel s.gmPois g }
    else s.partialStoreEvent g netid) s

/-- The network whose process has a byte of a tile's memory in its kernel block, or 0. -/
def State.tmNet (s : State) (t a : Nat) : Nat :=
  match s.procs.find? (fun q => q.tile == t && decide (q.kbase ≤ a) && decide (a < q.kbase + q.klen)) with
  | some q => q.pid.netid
  | none => 0

/-- The state with an event of a tile, which affects a network or none (0): its die and its physical number, and the
lane or bank at bit 16. -/
def State.tileEvent (s : State) (t cls lane addr detail netid : Nat) : State :=
  s.event (t / Config.tilesPerDie) cls (Config.physTile t (s.tile t).subst % 65536 + lane * 65536) addr detail netid
    ((s.tile t).vdid.getD 0xFFFF)

/-- A protection word of tile memory, by its key over 8, marked poisoned; the act is logged (R416, R420). -/
def State.poisonTm (s : State) (w : Nat) : State :=
  if setHas s.tmPois w then s
  else
    let k := 8 * w
    let t := k / Config.tmBytes
    let a := k % Config.tmBytes
    { s with tmPois := setAdd s.tmPois w }.tileEvent t 4 0 a (Config.syndrome s.ticks k) (s.tmNet t a)

/-- The events of marks that a copy sets in granules of this package's memory, for the network that it affects or none
(R420). -/
def State.logGmPois (s : State) (gs : List Nat) (netid : Nat) : State :=
  gs.foldl (fun (s : State) g =>
    if 64 * g / Config.localBytes / 4 = s.pkg then s.kettleEvent 2 (64 * g) (Config.syndrome s.ticks (64 * g)) netid else s) s

/-- A granule of global memory of this package marked poisoned; the act is logged for the network that it affects
(R419, R420). -/
def State.poisonGm (s : State) (g netid : Nat) : State :=
  if setHas s.gmPois g then s
  else
    let k := 64 * g
    let ep := k / Config.localBytes
    let s := { s with gmPois := setAdd s.gmPois g }
    if ep / 4 = s.pkg then s.kettleEvent 2 k (Config.syndrome s.ticks k) netid else s

end Sys2Proof.Machine
end

