-- ==== Sys2Proof/Machine/Log.lean ====
section
/-! DEFINITION. The corrected-error log and its seals (R421 to R426). -/

namespace Sys2Proof.Machine

/-- The bytes 0x00 to 0x5F of an entry: what its HASH covers. -/
def LogEntry.body (e : LogEntry) : List Byte :=
  leBytes 8 e.seq ++ leBytes 8 e.event.time.toNat ++ leBytes 8 e.dieSeq ++ leBytes 1 e.event.die ++ leBytes 1 e.event.cls ++
  leBytes 2 0 ++ leBytes 4 e.event.source.toNat ++ leBytes 8 e.event.addr.toNat ++ leBytes 8 e.event.detail.toNat ++
  leBytes 4 e.event.netid ++ leBytes 2 e.event.vdid ++ leBytes 10 0 ++ e.prev

/-- The 128 bytes of an entry (R422). -/
def LogEntry.bytes (e : LogEntry) : List Byte := e.body ++ e.hash

/-- The first 64 bytes of a seal: what SIG covers (R425). -/
def LogSeal.body (x : LogSeal) : List Byte :=
  leBytes 4 0x5345414C ++ leBytes 4 x.kind ++ leBytes 8 x.seq ++ leBytes 8 x.time.toNat ++ x.head ++ leBytes 8 0

/-- The 7,920 bytes of a seal. -/
def LogSeal.bytes (x : LogSeal) : List Byte := x.body ++ x.sig

/-- Bytes of a seal. -/
def sealBytes : Nat := 7920

/-- Bytes of an SLH-DSA-SHA2-128s signature (R400, R425). -/
def sigBytes : Nat := 7856

/-- A signature by the device identity key. -/
def signature (b : List Byte) : List Byte := padTo sigBytes ((Config.sign b).take sigBytes)

/-- Bytes left in the log's space. -/
def State.logLeft (s : State) : Nat := Config.logBytes - s.logUsed

/-- The state with a seal of the current head put behind the entries. -/
def State.putSeal (s : State) (kind : Nat) : State :=
  let x : LogSeal := ⟨kind, s.logNext - 1, s.time, s.logHead, []⟩
  { s with seals := s.seals ++ [{ x with sig := signature x.body }], logUsed := s.logUsed + sealBytes }

/-- An event put behind the entries as the next one: SEQ, the position in its die's order, the chain hash, and a seal
after every 256th entry (R422, R424, R425). -/
def State.putEntry (s : State) (ev : LogEvent) : State :=
  let n := (numGet s.dieNext ev.die).getD 0
  let e : LogEntry := ⟨s.logNext, n, ev, s.logHead, []⟩
  let e := { e with hash := sha256 e.body }
  let s := { s with
    log := s.log ++ [e], logNext := s.logNext + 1, logHead := e.hash, logUsed := s.logUsed + 128
    dieNext := numPut s.dieNext ev.die (n + 1) }
  if (e.seq + 1) % 256 = 0 then s.putSeal 1 else s

/-- Once fewer than 1 MiB remain, a class-18 entry (R426). -/
def State.nearFull (s : State) : State :=
  if s.logLeft < 2 ^ 20 ∧ !s.logNearFull then
    { s with logNearFull := true }.putEntry ⟨s.time, 0, 18, 0, 0, BitVec.ofNat 64 s.logLeft, 0, 0xFFFF⟩
  else s

/-- The state with a seal of the current head written. -/
def State.sealLog (s : State) (kind : Nat) : State := (s.putSeal kind).nearFull

/-- Whether an event of a class is recorded: once the log is nearly full only some are (R426). -/
def State.records? (s : State) (cls : Nat) : Bool := !s.logNearFull || [8, 12, 13, 14, 15].contains cls

/-- An event written as the next entry. -/
def State.writeEntry (s : State) (ev : LogEvent) : State := (s.putEntry ev).nearFull

/-- The source of an event: its die, the kind of unit (kettle, port, the monitor or a tile), and the unit's number. -/
def LogEvent.unit (e : LogEvent) : Nat × Nat × Nat :=
  (e.die, if e.cls ≤ 2 then 0 else if e.cls = 11 then 1 else if [15, 16, 18].contains e.cls then 2 else 3,
    e.source.toNat % 65536)

/-- The places of the events that an arbiter may put next: the oldest of each source (R421). -/
def logCands (l : List LogEvent) : List Nat :=
  (upTo l.length).filter (fun i => match l[i]? with
    | some e => !(l.take i).any (fun o => decide (o.unit = e.unit))
    | none => false)

/-- The place of the event that the arbiters put next: they keep each source's order, and of events of different sources
the one that arrived first, which is a free choice (R421). -/
def State.logPlace (s : State) : Nat :=
  let l := logCands s.logEvents
  l.getD (Config.logPick s.ticks % Nat.max l.length 1) 0

/-- The next event taken from the arbiters and written, if it is recorded (R421, R424, R426). -/
def State.writeNext (s : State) : State :=
  match s.logEvents[s.logPlace]? with
  | none => s
  | some ev =>
    let s := { s with logEvents := s.logEvents.eraseIdx s.logPlace }
    if s.records? ev.cls then s.writeEntry ev else s

/-- Every event that waits written. -/
def State.writeAll (s : State) : State := (upTo s.logEvents.length).foldl (fun (s : State) _ => s.writeNext) s

end Sys2Proof.Machine
end

