-- ==== Sys2Proof/Machine/Translate.lean ====
section
/-! DEFINITION. Translation of global virtual addresses: the five-level walk, permissions, accessed and dirty bits and
the TLB of a tile (R110, R385 to R391, R395, R440). -/

namespace Sys2Proof.Machine

/-- The trap causes of a global access (R18). -/
inductive XFault where
  | xlate | prot
deriving DecidableEq, Repr

/-- What an access needs of its page (R388). -/
inductive Need where
  | r | w | rw
deriving DecidableEq, Repr

/-- Whether an access reads. -/
def Need.reads : Need → Bool
  | .r => true | .w => false | .rw => true
/-- Whether an access writes. -/
def Need.writes : Need → Bool
  | .r => false | .w => true | .rw => true

/-- The fields of a table entry (R386). -/
def pteEndpoint (e : Word) : Nat := (e.extractLsb' 51 13).toNat
/-- Endpoint-local address of the frame. -/
def pteAddr (e : Word) : Nat := (e.extractLsb' 11 40).toNat * 4096
/-- Key-map entry. -/
def pteKsel (e : Word) : Nat := (e.extractLsb' 8 3).toNat
/-- Supervisor only. -/
def pteSup (e : Word) : Bool := e.getLsbD 7
/-- 64 KiB block. -/
def pteC64 (e : Word) : Bool := e.getLsbD 6
/-- Dirty. -/
def pteD (e : Word) : Bool := e.getLsbD 5
/-- Accessed. -/
def pteA (e : Word) : Bool := e.getLsbD 4
/-- Writes allowed. -/
def pteW (e : Word) : Bool := e.getLsbD 3
/-- Reads allowed. -/
def pteR (e : Word) : Bool := e.getLsbD 2
/-- Leaf. -/
def pteLeaf (e : Word) : Bool := e.getLsbD 1
/-- Valid. -/
def pteV (e : Word) : Bool := e.getLsbD 0

/-- A table entry as the walker loads it, under key-map entry 0 (R385). DESIGN CHOICE: the bytes of a poisoned granule are
taken as they stand. -/
def State.pte (s : State) (d : VDev) (table i : Nat) : Word :=
  leWord (s.gmBytes ⟨table + 8 * i, d.keyMap.headD 0, 0⟩ 8)

/-- Whether n bytes at an endpoint-local address lie wholly in a region of the device (R393, R395). -/
def VDev.inRegion (d : VDev) (ep a n : Nat) : Bool :=
  d.regions.any (fun r => r.endpoint == ep && decide (r.base ≤ a) && decide (a + n ≤ r.base + r.size))

/-- The checks of R387 on a leaf of a size at a level. -/
def leafFault (d : VDev) (lvl size : Nat) (e : Word) : Option XFault :=
  if lvl ≥ 3 || (pteC64 e && lvl != 0) then some .xlate
  else if pteAddr e % size ≠ 0 then some .xlate
  else if d.keyMap.length ≤ pteKsel e then some .xlate
  else if !d.inRegion (pteEndpoint e) (pteAddr e) size then some .prot
  else none

/-- The part of an address that a table entry at a level stands for. -/
def walkPart (lvl va : Nat) : Nat := va / 2 ^ (12 + 9 * lvl)

/-- A non-leaf entry of a level that the tile's walk cache gives a walk of an address, where it finds one (R390). -/
def State.walkHit (s : State) (tile : Option Nat) (vdid lvl va : Nat) : Option Word :=
  match tile with
  | none => none
  | some t =>
    match (s.tile t).walks.find? (fun w => w.vdid == vdid && w.level == lvl && w.part == walkPart lvl va) with
    | some w => if Config.walkHit s.ticks lvl then some w.entry else none
    | none => none

/-- Whether the kettle lets the walker load n bytes of a table for a device (R395). -/
def VDev.mayLoad (d : VDev) (a n : Nat) : Bool := d.inRegion (a / Config.localBytes) (a % Config.localBytes) n

/-- The walk from a table at a level down (R387), with the non-leaf entries that it passes. A walk for a tile may take a
non-leaf entry from its walk cache. A load that a kettle refuses is PROT (R395). The leaf entry of a 64 KiB page, in which A
and D are set, is the first of its group (R389). -/
def State.walkFrom (s : State) (tile : Option Nat) (d : VDev) (va : Nat) :
    Nat → Nat → List WalkEntry → Except XFault (TlbEntry × List WalkEntry)
  | 0, t, ws =>
    let i := va / 4096 % 512
    let j := i - i % 16
    if !d.mayLoad (t + 8 * j) 8 then .error .prot
    else
      let g := s.pte d t j
      if pteV g && pteLeaf g && pteC64 g then .ok (⟨d.vdid, va - va % 65536, 65536, t + 8 * j, g, 0⟩, ws)
      else if !d.mayLoad (t + 8 * i) 8 then .error .prot
      else
        let e := s.pte d t i
        let size := if pteC64 e then 65536 else 4096
        if !pteV e then .error .xlate
        else if !pteLeaf e then .error .xlate
        else match leafFault d 0 size e with
          | some f => .error f
          | none => .ok (⟨d.vdid, va - va % size, size, t + 8 * (if pteC64 e then j else i), e, 0⟩, ws)
  | lvl + 1, t, ws =>
    let i := va / 2 ^ (12 + 9 * (lvl + 1)) % (if lvl = 3 then 256 else 512)
    let hit := s.walkHit tile d.vdid (lvl + 1) va
    if hit.isNone && !d.mayLoad (t + 8 * i) 8 then .error .prot
    else
      let e := hit.getD (s.pte d t i)
      let size := 2 ^ (12 + 9 * (lvl + 1))
      if !pteV e then .error .xlate
      else if !pteLeaf e then
        if e.extractLsb' 2 9 ≠ 0 then .error .xlate
        else if pteEndpoint e / 4 ≠ s.pkg then .error .xlate
        else State.walkFrom s tile d va lvl (pteEndpoint e * Config.localBytes + pteAddr e)
          (⟨d.vdid, lvl + 1, walkPart (lvl + 1) va, e⟩ :: ws)
      else match leafFault d (lvl + 1) size e with
        | some f => .error f
        | none => .ok (⟨d.vdid, va - va % size, size, t + 8 * i, e, 0⟩, ws)

/-- The walk of a virtual address from the device's ROOT. -/
def State.walk (s : State) (tile : Option Nat) (d : VDev) (va : Nat) : Except XFault (TlbEntry × List WalkEntry) :=
  s.walkFrom tile d va 4 (d.rootEp * Config.localBytes + d.rootAddr) []

/-- The leaf permissions of R388; SUP is checked for instructions at P alone. -/
def leafAllows (checkSup : Bool) (n : Need) (e : Word) : Bool :=
  !(checkSup && pteSup e) && (!n.reads || pteR e) && (!n.writes || pteW e)

/-- The physical address that a translation gives a virtual address. DESIGN CHOICE: the valid head of a 64 KiB group whose
KSEL names no key-map entry, which R387 does not test, is taken under slot 0. -/
def TlbEntry.phys (t : TlbEntry) (d : VDev) (va : Nat) : Phys :=
  ⟨pteEndpoint t.leaf * Config.localBytes + pteAddr t.leaf + va % t.size, d.keyMap.getD (pteKsel t.leaf) 0, t.leafAddr⟩

/-- Whether an endpoint number names a live endpoint (R440). -/
def State.epLive (s : State) (ep : Nat) : Bool := s.liveEps.contains ep

/-- A translation of a device checked for an access: the walker's or a cached one (R110, R387, R388, R440). The kettle
performs it only inside a region of the device, else its refusal is PROT (R395). -/
def State.check (s : State) (d : VDev) (checkSup : Bool) (n : Need) (va : Nat) (t : Except XFault TlbEntry) :
    Except XFault (TlbEntry × Phys) :=
  if 2 ^ 56 ≤ va then .error .xlate
  else match t with
    | .error f => .error f
    | .ok t =>
      if !leafAllows checkSup n t.leaf then .error .prot
      else
        let p := t.phys d va
        if !s.epLive (p.addr / Config.localBytes) then .error .xlate
        else if !d.mayLoad p.addr 1 then .error .prot
        else .ok (t, p)

/-- The TLB bank of a lane of a tile: the check lane's where it stands for a failed lane (R390, R413). -/
def Tile.bank (t : Tile) (lane : Nat) : Nat := if t.laneA = some lane ∧ !t.rebuilding then 32 else lane

/-- The cached translation of an address in a bank of a tile, where there is one and the access finds it (R390,
R391). -/
def State.tlbLookup (s : State) (tile bank vdid va : Nat) : Option TlbEntry :=
  match (s.tile tile).tlb.find? (fun t => t.vdid == vdid && t.bank == bank && decide (t.base ≤ va) &&
      decide (va < t.base + t.size)) with
  | some t => if Config.tlbHit s.ticks va then some t else none
  | none => none

/-- The translation of an address for an access by a hart or engine of a tile through a bank. -/
def State.xlate (s : State) (tile bank : Nat) (d : VDev) (checkSup : Bool) (n : Need) (va : Nat) :
    Except XFault (TlbEntry × Phys) :=
  match s.tlbLookup tile bank d.vdid va with
  | some t => s.check d checkSup n va (.ok t)
  | none => s.check d checkSup n va ((s.walk (some tile) d va).map (·.1))

/-- The translation of an address for the placement engine, the channel units and the host (R388). -/
def State.xlateEngine (s : State) (d : VDev) (n : Need) (va : Nat) : Except XFault (TlbEntry × Phys) :=
  s.check d false n va ((s.walk none d va).map (·.1))

/-- Bits set in a leaf entry by an atomic OR at its kettle (R389). -/
def State.orLeaf (s : State) (d : VDev) (t : TlbEntry) (bits : Byte) : State :=
  let p : Phys := ⟨t.leafAddr, d.keyMap.headD 0, 0⟩
  let b := (s.gmBytes p 1).headD 0
  if b ||| bits = b then s else s.gmStore p [b ||| bits]

/-- A and D of the leaf set for an access by an engine, which walks each time (R389). -/
def State.setAD (s : State) (d : VDev) (n : Need) (t : TlbEntry) : State :=
  s.orLeaf d t (if n.writes then 0x30#8 else 0x10#8)

/-- An entry put before a cache of n entries; a full one gives up an entry that a free value picks (R390). -/
def cacheIn {α : Type} (n pick : Nat) (e : α) (l : List α) : List α :=
  e :: (if l.length < n then l else l.eraseIdx (pick % n))

/-- The state after the walker has done its part for an access through a bank that is about to be translated: if no bank
entry serves it, the walk caches its non-leaf entries and sets A in the leaf at which it ends (R389, R390). -/
def State.touch (s : State) (tile bank : Nat) (d : VDev) (va : Nat) : State :=
  if 2 ^ 56 ≤ va then s
  else match s.tlbLookup tile bank d.vdid va with
    | some _ => s
    | none =>
      match s.walk (some tile) d va with
      | .error _ => s
      | .ok (t, ws) =>
        let tl := s.tile tile
        let fresh := ws.filter (fun w => !tl.walks.contains w)
        let walks := fresh.foldl (fun l w => cacheIn 16 (Config.cachePick s.ticks w.level) w
          (l.filter (fun o => !(o.vdid == w.vdid && o.level == w.level && o.part == w.part)))) tl.walks
        let s := if fresh = [] then s else s.setTile tile { tl with walks := walks }
        if pteA t.leaf then s else s.orLeaf d t 0x10

/-- The state after a translation is used through a bank: D set before the first write through it, and the translation
cached (R389, R390). -/
def State.useXlate (s : State) (tile bank : Nat) (d : VDev) (n : Need) (t : TlbEntry) : State :=
  let s := if n.writes && !pteD t.leaf then s.orLeaf d t 0x20 else s
  let leaf := t.leaf ||| 0x10#64 ||| (if n.writes then 0x20#64 else 0#64)
  let tl := s.tile tile
  let e : TlbEntry := { t with leaf := leaf, bank := bank }
  let rest := tl.tlb.filter (fun u => !(u.vdid == t.vdid && u.base == t.base && u.size == t.size && u.bank == bank))
  let mine := rest.filter (fun u => u.bank == bank)
  s.setTile tile { tl with
    tlb := cacheIn 64 (Config.cachePick s.ticks 64) e mine ++ rest.filter (fun u => u.bank != bank) }

/-- The device of the selected hart's tile. -/
def State.myVdev? (s : State) : Option VDev := s.myTile.vdid.bind s.vdev?

/-- The bank of a lane of the selected hart, counted from its lowest. -/
def State.bankOf (s : State) (lane : Nat) : Nat := s.myTile.bank (s.hart.lane0 + lane)

/-- A virtual address translated for an access of the selected hart on one of its lanes; a tile with no device translates
nothing. -/
def State.laneXlate (s : State) (lane : Nat) (n : Need) (va : Nat) : Except XFault (TlbEntry × Phys) :=
  match s.myVdev? with
  | some d => s.xlate s.tileNo (s.bankOf lane) d (decide (s.hart.priv = .p)) n va
  | none => .error .xlate

/-- The same for a scalar or unit-stride access, which uses the hart's lowest lane (R390). -/
def State.myXlate (s : State) (n : Need) (va : Nat) : Except XFault (TlbEntry × Phys) := s.laneXlate 0 n va

/-- The state after the walker's part for an access on a lane of the selected hart. -/
def State.laneTouch (s : State) (lane va : Nat) : State :=
  match s.myVdev? with
  | some d => s.touch s.tileNo (s.bankOf lane) d va
  | none => s

/-- The same for every address of a list on the hart's lowest lane. -/
def State.myTouch (s : State) (vas : List Nat) : State := vas.foldl (fun s va => s.laneTouch 0 va) s

/-- The state after the selected hart uses a translation on one of its lanes. -/
def State.laneUse (s : State) (lane : Nat) (n : Need) (t : TlbEntry) : State :=
  match s.myVdev? with
  | some d => s.useXlate s.tileNo (s.bankOf lane) d n t
  | none => s

/-- The same on its lowest lane. -/
def State.myUse (s : State) (n : Need) (t : TlbEntry) : State := s.laneUse 0 n t

/-- The first address of each page piece, in 4 KiB steps, that a range of virtual addresses touches. -/
def pagesOf (va n : Nat) : List Nat :=
  if n = 0 then [] else va :: (upTo ((va + n - 1) / 4096 - va / 4096)).map (fun j => (va / 4096 + 1 + j) * 4096)

/-- The lowest address of a range that fails, with its fault, or the physical address of every page piece. -/
def State.xlateRange (s : State) (f : State → Nat → Except XFault (TlbEntry × Phys)) (va n : Nat) :
    Except (XFault × Nat) (List (Nat × TlbEntry × Phys)) :=
  (pagesOf va n).mapM (fun a => match f s a with
    | .ok r => .ok (a, r)
    | .error e => .error (e, a))

/-- The physical address of a byte of a translated range. -/
def physIn (l : List (Nat × TlbEntry × Phys)) (a : Nat) : Phys :=
  match l.find? (fun e => decide (e.1 / 4096 = a / 4096)) with
  | some e => { e.2.2 with addr := e.2.2.addr + (a - e.1) }
  | none => ⟨0, 0, 0⟩

/-- The physical addresses of n bytes of a translated range. -/
def physRange (l : List (Nat × TlbEntry × Phys)) (va n : Nat) : List Phys := (upTo n).map (fun j => physIn l (va + j))

/-- The bytes of translated addresses. -/
def State.gmGather (s : State) (ps : List Phys) : List Byte := ps.map (fun p => s.gmByte (s.slotKey p.slot) p.addr)

/-- Bytes scattered to translated addresses in one packet of a network. -/
def State.gmScatter (s : State) (netid : Nat) (ps : List Phys) (bs : List Byte) : State :=
  let l := ps.zip bs
  l.foldl (fun s pb => s.gmStore pb.1 [pb.2]) (s.packet netid (l.map (fun pb => (pb.1, 1))))

/-- A range stored page piece by page piece, so that a granule written whole loses its poison (R419). -/
def State.gmStoreRange (s : State) (l : List (Nat × TlbEntry × Phys)) (va : Nat) (bs : List Byte) : State :=
  l.foldl (fun s e =>
    let stop := Nat.min (va + bs.length) ((e.1 / 4096 + 1) * 4096)
    s.gmStore e.2.2 ((bs.drop (e.1 - va)).take (stop - e.1))) s

end Sys2Proof.Machine
end

