-- ==== Sys2Proof/Machine/Context.lean ====
section
/-! DEFINITION. The saved context: payload, header and seal, the restore from it, the state at process start, and the
debug table that the hart reads at these moments (R75 to R77, R311, R312, R351 to R355, R362, R412, R470). -/

namespace Sys2Proof.Machine

/-- Bytes padded with zeros to a multiple of 8. -/
def pad8 (b : List Byte) : List Byte := b ++ List.replicate ((8 - b.length % 8) % 8) 0

/-- The value of a long accumulator's 4,288 bits (R97). -/
def LongAcc.toNat (a : LongAcc) : Nat :=
  a.v.toNat + (if a.n then 2 ^ 4260 else 0) + (if a.pi then 2 ^ 4261 else 0) + (if a.ni then 2 ^ 4262 else 0)

/-- The accumulator that 4,288 bits hold; the reserved bits are dropped (R97, R239). -/
def LongAcc.ofNat (n : Nat) : LongAcc :=
  ⟨BitVec.ofNat 4260 n, n.testBit 4260, n.testBit 4261, n.testBit 4262, false⟩

/-- A binding's 64 bytes: its descriptor with POS current (R75, R259). -/
def Binding.bytes (b : Binding) : List Byte :=
  leBytes 8 b.base.toNat ++ leBytes 8 b.stride0.toNat ++ leBytes 8 b.stride1.toNat ++ leBytes 8 b.stride2.toNat ++
  leBytes 4 b.count0.toNat ++ leBytes 4 b.count1.toNat ++ leBytes 4 b.count2.toNat ++
  leBytes 4 (b.width.toNat + if b.store then 4 else 0) ++ leBytes 8 b.pos ++ leBytes 8 0

/-- The binding that descriptor bytes give a group. -/
def Binding.ofBytes (bs : List Byte) (reg grp : Nat) (desc : Word) (since : Nat) : Binding where
  reg := reg
  grp := grp
  store := (field bs 0x2C 1).testBit 2
  base := BitVec.ofNat 64 (field bs 0 8)
  stride0 := BitVec.ofNat 64 (field bs 8 8)
  stride1 := BitVec.ofNat 64 (field bs 16 8)
  stride2 := BitVec.ofNat 64 (field bs 24 8)
  count0 := BitVec.ofNat 32 (field bs 0x20 4)
  count1 := BitVec.ofNat 32 (field bs 0x24 4)
  count2 := BitVec.ofNat 32 (field bs 0x28 4)
  width := BitVec.ofNat 2 (field bs 0x2C 1)
  pos := field bs 0x30 8
  descAddr := desc
  since := since

/-- The fixed block of a context (R311). -/
def Hart.fixedBlock (h : Hart) (idx : Nat) : List Byte :=
  leBytes 2 idx ++ leBytes 2 h.vtype.toNat ++ leBytes 4 h.vl.toNat ++ leBytes 8 h.srseed.toNat ++
  leBytes 8 h.srcount.toNat ++ leBytes 1 h.fflags.toNat ++ leBytes 1 h.msprec.toNat ++ leBytes 2 h.msanchor.toNat ++
  leBytes 2 h.msm.toNat ++ leBytes 2 h.msn.toNat ++ leBytes 2 h.msk.toNat ++ List.replicate 30 0

/-- A piece of a payload: its bytes, and the offsets in it of bytes that are saved poisoned. -/
structure Piece where
  bytes : List Byte
  pois : List Nat
deriving DecidableEq, Repr

/-- Elements of register j with group index below VL (R75). -/
def Hart.liveCount (h : Hart) (j : Nat) : Nat :=
  let per := vlenOf h.lanes (vtRc h.vtype) / vtSew h.vtype
  Nat.min per (h.vl.toNat - j % vtG h.vtype * per)

/-- The piece of vector register j. -/
def Hart.vPiece (h : Hart) (j : Nat) : Piece :=
  let w := vtSew h.vtype
  let n := h.liveCount j
  ⟨(upTo n).flatMap (fun i => leBytes (w / 8) (h.elem w j i)),
   ((upTo n).filter (fun i => h.elemPois w j i)).map (fun i => i * (w / 8))⟩

/-- The pieces of a context in the order of R75, registers in increasing number. -/
def Hart.pieces (h : Hart) (idx : Nat) (e : SafeEntry) : List Piece :=
  [⟨h.fixedBlock idx, []⟩] ++
  ((upTo 32).filter (fun i => e.xlive.getLsbD i)).map (fun i =>
    ⟨leBytes 8 (h.x.toList.getD i 0).toNat, if h.xPois.getLsbD i then [0] else []⟩) ++
  ((upTo 32).filter (fun j => e.vlive.getLsbD j)).map h.vPiece ++
  ((upTo 8).filter (fun n => e.plive.getLsbD n)).map (fun n =>
    ⟨leBytes ((h.vl.toNat + 63) / 64 * 8) ((h.p.toList.getD n 0).toNat % 2 ^ h.vl.toNat), []⟩) ++
  ((upTo 4).filter (fun n => e.emlive.getLsbD n)).map (fun n =>
    ⟨leBytes 536 (h.e.toList.getD n LongAcc.zero).toNat, if (h.e.toList.getD n LongAcc.zero).pois then [0] else []⟩) ++
  ((upTo 2).filter (fun n => e.emlive.getLsbD (4 + n))).map (fun n =>
    let b := h.m.toList.getD n Bank.zero
    ⟨(upTo (64 * h.lanes)).flatMap (fun i => leBytes 16 (b.get i).toNat), b.pois.map (16 * ·)⟩) ++
  ((upTo 4).filter (fun n => e.slive.getLsbD n)).filterMap (fun n =>
    (h.streams.toList.getD n none).map (fun b => ⟨b.bytes, []⟩))

/-- Pieces laid out one after another, each at a multiple of 8 bytes. -/
def layPieces : List Piece → Piece
  | [] => ⟨[], []⟩
  | p :: ps =>
    let b := pad8 p.bytes
    let r := layPieces ps
    ⟨b ++ r.bytes, p.pois ++ r.pois.map (b.length + ·)⟩

/-- The 64 bytes of a capture block (R478). -/
def Capture.bytes (c : Capture) : List Byte :=
  leBytes 8 c.cycles.toNat ++ leBytes 8 c.instr.toNat ++ leBytes 8 c.steep.toNat ++ leBytes 8 c.gbytes.toNat ++
  leBytes 8 c.stall.toNat ++ leBytes 8 c.admission.toNat ++ leBytes 8 c.start.toNat ++ leBytes 4 c.switches.toNat ++
  leBytes 4 (if c.active then 1 else 0)

/-- The capture block that 64 bytes hold. -/
def Capture.ofBytes (b : List Byte) : Capture :=
  let w := fun o => BitVec.ofNat 64 (field b o 8)
  ⟨w 0, w 8, w 16, w 24, w 32, w 40, w 48, BitVec.ofNat 32 (field b 0x38 4), (field b 0x3C 4).testBit 0⟩

/-- The header of a context area without its seal word (R352). -/
def ctxHeader (h : Hart) (q : Proc) (e : SafeEntry) (paylen : Nat) (time : Word) : List Byte :=
  leBytes 4 0x43585431 ++ leBytes 2 1 ++ leBytes 1 h.lanes ++
  leBytes 1 ((if e.portable then 1 else 0) + (if e.chanwait then 2 else 0) + (if q.capture.active then 4 else 0)) ++
  leBytes 4 q.pid.netid ++ leBytes 4 q.pid.rank ++ leBytes 2 q.kernel ++ leBytes 2 0 ++ leBytes 4 paylen ++
  leBytes 4 q.gen.toNat ++ leBytes 4 q.switches.toNat ++ leBytes 4 h.steeplim.toNat ++ leBytes 1 h.prioLevel.toNat ++
  leBytes 3 0 ++ leBytes 8 h.quantum.toNat ++ leBytes 8 time.toNat

/-- The seal word of an area: GEN and four bytes of the digest of all but the seal (R352). -/
def ctxSeal (hdr rest : List Byte) (gen : Nat) : List Byte := (sha256 (hdr ++ rest)).take 4 ++ leBytes 4 gen

/-- The physical place of a process's context area, under its device's first key. -/
def State.ctxPlace (s : State) (q : Proc) : Phys := ⟨q.ctxphys, ((s.vdev? q.vdid).map (·.keyMap.headD 0)).getD 0, 0⟩

/-- The granules of an area poisoned where pieces were saved poisoned (R412). -/
def State.poisonAt (s : State) (base : Nat) (offs : List Nat) (netid : Nat) : State :=
  offs.foldl (fun s o => s.poisonGm ((base + o) / 64) netid) s

/-- Saves the process of a hart into its context area at safe point idx (R353); the generation wraps from 2^32 - 1
to 1. -/
def State.saveContext (s : State) (h : Hart) (q : Proc) (idx : Nat) (e : SafeEntry) : State :=
  let gen : BitVec 32 := if q.gen = BitVec.allOnes 32 then 1 else q.gen + 1
  let cap := if q.capture.active then { q.capture with switches := q.capture.switches + 1 } else q.capture
  let binds := (h.streams.toList.mapIdx (fun n o => (n, o))).filterMap (fun no =>
    no.2.map (fun b => (no.1, (⟨b.reg, b.grp, b.descAddr, b.since⟩ : BindName))))
  let q' := { q with
    gen := gen, switches := q.switches + 1, capture := cap, level := h.prioLevel, steeplim := h.steeplim
    quantum := h.quantum, binds := binds }
  let pay := layPieces (h.pieces idx e)
  let hdr := ctxHeader h q' e pay.bytes.length s.time
  let rest := pay.bytes ++ (if q'.capture.active then q'.capture.bytes else [])
  let place := s.ctxPlace q
  let s := s.gmStore place (hdr ++ ctxSeal hdr rest gen.toNat ++ rest)
  let s := s.poisonAt (place.addr + 64) pay.pois q.pid.netid
  s.mapProc q.pid (fun _ => q')

/-! ### Process start and restore -/

/-- The entries of a tile's debug table as a hart reads them (R470); a table that would begin below address 0 is off. -/
def State.debugTable (s : State) (tile : Nat) : List DbgEntry :=
  let tv := (s.tile tile).tvec.toNat
  if tv < 256 then [] else
  (upTo 8).map (fun n =>
    let b := s.tm.bytes (tmKey tile (tv - 256 + 32 * n)) 32
    let fl := field b 1 1
    let ok := decide (fl < 8) && decide (field b 2 2 = 0) && decide (field b 0x1C 4 = 0) && decide (field b 0 1 ≤ 6)
    ⟨if ok then field b 0 1 else 0, fl.testBit 0, fl.testBit 1, fl.testBit 2, field b 4 4,
     BitVec.ofNat 64 (field b 8 8), BitVec.ofNat 64 (field b 16 8), field b 0x18 4⟩)

/-- The trace entry of a debug table: the lowest of kind 5 (R470). -/
def traceOf (l : List DbgEntry) : Option DbgEntry := l.find? (fun d => d.kind == 5)

/-- A hart that reads the debug table: the records of a trace entry that it has not read before count from 0 (R470,
R473). -/
def Hart.readDebug (h : Hart) (l : List DbgEntry) : Hart :=
  { h with dbg := l, traceSeq := if traceOf l = traceOf h.dbg then h.traceSeq else 0 }

/-- A hart given a process, with everything else as process start leaves it (R165, R362). -/
def Hart.begin (h : Hart) (q : Proc) (ceil : Nat) (dbg : List DbgEntry) : Hart :=
  { Hart.powerOn h.id h.lane0 h.lanes with
    status := .running
    pid := some q.pid
    pc := BitVec.ofNat 64 (q.kbase + q.entry)
    x := (((Vector.replicate 32 (0 : Word)).set 2 (BitVec.ofNat 64 (q.kbase + q.klen))).set 20 (q.args.getD 0 0)
      |>.set 21 (q.args.getD 1 0) |>.set 22 (q.args.getD 2 0) |>.set 23 (q.args.getD 3 0)
      |>.set 24 (q.args.getD 4 0) |>.set 25 (q.args.getD 5 0) |>.set 26 (q.args.getD 6 0) |>.set 27 (q.args.getD 7 0))
    srseed := q.seed
    steeplim := q.steeplim
    quantum := q.quantum
    prioLevel := q.level
    prioCeil := BitVec.ofNat 4 ceil
    ctxptr := q.ctxptr
    dbg := dbg
    traceSeq := (h.readDebug dbg).traceSeq
    leave := h.leave
    rotor := h.rotor
    mtvec := h.mtvec
    mtscratch := h.mtscratch
    mppriv := h.mppriv, mpfork := h.mpfork, mpchild := h.mpchild
    mtpc := h.mtpc, mtcause := h.mtcause, mtval := h.mtval }

/-- A context area as it is read back: header and the rest up to the payload's and capture block's end. -/
structure Area where
  hdr : List Byte
  pay : List Byte
  cap : List Byte
  base : Nat
deriving DecidableEq, Repr

/-- Reads a context area. -/
def State.readArea (s : State) (q : Proc) : Area :=
  let p := s.ctxPlace q
  let hdr := s.gmBytes p 64
  let n := Nat.min (field hdr 0x14 4) Config.ctxAreaBytes
  ⟨hdr, s.gmBytes { p with addr := p.addr + 64 } n,
   if (field hdr 7 1).testBit 2 then s.gmBytes { p with addr := p.addr + 64 + n } 64 else [], p.addr⟩

/-- Whether an area is sealed and belongs to the process (R353, R354). -/
def Area.ok (a : Area) (q : Proc) : Bool :=
  let h := a.hdr
  decide (field h 0x38 8 ≠ 0) && decide (field h 0x3C 4 = field h 0x18 4) &&
  decide ((h.drop 0x38).take 4 = (sha256 (h.take 0x38 ++ a.pay ++ a.cap)).take 4) &&
  decide (field h 0 4 = 0x43585431) && decide (field h 4 2 = 1) && decide (field h 8 4 = q.pid.netid) &&
  decide (field h 0xC 4 = q.pid.rank)

/-- Places pieces of given lengths one after another, each at a multiple of 8 bytes, and gives their offsets. -/
def placeFrom (off : Nat) : List Nat → List Nat
  | [] => []
  | n :: ns => off :: placeFrom (off + (n + 7) / 8 * 8) ns

/-- The hart with the context of an area loaded at safe point entry e (R354 step 4, R76, R77, R412). -/
def Hart.load (h : Hart) (s : State) (q : Proc) (a : Area) (e : SafeEntry) : Hart :=
  let b := a.pay
  let t := s.ticks
  let pois := fun off => setHas s.gmPois ((a.base + 64 + off) / 64)
  let vt := BitVec.ofNat 16 (field b 2 2)
  let svl := field b 4 4 % 2 ^ 17
  let savedLanes := field a.hdr 6 1
  let h := { h with
    vtype := vt
    srseed := BitVec.ofNat 64 (field b 8 8)
    srcount := BitVec.ofNat 64 (field b 0x10 8)
    fflags := BitVec.ofNat 5 (field b 0x18 1)
    msprec := BitVec.ofNat 8 (field b 0x19 1)
    msanchor := BitVec.ofNat 16 (field b 0x1A 2)
    steeplim := BitVec.ofNat 32 (field a.hdr 0x20 4)
    prioLevel := BitVec.ofNat 4 (field a.hdr 0x24 1)
    quantum := BitVec.ofNat 48 (field a.hdr 0x28 8) }
  let mlive := e.emlive.getLsbD 4 || e.emlive.getLsbD 5
  let h := if mlive then { h with
      msm := BitVec.ofNat 13 (field b 0x1C 2), msn := BitVec.ofNat 13 (field b 0x1E 2)
      msk := BitVec.ofNat 13 (field b 0x20 2) } else h
  -- the saving hart's layout gives the lengths of the pieces
  let sh := { h with lanes := savedLanes, vl := BitVec.ofNat 17 svl }
  let xs := (upTo 32).filter (fun i => e.xlive.getLsbD i)
  let vs := (upTo 32).filter (fun j => e.vlive.getLsbD j)
  let ps := (upTo 8).filter (fun n => e.plive.getLsbD n)
  let es := (upTo 4).filter (fun n => e.emlive.getLsbD n)
  let ms := (upTo 2).filter (fun n => e.emlive.getLsbD (4 + n))
  let ss := (upTo 4).filter (fun n => e.slive.getLsbD n && (numGet q.binds n).isSome)
  let w := vtSew vt
  let offs := placeFrom 64 (xs.map (fun _ => 8) ++ vs.map (fun j => sh.liveCount j * (w / 8)) ++
    ps.map (fun _ => (svl + 63) / 64 * 8) ++ es.map (fun _ => 536) ++ ms.map (fun _ => 1024 * savedLanes) ++
    ss.map (fun _ => 64))
  let ox := xs.zip offs
  let offs := offs.drop xs.length
  let ov := vs.zip offs
  let offs := offs.drop vs.length
  let op := ps.zip offs
  let offs := offs.drop ps.length
  let oe := es.zip offs
  let offs := offs.drop es.length
  let om := ms.zip offs
  let os := ss.zip (offs.drop ms.length)
  let h := { h with
    vl := BitVec.ofNat 17 (Nat.min svl (vlmaxOf h.lanes vt))
    x := Vector.ofFn (fun i : Fin 32 => match numGet ox i.val with
      | some c => BitVec.ofNat 64 (field b c 8)
      | none => if i.val = 0 then 0 else Config.undefWord t i.val)
    xPois := ox.foldl (fun (m : BitVec 32) (c : Nat × Nat) => if pois c.2 then m ||| ((1 : BitVec 32) <<< c.1) else m) 0
    p := Vector.ofFn (fun n : Fin 8 => match numGet op n.val with
      | some c => BitVec.ofNat 65536 (field b c ((svl + 63) / 64 * 8) % 2 ^ svl +
          (Config.undefPred t n.val).toNat / 2 ^ svl * 2 ^ svl)
      | none => Config.undefPred t n.val)
    e := Vector.ofFn (fun n : Fin 4 => match numGet oe n.val with
      | some c => { LongAcc.ofNat (field b c 536) with pois := (upTo 67).any (fun j => pois (c + 8 * j)) }
      | none => LongAcc.ofNat (Config.undefAcc t n.val).toNat)
    m := Vector.ofFn (fun n : Fin 2 => match numGet om n.val with
      | some c => (upTo (64 * savedLanes)).foldl (fun (bk : Bank) i =>
          let bk := bk.put i (BitVec.ofNat 128 (field b (c + 16 * i) 16))
          if pois (c + 16 * i) then { bk with pois := setAdd bk.pois i } else bk) Bank.zero
      | none => ⟨some t, [], []⟩)
    streams := Vector.ofFn (fun n : Fin 4 => match numGet os n.val with
      | some c => (numGet q.binds n.val).map (fun (r : BindName) =>
          Binding.ofBytes ((b.drop c).take 64) r.reg r.grp r.descAddr r.since)
      | none => none) }
  ov.foldl (fun (h : Hart) (c : Nat × Nat) => (upTo (sh.liveCount c.1)).foldl (fun (h : Hart) i =>
      let off := c.2 + i * (w / 8)
      let h := h.setElem w c.1 i (field b off (w / 8))
      if pois off then h.poisonElem w c.1 i else h) h) (h.undefV t)

end Sys2Proof.Machine
end

