-- ==== Sys2Proof/Machine/Process.lean ====
section
/-! DEFINITION. Processes over their lives: channels' readiness, run queues, switching out and becoming ready, the
entry into the supervisor's handler, the core dump, and the end of a process with all that follows from it (R22 to R31,
R48, R192, R296, R338, R339, R360, R361, R373 to R379, R384, R458, R478, R479). -/

namespace Sys2Proof.Machine

/-! ### Channels (R22, R25, R28, R30, R374) -/

/-- Whether a channel holds a slot or the token that its consumer has not read. -/
def Chan.readable (c : Chan) : Bool := c.wr != c.rd

/-- Whether every slot of the ring is taken. -/
def Chan.full (c : Chan) : Bool := (c.wr - c.rd).toNat == 2 ^ c.k

/-- Whether the consumer has reached the end-of-stream token. -/
def Chan.atToken (c : Chan) : Bool := c.token == some c.rd

/-- The rank entry's bits (R373). -/
def entryEnded (e : Word) : Bool := e.getLsbD 34
/-- In transit or not yet placed. -/
def entryTransit (e : Word) : Bool := e.getLsbD 33
/-- Placed. -/
def entryPlaced (e : Word) : Bool := e.getLsbD 32

/-- The rank entry of a rank. -/
def Network.entry (n : Network) (r : Nat) : Word := n.entries.getD r 0x200000000#64

/-- Whether the consumer of a channel has ended (R30). -/
def Network.consumerEnded (n : Network) (c : Chan) : Bool :=
  match c.cons with
  | .rank r => entryEnded (n.entry r)
  | .host _ => false

/-- Whether a write of a channel waits: the ring is full, or the consumer's entry is in transit (R25, R30, R374). -/
def Network.writeWaits (n : Network) (c : Chan) : Bool :=
  !n.consumerEnded c && (c.full || (match c.cons with | .rank r => entryTransit (n.entry r) | .host _ => false))

/-- The channel with the end-of-stream token in its next slot (R28, R29). -/
def Chan.close (c : Chan) : Chan := if c.closed then c else { c with closed := true, token := some c.wr, wr := c.wr + 1 }

/-- The channel index and end of a port of a process. -/
def Proc.port (q : Proc) (p : Nat) : Option PortRef := (q.ports[p]?).join

/-- The channel that a port of a process names. -/
def State.portChan (s : State) (q : Proc) (p : Nat) : Option (Network × Nat × Chan) :=
  match s.net? q.pid.netid, q.port p with
  | some n, some r => (n.chans[r.chan]?).map (fun c => (n, r.chan, c))
  | _, _ => none

/-! ### Run queues (R377) -/

/-- The state with a process at the tail, or the head, of its level of a tile's run queue. -/
def State.enqueue (s : State) (t : Nat) (p : Pid) (level : BitVec 4) (head : Bool) : State :=
  let tl := s.tile t
  let l := tl.queue[level.toNat]'(level.isLt)
  s.setTile t { tl with queue := tl.queue.set level.toNat (if head then p :: l else l ++ [p]) level.isLt }

/-- The state with a process in no run queue of a tile. -/
def State.dequeue (s : State) (t : Nat) (p : Pid) : State :=
  let tl := s.tile t
  s.setTile t { tl with queue := tl.queue.map (fun l => l.filter (fun q => decide (q ≠ p))) }

/-- Whether the condition that a switched-out process waits for holds (R48, R192). -/
def State.waitOver (s : State) (q : Proc) (w : Wait) : Bool :=
  let rd := fun (p : Nat) => match s.portChan q p with
    | some (_, _, c) => c.readable
    | none => true
  let wr := fun (p : Nat) => match s.portChan q p with
    | some (n, _, c) => !n.writeWaits c
    | none => true
  match w with
  | .crd _ _ p => rd p.toNat
  | .crdm _ _ p _ => rd p.toNat
  | .vcrd _ _ p => rd p.toNat
  | .cwr _ p => wr p.toNat
  | .cwrm _ p _ => wr p.toNat
  | .vcwr _ p => wr p.toNat
  | .cclose p => wr p.toNat
  | .waitt t => decide (t.toNat ≤ s.time.toNat)
  | _ => true

/-- Whether a process comes before another: by NETID, then rank (R377). -/
def Pid.before (a b : Pid) : Bool := decide (a.netid < b.netid) || (a.netid == b.netid && decide (a.rank ≤ b.rank))

/-- A process put into a list by NETID, then rank. -/
def procIn (q : Proc) : List Proc → List Proc
  | [] => [q]
  | x :: l => if q.pid.before x.pid then q :: x :: l else x :: procIn q l

/-- The processes by increasing NETID, then rank. -/
def State.procsInOrder (s : State) : List Proc := s.procs.foldr procIn []

/-- A switched-out process whose wait is over joins the tail of its level (R377). -/
def State.wakeOne (s : State) (q : Proc) : State :=
  match q.status with
  | .switchedOut w =>
    if s.waitOver q w then
      (s.mapProc q.pid (fun q => { q with status := .ready true })).enqueue q.tile q.pid q.level false
    else s
  | _ => s

/-- Every switched-out process whose wait is over joins the tail of its level, by NETID and rank (R377). -/
def State.wakeReady (s : State) : State := s.procsInOrder.foldl (fun s q => s.wakeOne q) s

/-! ### Trap entry at P (R338, R339, R342, R345) -/

/-- A trap: its cause, value, element, resume address, and what the chain's records hold. -/
structure TrapRec where
  cause : BitVec 8
  val : Word
  elem : Nat
  pc : Word
  tdone : BitVec 256
  prog : Option TProg
  tmap : BitVec 1024
deriving DecidableEq, Repr

/-- The instruction that a trap stops before ERET has re-issued it: the oldest that waits for that, where the trap has no
instruction of its own. It keeps its record and its marks (R342, R345). -/
def Hart.pending (h : Hart) (t : TrapRec) : Option Replay :=
  if h.current = none ∧ t.prog = none then h.replay.head? else none

/-- The records of TPROG0 to TPROG3 at a trap: the trapping instruction's, and while ERET replays, those of the
instructions it has not re-issued yet; a re-issued instruction that traps is always recorded (R342, R345). -/
def Hart.progs (h : Hart) (t : TrapRec) : Vector (Option TProg) 4 :=
  let rest := h.replay.map (fun (x : Replay) => { x.entry with f := false })
  let l := match h.current with
    | none => match h.pending t with
      | some r => { r.entry with f := true } :: rest.drop 1
      | none => t.prog.toList ++ rest
    | some r => (t.prog.getD { r.entry with f := true }) :: rest
  Vector.ofFn (fun n : Fin 4 => l[n.val]?)

/-- The entry into S on a hart that trapped at P (R339): the records are written, the privilege becomes S and the PC
the handler's address. While ERET replays, TPC keeps its value (R345). -/
def Hart.enterS (h : Hart) (tvec : BitVec 21) (t : TrapRec) : Hart :=
  { h with
    status := .running
    priv := .s
    pc := tvec.setWidth 64
    pchild := h.parent.isSome
    pfork := h.parent.isSome || h.child.isSome
    tpc := match h.current with | none => t.pc | some _ => h.tpc
    tcause := t.cause
    tval := t.val
    telem := match h.pending t with | some r => r.entry.prog | none => BitVec.ofNat 17 t.elem
    tdone := match h.pending t with | some r => r.skip | none => t.tdone
    tprog := h.progs t
    tmap := t.tmap
    chanWait := none
    replay := []
    current := none }

/-- The M counterpart of a trap's record (R331, R339). -/
def Hart.enterM (h : Hart) (priv : BitVec 1) (t : TrapRec) : Hart :=
  { h with
    priv := .m
    pc := h.mtvec.setWidth 64
    mppriv := priv
    mpchild := h.parent.isSome
    mpfork := h.parent.isSome || h.child.isSome
    mtpc := t.pc
    mtcause := t.cause
    mtval := t.val
    telem := BitVec.ofNat 17 t.elem
    tdone := t.tdone
    tprog := Vector.ofFn (fun n : Fin 4 => if n.val = 0 then t.prog else none)
    tmap := t.tmap
    replay := []
    current := none }

/-- A trap that uses no field but its cause, at an instruction's address. -/
def simpleTrap (cause : BitVec 8) (val : Word) (pc : Word) : TrapRec := ⟨cause, val, 0, pc, 0, none, 0⟩

/-! ### Messages to the host (R451 to R453) -/

/-- A connection. -/
def State.conn? (s : State) (c : Nat) : Option Conn := s.conns.find? (fun x => x.id == c)

/-- The state with a connection changed. -/
def State.mapConn (s : State) (c : Nat) (f : Conn → Conn) : State :=
  { s with conns := s.conns.map (fun x => if x.id = c then f x else x) }

/-- The highest number that a connection has received in order and performed: none that comes after a held message. -/
def Conn.ack (x : Conn) : Nat :=
  match x.held with
  | [] => x.rxSeq
  | (_, m) :: _ => m.seq - 1

/-- The 32-byte header of a frame (R452). -/
def frameHead (cls vdid ep seq ack len frag : Nat) : List Byte :=
  leBytes 2 0x4748 ++ leBytes 1 1 ++ leBytes 1 cls ++ leBytes 2 vdid ++ leBytes 2 ep ++ leBytes 8 seq ++ leBytes 8 ack ++
  leBytes 4 len ++ leBytes 2 frag ++ leBytes 2 0

/-- The fragments of a message's bytes, of at most 8,192 bytes each (R451, R452); an empty message is one.
DESIGN CHOICE: the 8,192 bytes are counted after the header, and every fragment but the last holds as many. -/
def fragments (bs : List Byte) : List (List Byte) :=
  (upTo (Nat.max 1 ((bs.length + 8191) / 8192))).map (fun j => (bs.drop (8192 * j)).take 8192)

/-- The frames of a message, which acknowledge what its connection has received (R452). -/
def OutMsg.frames (vdid ack : Nat) (m : OutMsg) : List (List Byte) :=
  let fs := fragments m.payload
  fs.mapIdx (fun j f => frameHead m.cls vdid m.endpoint m.seq ack f.length
    (j + if j + 1 = fs.length then 0x8000 else 0) ++ f)

/-- A message sent on a connection: numbered, kept until it is acknowledged, and put into frames. -/
def State.sendTo (s : State) (x : Conn) (m : OutMsg) : State :=
  let m := { m with seq := x.txSeq + 1 }
  { s.mapConn x.id (fun x => { x with txSeq := x.txSeq + 1, unacked := x.unacked ++ [m], acked := x.ack }) with
    sent := s.sent ++ (m.frames x.vdid x.ack).map (fun f => (x.id, f)) }

/-- The state with a message to be sent to the host of a device, on its first connection (`State.pumpOut`). -/
def State.sendMsg (s : State) (vdid cls ep : Nat) (chan : Option (Nat × Nat)) (payload : List Byte) : State :=
  { s with unsent := s.unsent ++ [(vdid, ⟨0, cls, ep, chan, payload⟩)] }

/-- A slot or a token of a channel sent to its host consumer; those of the launch channel go to the placement engine
instead (R365). -/
def State.sendSlot (s : State) (vdid ep netid chan : Nat) (payload : List Byte) : State :=
  if ep = 0xFFFF then s else s.sendMsg vdid 3 ep (some (netid, chan)) payload

/-- The end-of-stream tokens that go to hosts when a rank's channels are closed (R29, R453). -/
def State.sendTokens (s : State) (n : Network) (rank : Nat) : State :=
  (n.chans.mapIdx (fun i c => (i, c))).foldl (fun s ic =>
    match ic.2.cons with
    | .host ep => if ic.2.prod = .rank rank ∧ !ic.2.closed then s.sendSlot n.vdid ep n.netid ic.1 [] else s
    | .rank _ => s) s

/-! ### Reports about processes (R458) -/

/-- The code of a reason in the process-ended report. -/
def EndReason.code : EndReason → Nat
  | .halt => 0 | .haltAtS => 1 | .endRequest => 2 | .unsealed => 3 | .watchdogSave => 4 | .tileStopped => 5
  | .supervisorFault => 6 | .monitorFault => 7 | .tmUnreadable => 8 | .launchConflict => 9

/-- Whether the reason declares the process lost (R361). -/
def EndReason.lost : EndReason → Bool
  | .unsealed | .watchdogSave | .tileStopped | .tmUnreadable | .monitorFault => true
  | _ => false

/-- Report kind 7. -/
def endedBody (rank : Nat) (r : EndReason) (cause val : Word) : List Byte :=
  leBytes 4 rank ++ leBytes 1 r.code ++ leBytes 3 0 ++ leBytes 8 cause.toNat ++ leBytes 8 val.toNat

/-- Report kind 10: a capture block of a rank (R477). -/
def State.sendCapture (s : State) (q : Proc) : State :=
  s.report q.vdid 10 0 q.pid.netid (leBytes 4 q.pid.rank ++ leBytes 4 0 ++ { q.capture with active := false }.bytes)

/-! ### Core dump (R479) -/

/-- The CSR value of a TPROG entry (R334). -/
def tprogWord : Option TProg → Word
  | none => 0
  | some t => BitVec.ofNat 64 ((if t.v then 2 ^ 63 else 0) + (if t.f then 2 ^ 62 else 0) + t.pc.toNat * 2 ^ 38 +
      t.vl.toNat * 2 ^ 21 + t.prog.toNat)

/-- TSTATUS (R333). -/
def Hart.tstatus (h : Hart) : Word :=
  BitVec.ofNat 64 ((if h.pchild then 8 else 0) + (if h.pfork then 4 else 0))

/-- The trap record section: each CSR as eight bytes, in the order of R479. -/
def Hart.dumpTrap (h : Hart) : List Byte :=
  leBytes 8 h.tstatus.toNat ++ leBytes 8 h.tpc.toNat ++ leBytes 8 h.tcause.toNat ++ leBytes 8 h.tval.toNat ++
  leBytes 8 h.telem.toNat ++ leBytes 32 h.tdone.toNat ++
  h.tprog.toList.flatMap (fun t => leBytes 8 (tprogWord t).toNat) ++
  h.tprog.toList.flatMap (fun t => leBytes 8 ((t.map TProg.xa).getD 0).toNat) ++
  h.tprog.toList.flatMap (fun t => leBytes 8 ((t.map TProg.xb).getD 0).toNat) ++
  leBytes 128 h.tmap.toNat ++ leBytes 8 h.steepcnt.toNat ++ leBytes 8 h.steeplim.toNat

/-- The register section. -/
def Hart.dumpRegs (h : Hart) : List Byte :=
  let w := vtSew h.vtype
  let per := vlenOf h.lanes (vtRc h.vtype) / w
  (h.x.toList.drop 1).flatMap (fun v => leBytes 8 v.toNat) ++ h.fixedBlock 0 ++
  (upTo (vtRc h.vtype)).flatMap (fun j => (upTo per).flatMap (fun i => leBytes (w / 8) (h.elem w j i))) ++
  (h.p.toList.drop 1).flatMap (fun v =>
    leBytes ((vlmaxOf h.lanes h.vtype + 63) / 64 * 8) (v.toNat % 2 ^ vlmaxOf h.lanes h.vtype)) ++
  h.e.toList.flatMap (fun a => leBytes 536 a.toNat) ++
  h.m.toList.flatMap (fun b => (upTo (64 * h.lanes)).flatMap (fun i => leBytes 16 (b.get i).toNat)) ++
  h.streams.toList.flatMap (fun o => (o.map Binding.bytes).getD [])

/-- The kernel block with a map of its granule bits. -/
def State.dumpTm (s : State) (q : Proc) : List Byte :=
  let k := tmKey q.tile q.kbase
  s.tm.bytes k q.klen ++ (upTo ((q.klen + 511) / 512)).map (fun i => BitVec.ofNat 8
    ((upTo 8).foldl (fun v b => if setHas s.tmFull (k / 64 + 8 * i + b) then v + 2 ^ b else v) 0))

/-- A source's byte as the engine would take it now. -/
def State.sourceByte (s : State) : Source → Byte
  | .lit b => b
  | .tm k => s.tm.read k
  | .gm p => s.gmByte (s.slotKey p.slot) p.addr

/-- The entries of an instruction's withdrawn bytes, each with its virtual address, its element and its source: one per 8
aligned bytes and element (R479). -/
def State.storeEntries (s : State) (pc : Nat) (bs : List (Nat × Nat × Source)) : List Byte :=
  ((bs.map (fun b => (b.1 / 8, b.2.1))).eraseDups).flatMap (fun we =>
    let mine := bs.filter (fun b => b.1 / 8 == we.1 && b.2.1 == we.2)
    let data := mine.foldl (fun v b => v + (s.sourceByte b.2.2).toNat * 256 ^ (b.1 % 8)) 0
    let mask := mine.foldl (fun v b => v + 2 ^ (b.1 % 8)) 0
    leBytes 8 (8 * we.1) ++ leBytes 8 data ++ leBytes 1 mask ++
      leBytes 1 (if Config.inFabric s.ticks we.1 then 2 else 1) ++ leBytes 2 we.2 ++ leBytes 4 pc ++ leBytes 8 0)

/-- The in-flight stores of asynchronous writers that a dump withdraws. -/
def State.dumpStores (s : State) (as : List AsyncWrite) : List Byte :=
  as.flatMap (fun a => a.chunks.flatMap (fun c => if c.toTm then [] else
    s.storeEntries a.pc (c.bytes.map (fun b => (b.va.toNat, b.elem, b.src)))))

/-- The bytes of a process's DSENDs that a dump withdraws, at their addresses in the receivers' regions. -/
def State.dumpSends (s : State) (p : Pid) : List Byte :=
  (s.net? p.netid).toList.flatMap (fun n => n.groups.flatMap (fun g =>
    (g.members.filter (fun m => m.rank == p.rank)).flatMap (fun m => m.exch.toList.flatMap (fun x =>
      (x.wire ++ x.flights).flatMap (fun f =>
        let base := (((g.members[f.receiver]?).bind (·.exch)).map (·.rbase.toNat)).getD 0 + f.offset
        s.storeEntries f.pc (f.sources.mapIdx (fun j b => (base + j, 0, b))))))))

/-- The transfer record of a pending command, 64 bytes: the command, the issuing hart, its address, and PROG (R405, R479).
DESIGN CHOICE: the spec gives no layout. -/
def AsyncWrite.dumpRecord (a : AsyncWrite) : List Byte :=
  padTo 40 (a.cmd.flatMap (fun w => leBytes 8 w.toNat)) ++
    leBytes 8 ((a.owner.map (fun h => 8 * h.tile + h.front)).getD 0) ++ leBytes 8 a.pc ++ leBytes 8 (a.prog.getD 0)

/-- The pieces of a list of sections on 64-byte boundaries that fit in a length: presence, offset and bytes. -/
def fitSections (len off : Nat) : List (List Byte) → List (Bool × Nat × List Byte)
  | [] => []
  | b :: bs =>
    if b.isEmpty ∨ len < off + b.length then (false, 0, []) :: fitSections len off bs
    else (true, off, b ++ List.replicate ((64 - b.length % 64) % 64) 0) ::
      fitSections len (off + (b.length + 63) / 64 * 64) bs

/-- A byte put behind the bytes of its granule. -/
def chunkAdd (toTm : Bool) (slot : Nat) (b : PendByte) : List Chunk → List Chunk
  | [] => [⟨toTm, slot, b.key / 64, [b]⟩]
  | c :: cs => if c.granule = b.key / 64 then { c with bytes := c.bytes ++ [b] } :: cs else c :: chunkAdd toTm slot b cs

/-- The bytes of a virtual range as pending bytes, where the range translates. -/
def pendLits (l : List (Nat × TlbEntry × Phys)) (va : Nat) (bs : List Byte) : List (Nat × PendByte) :=
  bs.mapIdx (fun j b => let p := physIn l (va + j); (p.slot, ⟨p.addr, .lit b, BitVec.ofNat 64 (va + j), 0, j⟩))

/-- Bytes with their key slots as chunks, one for each granule, so that a granule is marked after all of them (R119). -/
def chunksBySlot (toTm : Bool) (bs : List (Nat × PendByte)) : List Chunk :=
  bs.foldl (fun cs b => chunkAdd toTm b.1 b.2 cs) []

/-- Bytes of a command numbered in its byte order (R405). -/
def numbered (bs : List (Nat × PendByte)) : List (Nat × PendByte) := bs.mapIdx (fun i b => (b.1, { b.2 with pos := i }))

/-! ### Performing and marking (R119, R253, R419) -/

/-- Whether the word or granule that a source byte lies in is poisoned. -/
def State.sourcePois (s : State) : Source → Bool
  | .lit _ => false
  | .tm k => setHas s.tmPois (k / 8)
  | .gm p => setHas s.gmPois (p.addr / 64)

/-- The keys over n that bytes touch, each with the bytes that lie in it. -/
def unitsOf (n : Nat) (bs : List PendByte) : List (Nat × List PendByte) :=
  ((bs.map (fun b => b.key / n)).eraseDups).map (fun u => (u, bs.filter (fun b => b.key / n == u)))

/-- Whether bytes cover a unit of n keys whole. -/
def coversUnit (n u : Nat) (bs : List PendByte) : Bool := (upTo n).all (fun j => bs.any (fun b => b.key == n * u + j))

/-- The bytes that stay where a list writes some places more than once: the last to each (R250). -/
def finals (bs : List PendByte) : List PendByte :=
  bs.foldr (fun b l => if l.any (fun c => c.key == b.key) then l else b :: l) []

/-- The bytes of a chunk written to tile memory: a protection word that takes poison keeps it, unless what stays in it is
written whole and clean (R250, R253, R416). -/
def State.putTm (s : State) (bs : List PendByte) : State :=
  let pois := fun (l : List PendByte) => l.any (fun b => s.sourcePois b.src)
  let t := { s with tm := bs.foldl (fun m b => m.write b.key (s.sourceByte b.src)) s.tm }
  (unitsOf 8 bs).foldl (fun (t : State) u =>
    let t := if pois u.2 then t.poisonTm u.1 else t
    if coversUnit 8 u.1 u.2 && !pois (finals u.2) then { t with tmPois := setDel t.tmPois u.1 } else t) t

/-- The bytes of a chunk written to global memory, as one request: a granule that takes poison keeps it, unless what stays in
it is written whole and clean (R250, R253, R419). -/
def State.putGm (s : State) (slot netid : Nat) (bs : List PendByte) : State :=
  let pois := fun (l : List PendByte) => l.any (fun b => s.sourcePois b.src)
  let t := bs.foldl (fun (t : State) b => t.gmStore ⟨b.key, slot, 0⟩ [s.sourceByte b.src]) s
  (unitsOf 64 bs).foldl (fun (t : State) u =>
    let was := setHas t.gmPois u.1
    let t := if pois u.2 then t.poisonGm u.1 netid else t
    if coversUnit 64 u.1 u.2 && !pois (finals u.2) then { t with gmPois := setDel t.gmPois u.1 }
    else if was && !pois u.2 then t.partialStoreEvent u.1 netid
    else t) t

/-- The endpoint of a chunk of global memory. -/
def Chunk.endpoint (c : Chunk) : Nat := 64 * c.granule / Config.localBytes

/-- The device of a pending write. -/
def State.asyncVdid (s : State) (a : AsyncWrite) : Nat := ((a.pid.bind s.proc?).map (·.vdid)).getD 0xFFFF

/-- The record of a lost store: a chunk's endpoint-local granule, byte mask and network. Tile memory has no endpoint-local
address, so there ADDR is 0. -/
def State.lostStore (s : State) (ep : Nat) (a : AsyncWrite) (c : Chunk) : State :=
  s.fail ⟨5, 0xFF, ep, s.asyncVdid a, s.time, (a.pid.map (·.netid)).getD 0,
    if c.toTm then 0 else BitVec.ofNat 64 (64 * c.granule % Config.localBytes),
    BitVec.ofNat 64 (c.bytes.foldl (fun m b => m ||| 2 ^ (b.key % 64)) 0)⟩

/-! ### The bytes of DSENDs that cannot be sent (R290, R361) -/

/-- The physical address of the byte at an offset of a receive region. -/
def Exchange.phys (x : Exchange) (off : Nat) : Phys :=
  let va := x.rbase.toNat + off
  let k := va / 4096 - x.rbase.toNat / 4096
  let p := x.rpages.getD k ⟨0, 0, 0⟩
  { p with addr := p.addr + (if k = 0 then off else va % 4096) }

/-- Whether an exchange is settled (R292). -/
def Exchange.settled (x : Exchange) (members : Nat) : Bool := x.closings == members && x.pending == 0

/-- The open exchange of member i. -/
def Group.exch? (q : Group) (i : Nat) : Option Exchange := (q.members[i]?).bind (·.exch)

/-- A flight without its first k bytes. -/
def Flight.drop (f : Flight) (k : Nat) : Flight := ⟨f.receiver, f.offset + k, f.va + BitVec.ofNat 64 k, f.sources.drop k, f.pc⟩

/-- A flight cut where granules of the receive region end; the fuel is its length. -/
def Flight.cut : Nat → Flight → List Flight
  | 0, _ => []
  | n + 1, f =>
    if f.sources.isEmpty then []
    else
      let k := Nat.min f.sources.length (64 - f.offset % 64)
      { f with sources := f.sources.take k } :: Flight.cut n (f.drop k)

/-- The pieces of flights, each in one granule. -/
def piecesOf (l : List Flight) : List Flight := l.flatMap (fun f => Flight.cut f.sources.length f)

/-- Where a piece of a flight goes in a group: nothing where its receiver has no exchange open. -/
def Group.dest (g : Group) (f : Flight) : Option Phys := (g.exch? f.receiver).map (fun x => x.phys f.offset)

/-- Whether a piece of a flight cannot be performed: a source or the endpoint that it goes to is lost. -/
def Group.cannot (g : Group) (lost : Source → Bool) (gone : Nat → Bool) (f : Flight) : Bool :=
  f.sources.any lost || (g.dest f).any (fun p => gone (p.addr / Config.localBytes))

/-- The record of a lost piece of a DSEND of a network (R445). -/
def State.lostSend (s : State) (n : Network) (g : Group) (f : Flight) : State :=
  let a := ((g.dest f).map (·.addr)).getD 0
  s.fail ⟨5, 0xFF, a / Config.localBytes, n.vdid, s.time, n.netid, BitVec.ofNat 64 (a / 64 * 64 % Config.localBytes),
    BitVec.ofNat 64 ((2 ^ f.sources.length - 1) * 2 ^ (a % 64))⟩

/-- The DSENDs of the processes that a test names without the granules that cannot be performed, each of them a lost store
(R361, R445). -/
def State.loseSends (s : State) (p : Pid → Bool) (lost : Source → Bool) (gone : Nat → Bool) : State :=
  let bad := s.nets.flatMap (fun n => n.groups.flatMap (fun g => (g.members.filter (fun m => p ⟨n.netid, m.rank⟩)).flatMap
    (fun m => (m.exch.map (fun x => ((piecesOf (x.wire ++ x.flights)).filter (g.cannot lost gone)).map (fun f => (n, g, f)))).getD [])))
  let t := bad.foldl (fun (s : State) b => s.lostSend b.1 b.2.1 b.2.2) s
  if bad.isEmpty then s
  else { t with nets := s.nets.map (fun n => { n with groups := n.groups.map (fun g => { g with members := g.members.map (fun m =>
      if p ⟨n.netid, m.rank⟩ then { m with exch := m.exch.map (fun x => { x with
        wire := (piecesOf x.wire).filter (fun f => !g.cannot lost gone f)
        flights := (piecesOf x.flights).filter (fun f => !g.cannot lost gone f) }) } else m) }) }) }

/-- Whether a pending write is one of a process that was declared lost (R361). -/
def State.lostWriter (s : State) (a : AsyncWrite) : Bool :=
  match a.pid.bind s.proc? with
  | some q => (match q.status with | .ended r => r.lost | _ => false)
  | none => false

/-- A chunk of a network's writer performed: its bytes written, then its granule marked full. -/
def State.doChunk (s : State) (netid : Nat) (c : Chunk) : State :=
  if c.toTm then (s.putTm c.bytes).setTmFull c.granule true
  else (s.putGm c.slot netid c.bytes).setGmFull c.granule true

/-! ### A transfer command stopped (R372, R405, R479) -/

/-- Whether a command is stopped. -/
def AsyncWrite.stopped (a : AsyncWrite) : Bool := a.prog.isSome

/-- The place in the byte order behind the last byte of a chunk. -/
def Chunk.upTo (c : Chunk) : Nat := c.bytes.foldl (fun n b => Nat.max n (b.pos + 1)) 0

/-- The point at which a command stops, a multiple of 8 in its byte order: behind every byte performed (R405). -/
def AsyncWrite.stopPoint (a : AsyncWrite) (choice : Nat) : Nat :=
  let total := a.chunks.foldl (fun n c => Nat.max n c.upTo) a.reached
  a.reached + 8 * (choice % ((total - a.reached) / 8 + 1))

/-- The part of a chunk before a stop point performed; its granule is marked if nothing of it is left. -/
def State.doBefore (s : State) (netid point : Nat) (c : Chunk) : State :=
  if c.bytes.all (fun b => decide (b.pos < point)) then s.doChunk netid c
  else
    let bs := c.bytes.filter (fun b => decide (b.pos < point))
    if c.toTm then s.putTm bs else s.putGm c.slot netid bs

/-- What is left of a chunk behind a stop point. -/
def Chunk.after (point : Nat) (c : Chunk) : Option Chunk :=
  let bs := c.bytes.filter (fun b => decide (point ≤ b.pos))
  if bs.isEmpty then none else some { c with bytes := bs }

/-- The transfer commands that a test names stopped: each at a point in its byte order, with every byte before it
performed and none after it, and PROG, the bytes performed (R405). -/
def State.stopCmds (s : State) (f : AsyncWrite → Bool) : State :=
  let go := fun (a : AsyncWrite) => decide (a.writer = .engine) && !a.stopped && f a
  let point := fun (i : Nat) (a : AsyncWrite) => a.stopPoint (Config.stopPoint s.ticks i)
  let l := s.asyncs.mapIdx (fun i a => (i, a))
  let t := l.foldl (fun (t : State) ia => if go ia.2 then
      ia.2.chunks.foldl (fun (t : State) c => t.doBefore ((ia.2.pid.map (·.netid)).getD 0) (point ia.1 ia.2) c) t
    else t) s
  { t with asyncs := l.map (fun ia => if go ia.2 then { ia.2 with
      chunks := ia.2.chunks.filterMap (Chunk.after (point ia.1 ia.2))
      reached := point ia.1 ia.2
      prog := some (point ia.1 ia.2) }
    else ia.2) }

/-- A byte of a stopped command with its global address translated again (R405); nothing where that fails. -/
def State.retranslate (s : State) (d : VDev) (toTm : Bool) (b : PendByte) : Option (Nat × PendByte) :=
  match s.xlateEngine d (if toTm then .r else .w) b.va.toNat with
  | .error _ => none
  | .ok r => some (if toTm then (0, { b with src := .gm r.2 }) else (r.2.slot, { b with key := r.2.addr }))

/-- The state after the addresses of a stopped command are translated for its rest: A, and D for a write, in the leaves
(R389). -/
def State.resumeUse (s : State) (d : VDev) (toTm : Bool) (bs : List PendByte) : State :=
  ((bs.map (fun b => b.va.toNat / 4096)).eraseDups).foldl (fun (s : State) p =>
    match s.xlateEngine d (if toTm then .r else .w) (4096 * p) with
    | .ok r => s.setAD d (if toTm then .r else .w) r.1
    | .error _ => s) s

/-- A stopped command resumed from PROG, its addresses translated again; one whose addresses no longer translate is
abandoned. -/
def State.resumeCmd (s : State) (a : AsyncWrite) : Option AsyncWrite :=
  if !a.stopped then some a
  else match (a.pid.bind s.proc?).bind (fun q => s.vdev? q.vdid) with
    | none => none
    | some d =>
      let toTm := a.chunks.any (·.toTm)
      let bs := (a.chunks.flatMap (·.bytes)).map (s.retranslate d toTm)
      if bs.any (·.isNone) then none
      else some { a with prog := none, chunks := chunksBySlot toTm (bs.filterMap id) }

/-- The stopped commands that a test names resumed (R405). -/
def State.resumeCmds (s : State) (f : AsyncWrite → Bool) : State :=
  let t : State := { s with asyncs := s.asyncs.filterMap (fun a => if f a then s.resumeCmd a else some a) }
  (s.asyncs.filter (fun a => f a && a.stopped)).foldl (fun (t : State) a =>
    match (a.pid.bind s.proc?).bind (fun q => s.vdev? q.vdid) with
    | some d => t.resumeUse d (a.chunks.any (·.toTm)) (a.chunks.flatMap (·.bytes))
    | none => t) t

/-! ### The dump -/

/-- The dump entry that acts on a process: the lowest of kind 6, if it matches (R470, R479). -/
def Hart.dumpEntry (h : Hart) (netid : Nat) : Option DbgEntry :=
  (h.dbg.find? (fun d => d.kind == 6)).filter (fun d => d.netid == 0 || d.netid == netid)

/-- The sends of a rank withdrawn: no byte of them lands any more (R479). -/
def State.dropFlights (s : State) (p : Pid) : State :=
  s.mapNet p.netid (fun n => { n with groups := n.groups.map (fun g => { g with
    members := g.members.map (fun m => if m.rank = p.rank then
      { m with exch := m.exch.map (fun x => { x with flights := [], wire := [] }) } else m) }) })

/-- The core dump of a process that ends on a hart, where a dump entry acts: its unperformed stores are withdrawn, and
the dump is written by an asynchronous writer whose header granule is marked last. An area whose addresses fail
translation gets no dump. -/
def State.coreDump (s : State) (h : Hart) (q : Proc) : State :=
  match h.dumpEntry q.pid.netid, s.vdev? q.vdid with
  | some d, some dev =>
    let s := s.stopCmds (fun a => a.pid == some q.pid)
    let sends := s.dumpSends q.pid
    let s := s.dropFlights q.pid
    let mine := s.asyncs.filter (fun a => a.pid == some q.pid)
    let transfers := (mine.filter (fun a => decide (a.writer = .engine))).map AsyncWrite.dumpRecord
    let secs := fitSections d.len.toNat 64 [h.dumpTrap, h.dumpRegs, s.dumpTm q,
      s.dumpStores (mine.filter (fun a => decide (a.writer ≠ .engine))) ++ sends, transfers.flatten,
      if q.capture.active then q.capture.bytes else []]
    let hdr := leBytes 4 0x434F5245 ++ leBytes 4 1 ++ leBytes 4 q.pid.netid ++ leBytes 4 q.pid.rank ++
      leBytes 8 h.tcause.toNat ++ leBytes 8 s.time.toNat ++ leBytes 4 (1 + (secs.filter (·.1)).length) ++
      leBytes 4 0 ++ secs.flatMap (fun x => leBytes 4 x.2.1)
    let mask := secs.foldr (fun x m => 2 * m + (if x.1 then 1 else 0)) 0 * 2 + 1
    let body := secs.flatMap (·.2.2)
    let va := d.addr.toNat
    match s.xlateRange (fun s a => s.xlateEngine dev .w a) va (64 + body.length) with
    | .error _ => { s with asyncs := s.asyncs.filter (fun a => a.pid != some q.pid) }
    | .ok l =>
      let s := l.foldl (fun (s : State) e => s.setAD dev .w e.2.1) s
      let bytes := pendLits l (va + 64) body
      let head := pendLits l va hdr
      let rep := leBytes 4 q.pid.rank ++ leBytes 4 mask ++ leBytes 8 va ++ leBytes 8 (64 + body.length)
      { s with asyncs := s.asyncs.filter (fun a => a.pid != some q.pid) ++
          [⟨.dump, none, none, 0, chunksBySlot false bytes ++ chunksBySlot false head, some ⟨false, q.vdid, 11, 0, q.pid.netid, rep⟩, 0, none, [], []⟩] }
  | _, _ => s

/-! ### The wear charge of a process (R427, R429, R433) -/

/-- The largest number of n bits that a test admits, where the test admits every smaller one too. -/
def largest (ok : Nat → Bool) : Nat → Nat → Nat
  | 0, acc => acc
  | n + 1, acc => largest ok n (if ok (acc + 2 ^ n) then acc + 2 ^ n else acc)

/-- Whether n · q ≤ p · 2^(k / 200), and whether the two are equal. -/
def belowPow (p q : Nat) (k : Int) (n : Nat) : Bool :=
  decide ((n * q) ^ 200 * 2 ^ (-k).toNat ≤ p ^ 200 * 2 ^ k.toNat)
/-- Equality of the same two numbers. -/
def exactPow (p q : Nat) (k : Int) (n : Nat) : Bool :=
  decide ((n * q) ^ 200 * 2 ^ (-k).toNat = p ^ 200 * 2 ^ k.toNat)

/-- p / q · 2^(k / 200), rounded to one of the two nearest numbers where it is none. -/
def roundPow (ticks item p q : Nat) (k : Int) : Nat :=
  let n := largest (belowPow p q k) 64 0
  n + if Config.roundUp ticks item && !exactPow p q k n then 1 else 0

/-- The exponent of S(V, T) = 2^((V - 0.75) / 0.04) · 2^((T - 85) / 10) in two-hundredths, by mV and tenths of a degree
(R427). -/
def stressExp (milliVolt deciCelsius : Nat) : Int := 5 * ((milliVolt : Int) - 750) + 2 * ((deciCelsius : Int) - 850)

/-- The clock of an operating point in units of 50 MHz (R433). -/
def pointClock (point : Nat) : Nat := [24, 31, 38, 45].getD point 45

/-- The charge of c cycles that a process held one of H harts, in units of 2^-20 wear units: c · S / (f · H) (R429). -/
def chargeOf (ticks item c f harts milliVolt deciCelsius : Nat) : Nat :=
  roundPow ticks item c (f * harts) (stressExp milliVolt deciCelsius + 4000)

/-- An island as power-on leaves it (R434). -/
def Island.powerOn : Island := ⟨3, 3, 95, 0, 3, false, false, none⟩

/-- An island by number. -/
def State.island (s : State) (i : Nat) : Island := (numGet s.islands i).getD Island.powerOn

/-- The charge of the cycles that a process has held its hart on its tile since it was last charged (R429). -/
def State.dueCharge (s : State) (q : Proc) : Nat :=
  let x := ((s.tile q.tile).stress).getD (Config.firstStress q.tile)
  chargeOf s.ticks (q.pid.rank + 1) q.held (50000000 * pointClock (s.island (Config.islandOf q.tile)).point)
    (2 ^ (s.tile q.tile).lpart.toNat) x.1 x.2

/-- A process charged for the cycles that it has held its hart so far. -/
def State.settleCharge (s : State) (p : Pid) : State :=
  s.mapProc p (fun q => if q.held = 0 then q else { q with charge := q.charge + s.dueCharge q, held := 0 })

/-! ### The end of a process -/

/-- A hart freed: idle, with the lanes that its children held (R33, R348). The M CSRs are the monitor's and stay. -/
def Hart.free (h : Hart) (full : Nat) : Hart :=
  { Hart.powerOn h.id h.lane0 full with
    dbg := h.dbg, traceSeq := h.traceSeq, leave := h.leave, rotor := h.rotor, code := h.code
    mtvec := h.mtvec
    mtscratch := h.mtscratch
    mppriv := h.mppriv, mpfork := h.mpfork, mpchild := h.mpchild
    mtpc := h.mtpc, mtcause := h.mtcause, mtval := h.mtval }

/-- Lanes of a hart under its tile's partition (R33). -/
def Tile.hartLanes (t : Tile) : Nat := 32 / 2 ^ t.lpart.toNat

/-- Whether a hart belongs to its tile's partition, and is not a child of FORKL. -/
def State.isBase (s : State) (h : Hart) : Bool := h.lane0 % (s.tile h.id.tile).hartLanes == 0

/-- Every hart that a process occupies freed; the children's harts pass away (R348, R384). A selected child's place is
taken by an idle hart of the tile. -/
def State.freeHarts (s : State) (p : Pid) : State :=
  let mine := fun (h : Hart) => h.pid == some p
  let fr := fun (h : Hart) => if mine h then h.free (s.tile h.id.tile).hartLanes else h
  let keep := s.others.filter (fun h => !(mine h && !s.isBase h))
  if mine s.hart && !s.isBase s.hart then
    match keep with
    | h :: rest => { s with hart := fr h, others := rest.map fr }
    | [] => { s with hart := fr s.hart, others := [] }
  else { s with hart := fr s.hart, others := keep.map fr }

/-- The members of a group that wait in a barrier which an ended member had not completed trap TIMEOUT with its index
(R296). -/
def State.barrierEnded (s : State) (netid g member : Nat) (ranks : List Nat) : State :=
  s.mapHarts (fun h =>
    match h.status, h.pid with
    | .blocked (.barrier g'), some p =>
      if g' = g ∧ p.netid = netid ∧ ranks.contains p.rank then
        h.enterS (s.tile h.id.tile).tvec (simpleTrap 0x0F (BitVec.ofNat 64 member) h.pc)
      else h
    | _, _ => h)

/-- Whether a member completes the barrier it waits in although some members are gone: the barrier is over, and those had
completed it (R296). -/
def Group.completes (q : Group) (gone : Member → Bool) (m : Member) : Bool :=
  m.leaving.isSome && !q.members.any (fun x => gone x && x.leaving.isSome)

/-- The barrier of a group ended for members that are gone, with the index of the first: those who wait in it trap, and
arrivals are taken back, but for the members that complete it (R296). -/
def State.endBarrier (s : State) (netid g : Nat) (q : Group) (gone : Member → Bool) : State :=
  match q.members.findIdx? gone with
  | none => s
  | some k =>
    (s.barrierEnded netid g k ((q.members.filter (fun m => !gone m && !q.completes gone m)).map (·.rank))).mapNet netid
      (fun n => { n with groups := n.groups.modify g (fun q => { q with
        members := q.members.map (fun m => if q.completes gone m then m else { m with arrival := none, leaving := none }) }) })

/-- The effect of a rank's end on the groups it belongs to. -/
def State.endGroups (s : State) (netid rank : Nat) : State :=
  match s.net? netid with
  | none => s
  | some n => (n.groups.mapIdx (fun i g => (i, g))).foldl (fun s ig => s.endBarrier netid ig.1 ig.2 (fun m => m.rank == rank)) s

/-- What follows when a process has ended, whatever ended it: tokens in the channels it produces (R29), its rank entry
ENDED, writes to the channels it consumes discarded from then on (R30), its harts freed, its context area and its place
in the run queue given up, the capture block sent (R477), waiting barrier members trapped (R296), and writers and
readers that the end lets proceed made ready (R48). -/
def State.finishProc (s : State) (q : Proc) (r : EndReason) (cause val : Word) : State :=
  let s := if q.capture.active then s.sendCapture q else s
  let s := (s.settleCharge q.pid).mapProc q.pid (fun q => { q with
    status := .ended r, capture := { q.capture with active := false }, stopDue := false })
  let s := match s.net? q.pid.netid with
    | some n => s.sendTokens n q.pid.rank
    | none => s
  let s := s.mapNet q.pid.netid (fun n => { n with
    chans := n.chans.map (fun c => if c.prod = .rank q.pid.rank then c.close else c)
    entries := n.entries.modify q.pid.rank (fun e => (e ||| 0x400000000#64) &&& ~~~0x200000000#64)
    changedAt := s.time, deadlockTold := false })
  let s := (s.dequeue q.tile q.pid).freeHarts q.pid
  let s := if r = .halt then s else s.report q.vdid 7 0 q.pid.netid (endedBody q.pid.rank r cause val)
  (s.endGroups q.pid.netid q.pid.rank).wakeReady

/-- Ends a process that occupies a hart, or none, as HALT at S does (R348, R360, R384), after the dump where one acts
(R479). DESIGN CHOICE: of a forked process the dump has the trap record and the registers of the hart selected, where that
is one of its two, else of the first found. -/
def State.endProc (s : State) (p : Pid) (r : EndReason) (cause val : Word) : State :=
  match s.proc? p with
  | none => s
  | some q =>
    match q.status with
    | .ended _ => s
    | _ =>
      let s := if r = .haltAtS ∨ r = .supervisorFault then
        match s.harts.find? (fun h => h.pid == some p) with
        | some h => s.coreDump h q
        | none => s
      else s
      s.finishProc q r cause val

end Sys2Proof.Machine
end

