-- ==== Sys2Proof/Machine/Ops.lean ====
section
/-! DEFINITION. Taking a trap and returning from one, the early tests that every instruction passes, the steep counter,
and the waits of a hart (R156, R195, R196, R338 to R349, R471, R472, R480). -/

namespace Sys2Proof.Machine

/-- The trap causes (R18). -/
def causeIllegal : BitVec 8 := 0x01
/-- PRIV. -/
def causePriv : BitVec 8 := 0x02
/-- MISALIGN. -/
def causeMisalign : BitVec 8 := 0x03
/-- XLATE. -/
def causeXlate : BitVec 8 := 0x04
/-- PROT. -/
def causeProt : BitVec 8 := 0x05
/-- POISON. -/
def causePoison : BitVec 8 := 0x06
/-- VCFG. -/
def causeVcfg : BitVec 8 := 0x07
/-- STEEP. -/
def causeSteep : BitVec 8 := 0x08
/-- CHAN. -/
def causeChan : BitVec 8 := 0x09
/-- STREAM. -/
def causeStream : BitVec 8 := 0x0A
/-- MATRIX. -/
def causeMatrix : BitVec 8 := 0x0B
/-- EXCHG. -/
def causeExchg : BitVec 8 := 0x0C
/-- SYSC. -/
def causeSysc : BitVec 8 := 0x0D
/-- BRK. -/
def causeBrk : BitVec 8 := 0x0E
/-- TIMEOUT. -/
def causeTimeout : BitVec 8 := 0x0F
/-- MCAST. -/
def causeMcast : BitVec 8 := 0x10
/-- WATCHDOG. -/
def causeWatchdog : BitVec 8 := 0x11

/-- The cause of a failed translation. -/
def XFault.cause : XFault → BitVec 8
  | .xlate => causeXlate
  | .prot => causeProt

/-! ### Taking a trap (R338, R339, R480) -/

/-- Report kind 12: a trap at S or at M. -/
def faultBody (rank : Nat) (t : TrapRec) : List Byte :=
  leBytes 4 rank ++ leBytes 4 0 ++ leBytes 8 t.pc.toNat ++ leBytes 8 t.cause.toNat ++ leBytes 8 t.val.toNat

/-- The M record, and what fetch sees, put back on a hart that the end of its process has freed. -/
def Hart.keepM (h m : Hart) : Hart :=
  { h with
    priv := m.priv, pc := m.pc, mppriv := m.mppriv, mpchild := m.mpchild, mpfork := m.mpfork
    mtpc := m.mtpc, mtcause := m.mtcause, mtval := m.mtval, code := m.code }

/-- A trap of the selected hart at S (R338): the M record, the monitor ends the process as HALT at S does and reports a
supervisor fault. -/
def State.trapAtS (s : State) (t : TrapRec) : State :=
  let m := s.hart.enterM 1 t
  let s := { s with hart := m }
  match m.pid with
  | none => { s with hart := { s.hart with status := .running } }
  | some p =>
    let vd := ((s.proc? p).map (·.vdid)).getD 0
    let s := s.report vd 12 0 p.netid (faultBody p.rank t)
    let s := s.endProc p .supervisorFault (t.cause.setWidth 64) t.val
    s.mapHarts (fun h => if h.id = m.id then h.keepM m else h)

/-- A trap of the selected hart at M (R480): the hart parks, the monitor reports it, also to the host supervisor of a process
on the hart (R458), which is lost. -/
def State.trapAtM (s : State) (t : TrapRec) : State :=
  let m := { s.hart.enterM s.hart.mppriv t with status := .parked }
  let s := { s with hart := m }
  let s : State := match m.pid with
    | none => s.reportMgmt 12 0 (faultBody 0 t)
    | some p =>
      let vd := ((s.proc? p).map Proc.vdid).getD 0
      let s := (s.report vd 12 0 p.netid (faultBody p.rank t)).reportMgmtNet 12 0 p.netid (faultBody p.rank t)
      s.endProc p .monitorFault (t.cause.setWidth 64) t.val
  s.mapHarts (fun h => if h.id = m.id then { h.keepM m with status := .parked } else h)

/-- Taking a trap on the selected hart: the one operation behind every trap. -/
def State.takeTrap (s : State) (t : TrapRec) : State :=
  match s.hart.priv with
  | .p => { s with hart := s.hart.enterS s.myTile.tvec t }
  | .s => s.trapAtS t
  | .m => s.trapAtM t

/-- The address of the instruction that the selected hart executes. -/
def State.instrPc (s : State) : Word :=
  match s.hart.current with
  | none => s.hart.pc
  | some r => r.entry.pc.setWidth 64

/-- A trap whose resume address is the instruction itself: steps 1 to 7, and every instruction without vector
operands (R341). -/
def State.trap (s : State) (cause : BitVec 8) (val : Word) : State := s.takeTrap (simpleTrap cause val s.hart.pc)

/-- A trap of an instruction that is over: its resume address is the next instruction (R197, R248, R347). -/
def State.trapAfter (s : State) (cause : BitVec 8) (val : Word) (elem : Nat) (tmap : BitVec 1024) : State :=
  let t := s.advance
  t.takeTrap ⟨cause, val, elem, t.hart.pc, 0, none, tmap⟩

/-- The elements from a new PROG on that an earlier stop of the instruction left done. -/
def State.doneFrom (s : State) (prog : Nat) : BitVec 256 :=
  match s.hart.current with
  | none => 0
  | some r => if r.entry.prog.toNat ≤ prog then r.skip >>> (prog - r.entry.prog.toNat) else 0

/-- A step-8 stop of an instruction with elements (R342): the record of the instruction in TPROG0 with the operands it
read at issue, what it has overwritten, and fetch to resume at the next instruction. -/
def State.stopWith (s : State) (shadow : List (Nat × Byte × Bool)) (w : IWord) (xa xb : Word) (cause : BitVec 8) (val : Word)
    (elem prog : Nat) (tdone : BitVec 256) : State :=
  let rec0 : TProg := ⟨true, true, s.instrPc.setWidth 21, BitVec.ofNat 17 s.vlen, BitVec.ofNat 17 prog, w, xa, xb,
    ⟨s.doneFrom prog, shadow⟩⟩
  s.takeTrap ⟨cause, val, elem, s.hart.pc + 4, tdone, some rec0, 0⟩

/-- The same of an instruction that has overwritten nothing since it was issued or re-issued. -/
def State.stopAt (s : State) (w : IWord) (xa xb : Word) (cause : BitVec 8) (val : Word) (elem prog : Nat)
    (tdone : BitVec 256) : State :=
  s.stopWith (match s.hart.current with | none => [] | some r => r.entry.kept.shadow) w xa xb cause val elem prog tdone

/-! ### Returning (R345, R470, R472) -/

/-- The elements from PROG on that TDONE marks: bit k of it stands for element TELEM + k (R234). -/
def Hart.marked (h : Hart) (prog : Nat) : BitVec 256 :=
  if prog ≤ h.telem.toNat then h.tdone <<< (h.telem.toNat - prog) else h.tdone >>> (prog - h.telem.toNat)

/-- The instructions that ERET re-issues: the recorded entries in order, the trapping one with TDONE. -/
def Hart.replays (h : Hart) : List Replay :=
  h.tprog.toList.filterMap (fun o => match o with
    | some t => if t.v then some ⟨t, t.kept.done ||| (if t.f then h.marked t.prog.toNat else 0)⟩ else none
    | none => none)

/-- The debug-table entry whose match is passed over once after ERET. -/
def Hart.passOver (h : Hart) : Option Nat :=
  if h.tcause = causeBrk ∧ 0x10000 ≤ h.tval.toNat then some (h.tval.toNat - 0x10000) else none

/-- ERET at S: back to P at TPC, the recorded instructions to be re-issued first. A program counter is always a multiple
of 4 (R157), so the low two bits of what a supervisor wrote to TPC are dropped. -/
def State.eretS (s : State) : State :=
  let h := s.hart
  { s with hart := { h.readDebug (s.debugTable h.id.tile) with
      replay := h.replays
      noMatch := h.passOver
      tprog := h.tprog.map (fun o => o.map (fun t => { t with v := false }))
      tdone := 0
      priv := .p
      pc := h.tpc &&& ~~~3 } }

/-- ERET at M: back to MTSTATUS.PPRIV at MTPC. -/
def State.eretM (s : State) : State :=
  let h := s.hart
  { s with hart := { h.readDebug (if h.mppriv = 0 then s.debugTable h.id.tile else h.dbg) with
      priv := if h.mppriv = 0 then .p else .s
      pc := h.mtpc &&& ~~~3 } }

/-! ### The early tests (R156) -/

/-- What an instruction meets at steps 2 to 7 of R156, and the units it counts. TVAL is the word for PRIV and the port
for CHAN. -/
structure Gate where
  units : Nat
  priv : Bool
  vcfg : Bool
  stream : Bool
  chan : Bool
  matrix : Bool
  port : Word
deriving DecidableEq, Repr

/-- The gate of an instruction that counts one unit and meets no early condition. -/
def gate1 : Gate := ⟨1, false, false, false, false, false, 0⟩

/-- Whether counting u units would take STEEPCNT past STEEPLIM; tested at P, and not for a replay (R196, R329, R345).
SAFE, which counts no unit, never raises STEEP (R193). -/
def State.steepOver (s : State) (u : Nat) : Bool :=
  decide (0 < u) && decide (s.hart.priv = .p) && s.hart.current.isNone && decide (s.hart.steeplim.toNat < s.hart.steepcnt.toNat + u)

/-- The state with u units counted: the steep counter, the quantum count and the capture block at P (R195, R329,
R478). -/
def State.count (s : State) (u : Nat) : State :=
  match s.hart.priv with
  | .p =>
    let s := { s with hart := { s.hart with
      steepcnt := s.hart.steepcnt + BitVec.ofNat 32 u, qcount := s.hart.qcount + u } }
    match s.hart.pid with
    | none => s
    | some p => s.mapProc p (fun q => if q.capture.active then
        { q with capture := { q.capture with steep := q.capture.steep + BitVec.ofNat 64 u } } else q)
  | _ => s

/-- The state with u units that were counted taken back, at the moment at which their instruction is issued again and counts
them (R261). -/
def State.uncount (s : State) (u : Nat) : State :=
  match s.hart.priv with
  | .p =>
    let s := { s with hart := { s.hart with
      steepcnt := s.hart.steepcnt - BitVec.ofNat 32 u, qcount := s.hart.qcount - u } }
    match s.hart.pid with
    | none => s
    | some p => s.mapProc p (fun q => if q.capture.active then
        { q with capture := { q.capture with steep := q.capture.steep - BitVec.ofNat 64 u } } else q)
  | _ => s

/-- The shape of every instruction: steps 2 to 7 of R156 in order, the units counted once the STEEP test is passed,
then the instruction's own body. -/
def State.issue (s : State) (w : IWord) (g : Gate) (body : State → State) : State :=
  if g.priv then s.trap causePriv (w.setWidth 64)
  else if s.steepOver g.units then s.trap causeSteep 0
  else
    let s := s.count g.units
    if g.vcfg then s.trap causeVcfg 0
    else if g.stream then s.trap causeStream 0
    else if g.chan then s.trap causeChan g.port
    else if g.matrix then s.trap causeMatrix 0
    else body s

/-- The same for an instruction that reads scalar registers: a poisoned one traps POISON at step 8 (R412). -/
def State.issueX (s : State) (w : IWord) (g : Gate) (reads : List (BitVec 5)) (body : State → State) : State :=
  s.issue w g (fun s => if reads.any s.xPoisoned then s.trap causePoison 0 else body s)

/-- An instruction of the scalar front end that counts one unit, writes x[d] and goes on. -/
def State.scalar (s : State) (w : IWord) (reads : List (BitVec 5)) (d : BitVec 5) (v : Word) : State :=
  s.issueX w gate1 reads (fun s => (s.setX d v).advance)

/-- Whether the selected hart is at P. -/
def State.atP (s : State) : Bool := decide (s.hart.priv = .p)

/-- Whether the process of the selected hart is in the forked state (R43). -/
def State.forked (s : State) : Bool := s.hart.child.isSome || s.hart.parent.isSome

/-! ### The debug table (R470, R471) -/

/-- The element that the instruction of the selected hart begins with: a replay's PROG, else 0 (R345). -/
def State.startElem (s : State) : Nat :=
  match s.hart.current with
  | none => 0
  | some r => r.entry.prog.toNat

/-- Whether element i is where an instruction begins again: a replay's first element, or the element at which it
stopped, where it re-executes from element 0 (R472). -/
def State.firstElem (s : State) (i : Nat) : Bool :=
  i == s.startElem || (s.hart.current.isSome && i == s.hart.telem.toNat)

/-- The entry of a hart's debug table that acts on it at P; at the first element after ERET the entry that stopped it is
passed over (R472). -/
def State.dbgActs (s : State) (first : Bool) (f : DbgEntry → Bool) : Option Nat :=
  if s.atP then
    (s.hart.dbg.mapIdx (fun n e => (n, e))).findSome? (fun ne =>
      if f ne.2 && (ne.2.netid == 0 || some ne.2.netid == s.hart.pid.map (·.netid)) &&
        !(first && s.hart.noMatch == some ne.1)
      then some ne.1 else none)
  else none

/-- The instruction breakpoint at an address that needs no element (R471). -/
def State.breakAt (s : State) (pc : Word) : Option Nat :=
  s.dbgActs true (fun e => e.kind == 1 && !e.elem && e.addr == pc)

/-- The entry that stops element i of the instruction at its address. -/
def State.breakElem (s : State) (i : Nat) : Option Nat :=
  s.dbgActs (s.firstElem i) (fun e => e.kind == 1 && e.elem && e.addr == s.instrPc && decide (e.element % 2 ^ 17 = i))

/-- TVAL of a trap by entry n of the debug table. -/
def brkVal (n : Nat) : Word := BitVec.ofNat 64 (0x10000 + n)

/-- Whether an expiry of the hang watchdog stops the instruction under way at element i. -/
def State.expired (s : State) (i : Nat) : Bool := s.hart.expireAt.any (fun k => decide (k ≤ i))

/-- What stops an instruction at element i before the conditions of its data: an expiry of the hang watchdog from that
element on (R342), or the entry of the debug table for it (R471). -/
def State.haltElem (s : State) (i : Nat) : Option (BitVec 8 × Word) :=
  if s.expired i then some (causeWatchdog, 0)
  else (s.breakElem i).map (fun n => (causeBrk, brkVal n))

/-- The watch that an access by element i of n bytes meets, in TM or global memory (R471). -/
def State.watchHit (s : State) (inTm load store : Bool) (i va n : Nat) : Option Nat :=
  s.dbgActs (s.firstElem i) (fun e =>
    ((e.kind == 2 && load) || (e.kind == 3 && store) || (e.kind == 4 && (load || store))) &&
    e.tmsp == inTm && (!e.elem || decide (e.element % 2 ^ 17 = i)) &&
    decide (va < e.addr.toNat + e.len.toNat) && decide (e.addr.toNat < va + n))

/-- What an instruction comes to. -/
abbrev Out := Host.Outcome State Fault Refusal

/-! ### Waiting -/

/-- The state with the selected hart blocked. -/
def State.block (s : State) (w : Wait) : State := { s with hart := { s.hart with status := .blocked w } }

/-- The state with the selected hart running again. -/
def State.unblock (s : State) : State := { s with hart := { s.hart with status := .running } }

end Sys2Proof.Machine
end

