-- ==== Sys2Proof/Machine/Flags.lean ====
section
/-! DEFINITION. Number formats, exact values, every rounding and every flag: the arithmetic of "Number Formats and Exact
Arithmetic" (R79 to R107), as functions of bits that give bits and the FFLAGS bits they raise. -/

namespace Sys2Proof.Machine

/-! ### The flags (R63) -/

/-- A set of FFLAGS bits. -/
abbrev FFlags := BitVec 5
/-- Invalid operation. -/
def flagNV : FFlags := 0x10
/-- Division by zero. -/
def flagDZ : FFlags := 0x08
/-- Overflow. -/
def flagOF : FFlags := 0x04
/-- Underflow. -/
def flagUF : FFlags := 0x02
/-- Inexact. -/
def flagNX : FFlags := 0x01

/-- One flag raised on a condition. -/
def flagIf (f : FFlags) (b : Bool) : FFlags := if b then f else 0

/-! ### Formats (R79, R80) -/

/-- The six floating-point formats. -/
inductive Fmt where
  | fp64 | fp32 | fp16 | bf16 | e4m3 | e5m2
deriving DecidableEq, Repr

/-- Width in bits. -/
def Fmt.width : Fmt → Nat
  | .fp64 => 64 | .fp32 => 32 | .fp16 => 16 | .bf16 => 16 | .e4m3 => 8 | .e5m2 => 8
/-- Exponent bits. -/
def Fmt.ebits : Fmt → Nat
  | .fp64 => 11 | .fp32 => 8 | .fp16 => 5 | .bf16 => 8 | .e4m3 => 4 | .e5m2 => 5
/-- Fraction bits. -/
def Fmt.frac : Fmt → Nat
  | .fp64 => 52 | .fp32 => 23 | .fp16 => 10 | .bf16 => 7 | .e4m3 => 3 | .e5m2 => 2
/-- Exponent bias. -/
def Fmt.bias (f : Fmt) : Nat := 2 ^ (f.ebits - 1) - 1
/-- The sign bit's weight. -/
def Fmt.signBit (f : Fmt) : Nat := 2 ^ (f.width - 1)
/-- The encoding of the largest finite value without its sign. -/
def Fmt.maxBits : Fmt → Nat
  | .e4m3 => 0x7E
  | f => (2 ^ f.ebits - 1) * 2 ^ f.frac - 1
/-- The encoding of +∞; E4M3 has none. -/
def Fmt.infBits (f : Fmt) : Nat := (2 ^ f.ebits - 1) * 2 ^ f.frac
/-- The canonical NaN (R81). -/
def Fmt.nanBits : Fmt → Nat
  | .e4m3 => 0x7F
  | f => (2 ^ f.ebits - 1) * 2 ^ f.frac + 2 ^ (f.frac - 1)

/-- The format of elements at SEW and FMT (R200). -/
def fmtOf (sew fmt : Nat) : Fmt :=
  if sew = 64 then .fp64 else if sew = 32 then .fp32
  else if sew = 16 then (if fmt = 0 then .fp16 else .bf16) else if fmt = 0 then .e4m3 else .e5m2

/-- A value: NaN, signalling or quiet; an infinity; or (-1)^neg × m × 2^e. -/
inductive FVal where
  | nan (signalling : Bool)
  | inf (neg : Bool)
  | fin (neg : Bool) (m : Nat) (e : Int)
deriving DecidableEq, Repr

/-- The value of an encoding (R79, R80). -/
def Fmt.decode (f : Fmt) (b : Nat) : FVal :=
  let neg := b.testBit (f.width - 1)
  let e := b / 2 ^ f.frac % 2 ^ f.ebits
  let m := b % 2 ^ f.frac
  let top := 2 ^ f.ebits - 1
  if f = .e4m3 ∧ e = top ∧ m = 7 then .nan false
  else if f ≠ .e4m3 ∧ e = top then (if m = 0 then .inf neg else .nan (!m.testBit (f.frac - 1)))
  else if e = 0 then .fin neg m (1 - (f.bias : Int) - f.frac)
  else .fin neg (m + 2 ^ f.frac) ((e : Int) - f.bias - f.frac)

/-- Whether a value is a NaN. -/
def FVal.isNan : FVal → Bool
  | .nan _ => true | _ => false
/-- Whether a value is a signalling NaN. -/
def FVal.isSig : FVal → Bool
  | .nan s => s | _ => false
/-- The value with its sign inverted. -/
def FVal.neg : FVal → FVal
  | .nan s => .nan s
  | .inf n => .inf (!n)
  | .fin n m e => .fin (!n) m e

/-- Encoded bits with their sign. -/
def Fmt.signed (f : Fmt) (neg : Bool) (b : Nat) : Nat := if neg then b + f.signBit else b

/-! ### Rounding (R83 to R86, R96) -/

/-- How a rounding chooses between neighbours: a mode of VTYPE.RM, or a stochastic draw's upper word u. -/
inductive RDir where
  | mode (rm : Nat)
  | draw (u : Nat)
deriving DecidableEq, Repr

/-- Whether the upper neighbour of a magnitude is taken: `rem` of 2^k lies above the lower one, a little more when
`sticky`; `odd` is the lower one's last bit. -/
def RDir.up (d : RDir) (neg odd : Bool) (rem k : Nat) (sticky : Bool) : Bool :=
  let inexact := decide (rem ≠ 0) || sticky
  match d with
  | .mode 0 => decide (2 ^ k < 2 * rem) || (decide (2 * rem = 2 ^ k) && (sticky || odd))
  | .mode 1 => false
  | .mode 2 => neg && inexact
  | .mode 3 => !neg && inexact
  | .mode _ => decide (2 ^ k ≤ 2 * rem)
  | .draw u => decide (u * 2 ^ k < rem * 2 ^ 32)

/-- A magnitude m × 2^-k, a little more when sticky, rounded to an integer; whether that is inexact. -/
def roundMag (d : RDir) (neg : Bool) (m k : Nat) (sticky : Bool) : Nat × Bool :=
  let lo := m / 2 ^ k
  let rem := m % 2 ^ k
  (if d.up neg (lo % 2 == 1) rem k sticky then lo + 1 else lo, decide (rem ≠ 0) || sticky)

/-- What an overflow delivers (R84), without the sign. -/
def Fmt.overflow (f : Fmt) (d : RDir) (neg : Bool) : Nat :=
  if f = .e4m3 then f.maxBits
  else match d with
    | .mode 1 => f.maxBits
    | .mode 2 => if neg then f.infBits else f.maxBits
    | .mode 3 => if neg then f.maxBits else f.infBits
    | _ => f.infBits

/-- round(fmt, ·, ±m × 2^e) for m > 0, the exact value a little larger in magnitude when sticky (R83 to R86). A sticky
value must have more bits than the format. -/
def Fmt.roundFin (f : Fmt) (d : RDir) (neg : Bool) (m : Nat) (e : Int) (sticky : Bool) : Nat × FFlags :=
  let emin : Int := 1 - (f.bias : Int)
  let q : Int := max (e + (Nat.log2 m : Int)) emin - f.frac
  let r := if q ≤ e then (m * 2 ^ (e - q).toNat, false) else roundMag d neg m (q - e).toNat sticky
  -- a carry out of the fraction moves to the next binade
  let rq := if r.1 = 2 ^ (f.frac + 1) then (2 ^ f.frac, q + 1) else (r.1, q)
  let bits := if rq.1 < 2 ^ f.frac then rq.1
    else (rq.2 + f.frac + f.bias).toNat * 2 ^ f.frac + (rq.1 - 2 ^ f.frac)
  if f.maxBits < bits then (f.signed neg (f.overflow d neg), flagOF ||| flagNX)
  else (f.signed neg bits, flagIf flagNX r.2 ||| flagIf flagUF (r.2 && decide (bits < 2 ^ f.frac)))

/-- round(fmt, ·, v) of a value (R83, R84, R88): a signalling NaN raises NV, and so does an infinity that E4M3 cannot
hold. -/
def Fmt.round (f : Fmt) (d : RDir) : FVal → Nat × FFlags
  | .nan s => (f.nanBits, flagIf flagNV s)
  | .inf n => if f = .e4m3 then (f.signed n f.maxBits, flagNV) else (f.signed n f.infBits, 0)
  | .fin n m e => if m = 0 then (f.signed n 0, 0) else f.roundFin d n m e false

/-! ### Exact operations -/

/-- Whether a rounding is toward -∞. -/
def RDir.isDown : RDir → Bool
  | .mode 2 => true | _ => false

/-- The exact sum of two finite values; an exact zero takes the sign of R86. -/
def addFin (down : Bool) (na : Bool) (ma : Nat) (ea : Int) (nb : Bool) (mb : Nat) (eb : Int) : FVal :=
  let e := min ea eb
  let a : Int := (ma : Int) * 2 ^ (ea - e).toNat
  let b : Int := (mb : Int) * 2 ^ (eb - e).toNat
  let s := (if na then -a else a) + (if nb then -b else b)
  if s = 0 then .fin (if na = nb then na else down) 0 0 else .fin (decide (s < 0)) s.natAbs e

/-- The exact sum, with NV for an invalid one (R87). -/
def FVal.add (down : Bool) : FVal → FVal → FVal × FFlags
  | .nan s, b => (.nan false, flagIf flagNV (s || b.isSig))
  | a, .nan s => (.nan false, flagIf flagNV (s || a.isSig))
  | .inf x, .inf y => if x = y then (.inf x, 0) else (.nan false, flagNV)
  | .inf x, _ => (.inf x, 0)
  | _, .inf y => (.inf y, 0)
  | .fin na ma ea, .fin nb mb eb => (addFin down na ma ea nb mb eb, 0)

/-- The exact product, with NV for 0 × ∞ or a signalling operand (R87). -/
def FVal.mul : FVal → FVal → FVal × FFlags
  | .nan s, b => (.nan false, flagIf flagNV (s || b.isSig))
  | a, .nan s => (.nan false, flagIf flagNV (s || a.isSig))
  | .inf x, .inf y => (.inf (x != y), 0)
  | .inf x, .fin n m _ => if m = 0 then (.nan false, flagNV) else (.inf (x != n), 0)
  | .fin n m _, .inf x => if m = 0 then (.nan false, flagNV) else (.inf (x != n), 0)
  | .fin na ma ea, .fin nb mb eb => (.fin (na != nb) (ma * mb) (ea + eb), 0)

/-- Whether an exact product is the invalid one 0 × ∞. -/
def FVal.mulInvalid (a b : FVal) : Bool := !a.isNan && !b.isNan && (a.mul b).1.isNan

/-- A rounded result with flags raised before it. -/
def withFlags (r : Nat × FFlags) (f : FFlags) : Nat × FFlags := (r.1, r.2 ||| f)

/-- VFADD (R87). -/
def Fmt.add (f : Fmt) (d : RDir) (a b : Nat) : Nat × FFlags :=
  let r := (f.decode a).add d.isDown (f.decode b)
  withFlags (f.round d r.1) r.2

/-- VFSUB. -/
def Fmt.sub (f : Fmt) (d : RDir) (a b : Nat) : Nat × FFlags :=
  let r := (f.decode a).add d.isDown (f.decode b).neg
  withFlags (f.round d r.1) r.2

/-- VFMUL. -/
def Fmt.mul (f : Fmt) (d : RDir) (a b : Nat) : Nat × FFlags :=
  let r := (f.decode a).mul (f.decode b)
  withFlags (f.round d r.1) r.2

/-- VFDIV (R87): the quotient formed to at least 70 bits, with the rest as sticky. -/
def Fmt.div (f : Fmt) (d : RDir) (a b : Nat) : Nat × FFlags :=
  match f.decode a, f.decode b with
  | .nan s, y => (f.nanBits, flagIf flagNV (s || y.isSig))
  | x, .nan s => (f.nanBits, flagIf flagNV (s || x.isSig))
  | .inf _, .inf _ => (f.nanBits, flagNV)
  | .inf x, .fin n _ _ => (f.signed (x != n) f.infBits, 0)
  | .fin n _ _, .inf x => (f.signed (n != x) 0, 0)
  | .fin na ma ea, .fin nb mb eb =>
    let neg := na != nb
    if mb = 0 then
      if ma = 0 then (f.nanBits, flagNV)
      else if f = .e4m3 then (f.signed neg f.maxBits, flagDZ ||| flagNX)
      else (f.signed neg f.infBits, flagDZ)
    else if ma = 0 then (f.signed neg 0, 0)
    else
      let sh := 72 + Nat.log2 mb
      let n := ma * 2 ^ sh
      f.roundFin d neg (n / mb) (ea - eb - sh) (n % mb != 0)

/-- The integer square root, bit by bit from bit k down. -/
def isqrtFrom (n : Nat) : Nat → Nat → Nat
  | 0, r => if (r + 1) * (r + 1) ≤ n then r + 1 else r
  | k + 1, r => isqrtFrom n k (if (r + 2 ^ (k + 1)) * (r + 2 ^ (k + 1)) ≤ n then r + 2 ^ (k + 1) else r)

/-- ⌊√n⌋. -/
def isqrt (n : Nat) : Nat := isqrtFrom n (Nat.log2 n / 2) 0

/-- VFSQRT (R87): the root formed to at least 70 bits. -/
def Fmt.sqrt (f : Fmt) (d : RDir) (a : Nat) : Nat × FFlags :=
  match f.decode a with
  | .nan s => (f.nanBits, flagIf flagNV s)
  | .inf n => if n then (f.nanBits, flagNV) else (f.infBits, 0)
  | .fin n m e =>
    if m = 0 then (f.signed n 0, 0)
    else if n then (f.nanBits, flagNV)
    else
      let odd := (e % 2).toNat
      let v := m * 2 ^ odd * 2 ^ 144
      let r := isqrt v
      f.roundFin d false r ((e - odd) / 2 - 72) (r * r != v)

/-- The fused forms (R87, R212): the product and the addend with their signs as given, rounded once. -/
def Fmt.fma (f : Fmt) (d : RDir) (negP negC : Bool) (a b c : Nat) : Nat × FFlags :=
  let x := f.decode a
  let y := f.decode b
  let z := f.decode c
  if x.mulInvalid y then (f.nanBits, flagNV)
  else
    let p := x.mul y
    let p1 := if negP then p.1.neg else p.1
    let r := p1.add d.isDown (if negC then z.neg else z)
    withFlags (f.round d r.1) (p.2 ||| r.2)

/-- The order of two values that are not NaN, with −0 below +0 (R103). -/
def FVal.ltTotal : FVal → FVal → Bool
  | .inf x, .inf y => x && !y
  | .inf x, _ => x
  | _, .inf y => !y
  | .fin na ma ea, .fin nb mb eb =>
    if ma = 0 ∧ mb = 0 then na && !nb
    else match addFin false na ma ea (!nb) mb eb with
      | .fin n m _ => n && decide (m ≠ 0)
      | _ => false
  | _, _ => false

/-- Whether two values that are not NaN are equal, with −0 equal to +0 (R210). -/
def FVal.eqv : FVal → FVal → Bool
  | .inf x, .inf y => x == y
  | .fin na ma ea, .fin nb mb eb =>
    match addFin false na ma ea (!nb) mb eb with
    | .fin _ m _ => m == 0
    | _ => false
  | _, _ => false

/-- The smaller, or the larger, of two elements (R103). -/
def Fmt.minmax (f : Fmt) (wantMax : Bool) (a b : Nat) : Nat × FFlags :=
  let x := f.decode a
  let y := f.decode b
  let fl := flagIf flagNV (x.isSig || y.isSig)
  if x.isNan && y.isNan then (f.nanBits, fl)
  else if x.isNan then (b, fl)
  else if y.isNan then (a, fl)
  else if x.ltTotal y == wantMax then (b, fl) else (a, fl)

/-- The conditions of VFCMP (R210). -/
inductive FCond where
  | eq | ne | lt | le | gt | ge | un
deriving DecidableEq, Repr

/-- A floating-point comparison with its NV. -/
def Fmt.compare (f : Fmt) (c : FCond) (a b : Nat) : Bool × FFlags :=
  let x := f.decode a
  let y := f.decode b
  let nan := x.isNan || y.isNan
  let sig := flagIf flagNV (x.isSig || y.isSig)
  let any := flagIf flagNV nan
  let eq := !nan && x.eqv y
  let lt := !nan && !x.eqv y && x.ltTotal y
  let gt := !nan && !x.eqv y && y.ltTotal x
  match c with
  | .eq => (eq, sig)
  | .ne => (!eq, sig)
  | .lt => (lt, any)
  | .le => (lt || eq, any)
  | .gt => (gt, any)
  | .ge => (gt || eq, any)
  | .un => (nan, sig)

/-- The class number of an element (R211). -/
def Fmt.classify (f : Fmt) (a : Nat) : Nat :=
  match f.decode a with
  | .nan s => if s then 8 else 9
  | .inf n => if n then 0 else 7
  | .fin n m _ =>
    if m = 0 then (if n then 3 else 4)
    else if m < 2 ^ f.frac then (if n then 2 else 5)
    else if n then 1 else 6

/-! ### Conversions (R88 to R90, R94) -/

/-- The formats in the order of their source codes (R154). -/
def fmtCode : Nat → Fmt
  | 0 => .e4m3 | 1 => .e5m2 | 2 => .fp16 | 3 => .bf16 | 4 => .fp32 | _ => .fp64

/-- Whether a conversion is narrowing (R88). -/
def narrowing (src dst : Fmt) : Bool :=
  match src, dst with
  | .fp64, .fp64 => false
  | .fp64, _ => true
  | .fp32, .fp64 => false | .fp32, .fp32 => false
  | .fp32, _ => true
  | .fp16, .bf16 => true | .bf16, .fp16 => true
  | .fp16, .e4m3 => true | .fp16, .e5m2 => true | .bf16, .e4m3 => true | .bf16, .e5m2 => true
  | .e5m2, .e4m3 => true | .e4m3, .e5m2 => true
  | _, _ => false

/-- ±m × 2^e rounded to an integer, and whether that is inexact. -/
def roundInt (d : RDir) (neg : Bool) (m : Nat) (e : Int) : Int × Bool :=
  if 0 ≤ e then (let v : Int := (m : Int) * 2 ^ e.toNat; (if neg then -v else v, false))
  else
    let r := roundMag d neg m (-e).toNat false
    (if neg then -(r.1 : Int) else (r.1 : Int), r.2)

/-- A floating-point value as an integer of w bits (R89). -/
def toInt (d : RDir) (sgn : Bool) (w : Nat) (v : FVal) : Nat × FFlags :=
  let hi : Int := if sgn then 2 ^ (w - 1) - 1 else 2 ^ w - 1
  let lo : Int := if sgn then -(2 ^ (w - 1)) else 0
  match v with
  | .nan _ => (0, flagNV)
  | .inf n => (wrapNat w (if n then lo else hi), flagNV)
  | .fin n m e =>
    let r := roundInt d n m e
    if hi < r.1 then (wrapNat w hi, flagNV)
    else if r.1 < lo then (wrapNat w lo, flagNV)
    else (wrapNat w r.1, flagIf flagNX r.2)

/-- An integer as a floating-point value (R90). -/
def Fmt.ofInt (f : Fmt) (d : RDir) (v : Int) : Nat × FFlags := f.round d (.fin (decide (v < 0)) v.natAbs 0)

/-- A value as a block integer of p bits at scale E, in its p-bit encoding (R92, R94). -/
def toBlockInt (d : RDir) (p e : Nat) (v : FVal) : Nat × FFlags :=
  if p = 1 then
    match v with
    | .nan _ => (0, flagNV)
    | .inf n => (if n then 1 else 0, flagNV)
    | .fin n m _ => (if n && decide (m ≠ 0) then 1 else 0, 0)
  else
    let hi : Int := 2 ^ (p - 1) - 1
    let lo : Int := -(2 ^ (p - 1))
    match v with
    | .nan _ => (0, flagNV)
    | .inf n => (wrapNat p (if n then lo else hi), flagNV)
    | .fin n m x =>
      let r := roundInt d n m (x + 127 - e)
      if hi < r.1 then (wrapNat p hi, flagNX)
      else if r.1 < lo then (wrapNat p lo, flagNX)
      else (wrapNat p r.1, flagIf flagNX r.2)

/-- The scale that a block derives from the largest finite magnitude m × 2^e of its elements (R93). -/
def blockScale (p : Nat) (big : Option (Nat × Int)) : Nat :=
  match big with
  | none => 127
  | some (m, e) =>
    if m = 0 then 127
    else
      let l : Int := e + Nat.log2 m
      let s := if p = 1 then l + 127 else l - ((p : Int) - 2) + 127
      (max 0 (min 254 s)).toNat

/-- The larger of two magnitudes. -/
def maxMag (a b : Option (Nat × Int)) : Option (Nat × Int) :=
  match a, b with
  | none, b => b
  | a, none => a
  | some x, some y =>
    match addFin false false x.1 x.2 true y.1 y.2 with
    | .fin n m _ => if n && decide (m ≠ 0) then some y else some x
    | _ => some x

/-- The magnitude of a finite value. -/
def FVal.mag : FVal → Option (Nat × Int)
  | .fin _ m e => some (m, e)
  | _ => none

/-! ### Stochastic draws (R95) -/

/-- mix64. -/
def mix64 (x : Word) : Word :=
  let x := x ^^^ (x >>> 30)
  let x := x * 0xBF58476D1CE4E5B9
  let x := x ^^^ (x >>> 27)
  let x := x * 0x94D049BB133111EB
  x ^^^ (x >>> 31)

/-- The upper word of the draw for count c. -/
def drawOf (seed procid c : Word) : Nat :=
  (mix64 (seed ^^^ (procid * 0x9E3779B97F4A7C15) ^^^ (c * 0xD1B54A32D192ED03))).toNat / 2 ^ 32

/-! ### Exponential and logarithm (R104, R105)

Fixed-point numbers with 320 fraction bits. A result that is not exact is irrational, so the bits below are sticky. -/

/-- One in fixed point. -/
def fxOne : Nat := 2 ^ 320

/-- Σ z^(2k+1) / (2k+1) from term k on: the series of atanh z, n terms, given z^(2k+1) and z². -/
def atanhFrom (z2 : Nat) : Nat → Nat → Nat → Nat
  | 0, _, _ => 0
  | n + 1, k, pw => pw / (2 * k + 1) + atanhFrom z2 n (k + 1) (pw * z2 / fxOne)

/-- ln 2 = 2 atanh(1/3). -/
def fxLn2 : Nat := 2 * atanhFrom (fxOne / 9) 110 0 (fxOne / 3)

/-- Σ y^k / k! from term k on, given y^k / k!. -/
def expFrom (y : Nat) : Nat → Nat → Nat → Nat
  | 0, _, _ => 0
  | n + 1, k, t => t + expFrom y n (k + 1) (t * y / (fxOne * (k + 1)))

/-- 2^x for a finite x, rounded (R104). -/
def Fmt.exp2Fin (f : Fmt) (d : RDir) (n : Bool) (m : Nat) (e : Int) : Nat × FFlags :=
  -- the range in which the result can be finite and non-zero
  if m = 0 then f.roundFin d false 1 0 false
  else if (12 : Int) ≤ e + Nat.log2 m then
    (if n then f.roundFin d false (2 ^ 80) (-4096) true else f.roundFin d false 1 4096 false)
  else
    let whole := roundInt (.mode 2) n m e          -- ⌊x⌋
    if whole.2 = false then f.roundFin d false 1 whole.1 false
    else
      let fr := ((if n then -(m : Int) else (m : Int)) - whole.1 * 2 ^ (-e).toNat).toNat     -- (x − ⌊x⌋) × 2^-e
      let y := fr * fxLn2 / 2 ^ (-e).toNat
      f.roundFin d false (expFrom y 75 0 fxOne) (whole.1 - 320) true

/-- VFEXP2 (R104). -/
def Fmt.exp2 (f : Fmt) (d : RDir) (a : Nat) : Nat × FFlags :=
  match f.decode a with
  | .nan s => (f.nanBits, flagIf flagNV s)
  | .inf n => if n then (0, 0) else (f.infBits, 0)
  | .fin n m e => f.exp2Fin d n m e

/-- log2 of a positive finite value, rounded (R105). -/
def Fmt.log2Fin (f : Fmt) (d : RDir) (m : Nat) (e : Int) : Nat × FFlags :=
  let k := Nat.log2 m
  let ex : Int := e + k
  if m = 2 ^ k then f.round d (.fin (decide (ex < 0)) ex.natAbs 0)
  else
    -- z = (y − 1) / (y + 1) for y = m / 2^k
    let z := (m - 2 ^ k) * fxOne / (m + 2 ^ k)
    let ln := 2 * atanhFrom (z * z / fxOne) 110 0 z
    let v : Int := ex * fxOne + (ln * fxOne / fxLn2 : Nat)
    f.roundFin d (decide (v < 0)) v.natAbs (-320) true

/-- VFLOG2 (R105). -/
def Fmt.log2 (f : Fmt) (d : RDir) (a : Nat) : Nat × FFlags :=
  match f.decode a with
  | .nan s => (f.nanBits, flagIf flagNV s)
  | .inf n => if n then (f.nanBits, flagNV) else (f.infBits, 0)
  | .fin n m e =>
    if m = 0 then (f.signed true f.infBits, flagDZ)
    else if n then (f.nanBits, flagNV)
    else f.log2Fin d m e

/-! ### Estimates and steps (R106, R107) -/

/-- A positive value truncated to 12 significant bits, then rounded toward zero without flags. -/
def Fmt.estimate (f : Fmt) (neg : Bool) (m : Nat) (e : Int) : Nat :=
  let k := Nat.log2 m - 11
  (f.roundFin (.mode 1) neg (m / 2 ^ k) (e + k) false).1

/-- VFRCPE. -/
def Fmt.rcpe (f : Fmt) (a : Nat) : Nat × FFlags :=
  match f.decode a with
  | .nan s => (f.nanBits, flagIf flagNV s)
  | .inf n => (f.signed n 0, 0)
  | .fin n m e =>
    if m = 0 then (f.signed n f.infBits, flagDZ)
    else
      let sh := Nat.log2 m + 40
      match f.decode f.maxBits with
      | .fin _ mm em =>
        -- 1/(m 2^e) > mm 2^em
        if e + em < 0 ∧ m * mm < 2 ^ (-(e + em)).toNat then (f.signed n f.infBits, flagOF ||| flagNX)
        else (f.estimate n (2 ^ sh / m) (-e - sh), 0)
      | _ => (f.nanBits, 0)

/-- VFRSQE. -/
def Fmt.rsqe (f : Fmt) (a : Nat) : Nat × FFlags :=
  match f.decode a with
  | .nan s => (f.nanBits, flagIf flagNV s)
  | .inf n => if n then (f.nanBits, flagNV) else (0, 0)
  | .fin n m e =>
    if m = 0 then (f.signed n f.infBits, flagDZ)
    else if n then (f.nanBits, flagNV)
    else
      let odd := (e % 2).toNat
      let sh := 2 * (Nat.log2 m + 40)
      let r := isqrt (2 ^ sh / (m * 2 ^ odd))
      (f.estimate false r (-((e - odd) / 2) - (sh / 2 : Nat)), 0)

/-- VFRCPS and VFRSQS: (c − a·b) × 2^-h rounded once, or for an infinite operand 2^(1-h) (R107). -/
def Fmt.step (f : Fmt) (d : RDir) (c h : Nat) (a b : Nat) : Nat × FFlags :=
  let x := f.decode a
  let y := f.decode b
  if x.isNan || y.isNan then (f.nanBits, flagIf flagNV (x.isSig || y.isSig))
  else match x, y with
    | .fin na ma ea, .fin nb mb eb =>
      match addFin d.isDown false c 0 (na == nb) (ma * mb) (ea + eb) with
      | .fin n m e => f.round d (.fin n m (e - h))
      | _ => (f.nanBits, 0)
    | _, _ => f.roundFin d false 2 (-(h : Int)) false

/-! ### Long accumulators (R98, R99, R226) -/

/-- The units of 2^-2148 in a finite value. -/
def accUnits (n : Bool) (m : Nat) (e : Int) : Int :=
  let v : Int := (m : Int) * 2 ^ (e + 2148).toNat
  if n then -v else v

/-- An accumulator with a term added (R98); the NV of the term is the caller's. -/
def LongAcc.addTerm (a : LongAcc) : FVal → LongAcc
  | .nan _ => { a with n := true }
  | .inf true => { a with ni := true }
  | .inf false => { a with pi := true }
  | .fin n m e => { a with v := a.v + BitVec.ofInt 4260 (accUnits n m e) }

/-- Two accumulators added (EAADDX). -/
def LongAcc.add (a b : LongAcc) : LongAcc := ⟨a.v + b.v, a.n || b.n, a.pi || b.pi, a.ni || b.ni, a.pois⟩

/-- EARND (R99). -/
def LongAcc.round (a : LongAcc) (f : Fmt) (d : RDir) : Nat × FFlags :=
  if a.n then (f.nanBits, 0)
  else if a.pi && a.ni then (f.nanBits, flagNV)
  else if a.pi then f.round d (.inf false)
  else if a.ni then f.round d (.inf true)
  else
    let v := a.v.toInt
    if v = 0 then (0, 0) else f.roundFin d (decide (v < 0)) v.natAbs (-2148) false

end Sys2Proof.Machine
end

