-- ==== Sys2Proof/Machine/Trace.lean ====
section
/-! DEFINITION. The memory trace: records of runs written into a ring by an asynchronous writer (R473 to R475), and the
bytes that a capture counts (R478). -/

namespace Sys2Proof.Machine

/-- A run of a memory record (R474): first address, stride, elements, elements skipped before it, and the last
element. -/
structure Run where
  first : Int
  stride : Int
  count : Nat
  gap : Nat
  last : Nat
  lastAddr : Int
deriving DecidableEq, Repr

/-- Whether a run grows by an element (R475). -/
def Run.grows (r : Run) (i : Nat) (a : Int) : Bool :=
  let d := a - r.lastAddr
  i == r.last + 1 && decide (r.count < 65536) &&
  (if r.count = 1 then decide (-(2 ^ 31) ≤ d) && decide (d < 2 ^ 31) else d == r.stride)

/-- The runs of a list of elements, formed greedily in increasing index; newest run first while forming. -/
def runsFrom : List Run → List (Nat × Word) → List Run
  | acc, [] => acc.reverse
  | [], (i, a) :: l => runsFrom [⟨a.toNat, 0, 1, i, i, a.toNat⟩] l
  | r :: acc, (i, a) :: l =>
    if r.grows i a.toNat then
      runsFrom ({ r with count := r.count + 1, stride := (a.toNat : Int) - r.lastAddr, last := i, lastAddr := a.toNat } ::
        acc) l
    else runsFrom (⟨a.toNat, 0, 1, i - r.last - 1, i, a.toNat⟩ :: r :: acc) l

/-- The bytes of a run. -/
def Run.bytes (base : Int) (r : Run) : List Byte :=
  leBytes 8 (wrapNat 64 (r.first - base)) ++ leBytes 4 (wrapNat 32 r.stride) ++ leBytes 2 (r.count - 1) ++ leBytes 2 r.gap

/-- The trace entry that acts on the selected hart's process: the lowest of kind 5, if it matches (R470). -/
def State.traceEntry (s : State) : Option DbgEntry :=
  match s.hart.pid with
  | none => none
  | some p => (traceOf s.hart.dbg).filter (fun d => d.netid == 0 || d.netid == p.netid)

/-- The place in the ring of a trace entry at which the next record of the selected hart's tile goes. -/
def State.traceNext (s : State) (d : DbgEntry) : Nat :=
  match s.myTile.traceAt with
  | some (e, o) => if e = d then o else 0
  | none => 0

/-- A record put into the ring behind those of the tile's harts, after a pad record where it would straddle the end.
DESIGN CHOICE: of a record in a page that fails translation no byte is written, but it counts and takes its place. -/
def State.traceWrite (s : State) (d : DbgEntry) (rec : List Byte) : State :=
  match s.myVdev? with
  | none => s
  | some dev =>
    let len := d.len.toNat
    if len < rec.length then s
    else
      let off := s.traceNext d % len
      let wrap := decide (len < off + rec.length)
      let pad := if wrap then leBytes 2 (len - off) ++ List.replicate (len - off - 2) 0 else []
      let at0 := if wrap then 0 else off
      let place := fun (o : Nat) (bs : List Byte) =>
        match s.xlateRange (fun s a => s.xlateEngine dev .w a) (d.addr.toNat + o) bs.length with
        | .ok l => chunksBySlot false (pendLits l (d.addr.toNat + o) bs)
        | .error _ => []
      let chunks := (if pad = [] then [] else place off pad) ++ place at0 rec
      { s.setTile s.tileNo { s.myTile with traceAt := some (d, (at0 + rec.length) % len) } with
        asyncs := s.asyncs ++ [⟨.trace, some s.hart.id, none, 0, chunks, none, 0, none, [], []⟩]
        hart := { s.hart with traceSeq := s.hart.traceSeq + 1 } }

/-- The header of a record (R474). -/
def State.traceHeader (s : State) (len kind flags : Nat) : List Byte :=
  leBytes 2 len ++ leBytes 1 kind ++ leBytes 1 flags ++ leBytes 4 s.hart.traceSeq.toNat ++
  leBytes 4 (s.instrPc.toNat % 2 ^ 21) ++ leBytes 4 ((s.hart.pid.map (·.rank)).getD 0)

/-- The memory record of a global instruction of the selected hart, or of a pop or append: kind, whether it stopped, and
its committed elements by index with their addresses. An instruction that committed no element has no run, and R474
gives a record at least one: it writes none. -/
def State.trace (s : State) (kind : Nat) (stopped : Bool) (width : Nat) (elems : List (Nat × Word)) : State :=
  match s.traceEntry, elems with
  | some d, e :: _ =>
    if s.atP then
      let all := runsFrom [] elems
      let runs := all.take 64
      let base : Int := e.2.toNat
      let flags := (if runs.length < all.length then 1 else 0) + (if stopped then 2 else 0)
      s.traceWrite d (s.traceHeader (32 + 16 * runs.length) kind flags ++ leBytes 8 e.2.toNat ++ leBytes 4 s.vlen ++
        leBytes 1 width ++ leBytes 1 runs.length ++ leBytes 2 0 ++ runs.flatMap (Run.bytes base))
    else s
  | _, _ => s

/-- The capture block after n bytes of global accesses are requested (R478). -/
def State.gbytes (s : State) (n : Nat) : State :=
  match s.hart.pid with
  | none => s
  | some p => if s.atP then s.mapProc p (fun q => if q.capture.active then
      { q with capture := { q.capture with gbytes := q.capture.gbytes + BitVec.ofNat 64 n } } else q) else s

end Sys2Proof.Machine
end

