-- ==== Sys2Proof/Machine/Operands.lean ====
section
/-! DEFINITION. The operand forms: vector groups, scalar operands and predicates, active elements, units of a vector
instruction, and stream bindings, popped before and appended after the element loop (R53, R61, R74, R195, R199, R203,
R204, R214, R259, R261, R345). -/

namespace Sys2Proof.Machine

/-! ### Scalar operands and elements -/

/-- The value of x[a] that an instruction with elements reads at issue; a replay takes the recorded one (R344). -/
def State.opA (s : State) (a : BitVec 5) : Word :=
  match s.hart.current with
  | none => s.x a
  | some r => r.entry.xa

/-- The value of x[b] at issue. -/
def State.opB (s : State) (b : BitVec 5) : Word :=
  match s.hart.current with
  | none => s.x b
  | some r => r.entry.xb

/-- Whether a replay skips an element, as TDONE marks it (R345). -/
def State.skipped (s : State) (i : Nat) : Bool :=
  match s.hart.current with
  | none => false
  | some r => decide (r.entry.prog.toNat ≤ i) && decide (i - r.entry.prog.toNat < 256) &&
      r.skip.getLsbD (i - r.entry.prog.toNat)

/-- The marks of elements above a stop that an earlier stop of the same instruction left (R71, R234); below the element
that it resumed from, every one is done. -/
def State.marks (s : State) (elem : Nat) : BitVec 256 :=
  match s.hart.current with
  | none => 0
  | some r =>
    let k := r.entry.prog.toNat
    if k ≤ elem then r.skip >>> (elem - k) else (r.skip <<< (k - elem)) ||| BitVec.ofNat 256 ((2 ^ (k - elem) - 2) % 2 ^ 256)

/-- The active elements below VL that the instruction still has to do (R199, R204, R345). -/
def State.actives (s : State) (p : BitVec 3) : List Nat :=
  (upTo s.vlen).filter (fun i => decide (s.startElem ≤ i) && s.hart.pbit p i && !s.skipped i)

/-- The units of an instruction with a vector or predicate operand, W bits the widest: its rows, or those it has left
when it resumes (R195). -/
def State.rows (s : State) (w : Nat) : Nat :=
  if s.vlen = 0 then 1
  else (s.vlen * w + 64 * s.hart.lanes - 1) / (64 * s.hart.lanes) - s.startElem * w / (64 * s.hart.lanes)

/-- Whether a name is no group at the VTYPE in force (R53). -/
def State.badGroup (s : State) (r : BitVec 5) : Bool :=
  decide (vtRc s.hart.vtype ≤ r.toNat) || decide (r.toNat % vtG s.hart.vtype ≠ 0)

/-- Registers in a group. -/
def State.grp (s : State) : Nat := vtG s.hart.vtype

/-! ### Stream bindings (R61, R74, R259, R261) -/

/-- The address of element k of a stream (R259). -/
def Binding.addr (b : Binding) (k : Nat) : Word :=
  let c0 := b.count0.toNat
  let c1 := b.count1.toNat
  b.base + BitVec.ofNat 64 (k % c0) * b.stride0 + BitVec.ofNat 64 (k / c0 % c1) * b.stride1 +
    BitVec.ofNat 64 (k / (c0 * c1)) * b.stride2

/-- Elements of a stream. -/
def Binding.total (b : Binding) : Nat := b.count0.toNat * b.count1.toNat * b.count2.toNat

/-- Whether a binding applies to some register of n from r on. -/
def Binding.covers (b : Binding) (r n : Nat) : Bool := decide (b.reg < r + n) && decide (r < b.reg + b.grp)

/-- The active bindings of a direction that apply to registers, with their slots. -/
def Hart.bindings (h : Hart) (store : Bool) (regs : List (Nat × Nat)) : List (Nat × Binding) :=
  (h.streams.toList.mapIdx (fun i o => (i, o))).filterMap (fun io => match io.2 with
    | some b => if b.store == store && regs.any (fun r => b.covers r.1 r.2) then some (io.1, b) else none
    | none => none)

/-- Whether some binding is active. -/
def Hart.anyBinding (h : Hart) : Bool := h.streams.toList.any (·.isSome)

/-- The STREAM condition of register operands: a source that is store-bound, or a destination that is load-bound
(R74). -/
def Hart.streamBad (h : Hart) (srcs dsts : List (Nat × Nat)) : Bool :=
  !(h.bindings true srcs).isEmpty || !(h.bindings false dsts).isEmpty

/-- A step-8 condition met by an element: cause, value, element. -/
structure Stop where
  cause : BitVec 8
  val : Word
  elem : Nat
deriving DecidableEq, Repr

/-- The elements of a binding's next strip that lie within the stream, with their addresses. -/
def Binding.strip (b : Binding) (vl : Nat) : List (Nat × Word) :=
  ((upTo vl).filter (fun i => decide (b.pos + i < b.total))).map (fun i => (i, b.addr (b.pos + i)))

/-- The first element of a list that fails a test. -/
def firstStop {α : Type} (l : List (Nat × α)) (f : Nat → α → Option Stop) : Option Stop :=
  l.findSome? (fun x => f x.1 x.2)

/-- Whether an access has gone to an endpoint that was declared failed (R444): its reply never comes. -/
def State.lost (s : State) (p : Phys) : Bool := !s.epLive (p.addr / Config.localBytes)

/-- The conditions of a strip: translation of every element, then watches, then the data of a pop, which may be poisoned
(R261, R471). -/
def State.stripStop (s : State) (b : Binding) (w : Nat) : Option Stop :=
  let need := if b.store then Need.w else Need.r
  let es := b.strip s.vlen
  match firstStop es (fun i va => match s.myXlate need va.toNat with
      | .error f => some ⟨f.cause, va, i⟩ | .ok _ => none) with
  | some t => some t
  | none =>
    match firstStop es (fun i va => (s.watchHit false (!b.store) b.store i va.toNat (w / 8)).map
        (fun n => ⟨causeBrk, brkVal n, i⟩)) with
    | some t => some t
    | none =>
      if b.store then none
      else firstStop es (fun i va => match s.myXlate .r va.toNat with
        | .ok r => if s.gmPoisoned r.2 (w / 8) then some ⟨causePoison, va, i⟩ else none
        | .error _ => none)

/-- The state after every translation of a strip is used. -/
def State.useStrip (s : State) (b : Binding) : State :=
  let need := if b.store then Need.w else Need.r
  (b.strip s.vlen).foldl (fun s e => match s.myXlate need e.2.toNat with
    | .ok r => s.myUse need r.1
    | .error _ => s) s

/-- Byte j of element k of a load stream, at a key: a free value if the byte was stored to since the stream was bound
(R139). -/
def State.streamByte (s : State) (b : Binding) (k j : Nat) (key : XtsKey) (a : Nat) : Byte :=
  match numGet s.gmStamp a with
  | none => s.gmByte key a
  | some t => if b.since ≤ t then Config.streamByte b.since k j else s.gmByte key a

/-- What a strip of a load binding puts into the elements of its group. -/
def State.stripVals (s : State) (b : Binding) (w : Nat) : List Nat :=
  (upTo s.vlen).map (fun i => if b.pos + i < b.total then
    (match s.myXlate .r (b.addr (b.pos + i)).toNat with
      | .ok r => leNat ((upTo (w / 8)).map (fun j => s.streamByte b (b.pos + i) j (s.slotKey r.2.slot) (r.2.addr + j)))
      | .error _ => 0) else 0)

/-- A hart with values written to the first elements of a group. -/
def Hart.setElems (h : Hart) (w r : Nat) (vals : List Nat) : Hart :=
  (vals.mapIdx (fun i v => (i, v))).foldl (fun h iv => h.setElem w r iv.1 iv.2) h

/-- The state in which the strips of an instruction are tested: every page of them has been walked (R261, R389). -/
def State.touchStrips (s : State) (srcs dsts : List (Nat × Nat)) : State :=
  s.myTouch (((s.hart.bindings false srcs ++ s.hart.bindings true dsts).flatMap (fun b => b.2.strip s.vlen)).map
    (fun e => e.2.toNat))

/-- The elements of a strip with their translations. -/
def State.stripElems (s : State) (b : Binding) : List ElemAccess :=
  (b.strip s.vlen).filterMap (fun e => match s.myXlate (if b.store then .w else .r) e.2.toNat with
    | .ok r => some ⟨e.1, e.2, r.2⟩
    | .error _ => none)

/-- The strips of an instruction before its element loop: the first condition among them, pops before appends and each
in slot order, or the popped values. -/
def State.openStrips (s : State) (srcs dsts : List (Nat × Nat)) : Except Stop Strips :=
  let w := s.sew
  let pops := s.hart.bindings false srcs
  let apps := s.hart.bindings true dsts
  match (pops ++ apps).findSome? (fun b => s.stripStop b.2 w) with
  | some t => .error t
  | none => .ok ⟨pops.map (fun b => ⟨b.1, b.2, s.stripVals b.2 w, s.stripElems b.2⟩),
      apps.map (fun b => ⟨b.1, b.2, [], s.stripElems b.2⟩)⟩

/-- The popped elements whose replies come over the fabric, unless they have come. -/
def State.awaited (s : State) (st : Strips) : List ElemAccess :=
  if s.hart.asked then [] else st.pops.flatMap (fun p => p.elems.filter (fun e => s.remote e.phys))

/-- The selected hart as it issues an instruction of u units again, once the replies for its strips have come: it counts
the units again, and waits no further. -/
def State.reissued (s : State) (u : Nat) : State :=
  let s := s.uncount u
  { s with hart := { s.hart with status := .running, asked := true } }

/-- The hart as its instruction reads it: what the instruction itself has overwritten before a stop stands there as it
was (R201). -/
def State.source (s : State) : Hart :=
  match s.hart.current with
  | none => s.hart
  | some r => { s.hart with
      v := r.entry.kept.shadow.foldl (fun b k => b.put k.1 k.2.1) s.hart.v
      vPois := r.entry.kept.shadow.foldl (fun l k => setPut l k.1 k.2.2) s.hart.vPois }

/-- The bytes of vector storage in which the hart h differs from the hart g that its instruction read, as they are in g. -/
def Hart.overwritten (g h : Hart) : List (Nat × Byte × Bool) :=
  (((g.v.cells ++ h.v.cells).map (·.1) ++ g.vPois ++ h.vPois).eraseDups.filter (fun k =>
    g.v.get k != h.v.get k || setHas g.vPois k != setHas h.vPois k)).map (fun k => (k, g.v.get k, setHas g.vPois k))

/-- The hart as the element loop reads it: popped strips stand in their registers. -/
def State.view (s : State) (st : Strips) : Hart :=
  st.pops.foldl (fun h p => h.setElems s.sew p.binding.reg p.vals) s.source

/-- The binding after a strip of vl elements. -/
def Binding.after (b : Binding) (vl : Nat) : Binding := { b with pos := Nat.min (b.pos + vl) b.total }

/-- The state with a binding moved past its strip (R261). -/
def State.moveOn (s : State) (p : Strip) : State :=
  { s with hart := { s.hart with streams := s.hart.streams.setIfInBounds p.slot (some (p.binding.after s.vlen)) } }

/-- A popped strip written to its register, and a record traced for it. -/
def State.popStrip (s : State) (p : Strip) : State :=
  let n := s.sew / 8
  let s := s.useStrip p.binding
  let s := { s with hart := s.hart.setElems s.sew p.binding.reg p.vals }
  (((s.trace 4 false n (p.elems.map (fun e => (e.elem, e.va)))).gbytes (p.elems.length * n))).moveOn p

/-- A strip of a store-bound register stored, element by element, and a record traced for it. -/
def State.appendStrip (s : State) (p : Strip) : State :=
  let w := s.sew
  let s := (s.useStrip p.binding).packet s.myNet (p.elems.map (fun e => (e.phys, w / 8)))
  let s := p.elems.foldl (fun (s : State) e => s.gmStore e.phys (leBytes (w / 8) (s.hart.elem w p.binding.reg e.elem))) s
  (((s.trace 5 false (w / 8) (p.elems.map (fun e => (e.elem, e.va)))).gbytes (p.elems.length * (w / 8)))).moveOn p

/-- The state when the instruction completes: popped strips written to their registers, strips of store-bound
destinations stored, positions advanced (R261), and a record traced for each (R473). -/
def State.closeStrips (s : State) (st : Strips) : State :=
  st.apps.foldl State.appendStrip (st.pops.foldl State.popStrip s)

/-! ### Vector instructions -/

/-- A vector instruction as its fields give it: the word, what it reads and writes as (register, registers in the
group), the predicate that governs, scalar registers read, the recorded x operands, units and early conditions. -/
structure VInstr where
  word : IWord
  srcs : List (Nat × Nat)
  dsts : List (Nat × Nat)
  pred : BitVec 3
  reads : List (BitVec 5)
  xa : Word
  xb : Word
  units : Nat
  vcfg : Bool
  /-- Whether step-8 conditions are taken at VL = 0 as well (R203). -/
  vl0 : Bool
deriving DecidableEq, Repr

/-- What the body of an instruction with elements comes to: it completes, or stops at an element with a cause and value
after the work below it, `prog` being the element it resumes from, or leaves the hart waiting. -/
inductive VEnd where
  | done (s : State)
  | stop (s : State) (cause : BitVec 8) (val : Word) (elem prog : Nat) (tdone : BitVec 256)
  | wait (s : State)
deriving DecidableEq, Repr

/-- A hart that waits for an access keeps the strips opened for it (R261). -/
def State.holdStrips (s : State) (st : Strips) : State :=
  if st.pops.isEmpty && st.apps.isEmpty then s
  else match s.hart.status with
    | .blocked (.reply w u n todo done xa xb _) => s.block (.reply w u n todo done xa xb st)
    | .blocked (.vstm w xa xb g _ es) => s.block (.vstm w xa xb g st es)
    | _ => s

/-- A stop before anything is done; the instruction resumes from where it began. -/
def State.stopBefore (s : State) (t : Stop) : VEnd := .stop s t.cause t.val t.elem s.startElem 0

/-- The rotor of the check lane after a vector instruction of majors 0x23 to 0x28 starts: it advances where the check lane
is free and takes the instruction; a tile with a failed lane has none (R409, R413). -/
def State.spin (s : State) (w : IWord) : State :=
  let m := (w.extractLsb' 26 6).toNat
  { s with hart := { s.hart with
      rotor := if 0x23 ≤ m ∧ m ≤ 0x28 ∧ s.myTile.laneA = none ∧ Config.checkBusy s.ticks = false then
        s.hart.rotor + 1 else s.hart.rotor } }

/-- Whether an instruction belongs to the FP64 class, or is MMA (R229, R437). -/
def needsLeave (w : IWord) (sew : Nat) : Bool :=
  let m := (w.extractLsb' 26 6).toNat
  let fn := (w.extractLsb' 0 7).toNat
  let cls := (w.extractLsb' 14 2).toNat
  let src := (w.extractLsb' 11 3).toNat
  let wide := sew == 64
  (m == 0x25 && wide) || (m == 0x24 && wide && (fn ≤ 4 || (0x18 ≤ fn && fn ≤ 0x1B))) ||
  (m == 0x24 && fn == 0x14 && ((cls ≤ 2 && src == 5) || ((cls == 0 || cls == 3) && wide))) ||
  (m == 0x28 && wide && (fn == 1 || fn == 2)) || (m == 0x33 && fn % 16 == 4)

/-- The state when an instruction starts that needs leave: the hart holds it (R229, R437). The wait for the governor
changes timing only, and the model leaves it out. -/
def State.holdLeave (s : State) (w : IWord) : State :=
  if needsLeave w s.sew then { s with hart := { s.hart with leave := true } } else s

/-- Step 8 and the effect of a vector instruction: the strips of its streams, poisoned scalar operands, the replies for what
it pops from other packages, its body, then the end of its strips and the next instruction, or the stop's record (R156,
R261, R342). An instruction that has waited comes here again. -/
def State.vgo (s : State) (v : VInstr) (body : State → Hart → VEnd) : State :=
  let s := s.touchStrips v.srcs v.dsts
  match s.openStrips v.srcs v.dsts with
  | .error t => s.stopAt v.word v.xa v.xb t.cause t.val t.elem s.startElem (s.marks t.elem)
  | .ok st =>
    if (v.vl0 || decide (s.vlen ≠ 0)) && v.reads.any s.xPoisoned then
      s.stopAt v.word v.xa v.xb causePoison 0 0 s.startElem 0
    else if !(s.awaited st).isEmpty then
      (s.sendReads (s.awaited st) (s.sew / 8)).block (.pops v.word v.xa v.xb (s.awaited st) v.units)
    else match body ((s.spin v.word).holdLeave v.word) (s.view st) with
      | .done t => (t.closeStrips st).advance
      | .stop t c val e pr td => t.stopWith (s.source.overwritten t.hart) v.word v.xa v.xb c val e pr td
      | .wait t => t.holdStrips st

/-- The shape of a vector instruction: the early tests (R156), then the rest. -/
def State.vrun (s : State) (v : VInstr) (body : State → Hart → VEnd) : State :=
  s.issue v.word { gate1 with units := v.units, vcfg := v.vcfg, stream := s.hart.streamBad v.srcs v.dsts }
    (fun s => s.vgo v body)

/-- The same for a matrix instruction, with the condition of step 7 (R267). -/
def State.mrun (s : State) (v : VInstr) (matrix : Bool) (body : State → Hart → VEnd) : State :=
  s.issue v.word { gate1 with
    units := v.units, vcfg := v.vcfg, stream := s.hart.streamBad v.srcs v.dsts, matrix := matrix } (fun s => s.vgo v body)

/-- The register among those listed whose element i is poisoned. -/
def Hart.poisIn (h : Hart) (w : Nat) (regs : List Nat) (i : Nat) : Option Nat :=
  (regs.find? (fun r => h.elemPois w r i)).map (fun r => h.elemReg w r i)

/-- The element conditions that an element loop meets before an element's work: an expiry or an element breakpoint, then a
poisoned source, whose register `pois` gives (R204, R342, R471). -/
def State.elemStop (s : State) (pois : Nat → Option Nat) (i : Nat) : Option (BitVec 8 × Word) :=
  match s.haltElem i with
  | some c => some c
  | none => (pois i).map (fun r => (causePoison, BitVec.ofNat 64 r))

/-- The state with flags ORed into FFLAGS once (R69). -/
def State.raise (s : State) (f : FFlags) : State := { s with hart := { s.hart with fflags := s.hart.fflags ||| f } }

/-- The element loop of R199 for a vector destination of width dw: `f` gives an element's bits and flags from the hart
as it stood before (R201). -/
def State.elemLoop (s : State) (pois : Nat → Option Nat) (dw d : Nat) (f : Nat → Nat × FFlags) :
    List Nat → FFlags → VEnd
  | [], fl => .done (s.raise fl)
  | i :: is, fl =>
    match s.elemStop pois i with
    | some c => .stop (s.raise fl) c.1 c.2 i i 0
    | none =>
      let r := f i
      State.elemLoop { s with hart := s.hart.setElem dw d i r.1 } pois dw d f is (fl ||| r.2)

/-- The element loop for a predicate destination (R207). -/
def State.predLoop (s : State) (pois : Nat → Option Nat) (d : BitVec 3) (f : Nat → Bool × FFlags) :
    List Nat → FFlags → VEnd
  | [], fl => .done (s.raise fl)
  | i :: is, fl =>
    match s.elemStop pois i with
    | some c => .stop (s.raise fl) c.1 c.2 i i 0
    | none =>
      let r := f i
      State.predLoop { s with hart := s.hart.setP d (pput (s.hart.pval d) i r.1) } pois d f is (fl ||| r.2)

/-- The first element condition among elements, for an instruction that commits nothing before all of them are read
(R204). -/
def State.anyStop (s : State) (pois : Nat → Option Nat) (is : List Nat) : Option Stop :=
  is.findSome? (fun i => (s.elemStop pois i).map (fun c => ⟨c.1, c.2, i⟩))

/-- The stop of an instruction that re-executes from element 0. -/
def State.stopZero (s : State) (t : Stop) : VEnd := .stop s t.cause t.val t.elem 0 0

/-- Operand B of a VV instruction: element i of v[b], or the low SEW bits of x[b], read once at issue (R199). -/
def State.operandB (s : State) (h : Hart) (b : BitVec 5) (sc : BitVec 1) (w i : Nat) : Nat :=
  if sc = 1 then (s.opB b).toNat % 2 ^ w else h.elem w b.toNat i

/-- The VV form `op vd, va, vb/xb, pn` of an instruction whose word and extra source groups are given. -/
def State.vvInstr (s : State) (word : IWord) (d a b : BitVec 5) (p : BitVec 3) (sc : BitVec 1) (readsD : Bool)
    (vcfg : Bool) : VInstr :=
  let g := s.grp
  let srcs := [(a.toNat, g)] ++ (if sc = 1 then [] else [(b.toNat, g)]) ++ (if readsD then [(d.toNat, g)] else [])
  { word := word, srcs := srcs, dsts := [(d.toNat, g)], pred := p
    reads := if sc = 1 then [b] else []
    xa := 0
    xb := if sc = 1 then s.opB b else 0
    units := s.rows s.sew
    vcfg := vcfg || s.badGroup d || s.badGroup a || (decide (sc = 0) && s.badGroup b)
    vl0 := false }

/-- The registers whose elements an active element of a VV instruction reads. -/
def vvRegs (d a b : BitVec 5) (sc : BitVec 1) (readsD : Bool) : List Nat :=
  [a.toNat] ++ (if sc = 1 then [] else [b.toNat]) ++ (if readsD then [d.toNat] else [])

/-- A binary elementwise operation with a vector destination (R199, R203). -/
def State.vvBin (s : State) (word : IWord) (d a b : BitVec 5) (p : BitVec 3) (sc : BitVec 1) (vcfg : Bool)
    (f : Nat → Nat → Nat × FFlags) : State :=
  let w := s.sew
  s.vrun (s.vvInstr word d a b p sc false vcfg) (fun s h =>
    s.elemLoop (h.poisIn w (vvRegs d a b sc false)) w d.toNat (fun i => f (h.elem w a.toNat i) (s.operandB h b sc w i))
      (s.actives p) 0)

/-- A binary elementwise comparison with a predicate destination (R207, R210). -/
def State.vvCmp (s : State) (word : IWord) (d : BitVec 3) (a b : BitVec 5) (p : BitVec 3) (sc : BitVec 1)
    (f : Nat → Nat → Bool × FFlags) : State :=
  let w := s.sew
  let v := s.vvInstr word a a b p sc false false
  s.vrun { v with dsts := [] } (fun s h =>
    s.predLoop (h.poisIn w (vvRegs a a b sc false)) d (fun i => f (h.elem w a.toNat i) (s.operandB h b sc w i)) (s.actives p) 0)

/-- A unary elementwise operation with a vector destination. -/
def State.vvUn (s : State) (word : IWord) (d a : BitVec 5) (p : BitVec 3) (vcfg : Bool) (f : Nat → Nat × FFlags) : State :=
  let w := s.sew
  let v := s.vvInstr word d a a p 1 false vcfg
  s.vrun { v with reads := [], xb := 0 } (fun s h =>
    s.elemLoop (h.poisIn w [a.toNat]) w d.toNat (fun i => f (h.elem w a.toNat i)) (s.actives p) 0)

end Sys2Proof.Machine
end

