-- ==== Sys2Proof/Machine/Channel.lean ====
section
/-! DEFINITION. Channel instructions (R22 to R30, R254 to R257). -/

namespace Sys2Proof.Machine

/-! ### Slots (R22, R24, R370, R382) -/

/-- Bytes of a slot. -/
def Chan.slotBytes (c : Chan) : Nat := 2 ^ c.slotLog

/-- The byte offset in its ring of the slot at an index. -/
def Chan.slotOff (c : Chan) (i : BitVec 32) : Nat := i.toNat % 2 ^ c.k * c.slotBytes

/-- The physical addresses of n bytes of a ring in a network's caddy: as the device's tables give them now, else as they
stood when the ring grew. -/
def State.caddyPhys (s : State) (n : Network) (va : Nat) (phys : Phys) (off len : Nat) : List Phys :=
  match (s.vdev? n.vdid).map (fun d => s.xlateRange (fun s a => s.xlateEngine d .rw a) (va + off) len) with
  | some (.ok l) => physRange l (va + off) len
  | _ => (upTo len).map (fun j => { phys with addr := phys.addr + off + j })

/-- The state after the channel unit has used the translation of n bytes of a ring in a network's caddy (R389). -/
def State.caddyUse (s : State) (n : Network) (c : Chan) (i : BitVec 32) (need : Need) : State :=
  match c.ring, s.vdev? n.vdid with
  | .caddy va _, some d =>
    match s.xlateRange (fun s a => s.xlateEngine d .rw a) (va.toNat + c.slotOff i) c.slotBytes with
    | .ok l => l.foldl (fun (s : State) e => s.setAD d need e.2.1) s
    | .error _ => s
  | _, _ => s

/-- The bytes of the slot at an index, and which of its 8-byte words are poisoned. -/
def State.slotRead (s : State) (n : Network) (c : Chan) (i : BitVec 32) : List Byte × List Nat :=
  let len := c.slotBytes
  match c.ring with
  | .tile t base =>
    let k := tmKey t (base + c.slotOff i)
    (s.tm.bytes k len, (upTo (len / 8)).filter (fun j => setHas s.tmPois (k / 8 + j)))
  | .caddy va phys =>
    let ps := s.caddyPhys n va.toNat phys (c.slotOff i) len
    (s.gmGather ps, (upTo (len / 8)).filter (fun j => (ps.drop (8 * j)).head?.any (fun p => setHas s.gmPois (p.addr / 64))))
  | .host slots => (slots.getD (i - c.rd).toNat [], [])

/-- The slot at an index filled. -/
def State.slotWrite (s : State) (n : Network) (idx : Nat) (c : Chan) (i : BitVec 32) (bs : List Byte) : State :=
  match c.ring with
  | .tile t base => s.tmStoreKey (tmKey t (base + c.slotOff i)) bs
  | .caddy va phys => (s.caddyUse n c i .w).gmScatter n.netid (s.caddyPhys n va.toNat phys (c.slotOff i) c.slotBytes) bs
  | .host slots =>
    let s := s.mapChan n.netid idx (fun c => { c with ring := .host (slots ++ [bs]) })
    match c.cons with
    | .host ep => s.sendSlot n.vdid ep n.netid idx bs
    | .rank _ => s

/-- A slot written, its rest filled with zeros; discarded where the consumer has ended (R24, R30). -/
def State.chanPut (s : State) (netid idx : Nat) (bs : List Byte) : State :=
  match s.net? netid with
  | none => s
  | some n => match n.chans[idx]? with
    | none => s
    | some c =>
      if n.consumerEnded c then s
      else
        let s := s.slotWrite n idx c c.wr (padTo c.slotBytes bs)
        let s := s.mapChan netid idx (fun c => { c with wr := c.wr + 1 })
        (s.mapNet netid (fun n => { n with changedAt := s.time, deadlockTold := false })).wakeReady

/-- The slot at the read index freed. -/
def State.chanTake (s : State) (netid idx : Nat) : State :=
  let s := s.mapChan netid idx (fun c => { c with rd := c.rd + 1 })
  (s.mapNet netid (fun n => { n with changedAt := s.time, deadlockTold := false })).wakeReady

/-- The end-of-stream token written; with an ended consumer only the closing is kept (R28, R30). -/
def State.chanClose (s : State) (netid idx : Nat) : State :=
  match s.net? netid with
  | none => s
  | some n => match n.chans[idx]? with
    | none => s
    | some c =>
      if n.consumerEnded c then s.mapChan netid idx (fun c => { c with closed := true })
      else
        let s := s.mapChan netid idx Chan.close
        let s := match c.cons with
          | .host ep => s.sendSlot n.vdid ep netid idx []
          | .rank _ => s
        (s.mapNet netid (fun n => { n with changedAt := s.time, deadlockTold := false })).wakeReady

/-! ### Ports (R23, R40, R256) -/

/-- The network, index and channel that a port of the selected hart's process names. -/
def State.myChan (s : State) (port : BitVec 3) : Option (Network × Nat × Chan) :=
  s.myProc?.bind (fun q => s.portChan q port.toNat)

/-- The CHAN condition of step 6: a child hart, an unbound port, or the wrong end. -/
def State.chanBad (s : State) (port : BitVec 3) (write : Bool) : Bool :=
  s.hart.parent.isSome || (match s.myProc? with
    | none => true
    | some q => match q.port port.toNat with
      | none => true
      | some r => (r.producer != write) || (s.portChan q port.toNat).isNone)

/-- TVAL of a CHAN trap. -/
def portVal (port : BitVec 3) : Word := port.setWidth 64

/-- The gate of a channel instruction. -/
def State.chanGate (s : State) (port : BitVec 3) (write : Bool) (units : Nat) : Gate :=
  { gate1 with units := units, priv := !s.atP, chan := s.chanBad port write, port := portVal port }

/-- A trap with an element. -/
def State.trapElem (s : State) (cause : BitVec 8) (val : Word) (elem : Nat) : State :=
  s.takeTrap { simpleTrap cause val s.hart.pc with elem := elem }

/-- The state with a predicate register of the selected hart written. -/
def State.setPred (s : State) (n : BitVec 3) (v : BitVec 65536) : State := { s with hart := s.hart.setP n v }

/-! ### Scalar reads and writes -/

/-- The k registers from r on. -/
def regsFrom (r : BitVec 5) (k : Nat) : List (BitVec 5) := (upTo k).map (fun j => r + BitVec.ofNat 5 j)

/-- CRD and CRDM from step 8 on: it waits while the channel is empty, and comes here again. -/
def State.crdGo (s : State) (w : Wait) (port pe : BitVec 3) (regs : List (BitVec 5)) : State :=
  match s.myChan port with
  | none => s
  | some (n, idx, c) =>
    if !c.readable then s.block w
    else if c.atToken then ((regs.foldl (fun s r => s.setX r 0) s).setPred pe (BitVec.allOnes 65536)).advance
    else
      let r := s.slotRead n c c.rd
      let s := s.caddyUse n c c.rd .r
      match (upTo regs.length).find? (fun j => r.2.contains j) with
      | some j => s.trapElem causePoison 0 j
      | none =>
        let s := (regs.mapIdx (fun j x => (j, x))).foldl (fun s jr => s.setX jr.2 (BitVec.ofNat 64 (field r.1 (8 * jr.1) 8))) s
        ((s.setPred pe 0).chanTake n.netid idx).advance

/-- CWR and CWRM from step 8 on: CHAN for a closed channel and for too many bytes, POISON, the wait for room. -/
def State.cwrGo (s : State) (w : Wait) (port : BitVec 3) (regs : List (BitVec 5)) : State :=
  match s.myChan port with
  | none => s
  | some (n, idx, c) =>
    if c.closed || decide (c.slotBytes < 8 * regs.length) then s.trap causeChan (portVal port)
    else match (upTo regs.length).find? (fun j => (regs.map s.xPoisoned).getD j false) with
      | some j => s.trapElem causePoison 0 j
      | none =>
        if n.writeWaits c then s.block w
        else (s.chanPut n.netid idx (regs.flatMap (fun r => leBytes 8 (s.x r).toNat))).advance

/-- CCLOSE from step 8 on. -/
def State.ccloseGo (s : State) (port : BitVec 3) : State :=
  match s.myChan port with
  | none => s
  | some (n, idx, c) =>
    if c.closed then s.trap causeChan (portVal port)
    else if n.writeWaits c then s.block (.cclose port)
    else (s.chanClose n.netid idx).advance

/-- CRD (R254). -/
def execCrd (d : BitVec 5) (pe port : BitVec 3) (s : State) : Out :=
  .next (s.issue (ch 0x30#6 d (0#2 ++ pe) port 0#5 0#8) (s.chanGate port false 1)
    (fun s => s.crdGo (.crd d pe port) port pe [d]))
/-- CRDM: registers d to d + k - 1. -/
def execCrdm (d : BitVec 5) (pe port : BitVec 3) (k : BitVec 5) (s : State) : Out :=
  .next (s.issue (ch 0x30#6 d (0#2 ++ pe) port k 1#8) (s.chanGate port false 1)
    (fun s => s.crdGo (.crdm d pe port k) port pe (regsFrom d k.toNat)))
/-- CWR. -/
def execCwr (a : BitVec 5) (port : BitVec 3) (s : State) : Out :=
  .next (s.issue (ch 0x30#6 0#5 a port 0#5 2#8) (s.chanGate port true 1) (fun s => s.cwrGo (.cwr a port) port [a]))
/-- CWRM. -/
def execCwrm (a : BitVec 5) (port : BitVec 3) (k : BitVec 5) (s : State) : Out :=
  .next (s.issue (ch 0x30#6 0#5 a port k 3#8) (s.chanGate port true 1)
    (fun s => s.cwrGo (.cwrm a port k) port (regsFrom a k.toNat)))
/-- CCLOSE. -/
def execCclose (port : BitVec 3) (s : State) : Out :=
  .next (s.issue (ch 0x30#6 0#5 0#5 port 0#5 6#8) (s.chanGate port true 1) (fun s => s.ccloseGo port))

/-! ### Vector reads and writes -/

/-- The fields of VCRD and VCWR. -/
def State.vchInstr (s : State) (word : IWord) (v : BitVec 5) (write : Bool) : VInstr where
  word := word
  srcs := if write then [(v.toNat, s.grp)] else []
  dsts := if write then [] else [(v.toNat, s.grp)]
  pred := 0
  reads := []
  xa := 0
  xb := 0
  units := s.rows s.sew
  vcfg := s.badGroup v
  vl0 := true

/-- VCRD (R255): every element below VL, at the token zeros. -/
def State.vcrdGo (s : State) (d : BitVec 5) (pe port : BitVec 3) : State :=
  let w := s.sew
  s.vgo (s.vchInstr (ch 0x30#6 d (0#2 ++ pe) port 0#5 4#8) d false) (fun s _ =>
    match s.myChan port with
    | none => .wait s
    | some (n, idx, c) =>
      match s.anyStop (fun _ => none) (upTo s.vlen) with
      | some t => s.stopZero t
      | none =>
        if !c.readable then .wait (s.block (.vcrd d pe port))
        else if c.atToken then
          .done ({ s with hart := s.hart.setElems w d.toNat (List.replicate s.vlen 0) }.setPred pe (BitVec.allOnes 65536))
        else
          let r := s.slotRead n c c.rd
          let s := s.caddyUse n c c.rd .r
          match (upTo s.vlen).find? (fun i => r.2.contains (i * (w / 8) / 8)) with
          | some i => s.stopZero ⟨causePoison, 0, i⟩
          | none =>
            let s := { s with hart := s.hart.setElems w d.toNat ((upTo s.vlen).map (fun i => field r.1 (i * (w / 8)) (w / 8))) }
            .done ((s.setPred pe 0).chanTake n.netid idx))

/-- VCWR (R255, R256). -/
def State.vcwrGo (s : State) (a : BitVec 5) (port : BitVec 3) : State :=
  let w := s.sew
  s.vgo (s.vchInstr (ch 0x30#6 0#5 a port 0#5 5#8) a true) (fun s h =>
    match s.myChan port with
    | none => .wait s
    | some (n, idx, c) =>
      if c.closed || decide (c.slotBytes < s.vlen * (w / 8)) then s.stopZero ⟨causeChan, portVal port, 0⟩
      else match s.anyStop (h.poisIn w [a.toNat]) (upTo s.vlen) with
        | some t => s.stopZero t
        | none =>
          if n.writeWaits c then .wait (s.block (.vcwr a port))
          else .done (s.chanPut n.netid idx ((upTo s.vlen).flatMap (fun i => leBytes (w / 8) (h.elem w a.toNat i)))))

/-- A vector channel instruction: the early tests, then the rest. -/
def State.vchan (s : State) (v : VInstr) (port : BitVec 3) (write : Bool) (go : State → State) : Out :=
  .next (s.issue v.word { s.chanGate port write v.units with
    vcfg := v.vcfg, stream := s.hart.streamBad v.srcs v.dsts } go)

/-- VCRD. -/
def execVcrd (d : BitVec 5) (pe port : BitVec 3) (s : State) : Out :=
  s.vchan (s.vchInstr (ch 0x30#6 d (0#2 ++ pe) port 0#5 4#8) d false) port false (fun s => s.vcrdGo d pe port)
/-- VCWR. -/
def execVcwr (a : BitVec 5) (port : BitVec 3) (s : State) : Out :=
  s.vchan (s.vchInstr (ch 0x30#6 0#5 a port 0#5 5#8) a true) port true (fun s => s.vcwrGo a port)

/-! ### The end of a wait (R25) -/

/-- CHANNEL_READ_UNBLOCK: a read that waits is tried again, and completes once a slot is written. -/
def execChannelReadUnblock (s : State) : Out :=
  .next (match s.hart.status with
    | .blocked (.crd d pe port) => s.unblock.crdGo (.crd d pe port) port pe [d]
    | .blocked (.crdm d pe port k) => s.unblock.crdGo (.crdm d pe port k) port pe (regsFrom d k.toNat)
    | .blocked (.vcrd d pe port) => s.unblock.vcrdGo d pe port
    | _ => s)

/-- CHANNEL_WRITE_UNBLOCK: a write that waits is tried again, and completes once a slot is freed. -/
def execChannelWriteUnblock (s : State) : Out :=
  .next (match s.hart.status with
    | .blocked (.cwr a port) => s.unblock.cwrGo (.cwr a port) port [a]
    | .blocked (.cwrm a port k) => s.unblock.cwrGo (.cwrm a port k) port (regsFrom a k.toNat)
    | .blocked (.vcwr a port) => s.unblock.vcwrGo a port
    | .blocked (.cclose port) => s.unblock.ccloseGo port
    | _ => s)

end Sys2Proof.Machine
end

