-- ==== Sys2Proof/Machine/Sched.lean ====
section
/-! DEFINITION. Scheduling: what is due at a SAFE, saving a process and freeing its hart, moving it to another tile, and
a free hart taking a process (R48, R51, R192, R194, R295, R350 to R354, R362, R371, R372, R377, R378, R420, R431). -/

namespace Sys2Proof.Machine

/-! ### Tile memory in use (R370, R372) -/

/-- Bytes of a ring in tile memory. -/
def Chan.ringBytes (c : Chan) : Nat := 2 ^ c.k * c.slotBytes

/-- The rings in tile memory that a rank of a network consumes: channel, tile, base and bytes. -/
def Network.ringsOf (n : Network) (rank : Nat) : List (Nat × Nat × Nat × Nat) :=
  (n.chans.mapIdx (fun i c => (i, c))).filterMap (fun ic => match ic.2.ring with
    | .tile t b => if ic.2.cons = .rank rank then some (ic.1, t, b, ic.2.ringBytes) else none
    | _ => none)

/-- Whether a process has not ended. -/
def Proc.live (q : Proc) : Bool := match q.status with | .ended _ => false | _ => true

/-- The rings in tile memory that a process consumes. -/
def State.ringsOf (s : State) (p : Pid) : List (Nat × Nat × Nat × Nat) :=
  match s.net? p.netid with
  | some n => n.ringsOf p.rank
  | none => []

/-- Whether a source is a byte of tile memory. -/
def Source.inTm : Source → Bool
  | .tm _ => true
  | _ => false

/-- Whether asynchronous writes of a process still read or write its block (R306). -/
def State.blockBusy (s : State) (p : Pid) : Bool :=
  s.asyncs.any (fun a => a.pid == some p && a.chunks.any (fun c => c.toTm || c.bytes.any (·.src.inTm))) ||
  s.nets.any (fun n => n.netid == p.netid && n.groups.any (fun g => g.members.any (fun m => m.rank == p.rank &&
    m.exch.any (fun x => (x.flights ++ x.wire).any (fun f => f.sources.any Source.inTm)))))

/-- The ranges of a tile's memory that are taken: the handler block, and the block and rings of each process that has
not ended or whose asynchronous writes still use its block. -/
def State.tmUsed (s : State) (t : Nat) : List (Nat × Nat) :=
  let tl := s.tile t
  (tl.handlerBase, tl.handlerLen) :: (s.procs.filter (fun q => q.live || s.blockBusy q.pid)).flatMap (fun q =>
    (if q.tile = t then [(q.kbase, q.klen)] else []) ++
    (s.ringsOf q.pid).filterMap (fun r => if r.2.1 = t then some (r.2.2.1, r.2.2.2) else none))

/-- Whether two ranges share a byte. -/
def overlaps (a n b m : Nat) : Bool := decide (a < b + m) && decide (b < a + n)

/-- Whether a range of a tile's memory is free beside ranges that are taken and the monitor's regions. -/
def rangeFree (t : Nat) (used : List (Nat × Nat)) (a n : Nat) : Bool :=
  decide (a + n ≤ Config.tmBytes) && !used.any (fun u => overlaps a n u.1 u.2) &&
  !(upTo n).any (fun j => Config.monitorByte t (a + j))

/-! ### Choice of a tile (R371) -/

/-- Whether new processes may be placed on a tile, but for room. -/
def Tile.open? (t : Tile) : Bool :=
  (decide (t.health = .healthy) || decide (t.health = .derated)) && !t.quarantined && !t.retiring && !t.outOfService

/-- Whether the processes of a tile are to leave it (R357, R431). -/
def Tile.leaving (t : Tile) : Bool := t.quarantined || t.retiring || decide (t.health = .drained) || decide (t.health = .retired)

/-- The wear units of a tile in the lifetime record (R428). -/
def State.recordedWear (s : State) (t : Nat) : Nat :=
  ((s.lifetime.find? (fun x => x.tile == Config.physTile t (s.tile t).subst)).map (·.wear)).getD 0 / 2 ^ 20

/-- What the choice among eligible tiles compares: processes per hart, wear units in the lifetime record. -/
def State.tileLoad (s : State) (t : Nat) : Nat × Nat :=
  ((s.procs.filter (fun q => q.live && q.tile == t)).length * 8 / 2 ^ (s.tile t).lpart.toNat, s.recordedWear t)

/-- The best of some tiles, listed by their number in the device. -/
def State.bestTile (s : State) (l : List Nat) : Option Nat :=
  l.foldl (fun b t => match b with
    | none => some t
    | some u =>
      let x := s.tileLoad t
      let y := s.tileLoad u
      if x.1 < y.1 ∨ (x.1 = y.1 ∧ x.2 < y.2) then some t else some u) none

/-- The tile that a process moves to: eligible, its addresses free, with the same number of lanes unless its safe point
is portable (R371, R372). -/
def State.destFor (s : State) (q : Proc) (portable : Bool) : Option Nat :=
  match s.vdev? q.vdid with
  | none => none
  | some d =>
    let room := fun (t : Nat) => ((q.kbase, q.klen) :: (s.ringsOf q.pid).map (fun r => (r.2.2.1, r.2.2.2))).all
      (fun r => rangeFree t (s.tmUsed t) r.1 r.2)
    let fit := fun (t : Nat) => t != q.tile && (s.tile t).open? && room t
    let same := fun (t : Nat) => fit t && (s.tile t).hartLanes == (s.tile q.tile).hartLanes
    match s.bestTile (d.tiles.filter same) with
    | some t => some t
    | none => if portable then s.bestTile (d.tiles.filter fit) else none

/-! ### What is due (R194, R295, R350) -/

/-- Whether an exchange of a process is open (R295). -/
def State.exchOpen (s : State) (p : Pid) : Bool :=
  match s.net? p.netid with
  | some n => n.groups.any (fun g => g.members.any (fun m => m.rank == p.rank && m.exch.isSome))
  | none => false

/-- Whether a process must stop at a portable safe point: its device migrates, and its tile has another LPART at the
destination (R350, R403). -/
def State.needsPortable (s : State) (q : Proc) : Bool :=
  s.migrations.any (fun m => m.vdid == q.vdid && Config.lpartDiffers m.destPkg q.tile)

/-- Whether a process off its hart may go to a hart with another number of lanes: it has no saved context, or its safe
point is portable (R354). -/
def State.portableOff (s : State) (q : Proc) : Bool :=
  match q.status with
  | .ready true => (field (s.readArea q).hdr 7 1).testBit 0
  | .switchedOut _ => (field (s.readArea q).hdr 7 1).testBit 0
  | _ => true

/-- Whether a process off its hart may stay there for a stop that is due: no exchange of it is open, and its safe point
serves (R295, R350). -/
def State.stopHolds (s : State) (q : Proc) : Bool := !s.exchOpen q.pid && (!s.needsPortable q || s.portableOff q)

/-- The processes of a level of a tile's run queue that a hart may take: one that is to stop runs on only to a safe
point that serves. -/
def State.waiting (s : State) (t l : Nat) : List Pid :=
  ((s.tile t).queue.toList.getD l []).filter (fun p => (s.proc? p).any (fun q => !q.stopDue || !s.stopHolds q))

/-- The process at the head of the highest non-empty level (R378). -/
def State.nextReady (s : State) (t : Nat) : Option Pid :=
  (upTo 16).reverse.findSome? (fun l => (s.waiting t l).head?)

/-- Whether a stop that is due acts at a safe point: no exchange is open, and a migration to a tile with another LPART
needs a portable point (R295, R350, R403). -/
def State.stopActs (s : State) (q : Proc) (portable : Bool) : Bool :=
  q.stopDue && !s.exchOpen q.pid && (portable || !s.needsPortable q)

/-- The harts of a tile's partition that are free. -/
def State.freeOn (s : State) (t : Nat) : Nat :=
  (s.harts.filter (fun h => h.id.tile == t && decide (h.status = .idle) && s.isBase h)).length

/-- The processes that wait on a tile above a level and for which no hart is free: a hart that another SAFE has freed
for one of them withdraws the due mark (R378). -/
def State.aboveLevel (s : State) (t l : Nat) : Nat :=
  ((upTo 16).filter (fun k => decide (l < k))).foldl (fun n k => n + (s.waiting t k).length) 0 - s.freeOn t

/-- What a SAFE finds due. -/
inductive Due where
  | nothing
  | stop
  | move (dest : Nat)
  | preempt
  | quantum
deriving DecidableEq, Repr

/-- What is due for the selected hart's process at a safe point. -/
def State.due (s : State) (q : Proc) (e : SafeEntry) : Due :=
  let t := s.tileNo
  let l := s.hart.prioLevel.toNat
  if s.stopActs q e.portable then .stop
  else match if s.myTile.leaving && !s.exchOpen q.pid then s.destFor q e.portable else none with
    | some d => .move d
    | none =>
      if 0 < s.aboveLevel t l then .preempt
      else if s.hart.quantum.toNat ≤ s.hart.qcount ∧ !(s.waiting t l).isEmpty then .quantum
      else .nothing

/-! ### Leaving a hart (R353, R377) -/

/-- The selected hart's process saved at a safe point and off the hart, in a state. -/
def State.switchOut (s : State) (q : Proc) (n : Nat) (e : SafeEntry) (st : ProcStatus) : State :=
  let s := s.saveContext s.hart q n e
  (s.mapProc q.pid (fun q => { q with status := st })).freeHarts q.pid

/-- A set of numbers in a range copied to another place, which holds them alone afterwards. -/
def setMove (lo n dst : Nat) (l : List Nat) : List Nat :=
  (l.filter (fun k => decide (lo ≤ k) && decide (k < lo + n))).foldl (fun m k => setAdd m (dst + (k - lo))) (setClear dst n l)

/-- Events for the poison marks that a copy sets in words of a tile's memory (R420). -/
def State.logMoved (s : State) (t : Nat) (ws : List Nat) : State :=
  ws.foldl (fun (s : State) w =>
    let a := 8 * w % Config.tmBytes
    s.tileEvent t 4 0 a (Config.syndrome s.ticks (8 * w)) (s.tmNet t a)) s

/-- A range of one tile's memory copied to the same addresses of another, with its granule bits and poison marks. -/
def State.copyTm (s : State) (t dest : Nat) (r : Nat × Nat) : State :=
  let a := tmKey t r.1
  let b := tmKey dest r.1
  let u : State := { s with
    tm := Memory.storeAll (Memory.clear b r.2 s.tm)
      ((s.tm.filter (fun c => decide (a ≤ c.1) && decide (c.1 < a + r.2))).map (fun c => (b + (c.1 - a), c.2)))
    tmFull := setMove (a / 64) ((r.2 + 63) / 64) (b / 64) s.tmFull
    tmPois := setMove (a / 8) ((r.2 + 7) / 8) (b / 8) s.tmPois }
  u.logMoved dest ((s.tmPois.filter (fun w => decide (a / 8 ≤ w) && decide (w < a / 8 + (r.2 + 7) / 8))).map (fun w => b / 8 + (w - a / 8)))

/-- A key of tile memory carried from one tile to another. -/
def moveKey (t dest k : Nat) : Nat := if k / Config.tmBytes = t then tmKey dest (k % Config.tmBytes) else k

/-- A pending byte of a moved process. -/
def PendByte.move (toTm : Bool) (t dest : Nat) (b : PendByte) : PendByte :=
  { b with
    key := if toTm then moveKey t dest b.key else b.key
    src := match b.src with
      | .tm k => .tm (moveKey t dest k)
      | x => x }

/-- A pending transfer command of a moved process: it goes on where the process goes (R372, R405). -/
def AsyncWrite.move (t dest : Nat) (a : AsyncWrite) : AsyncWrite :=
  { a with
    owner := none
    chunks := a.chunks.map (fun c =>
      let bs := c.bytes.map (PendByte.move c.toTm t dest)
      { c with bytes := bs, granule := if c.toTm then ((bs.head?.map (·.key)).getD 0) / 64 else c.granule }) }

/-- The rank entry of a process on a tile (R373). -/
def State.placedEntry (s : State) (tile : Nat) : Word :=
  BitVec.ofNat 64 (2 ^ 32 + tile % Config.tilesPerDie * 2 ^ 13 + (4 * s.pkg + tile / Config.tilesPerDie))

/-- A rank entry in transit (R374). -/
def inTransit (e : Word) : Word := e ||| 0x200000000#64

/-- Whether a process has a saved context: when it moves, its rank entry is TRANSIT until the restore on its new tile (R374). -/
def Proc.saved (q : Proc) : Bool := match q.status with
  | .ready b => b
  | .switchedOut _ => true
  | _ => false

/-- Whether a chunk takes a byte from a tile's memory. -/
def Chunk.readsTile (c : Chunk) (t : Nat) : Bool :=
  c.bytes.any (fun b => match b.src with
    | .tm k => decide (k / Config.tmBytes = t)
    | _ => false)

/-- The pending writes and sends of a process that take their bytes from a tile whose memory cannot be read: those granules
are lost stores (R361). -/
def State.loseReads (s : State) (p : Pid) (t : Nat) : State :=
  let mine := fun (a : AsyncWrite) => a.pid == some p
  let s := (s.asyncs.filter mine).foldl (fun (s : State) a => (a.chunks.filter (fun c => c.readsTile t)).foldl
    (fun (s : State) c => s.lostStore (if c.toTm then 4 * s.pkg + t / Config.tilesPerDie else c.endpoint) a c) s) s
  let s := { s with asyncs := s.asyncs.map (fun (a : AsyncWrite) =>
      if mine a then { a with chunks := a.chunks.filter (fun c => !c.readsTile t) } else a) }
  s.loseSends (· == p) (fun b => match b with
    | .tm k => decide (k / Config.tmBytes = t)
    | _ => false) (fun _ => false)

/-- A process that holds no hart moved to another tile of the package: its block and rings to the same addresses, its
pending transfer commands stopped and resumed there, its rank entry, and its place in the run queue, where one that waits at
a channel-wait safe point stands for its restore too (R372 to R374, R377, R405). A source whose memory cannot be read loses it (R361). -/
def State.relocate (s : State) (p : Pid) (dest : Nat) : State :=
  match s.proc? p with
  | none => s
  | some q =>
    let t := q.tile
    if Config.tmUnreadable s.ticks t then (s.endProc p .tmUnreadable 0 0).loseReads p t else
    let s := (s.settleCharge p).stopCmds (fun a => a.pid == some p)
    let s := ((q.kbase, q.klen) :: (s.ringsOf p).map (fun r => (r.2.2.1, r.2.2.2))).foldl
      (fun (s : State) r => s.copyTm t dest r) s
    let s := { s with asyncs := s.asyncs.map (fun (a : AsyncWrite) => if a.pid = some p ∧ a.writer = Writer.engine then a.move t dest else a) }
    let s := s.mapNet p.netid (fun n => { n with
      chans := n.chans.map (fun (c : Chan) => match c.ring with
        | .tile u b => if c.cons = ChanEnd.rank p.rank ∧ u = t then { c with ring := .tile dest b } else c
        | _ => c)
      entries := n.entries.set p.rank (if q.saved then inTransit (s.placedEntry dest) else s.placedEntry dest) })
    let s := (s.dequeue t p).mapProc p (fun q => { q with tile := dest, status := if q.saved then .ready true else q.status })
    let s := s.resumeCmds (fun a => a.pid == some p)
    match q.status with
    | .ready _ | .switchedOut _ => s.enqueue dest p q.level false
    | _ => s

/-- The processes of a leaving tile that hold no hart moved where an eligible tile takes them, by NETID and rank (R350, R357,
R377, R431). A saved
context allows another number of lanes only if its safe point is portable. -/
def State.evacuate (s : State) (t : Nat) : State :=
  if (s.tile t).leaving then
    s.procsInOrder.foldl (fun s q =>
      let go := match if s.exchOpen q.pid then none else s.destFor q (s.portableOff q) with
        | some d => s.relocate q.pid d
        | none => s
      if q.tile = t then
        match q.status with
        | .staged | .ready _ | .switchedOut _ => go
        | _ => s
      else s) s
  else s

/-- What a SAFE does once it has executed, where something is due: one save serves whatever is due (R350). -/
def State.switchAt (s : State) (q : Proc) (n : Nat) (e : SafeEntry) : Due → State
  | .nothing => s
  | .stop => (s.switchOut q n e (.ready true)).enqueue s.tileNo q.pid s.hart.prioLevel false
  | .move d => (s.switchOut q n e (.ready true)).relocate q.pid d
  | .preempt => (s.switchOut q n e (.ready true)).enqueue s.tileNo q.pid s.hart.prioLevel true
  | .quantum => (s.switchOut q n e (.ready true)).enqueue s.tileNo q.pid s.hart.prioLevel false

/-! ### HART_DISPATCH (R354, R378) -/

/-- The priority ceiling of a process's device. -/
def State.ceilOf (s : State) (q : Proc) : Nat := ((s.vdev? q.vdid).map (·.ceil)).getD 0

/-- A process put on the selected hart, which takes it off its run queue; the hart fetches tile memory as it now is. -/
def State.occupy (s : State) (q : Proc) (h : Hart) : State :=
  { (s.mapProc q.pid (fun q => { q with status := .onHart s.hart.id })).dequeue q.tile q.pid with
    hart := { h with code := s.tm } }

/-- Events for the poison that a restore brings into registers and accumulators (R412, R416, R420). -/
def State.logRestored (s : State) : State :=
  let h := s.hart
  let rows := (h.vPois.map (· / 8)).eraseDups
  let s := rows.foldl (fun (s : State) k => s.tileEvent s.tileNo 6 (k % 32) (k / 32) (k / 32) s.myNet) s
  let n := ((upTo 32).filter (fun i => h.xPois.getLsbD i)).length + (h.e.toList.filter (·.pois)).length
  let s := (upTo n).foldl (fun (s : State) k => s.tileEvent s.tileNo 6 0 0 (Config.syndrome s.ticks k) s.myNet) s
  (h.m.toList.mapIdx (fun b m => (b, m))).foldl (fun (s : State) bm =>
    bm.2.pois.foldl (fun (s : State) k => s.tileEvent s.tileNo 10 bm.1 0 k s.myNet) s) s

/-- A restored process's rank entry no longer in transit (R374). -/
def State.arrived (s : State) (p : Pid) : State :=
  s.mapNet p.netid (fun n => { n with entries := n.entries.modify p.rank (fun e => e &&& ~~~0x200000000#64) })

/-- The restore of a process onto the selected hart (R354): an unsealed area loses it, one of another number of lanes at
a point that is not portable is refused, and the first instruction waits until TIME exceeds SAVETIME. -/
def State.restoreOn (s : State) (q : Proc) : State :=
  let a := s.readArea q
  match if a.ok q then q.safeTab[field a.pay 0 2]? else none with
  | none => s.endProc q.pid .unsealed 0 0
  | some e =>
    if field a.hdr 6 1 ≠ s.hart.lanes ∧ !(field a.hdr 7 1).testBit 0 then s
    else if s.time.toNat ≤ field a.hdr 0x30 8 then s
    else
      let h := (s.hart.begin q (s.ceilOf q) (s.debugTable s.tileNo)).load s q a e
      let s := s.mapProc q.pid (fun q => { q with
        level := h.prioLevel
        capture := if (field a.hdr 7 1).testBit 2 then Capture.ofBytes a.cap else { q.capture with active := false } })
      ((s.occupy q { h with pc := BitVec.ofNat 64 (q.kbase + e.stub) }).arrived q.pid).logRestored

/-- A free hart takes the process at the head of the highest non-empty level. -/
def State.takeNext (s : State) : State :=
  match (s.nextReady s.tileNo).bind s.proc? with
  | none => s
  | some q => match q.status with
    | .ready false => s.occupy q (s.hart.begin q (s.ceilOf q) (s.debugTable s.tileNo))
    | .ready true => s.restoreOn q
    | _ => s

/-- Whether a wait is one that a channel-wait safe point lets switch out (R48, R192). -/
def Wait.yields : Wait → Bool
  | .crd _ _ _ | .crdm _ _ _ _ | .vcrd _ _ _ | .cwr _ _ | .cwrm _ _ _ | .vcwr _ _ | .cclose _ | .waitt _ => true
  | _ => false

/-- Whether the hart of a waiting process is wanted, or the process is to stop or to move (R350). -/
def State.wanted (s : State) (q : Proc) (e : SafeEntry) : Bool :=
  (s.nextReady s.tileNo).isSome || s.stopActs q e.portable ||
  (s.myTile.leaving && !s.exchOpen q.pid && (s.destFor q e.portable).isSome)

/-- A process that waits at a channel-wait safe point leaves its hart, when the hart is wanted (R48, R192). -/
def State.yieldHart (s : State) (w : Wait) : State :=
  match s.hart.chanWait, s.myProc? with
  | some n, some q => match q.safeTab[n]? with
    | some e =>
      if w.yields ∧ s.wanted q e then
        let t := s.switchOut q n e (.switchedOut w)
        (t.evacuate q.tile).wakeReady
      else s
    | none => s
  | _, _ => s

/-- HART_DISPATCH (R378): a free hart takes a process; a hart whose process waits at a channel-wait safe point is freed
when it is wanted. -/
def execHartDispatch (s : State) : Out :=
  .next (match s.hart.status with
    | .idle => (s.evacuate s.tileNo).takeNext
    | .blocked w => s.yieldHart w
    | _ => s)

end Sys2Proof.Machine
end

