-- ==== Sys2Proof/Machine/Reliability.lean ====
section
/-! DEFINITION. Faults of the part's own silicon, and its wear, heat and power: lane failures, scrubbing, the log,
health states, spares, islands (R409 to R438). -/

namespace Sys2Proof.Machine

/-! ### Islands' operating points (R1, R433 to R436) -/

/-- The effective cap of an island: CAP, one lower beside a DERATED tile, less the points that the power manager has taken off
(R434, R436). -/
def State.effCap (s : State) (i : Nat) (x : Island) : Nat :=
  let derated := s.tiles.any (fun t => Config.islandOf t.1 == i && decide (t.2.health = .derated))
  x.cap - (if derated then 1 else 0) - x.lowered

/-- The highest point within the effective cap and the thermal rules (R433). -/
def State.effPoint (s : State) (i : Nat) (x : Island) : Nat := Nat.min (s.effCap i x) x.heat

/-- An island written, with the operating point that follows. -/
def State.setIsland (s : State) (i : Nat) (x : Island) : State :=
  { s with islands := numPut s.islands i { x with point := s.effPoint i x } }

/-- An island's operating point after a change of what its tiles allow (R431, R433). -/
def State.repoint (s : State) (i : Nat) : State := s.setIsland i (s.island i)

/-- What happens only while the part is powered and its monitor runs (R438, R481). -/
def State.whenOn (s : State) (f : State → State) : State := if s.power = .ready then f s else s

/-! ### Health (R430, R431) -/

/-- The code of a health state. -/
def Health.code : Health → Nat
  | .healthy => 0 | .derated => 1 | .drained => 2 | .retired => 3

/-- The number of a package tile in its device, 0 without one. -/
def State.deviceTile (s : State) (t : Nat) : Nat :=
  match (s.tile t).vdid.bind s.vdev? with
  | some d => d.tiles.findIdx (· == t)
  | none => 0

/-- A tile moved to a health state that it has not passed; the change is logged, and the island's point follows. -/
def State.setHealth (s : State) (t : Nat) (h : Health) : State :=
  let tl := s.tile t
  if h.code ≤ tl.health.code then s
  else ((s.setTile t { tl with health := h }).repoint (Config.islandOf t)).tileEvent t 12 0 0 (tl.health.code * 256 + h.code) 0

/-- Whether a process occupies a tile. -/
def State.occupied (s : State) (t : Nat) : Bool := s.procs.any (fun q => q.live && q.tile == t)

/-- A tile that is to be RETIRED becomes so once no process occupies it. -/
def State.settle (s : State) (t : Nat) : State :=
  if (s.tile t).retiring && !s.occupied t then s.setHealth t .retired else s

/-- A tile to be RETIRED: its processes leave it. -/
def State.retire (s : State) (t : Nat) : State :=
  ((s.setTile t { s.tile t with retiring := true }).evacuate t).settle t

/-- A tile DRAINED: its processes leave it. -/
def State.drain (s : State) (t : Nat) : State := (s.setHealth t .drained).evacuate t

/-! ### Lanes (R413 to R415) -/

/-- Report kind 5. -/
def State.reportLane (s : State) (t lane failures : Nat) : State :=
  match (s.tile t).vdid with
  | none => s
  | some v => s.report v 5 0 0 (leBytes 2 (s.deviceTile t) ++ leBytes 1 lane ++ leBytes 1 failures ++
      leBytes 1 (s.tile t).health.code ++ leBytes 3 0)

/-- Whether a hart owns a lane of a tile (R33). -/
def Hart.owns (h : Hart) (t lane : Nat) : Bool :=
  h.id.tile == t && decide (h.lane0 ≤ lane) && decide (lane < h.lane0 + h.lanes)

/-- The network of a hart's process, or 0. -/
def Hart.net (h : Hart) : Nat := (h.pid.map (·.netid)).getD 0

/-- The network of the hart that owns a lane of a tile, or 0 (R422). -/
def State.laneNet (s : State) (t lane : Nat) : Nat := ((s.harts.find? (·.owns t lane)).map Hart.net).getD 0

/-- The network of a hart, or 0. -/
def State.hartNet (s : State) (h : HartId) : Nat := ((s.harts.find? (fun x => decide (x.id = h))).map Hart.net).getD 0

/-- A hart with a row of a lane's slice marked poisoned. -/
def Hart.poisonRow (h : Hart) (row lane : Nat) : Hart :=
  { h with vPois := (upTo 8).foldl (fun l b => setAdd l (8 * (row * 32 + lane) + b)) h.vPois }

/-- A 64-bit row of a lane's slice of a tile poisoned, in the hart that owns the lane, and logged (R411, R420). -/
def State.poisonRow (s : State) (t row lane : Nat) : State :=
  (s.mapHarts (fun h => if h.owns t lane then h.poisonRow row lane else h)).tileEvent t 6 lane row row (s.laneNet t lane)

/-- Every element of an element group, a row across the lanes of a hart, poisoned and logged (R56, R410). -/
def State.poisonGroup (s : State) (h : HartId) (row lane : Nat) : State :=
  (s.mapHarts (fun x => if x.id = h then (upTo x.lanes).foldl (fun (x : Hart) j => x.poisonRow row (x.lane0 + j)) x else x)).tileEvent
    h.tile 6 lane row row (s.hartNet h)

/-- The rows of two lanes of a tile that a rebuild had not reached are poisoned (R414). -/
def State.poisonRows (s : State) (t : Nat) (lanes : List Nat) : State :=
  lanes.foldl (fun (s : State) l =>
    ((upTo 256).filter (Config.rowUnbuilt s.ticks)).foldl (fun (s : State) r => s.poisonRow t r l) s) s

/-- Every process that holds a hart of a tile is lost (R415, R431). -/
def State.loseHarts (s : State) (t : Nat) : State :=
  ((s.harts.filter (fun h => h.id.tile == t)).filterMap (·.pid)).foldl (fun (s : State) p =>
    let s := s.endProc p .tileStopped 0 0
    if Config.tmUnreadable s.ticks t then s.loseReads p t else s) s

/-- A tile stopped (R415): its other processes go on elsewhere from their contexts. -/
def State.stopTile (s : State) (t : Nat) : State := (s.loseHarts t).retire t

/-- A tile that is to be RETIRED and whose harts' processes have 100 ms to leave it (R431). -/
def State.expel (s : State) (t : Nat) : State :=
  (s.setTile t { s.tile t with alarmAt := some (((s.tile t).alarmAt).getD s.time) }).retire t

/-- A working lane of a tile failed (R413 to R415, R431). -/
def State.failLane (s : State) (tile n : Nat) : State :=
  let tl := s.tile tile
  let f := tl.failures + 1
  let s := (s.setTile tile { tl with failures := f, hits := tl.hits.filter (fun x => x.1 != n) }).tileEvent tile 8 n 0 f
    (s.laneNet tile n)
  match f with
  | 1 =>
    let s := s.setTile tile { s.tile tile with laneA := some n, rebuilding := true }
    (s.setHealth tile .derated).reportLane tile n 1
  | 2 =>
    let s := if tl.rebuilding then s.poisonRows tile [tl.laneA.getD n, n] else s
    let s := s.setTile tile { s.tile tile with laneB := some n, rebuilding := false }
    (s.drain tile).reportLane tile n 2
  | _ => s.expel tile

/-- LANE_FAILURE (R413 to R415). -/
def execLaneFailure (tile : Nat) (part : TilePart) (s : State) : Out :=
  .next (s.whenOn (fun s => match part with
    | .frontEnd _ => s.stopTile tile
    | .lane n => s.failLane tile n))

/-- LANE_REBUILD_COMPLETE (R413). -/
def execLaneRebuildComplete (tile : Nat) (s : State) : Out :=
  .next (s.whenOn (fun s => s.setTile tile { s.tile tile with rebuilding := false }))

/-! ### Memory scrubbing (R416, R419) -/

/-- Whether the code of tile memory corrects an error: one bit; it detects two (R416). -/
def tmCorrects (f : EccFinding) : Bool := decide (f.errors.eraseDups.length ≤ 1)

/-- Whether the symbol code of DRAM corrects an error: one confined to an aligned symbol of 4 bits; it detects one in two
symbols (R417). -/
def gmCorrects (f : EccFinding) : Bool := decide ((f.errors.map (· / 4)).eraseDups.length ≤ 1)

/-- What a scrub of tile memory finds in a word, by its key over 8. -/
def State.tmFinding (s : State) (f : EccFinding) : State :=
  let k := 8 * f.unit
  let t := k / Config.tmBytes
  let a := k % Config.tmBytes
  if tmCorrects f then s.tileEvent t 3 0 a f.syndrome.toNat (s.tmNet t a)
  else if setHas s.tmPois f.unit then s
  else ({ s with tmPois := setAdd s.tmPois f.unit }).tileEvent t 4 0 a f.syndrome.toNat (s.tmNet t a)

/-- TM_SCRUB_PASS. -/
def execTmScrubPass (found : List EccFinding) (s : State) : Out := .next (s.whenOn (fun s => found.foldl State.tmFinding s))

/-- What a scrub of global memory finds in a granule, by its key over 64. -/
def State.gmFinding (s : State) (f : EccFinding) : State :=
  let k := 64 * f.unit
  let ev := fun (s : State) (cls : Nat) => s.kettleEvent cls k f.syndrome.toNat 0
  if gmCorrects f then ev s 1
  else if setHas s.gmPois f.unit then s
  else ev { s with gmPois := setAdd s.gmPois f.unit } 2

/-- DRAM_SCRUB_PASS. -/
def execDramScrubPass (found : List EccFinding) (s : State) : Out := .next (s.whenOn (fun s => found.foldl State.gmFinding s))

/-! ### Errors that reads meet (R410, R411, R413, R414, R416, R419) -/

/-- A tile with a failure of some lanes in a row position noted, for a second (R413). -/
def State.noteHits (s : State) (t row : Nat) (lanes : List Nat) : State :=
  let old := (s.tile t).hits.filter (fun x =>
    decide (s.time.toNat < x.2.2.toNat + 1000000000) && !(lanes.contains x.1 && x.2.1 == row))
  s.setTile t { s.tile t with hits := lanes.map (fun l => (l, row, s.time)) ++ old }

/-- A lane of a tile that has failed parity in sixteen row positions within a second is a failed one (R413). -/
def State.failHit (s : State) (t lane : Nat) : State :=
  if 16 ≤ ((s.tile t).hits.filter (fun x => x.1 == lane)).length then s.failLane t lane else s

/-- A row position of a tile that fails parity in some lanes when it is read: in one it is rebuilt, unless a second lane has
failed; in several its elements are poisoned (R411, R414). -/
def State.rowParity (s : State) (t row : Nat) (lanes : List Nat) : State :=
  let u := if (s.tile t).laneB.isSome ∨ 1 < lanes.length then lanes.foldl (fun (s : State) l => s.poisonRow t row l) s
    else lanes.foldl (fun (s : State) l => s.tileEvent t 5 l row row (s.laneNet t l)) s
  lanes.foldl (fun (s : State) l => s.failHit t l) (u.noteHits t row lanes)

/-- A row of the parity slice that fails alone: it is recomputed, unless the slice holds a second failed lane's registers,
whose elements are then poisoned (R411, R414). -/
def State.sliceParity (s : State) (t row : Nat) : State :=
  match (s.tile t).laneB with
  | none => s.tileEvent t 5 32 row row 0
  | some l => s.poisonRow t row l

/-- An element of a hart's accumulator bank that fails its check bits (R416). -/
def State.accError (s : State) (h : HartId) (b : BitVec 1) (elem : Nat) (correctable : Bool) : State :=
  if correctable then s.tileEvent h.tile 9 b.toNat 0 elem (s.hartNet h)
  else (s.mapHarts (fun x => if x.id = h then x.setBank b { x.bank b with pois := setAdd (x.bank b).pois elem } else x)).tileEvent
    h.tile 10 b.toNat 0 elem (s.hartNet h)

/-- The lanes that the check lane has checked in a step from s to t, one for each instruction that it took: s's hart's lowest
lane and its rotor modulo L (R409). -/
def State.checked (s t : State) : List Nat :=
  match t.harts.find? (fun h => decide (h.id = s.hart.id)) with
  | some h => (upTo (h.rotor - s.hart.rotor)).map (fun k => s.hart.lane0 + (s.hart.rotor + k) % Nat.max s.hart.lanes 1)
  | none => []

/-- A check of a step, by number, where there was one on a tile whose check lane is free for it. -/
def State.onCheck (t s : State) (k : Nat) (f : State → Nat → State) : State :=
  let l := s.checked t
  match l[k % Nat.max l.length 1]? with
  | some lane => if (t.tile s.hart.id.tile).failures = 0 then f t lane else t
  | none => t

/-- What the part's own silicon does wrong at a step that began in s, and what comes of it (R410, R411, R416, R419). Lane 32 in
an event stands for the parity slice. -/
def State.upset (t s : State) : Config.Upset → State
  | .row k r lanes => t.rowParity (k % 2048) (r % 256) ((lanes.filter (fun l => decide (l < 32))).eraseDups)
  | .parityRow k r => t.sliceParity (k % 2048) (r % 256)
  | .retried k r => t.onCheck s k (fun t lane => t.tileEvent s.hart.id.tile 7 lane (r % 256) lane (t.hartNet s.hart.id))
  | .outvoted k => t.onCheck s k (fun t lane => t.failLane s.hart.id.tile lane)
  | .split k r => t.onCheck s k (fun t lane => t.poisonGroup s.hart.id (r % 256) lane)
  | .bank k front b e ok => t.accError ⟨k, front⟩ (BitVec.ofBool b) (e % 2048) ok
  | .tmWord w es => t.tmFinding ⟨w % (2048 * Config.tmBytes / 8), es, BitVec.ofNat 64 (Config.syndrome t.ticks w)⟩
  | .granule ep g es => t.gmFinding ⟨(4 * t.pkg + ep % 4) * (Config.localBytes / 64) + g % (Config.localBytes / 64), es,
      BitVec.ofNat 64 (Config.syndrome t.ticks g)⟩

/-- The errors of the part's own silicon at the step that began in s. -/
def State.silicon (t s : State) : State := if t.power = .ready then (Config.silicon t.ticks).elim t (t.upset s) else t

/-- LOG_ENTRY_WRITE (R424). -/
def execLogEntryWrite (s : State) : Out := .next s.writeNext

/-! ### Wear (R427 to R429, R431) -/

/-- A tile's health after its wear: 0.8 B, 0.95 B and B of the lifetime budget. -/
def State.ageTile (s : State) (t : Nat) : State :=
  let w := (s.tile t).wear
  let unit := 2 ^ 20 * Config.wearBudget
  let s := if 10 * w < 8 * unit then s else s.setHealth t .derated
  let s := if 100 * w < 95 * unit then s else s.drain t
  if w < unit then s else s.retire t

/-- Stress of one millisecond in units of 2^-20 wear units: activity · S(V, T) / 1000 (R427). -/
def wearOfSample (ticks activityPpm milliVolt deciCelsius : Nat) : Nat :=
  roundPow ticks 0 activityPpm 1000000000 (stressExp milliVolt deciCelsius + 4000)

/-- The processes of a tile charged for the cycles since the last sample, at the stress of this one (R429). -/
def State.chargeTile (s : State) (t : Nat) : State :=
  (s.procs.filter (fun q => q.tile == t)).foldl (fun (s : State) q => s.settleCharge q.pid) s

/-- WEAR_SAMPLE: the tile's wear, the charge of its processes, its health, and a margin alarm. -/
def execWearSample (tile activityPpm milliVolt deciCelsius : Nat) (s : State) : Out :=
  .next (s.whenOn (fun s =>
    let tl := s.tile tile
    let s := s.setTile tile { tl with
      wear := tl.wear + wearOfSample s.ticks activityPpm milliVolt deciCelsius, stress := some (milliVolt, deciCelsius) }
    let s := (s.chargeTile tile).ageTile tile
    if Config.marginAlarm s.ticks tile ∧ (s.tile tile).alarmAt = none then
      (s.tileEvent tile 13 0 0 (Config.syndrome s.ticks tile) 0).expel tile
    else (s.evacuate tile).settle tile))

/-- MARGIN_ALARM_STOP: 100 ms after the alarm. -/
def execMarginAlarmStop (tile : Nat) (s : State) : Out :=
  .next (s.whenOn (fun s => match (s.tile tile).alarmAt with
    | some a => if s.time.toNat < a.toNat + 100000000 then s else (s.loseHarts tile).retire tile
    | none => s))

/-- QUARANTINE_SELF_TEST: of a quarantined tile that no process occupies. -/
def execQuarantineSelfTest (tile : Nat) (pass : Bool) (s : State) : Out :=
  .next (s.whenOn (fun s =>
    if (s.tile tile).quarantined && !s.occupied tile then
      if pass then s.setTile tile { s.tile tile with quarantined := false } else s.retire tile
    else s))

/-! ### The lifetime record (R428) -/

/-- The line of the physical tile that stands for a logical one. -/
def lifeLine (t : Nat) (tl : Tile) : LifeLine :=
  ⟨Config.physTile t tl.subst, tl.wear, tl.health, tl.laneA, tl.laneB, tl.quarantined⟩

/-- Physical tiles of the package, spares included (R1). -/
def physTiles : Nat := 2176

/-- A physical tile that the record does not hold. -/
def freshLine (p : Nat) : LifeLine := ⟨p, 0, .healthy, none, none, false⟩

/-- The line of a physical tile. -/
def lifeOf (l : List LifeLine) (p : Nat) : LifeLine := (l.find? (fun x => x.tile == p)).getD (freshLine p)

/-- A tile as its line of the record gives it. -/
def tileOf (x : LifeLine) (subst : Nat) : Tile :=
  { Tile.powerOn with
    health := x.health, wear := x.wear, laneA := x.laneA, laneB := x.laneB, quarantined := x.quarantined
    failures := (if x.laneA.isSome then 1 else 0) + (if x.laneB.isSome then 1 else 0), subst := subst }

/-- A line put into the record. -/
def lifePut (l : List LifeLine) (x : LifeLine) : List LifeLine := x :: l.filter (fun y => y.tile != x.tile)

/-- The lifetime record written. -/
def State.writeLife (s : State) : State :=
  { s with lifetime := s.tiles.foldl (fun l t => lifePut l (lifeLine t.1 t.2)) (s.retired.foldl lifePut s.lifetime), retired := [] }

/-- LIFETIME_RECORD_WRITE. -/
def execLifetimeRecordWrite (s : State) : Out := .next (s.whenOn State.writeLife)

/-! ### Spares (R1, R432) -/

/-- Spare tiles of an island (R1). -/
def sparesPerIsland : Nat := 2

/-- Spares of an island in use: they are taken in order, and `Tile.subst` names the spare that a tile stands on. -/
def State.sparesUsed (s : State) (isl : Nat) : Nat :=
  (s.tiles.filter (fun t => Config.islandOf t.1 == isl)).foldl (fun n t => Nat.max n t.2.subst) 0

/-- Whether an island has a spare left. -/
def State.spareLeft (s : State) (isl : Nat) : Bool := decide (s.sparesUsed isl < sparesPerIsland)

/-- The tiles of a device in service. -/
def State.tilesInService (s : State) (d : VDev) : Nat := (d.tiles.filter (fun t => !(s.tile t).outOfService)).length

/-- A spare in the place of a RETIRED tile: it has its own wear, state and lanes, and the retired tile's VDID, HWDOG,
TVEC and handler block. -/
def State.substitute (s : State) (tile : Nat) : State :=
  let tl := s.tile tile
  let handler := s.tm.bytes (tmKey tile tl.handlerBase) tl.handlerLen
  let k := tmKey tile 0
  let next := s.sparesUsed (Config.islandOf tile) + 1
  let line := lifeOf s.lifetime (Config.physTile tile next)
  let s := { s with
    retired := lifePut s.retired (lifeLine tile tl)
    tm := (Memory.clear k Config.tmBytes s.tm).store (tmKey tile tl.handlerBase) handler
    tmFull := setClear (k / 64) (Config.tmBytes / 64) s.tmFull
    tmPois := setClear (k / 8) (Config.tmBytes / 8) s.tmPois }
  (s.setTile tile { tileOf line next with
    vdid := tl.vdid, hwdog := tl.hwdog, tvec := tl.tvec, handlerBase := tl.handlerBase, handlerLen := tl.handlerLen
    lpart := tl.lpart }).repoint (Config.islandOf tile)

/-- Whether a tile's memory is still read or written for a process: one that occupies it, or one that has ended with writes
pending (R306). -/
def State.tmBusy (s : State) (t : Nat) : Bool := s.procs.any (fun q => q.tile == t && (q.live || s.blockBusy q.pid))

/-- SPARE_SUBSTITUTION: of a RETIRED tile that no process occupies and whose memory no pending write uses; without a spare its
number leaves service. -/
def execSpareSubstitution (tile : Nat) (s : State) : Out :=
  .next (s.whenOn (fun s =>
    let s := s.settle tile
    let tl := s.tile tile
    if tl.health ≠ .retired ∨ s.tmBusy tile ∨ tl.outOfService then s
    else if s.spareLeft (Config.islandOf tile) then s.substitute tile
    else
      let s := s.setTile tile { tl with outOfService := true }
      match tl.vdid.bind s.vdev? with
      | some d => s.report d.vdid 13 0 0 (leBytes 4 (s.tilesInService d) ++ leBytes 4 (s.deviceTile tile))
      | none => s))

/-! ### Islands and power (R433 to R436) -/

/-- SOURCE of an island's thermal events: one of its physical tiles. -/
def thermalSource (i : Nat) : Nat := 34 * i + Config.thermalTile i % 34

/-- A thermal event of an island. -/
def State.thermalEvent (s : State) (i dC action : Nat) : State :=
  s.event (i / 16) 14 (thermalSource i) 0 (Config.thermalDetail dC action) 0 0xFFFF

/-- Whether a key of global memory lies outside the package (R440). -/
def State.foreign (s : State) (k : Nat) : Bool := decide (k / Config.localBytes / 4 ≠ s.pkg)

/-- Everything that the part does not keep without power gone (R438): what remains is in the nonvolatile store, and in
the memory of other packages and nodes. -/
def State.unpowered (s : State) : State :=
  { State.reset with
    gm := s.gm.filter (fun c => s.foreign c.1)
    gmFull := s.gmFull.filter (fun g => s.foreign (64 * g))
    gmPois := s.gmPois.filter (fun g => s.foreign (64 * g))
    gmKey := s.gmKey.filter (fun c => s.foreign (64 * c.1))
    events := s.events, sched := s.sched, ticks := s.ticks
    pkg := s.pkg
    nextPkg := s.nextPkg, nextPtpDomain := s.nextPtpDomain
    okek := s.okek, log := s.log, seals := s.seals, logNext := s.logNext, logHead := s.logHead, logUsed := s.logUsed
    logNearFull := s.logNearFull, lastRead := s.lastRead, dieNext := s.dieNext
    lifetime := s.lifetime, orderly := s.orderly, firmware := s.firmware }

/-- Steps down, pulsing and the way back up (R435). -/
def State.govern (s : State) (i dC : Nat) : State :=
  let x := s.island i
  let hot := decide (10 * x.tgov ≤ dC)
  let s := if hot && !x.episode then s.thermalEvent i dC 0 else s
  let s := if decide (1050 ≤ dC) && !x.pulsing then s.thermalEvent i dC 1 else s
  let pulsing := decide (1050 ≤ dC) || (x.pulsing && decide (1000 ≤ dC))
  if hot then
    s.setIsland i { x with heat := x.point - 1, episode := true, pulsing := pulsing
                           coolSince := none }
  else if 10 * (x.tgov - 5) ≤ dC then s.setIsland i { x with pulsing := pulsing, coolSince := none }
  else match x.coolSince with
    | none => s.setIsland i { x with pulsing := pulsing, coolSince := some s.time }
    | some c =>
      if s.time.toNat < c.toNat + 10000000 then s.setIsland i { x with pulsing := pulsing }
      else s.setIsland i { x with
        heat := Nat.min 3 (x.heat + 1), episode := x.episode && decide (x.heat + 1 < 3), pulsing := pulsing
        coolSince := some s.time }

/-- TEMPERATURE_SAMPLE: at 115 °C the monitor writes its entry and drives THERMTRIP_N low, and the board removes
power. -/
def execTemperatureSample (island deciCelsius : Nat) (s : State) : Out :=
  .next (s.whenOn (fun s => if deciCelsius < 1150 then s.govern island deciCelsius
  else
    let s := s.writeEntry ⟨s.time, island / 16, 14, BitVec.ofNat 32 (thermalSource island), 0,
      BitVec.ofNat 64 (Config.thermalDetail deciCelsius 2), 0, 0xFFFF⟩
    { s with orderly := false }.unpowered))

/-- POWER_SAMPLE: the average of the last 1 ms, and the island that is next to be lowered. -/
def execPowerSample (milliWatt island : Nat) (s : State) : Out :=
  .next (s.whenOn (fun s => if 3000000 < milliWatt then
    let x := s.island island
    let s := { s with powerCool := none }
    if x.point = 0 then s
    else { s.setIsland island { x with lowered := x.lowered + 1 } with powerLowered := s.powerLowered ++ [island] }
  else if 2850000 ≤ milliWatt then { s with powerCool := none }
  else match s.powerCool with
    | none => { s with powerCool := some s.time }
    | some c =>
      if s.time.toNat < c.toNat + 10000000 then s
      else match s.powerLowered with
        | [] => s
        | i :: rest =>
          let x := s.island i
          { s.setIsland i { x with lowered := x.lowered - 1 } with powerLowered := rest, powerCool := some s.time }))

/-! ### Power lost, orderly shutdown (R424, R428) -/

/-- POWER_LOSS. -/
def execPowerLoss (s : State) : Out := .next (if s.power = .off then s else { s with orderly := false }.unpowered)

/-- ORDERLY_SHUTDOWN: every event written, the lifetime record written. -/
def execOrderlyShutdown (s : State) : Out :=
  .next (s.whenOn (fun s => { s.writeAll.writeLife with orderly := true }.unpowered))

end Sys2Proof.Machine
end

