-- ==== Sys2Proof/Machine/Boot.lean ====
section
/-! DEFINITION. Power-on and the clock's discipline (R399, R428, R432, R438, R459, R460, R481). -/

namespace Sys2Proof.Machine

/-! ### The lifetime record at boot (R428, R432, R438) -/

/-- The record with the wear units that a shutdown which was not orderly costs every tile. -/
def chargeLost (l : List LifeLine) : List LifeLine :=
  (upTo physTiles).map (fun p => { lifeOf l p with wear := (lifeOf l p).wear + 240 * 2 ^ 20 })

/-- Whether a logical tile of an island stands on a spare. -/
def State.spareTaken (s : State) (isl k : Nat) : Bool :=
  s.tiles.any (fun t => Config.islandOf t.1 == isl && t.2.subst == k)

/-- A logical tile at boot: its physical tile, or the first free spare of its island where that is RETIRED; without one
the number is out of service. -/
def State.bootTile (s : State) (t : Nat) : State :=
  let line := fun k => lifeOf s.lifetime (Config.physTile t k)
  let tl := match (upTo (sparesPerIsland + 1)).find? (fun k => decide ((line k).health ≠ .retired) &&
      (k == 0 || !s.spareTaken (Config.islandOf t) k)) with
    | some k => tileOf (line k) k
    | none => { tileOf (line 0) 0 with outOfService := true }
  if tl = Tile.powerOn then s else s.setTile t tl

/-! ### PWRGOOD_RISE (R481) -/

/-- The monitor's configuration record, as the request that sets it lays it out (R456). -/
def State.configRecord (s : State) : List Byte := leBytes 2 s.nextPkg ++ leBytes 1 s.nextPtpDomain ++ leBytes 5 0

/-- M0: the digest of the copy of stage 1 that runs (R399, R481). -/
def measure0 (f : BootFindings) : List Byte := sha256 (if f.copyAOk then f.copyA else f.copyB)

/-- Steps 2 to 5 of boot, once every image has verified; at the end the monitor reports ready on the management MAC.
DESIGN CHOICE: R458 gives that report no kind and no body; it is of kind 0 and empty. -/
def State.boot (s : State) (found : BootFindings) : State :=
  let orderly := s.orderly
  let s := { s with
    power := .ready
    pkg := s.nextPkg
    ptpDomain := s.nextPtpDomain
    liveEps := (upTo Config.diesPerPackage).map (4 * s.nextPkg + ·) ++ Config.trainedEps
    others := (upTo 2047).map (fun t => Hart.powerOn ⟨t + 1, 0⟩ 0 32)
    lifetime := if orderly then s.lifetime else chargeLost s.lifetime
    m0 := measure0 found, m1 := sha256 found.monitor, m2 := sha256 s.configRecord
    orderly := false }
  let s := (upTo 2048).foldl (fun (s : State) t => s.bootTile t) s
  let s := ((s.tiles.map (fun t => Config.islandOf t.1)).eraseDups).foldl (fun (s : State) i => s.repoint i) s
  (s.writeEntry ⟨s.time, 0, 15, 0, 0, if orderly then 1 else 0, 0, 0xFFFF⟩).reportMgmt 0 0 []

/-- PWRGOOD_RISE: boot, or recovery where stage 1 or the monitor does not verify. -/
def execPwrgoodRise (found : BootFindings) (s : State) : Out :=
  .next (if s.power ≠ .off then s
  else
    let s := { s.unpowered with thermtripN := true }
    if !found.copyAOk && !found.copyBOk then { s with power := .recovery }
    else if !found.monitorOk then { s with power := .recovery, m0 := measure0 found }
    else s.boot found)

/-! ### PTP (R460) -/

/-- The distance of two times. -/
def timeGap (a b : Word) : Nat := (a.toNat - b.toNat) + (b.toNat - a.toNat)

/-- PTP_SYNC: TIME steps forward to the master's at the first offset alone; after that its rate is slewed, which shows in
how much time passes. -/
def execPtpSync (master : Word) (s : State) : Out :=
  .next (if s.power ≠ .ready then s
  else match s.ptp with
    | .free => { s with
        ptp := .acquiring, ptpGood := 0
        time := if s.time.toNat < master.toNat then master else s.time }
    | .acquiring =>
      let good := if timeGap master s.time ≤ 18 then s.ptpGood + 1 else 0
      if 16 ≤ good then { s with ptp := .locked, ptpGood := 0 } else { s with ptpGood := good }
    | .locked => s
    | .holdover => { s with ptp := .acquiring, ptpGood := 0 })

/-- PTP_HOLDOVER. -/
def execPtpHoldover (s : State) : Out :=
  .next (if s.ptp = .locked then { s with ptp := .holdover } else s)

end Sys2Proof.Machine
end

