-- ==== Sys2Proof/Machine/Transfer.lean ====
section
/-! DEFINITION. The transfer engine, and the asynchronous writers that it belongs to: TXIN, TXOUT, TX2D, and the
performing and marking of granules (R119, R137, R138, R249 to R253). -/

namespace Sys2Proof.Machine

/-! ### Records in tile memory -/

/-- The condition of a record of n bytes that an instruction of the scalar front end accesses in TM: PROT at its lowest
byte outside the granted TM, then a watch (R471). -/
def State.recBad (s : State) (ea : Word) (n : Nat) (load store : Bool) : Option (BitVec 8 × Word) :=
  match s.tmFirstBad ea.toNat n with
  | some a => some (causeProt, BitVec.ofNat 64 a)
  | none => (s.watchHit true load store 0 ea.toNat n).map (fun k => (causeBrk, brkVal k))

/-- The lowest poisoned protection word of n bytes of TM, by the address at which the bytes touch it. -/
def State.recPois (s : State) (ea : Word) (n : Nat) : Option Word :=
  ((upTo n).find? (fun j => s.tmPoisoned (ea.toNat + j) 1)).map (fun j => ea + BitVec.ofNat 64 j)

/-! ### Commands (R250 to R252) -/

/-- A row of a command: its global address, its TM address and its bytes. -/
structure TxRow where
  ga : Word
  ta : Int
  n : Nat
deriving DecidableEq, Repr

/-- The commands of a hart, and those of a process, that are pending (R252, R264). -/
def State.txBusy (s : State) (f : AsyncWrite → Bool) : Nat :=
  (s.asyncs.filter (fun a => decide (a.writer = .engine) && f a)).length

/-- Whether the selected hart finds a free entry (R252, R264). -/
def State.txFree (s : State) : Bool :=
  decide (s.txBusy (fun a => a.owner == some s.hart.id) < 2) && decide (s.txBusy (fun a => a.pid == s.hart.pid) < 4)

/-- The lowest TM address of rows outside the granted TM (R251 step 5). -/
def State.txTmBad (s : State) (rows : List TxRow) : Option Int :=
  (rows.filterMap (fun r => if r.ta < 0 then some r.ta else (s.tmFirstBad r.ta.toNat r.n).map Int.ofNat)).min?

/-- The pages of every row, or the lowest global address that fails, with its cause (R251 step 6). -/
def State.txPages (s : State) (need : Need) (rows : List TxRow) : Except (XFault × Nat) (List (List (Nat × TlbEntry × Phys))) :=
  let l := rows.map (fun r => s.xlateRange (fun s a => s.myXlate need a) r.ga.toNat r.n)
  let bad := l.filterMap (fun e => match e with
    | .error f => some f
    | .ok _ => none)
  match (bad.map (·.2)).min? with
  | some a => .error ((bad.find? (fun f => f.2 == a)).getD (.xlate, a))
  | none => .ok (l.map (fun e => e.toOption.getD []))

/-- The bytes of a command in its byte order, as they are to be written. -/
def State.txBytes (s : State) (toTm : Bool) (rows : List TxRow) (pages : List (List (Nat × TlbEntry × Phys))) :
    List (Nat × PendByte) :=
  (rows.zip pages).flatMap (fun rp => (upTo rp.1.n).map (fun j =>
    let p := physIn rp.2 (rp.1.ga.toNat + j)
    let k := tmKey s.tileNo (rp.1.ta.toNat + j)
    let va := rp.1.ga + BitVec.ofNat 64 j
    if toTm then (0, ⟨k, .gm p, va, 0, 0⟩) else (p.slot, ⟨p.addr, .tm k, va, 0, 0⟩)))

/-- A command with its operands placed in the engine once an entry is free, after its conditions 5 and 6 (R251, R252). -/
def State.txPut (s : State) (word : IWord) (ops : List Word) (toTm : Bool) (rows : List TxRow) : State :=
  let need := if toTm then Need.r else Need.w
  match s.txTmBad rows with
  | some a => s.trap causeProt (BitVec.ofInt 64 a)
  | none =>
    let s := s.myTouch (rows.flatMap (fun r => pagesOf r.ga.toNat r.n))
    match s.txPages need rows with
    | .error f => s.trap f.1.cause (BitVec.ofNat 64 f.2)
    | .ok pages =>
      if !s.txFree then s.block (.txEntry word)
      else
        let t := pages.flatten.foldl (fun (t : State) e => t.myUse need e.2.1) s
        let cmd : AsyncWrite := ⟨.engine, some s.hart.id, s.hart.pid, s.instrPc.toNat,
          chunksBySlot toTm (numbered (s.txBytes toTm rows pages)), none, 0, none, [],
          word.setWidth 64 :: ops⟩
        { t with asyncs := t.asyncs ++ [cmd] }.advance

/-- TXIN and TXOUT from step 8 on, by the word's fields. -/
def State.txLine (s : State) (word : IWord) (toTm : Bool) : State :=
  let xd := s.x (fD word)
  let xa := s.x (fA word)
  let n := s.x (fB word)
  if n = 0 then s.advance
  else match [xd, xa, n].find? (fun v => decide (v.toNat % 8 ≠ 0)) with
    | some v => s.trap causeMisalign v
    | none =>
      if Config.tmBytes < n.toNat then
        -- the range always reaches an address outside the granted TM
        let base := if toTm then xd else xa
        s.trap causeProt (BitVec.ofNat 64 ((s.tmFirstBad base.toNat (Config.tmBytes + 1)).getD base.toNat))
      else if toTm then s.txPut word [xd, xa, n] true [⟨xa, xd.toNat, n.toNat⟩]
      else s.txPut word [xd, xa, n] false [⟨xd, xa.toNat, n.toNat⟩]

/-- TX2D from step 8 on (R250, R251). -/
def State.txDesc (s : State) (word : IWord) : State :=
  let ea := s.x (fA word)
  if ea.toNat % 8 ≠ 0 then s.trap causeMisalign ea
  else if !s.tmOk ea.toNat 32 then s.trap causeProt ea
  else match s.watchHit true true false 0 ea.toNat 32 with
    | some k => s.trap causeBrk (brkVal k)
    | none =>
      match s.recPois ea 32 with
      | some p => s.trap causePoison p
      | none =>
      let b := s.tmBytes ea.toNat 32
      let ga := BitVec.ofNat 64 (field b 0 8)
      let ta := field b 8 4
      let rb := field b 12 4
      let gp := BitVec.ofNat 64 (field b 16 8)
      let tp := BitVec.ofInt 64 (sextNat 32 (field b 24 4))
      let rows := field b 28 2
      let dir := field b 30 1
      match [ga, BitVec.ofNat 64 ta, BitVec.ofNat 64 rb, gp, tp].find? (fun v => decide (v.toNat % 8 ≠ 0)) with
      | some v => s.trap causeMisalign v
      | none =>
        if rb < 8 ∨ 65536 < rb ∨ rows = 0 ∨ 1 < dir ∨ field b 31 1 ≠ 0 then s.trap causeProt ea
        else s.txPut word ((upTo 4).map (fun j => BitVec.ofNat 64 (field b (8 * j) 8))) (dir == 0) ((upTo rows).map (fun r =>
          ⟨ga + BitVec.ofNat 64 r * gp, (ta : Int) + r * tp.toInt, rb⟩))

/-- A transfer-engine instruction from step 8 on, by its word; one that waits for an entry comes here again. -/
def State.txGo (s : State) (word : IWord) : State :=
  if (word.extractLsb' 0 11).toNat = 2 then s.txDesc word else s.txLine word (word.extractLsb' 0 11 == 0)

/-- TXIN (R249). -/
def execTxin (d a b : BitVec 5) (s : State) : Out :=
  let word := rr 0x34#6 d a b 0#11
  .next (s.issueX word gate1 [d, a, b] (fun s => s.txGo word))
/-- TXOUT (R249). -/
def execTxout (d a b : BitVec 5) (s : State) : Out :=
  let word := rr 0x34#6 d a b 1#11
  .next (s.issueX word gate1 [d, a, b] (fun s => s.txGo word))
/-- TX2D (R250). -/
def execTx2d (a : BitVec 5) (s : State) : Out :=
  let word := rr 0x34#6 0#5 a 0#5 2#11
  .next (s.issueX word gate1 [a] (fun s => s.txGo word))

/-! ### Performing and marking (R119, R253, R419) -/

/-- The chunks of a pending write that may be performed now: none of a stopped command, and of a dump the last, which holds
its header, only after every other (R405, R479). -/
def AsyncWrite.ready (a : AsyncWrite) : List Chunk :=
  if a.stopped then [] else if a.writer = .dump ∧ 1 < a.chunks.length then a.chunks.dropLast else a.chunks

/-- The pending chunk that a free choice names: its command's place and its own. Of the commands of one hart, the
oldest that writes a granule goes first (R252). -/
def State.pickChunk (s : State) (pick : Nat) : Option (Nat × Chunk) :=
  let all := (s.asyncs.mapIdx (fun i a => (i, a))).flatMap (fun ia =>
    ia.2.ready.map (fun c => (ia.1, ia.2, c)))
  match all[pick % Nat.max all.length 1]? with
  | none => none
  | some (i, a, c) =>
    match all.find? (fun o => decide (o.2.1.writer = a.writer) && o.2.1.owner == a.owner && o.2.1.pid == a.pid &&
        o.2.2.toTm == c.toTm && o.2.2.granule == c.granule) with
    | some o => some (o.1, o.2.2)
    | none => some (i, c)

/-- The report that follows the last marking of a command. -/
def State.asyncDone (s : State) (a : AsyncWrite) : State := { s with reports := s.reports ++ a.done.toList }

/-- Whether a pending write is the multicast of the instruction in which a hart waits. -/
def AsyncWrite.mcastOf (h : Hart) (a : AsyncWrite) : Bool :=
  decide (a.writer = .vstm) && a.owner == some h.id && a.pid == h.pid && (match h.status with
    | .blocked (.vstm _ _ _ _ _ _) => true
    | _ => false)

/-- Whether a pending write has nothing left to write, and no multicast's hart waits for it. -/
def State.asyncOver (s : State) (a : AsyncWrite) : Bool := a.chunks.isEmpty && !s.harts.any (fun h => a.mcastOf h)

/-- The commands that have nothing left to write taken away, with their reports. -/
def State.asyncSweep (s : State) : State :=
  (s.asyncs.filter s.asyncOver).foldl State.asyncDone { s with asyncs := s.asyncs.filter (fun a => !s.asyncOver a) }

/-- A hart put in the selected place, the selected one behind it. -/
def State.select (s : State) (id : HartId) : State :=
  if s.hart.id = id then s
  else match s.others.find? (fun h => decide (h.id = id)) with
    | some h => { s with hart := h, others := s.hart :: s.others.filter (fun h => decide (h.id ≠ id)) }
    | none => s

/-- Something done on a hart as if it were the selected one. -/
def State.onHart (s : State) (id : HartId) (f : State → State) : State :=
  let me := s.hart.id
  (f (s.select id)).select me

/-- Every hart that waits for an entry of the transfer engine and finds one free issues its command (R252). -/
def State.txWake (s : State) : State :=
  (s.harts.map (·.id)).foldl (fun s id => s.onHart id (fun s => match s.hart.status with
    | .blocked (.txEntry w) => if s.txFree then s.unblock.txGo w else s
    | _ => s)) s

/-- Whether a member takes the writes of a multicast's chunk: its endpoint answers, and on this package the kettle finds the
bytes in a region of the member's device (R395, R447). -/
def State.memberTakes (s : State) (a : AsyncWrite) (c : Chunk) : Bool :=
  s.epLive c.endpoint && (decide (c.endpoint / 4 ≠ s.pkg) ||
    (s.vdev? (s.asyncVdid a)).any (fun d => c.bytes.all (fun b => d.mayLoad b.key 1)))

/-- Whether a member fails by a chunk of a multicast: it does not take it, or a byte lands in a granule that stays
poisoned (R447). -/
def State.memberFails (s : State) (a : AsyncWrite) (c : Chunk) : Bool :=
  !s.memberTakes a c || (setHas s.gmPois c.granule && !coversUnit 64 c.granule c.bytes)

/-- A chunk of a pending write performed at its place; a member that takes no write of a multicast performs nothing. -/
def State.performChunk (s : State) (a : AsyncWrite) (c : Chunk) : State :=
  if a.writer = .vstm ∧ s.memberTakes a c = false then s else s.doChunk ((a.pid.map (·.netid)).getD 0) c

/-- A pending write after a chunk of it is performed in a state s, with the member at which that fails noted. -/
def AsyncWrite.after (s : State) (c : Chunk) (a : AsyncWrite) : AsyncWrite :=
  { a with
    chunks := a.chunks.erase c
    reached := Nat.max a.reached c.upTo
    failed := if a.writer = .vstm ∧ s.memberFails a c then c.endpoint / 4 :: a.failed else a.failed }

/-- One granule of an asynchronous writer performed and marked (R119). -/
def State.markOne (s : State) (pick : Nat) : State :=
  match s.pickChunk pick with
  | none => s.asyncSweep.txWake
  | some (i, c) =>
    let t := match s.asyncs[i]? with
      | some a => s.performChunk a c
      | none => s
    { t with asyncs := t.asyncs.modify i (AsyncWrite.after s c) }.asyncSweep.txWake

/-- GRANULE_MARKING (R119). -/
def execGranuleMarking (pick : Nat) (s : State) : Out := .next (s.markOne pick)

end Sys2Proof.Machine
end

