-- ==== Sys2Proof/Machine/Exchange.lean ====
section
/-! DEFINITION. The demand-post exchange: DPOST, DGRANT, DSEND and DCLOSE, the arbiters' calendars, the bytes and closing
flits on the fabric (R284 to R295, R448 to R450). -/

namespace Sys2Proof.Machine

/-! ### Groups and members (R284, R294) -/

/-- TVAL of an EXCHG trap: the reason code and its detail (R294). -/
def exchVal (code detail : Nat) : Word := BitVec.ofNat 64 (code + detail % 2 ^ 32 * 2 ^ 32)

/-- An EXCHG trap. -/
def State.exchTrap (s : State) (code detail : Nat) : State := s.trap causeExchg (exchVal code detail)

/-- The network, group and member index that a group number names for the selected hart's process. -/
def State.myGroup (s : State) (g : Nat) : Option (Network × Group × Nat) :=
  match s.hart.pid with
  | none => none
  | some p => match s.net? p.netid with
    | none => none
    | some n => match n.groups[g]? with
      | none => none
      | some q => (q.members.findIdx? (fun m => m.rank == p.rank)).map (fun i => (n, q, i))

/-- The same for an exchange, which only a group of at most 4,096 members has (R284). -/
def State.myExchGroup (s : State) (g : Nat) : Option (Network × Group × Nat) :=
  (s.myGroup g).filter (fun x => decide (x.2.1.members.length ≤ 4096))

/-- Whether a rank is placed by this package. -/
def Network.mine (n : Network) (r : Nat) : Bool := decide (n.rankLo ≤ r) && decide (r < n.rankLo + n.rankCnt)

/-- Whether a rank runs on another package. -/
def Network.abroad (n : Network) (r : Nat) : Bool :=
  !n.mine r && entryPlaced (n.entry r) && !entryEnded (n.entry r)

/-- The state with a member of a group changed. -/
def State.mapMember (s : State) (netid g i : Nat) (f : Member → Member) : State :=
  s.mapNet netid (fun n => { n with groups := n.groups.modify g (fun q => { q with members := q.members.modify i f }) })

/-- The state with a member's open exchange changed. -/
def State.mapExch (s : State) (netid g i : Nat) (f : Exchange → Exchange) : State :=
  s.mapMember netid g i (fun m => { m with exch := m.exch.map f })

/-! ### Grants and phases (R286, R287) -/

/-- OFF and GRANT of each sender at a receiver of a capacity (R286). -/
def grantsFrom (cap off : Nat) : List Nat → List (Nat × Nat)
  | [] => []
  | d :: ds =>
    let g := Nat.min d (cap - off)
    (off, g) :: grantsFrom cap (off + (g + 63) / 64 * 64) ds

/-- One slot of the timetable: sender, receiver and phase. -/
structure Edge where
  s : Nat
  r : Nat
  c : Nat
deriving DecidableEq, Repr

/-- The smallest phase in which no edge satisfies a test. -/
def freePhase (es : List Edge) (f : Edge → Bool) : Nat :=
  ((upTo (es.length + 1)).find? (fun c => !es.any (fun e => f e && e.c == c))).getD 0

/-- The path of edges from a receiver or sender that alternates between two phases; the fuel is the number of edges. -/
def phasePath (es : List Edge) : Nat → Bool → Nat → Nat → Nat → List Edge
  | 0, _, _, _, _ => []
  | fuel + 1, atRecv, node, col, other =>
    match es.find? (fun e => (if atRecv then e.r else e.s) == node && e.c == col) with
    | none => []
    | some e => e :: phasePath es fuel (!atRecv) (if atRecv then e.s else e.r) other col

/-- One more slot from a sender to a receiver, phases exchanged along the path where they must be (R287). -/
def addSlot (es : List Edge) (s r : Nat) : List Edge :=
  let al := freePhase es (fun e => e.s == s)
  let es := if es.any (fun e => e.r == r && e.c == al) then
      let be := freePhase es (fun e => e.r == r)
      let path := phasePath es es.length true r al be
      es.map (fun e => if path.contains e then { e with c := if e.c = al then be else al } else e)
    else es
  es ++ [⟨s, r, al⟩]

/-- The timetable of a slot matrix: S[s][r] by sender (R287). -/
def timetable (slots : List (List Nat)) : List Edge :=
  (slots.mapIdx (fun s row => (s, row))).foldl (fun es sr =>
    (sr.2.mapIdx (fun r n => (r, n))).foldl (fun es rn => (upTo rn.2).foldl (fun es _ => addSlot es sr.1 rn.1) es) es) []

/-- The largest row or column sum of a slot matrix. -/
def phaseCount (slots : List (List Nat)) : Nat :=
  let rows := slots.map (fun r => r.foldl (· + ·) 0)
  let cols := (upTo slots.length).map (fun r => (slots.map (fun row => row.getD r 0)).foldl (· + ·) 0)
  (rows ++ cols).foldl Nat.max 0

/-- Runs (PHASE, COUNT, DEST) of consecutive phases with one destination, newest first while forming (R288). -/
def sendRuns : List (Nat × Nat × Nat) → List (Nat × Nat) → List (Nat × Nat × Nat)
  | acc, [] => acc.reverse
  | (p, n, d) :: acc, (c, r) :: l => if r = d ∧ c = p + n then sendRuns ((p, n + 1, d) :: acc) l
    else sendRuns ((c, 1, r) :: (p, n, d) :: acc) l
  | [], (c, r) :: l => sendRuns [(c, 1, r)] l

/-! ### Calendars (R288, R289, R449) -/

/-- The exchange number that every member has open: those of this package in the state, and no member elsewhere another;
while the completion of a barrier is on its way to some member, the exchange that it closes is over (R296, R326). -/
def Group.openSeq (q : Group) (n : Network) : Option Nat :=
  match (q.members.find? (fun m => !n.abroad m.rank)).bind (·.exch) with
  | some x => if q.members.all (fun m => m.leaving.isNone && (match m.exch with
      | some y => y.seq == x.seq
      | none => n.abroad m.rank)) then some x.seq else none
  | none => none

/-- OFF and GRANT by receiver and sender, of a group whose members have all posted. -/
def Group.grants (q : Group) : List (List (Nat × Nat)) :=
  let dem := q.members.map (fun m => (m.exch.map (·.demand)).getD [])
  q.members.mapIdx (fun r m => grantsFrom ((m.exch.map (·.rcap)).getD 0) 0 (dem.map (fun d => d.getD r 0)))

/-- The slots of 1 MiB by sender and receiver (R286). -/
def Group.slots (q : Group) : List (List Nat) :=
  let g := q.grants
  (upTo q.members.length).map (fun s => g.map (fun row => ((row.getD s (0, 0)).2 + 2 ^ 20 - 1) / 2 ^ 20))

/-- The calendar that member i gets of an issue. -/
def Group.calendar (q : Group) (is : Issue) (i : Nat) : Calendar :=
  let g := q.grants
  let sl := q.slots
  let n := phaseCount sl
  let es := (timetable sl).filter (fun e => e.s == i)
  { gen := is.gen, seq := is.seq, t0 := is.t0, slotNs := is.slotNs, nphase := n
    recv := g.getD i []
    send := g.mapIdx (fun r row => ((row.getD i (0, 0)).2, (sl.getD i []).getD r 0))
    offs := g.map (fun row => (row.getD i (0, 0)).1)
    runs := sendRuns [] ((upTo n).filterMap (fun c => (es.find? (fun e => e.c == c)).map (fun e => (c, e.r)))) }

/-- The bytes of a calendar as DGRANT writes it (R288). -/
def Calendar.bytes (c : Calendar) (group i : Nat) : List Byte :=
  leBytes 4 group ++ leBytes 4 c.recv.length ++ leBytes 4 i ++ leBytes 4 c.gen ++ leBytes 8 c.seq ++ leBytes 8 c.t0.toNat ++
  leBytes 4 c.slotNs.toNat ++ leBytes 4 c.nphase ++ leBytes 4 c.runs.length ++ leBytes 4 0 ++
  leBytes 8 ((c.recv.map (·.2)).foldl (· + ·) 0) ++ leBytes 8 0 ++
  c.recv.flatMap (fun e => leBytes 8 e.1 ++ leBytes 8 e.2) ++
  c.send.flatMap (fun e => leBytes 8 e.1 ++ leBytes 4 e.2 ++ leBytes 4 0) ++
  c.runs.flatMap (fun r => leBytes 4 r.1 ++ leBytes 4 r.2.1 ++ leBytes 4 r.2.2 ++ leBytes 4 0)

/-! ### DPOST (R285) -/

/-- The lowest offset of a field of a post record that reason 3 refuses, among its first 32 bytes. -/
def postBad (b : List Byte) (members : Nat) : Option Nat :=
  if field b 4 4 ≠ members then some 4
  else if field b 8 8 % 64 ≠ 0 then some 8
  else if field b 16 8 % 64 ≠ 0 then some 0x10
  else if field b 24 8 ≠ 0 then some 0x18 else none

/-- A member's exchange as its DPOST opens it. -/
def Exchange.opened (seq : Nat) (rbase : Word) (rcap : Nat) (pages : List Phys) (demand : List Nat) : Exchange where
  seq := seq
  rbase := rbase
  rcap := rcap
  rpages := pages
  demand := demand
  calendar := none
  granted := false
  closed := false
  sent := demand.map (fun _ => 0)
  flights := []
  wire := []
  runsDone := 0
  flits := []
  closings := 0
  closeSum := 0
  pending := 0

/-- What reaches the arbiter of a member on another package: its receive region and its demand, of which the model knows
only the form (R285). -/
def Network.remotePost (n : Network) (t seq members i r : Nat) : Exchange :=
  let free := Config.remoteNum t i
  let base := BitVec.ofNat 64 (64 * (2 ^ 15 + free 0 % 2 ^ 40))
  let cap := 64 * (free 1 % 2 ^ 40)
  let ep := (n.entry r).toNat % 2 ^ 13
  { Exchange.opened seq base cap
      ((pagesOf base.toNat cap).map (fun a => ⟨ep * Config.localBytes + free a % 2 ^ 40 * 4096 + a % 4096, 0, 0⟩))
      ((upTo members).map (fun k => 8 * (free (2 + k) % 2 ^ 40))) with granted := true }

/-- The group with the posts of its members on other packages (R326). -/
def Group.withPosts (q : Group) (n : Network) (t seq : Nat) : Group :=
  { q with members := q.members.mapIdx (fun i m =>
      if m.exch.isNone && n.abroad m.rank then
        { m with exch := some (n.remotePost t seq q.members.length i m.rank), posts := m.posts + 1 }
      else m) }

/-- The exchange of a member on another package once it holds its calendar: it sends what it will to each receiver, at
most its grants, and closes. -/
def Exchange.remoteSends (x : Exchange) (c : Calendar) (t i : Nat) : Exchange :=
  let amts := c.send.mapIdx (fun r gs => 8 * (Config.remoteNum t i r % (gs.1 / 8 + 1)))
  { x with
    calendar := some c
    closed := true
    sent := amts
    flits := upTo amts.length
    flights := ((amts.mapIdx (fun r a => (r, a))).filter (fun ra => ra.2 ≠ 0)).map (fun ra =>
      ⟨ra.1, c.offs.getD ra.1 0, 0, (upTo ra.2).map (fun j => .lit (BitVec.ofNat 8 (Config.remoteNum t (i + 1) (ra.1 + 4096 * j)))), 0⟩) }

/-- DPOST from its translation of the receive region on. -/
def State.dpostOpen (s : State) (n : Network) (g i seq : Nat) (rbase : Word) (rcap : Nat) (demand : List Nat) : State :=
  let s := s.myTouch (pagesOf rbase.toNat rcap)
  match s.xlateRange (fun s a => s.myXlate .w a) rbase.toNat rcap with
  | .error f => s.trap f.1.cause (BitVec.ofNat 64 f.2)
  | .ok l =>
    let t := l.foldl (fun (t : State) e => t.myUse .w e.2.1) s
    (t.mapMember n.netid g i (fun m => { m with
      posts := m.posts + 1
      exch := some (Exchange.opened seq rbase rcap (l.map (·.2.2)) demand) })).advance

/-- DPOST from its first 32 bytes on. -/
def State.dpostRec (s : State) (ea : Word) (b : List Byte) : State :=
  let g := field b 0 4
  match s.myExchGroup g with
  | none => s.exchTrap 1 g
  | some (n, q, i) =>
    if (q.exch? i).isSome then s.exchTrap 2 g
    else match postBad b q.members.length with
      | some o => s.exchTrap 3 o
      | none =>
        let k := q.members.length
        match s.recBad (ea + 32) (8 * k) true false with
        | some f => s.trap f.1 f.2
        | none =>
          match s.recPois (ea + 32) (8 * k) with
          | some p => s.trap causePoison p
          | none =>
          let demand := (upTo k).map (fun r => s.tmLoad (ea.toNat + 32 + 8 * r) 8)
          match demand.findIdx? (fun d => decide (d % 8 ≠ 0)) with
          | some r => s.exchTrap 3 (0x20 + 8 * r)
          | none => s.dpostOpen n g i (((q.members[i]?).map (·.posts)).getD 0) (BitVec.ofNat 64 (field b 8 8)) (field b 16 8)
              demand

/-- DPOST. -/
def execDpost (a : BitVec 5) (s : State) : Out :=
  .next (s.issueX (rr 0x35#6 0#5 a 0#5 0#11) { gate1 with priv := !s.atP } [a] (fun s =>
    let ea := s.x a
    if ea.toNat % 32 ≠ 0 then s.trap causeMisalign ea
    else match (s.recBad ea 32 true false).orElse (fun _ => (s.recPois ea 32).map (fun p => (causePoison, p))) with
      | some f => s.trap f.1 f.2
      | none => s.dpostRec ea (s.tmBytes ea.toNat 32)))

/-! ### DGRANT (R289) -/

/-- DGRANT once a calendar is there: capacity, PROT, a watch, then the stores. -/
def State.dgrantWrite (s : State) (d : BitVec 5) (ea cap : Word) (n : Network) (g i : Nat) (c : Calendar) : State :=
  let bytes := c.bytes g i
  if cap.toNat < bytes.length then s.exchTrap 8 bytes.length
  else match s.recBad ea bytes.length false true with
    | some f => s.trap f.1 f.2
    | none =>
      let s := (s.tmStore ea.toNat bytes).mapExch n.netid g i (fun x => { x with granted := true })
      (s.setX d (BitVec.ofNat 64 bytes.length)).advance

/-- DGRANT from its wait on; one that waits comes here again. Without a live arbiter no calendar comes (R289). -/
def State.dgrantGo (s : State) (d a b : BitVec 5) (g : Nat) : State :=
  match s.myExchGroup g with
  | none => s.exchTrap 1 g
  | some (n, q, i) =>
    match q.exch? i with
    | none => s.exchTrap 4 g
    | some x =>
      match x.calendar with
      | none =>
        if s.epLive q.primary || s.epLive q.standby then s.block (.dgrant d a b g) else s.trap causeTimeout 0
      | some c => s.dgrantWrite d (s.x a) (s.x b) n g i c

/-- DGRANT. -/
def execDgrant (d a b : BitVec 5) (s : State) : Out :=
  .next (s.issueX (rr 0x35#6 d a b 1#11) { gate1 with priv := !s.atP } [a, b] (fun s =>
    let ea := s.x a
    if ea.toNat % 64 ≠ 0 then s.trap causeMisalign ea
    else match s.recBad ea 64 true false with
      | some f => s.trap f.1 f.2
      | none =>
        if s.tmPoisoned ea.toNat 4 then s.trap causePoison ea
        else s.dgrantGo d a b (s.tmLoad ea.toNat 4)))

/-! ### DSEND and DCLOSE (R290, R291) -/

/-- The EXCHG condition of DSEND and DCLOSE by the GROUP and SEQ of a calendar: the lowest code; `dest` is DSEND's
member. -/
def State.sendBad (s : State) (g seq : Nat) (dest : Option Nat) : Option (Nat × Nat) :=
  match s.myExchGroup g with
  | none => some (1, g)
  | some (_, q, i) =>
    match q.exch? i with
    | none => some (4, g)
    | some x =>
      if !x.granted then some (5, 0)
      else if x.closed then some (6, 0)
      else if dest.any (fun r => decide (q.members.length ≤ r)) then some (7, dest.getD 0)
      else if seq ≠ x.seq then some (9, 0) else none

/-- The lowest poisoned address of what DSEND and DCLOSE read: GROUP and SEQ of a calendar, then a send record (R420). -/
def State.sendPois (s : State) (ca : Word) (ra : Option Word) : Option Word :=
  ((s.recPois ca 4).orElse (fun _ => s.recPois (ca + 16) 8)).orElse (fun _ => ra.bind (fun r => s.recPois r 16))

/-- DSEND past its EXCHG conditions: the source's, then the bytes on their way. -/
def State.dsendOut (s : State) (d : BitVec 5) (n : Network) (g i : Nat) (x : Exchange) (c : Calendar) (src : Word)
    (len dest : Nat) : State :=
  let sent := x.sent.getD dest 0
  let amt := Nat.min len ((c.send.getD dest (0, 0)).1 - sent)
  let out := fun (t : State) (sources : List Source) =>
    let f : Flight := ⟨dest, c.offs.getD dest 0 + sent, src, sources, s.instrPc.toNat⟩
    ((t.mapExch n.netid g i (fun x => { x with
      sent := x.sent.set dest (sent + amt)
      flights := if amt = 0 then x.flights else x.flights ++ [f] })).setX d (BitVec.ofNat 64 (len - amt))).advance
  if amt = 0 then out s []
  else if inTm src then
    match s.recBad src amt true false with
    | some f => s.trap f.1 f.2
    | none => out s ((upTo amt).map (fun j => .tm (tmKey s.tileNo (src.toNat + j))))
  else
    let s := s.myTouch (pagesOf src.toNat amt)
    match s.xlateRange (fun s a => s.myXlate .r a) src.toNat amt with
    | .error f => s.trap f.1.cause (BitVec.ofNat 64 f.2)
    | .ok l =>
      let t := l.foldl (fun (t : State) e => t.myUse .r e.2.1) s
      out t ((physRange l src.toNat amt).map .gm)

/-- DSEND from its records on. -/
def State.dsendRec (s : State) (d : BitVec 5) (ca ra : Word) : State :=
  let g := s.tmLoad ca.toNat 4
  let seq := s.tmLoad (ca.toNat + 16) 8
  let src := BitVec.ofNat 64 (s.tmLoad ra.toNat 8)
  let len := s.tmLoad (ra.toNat + 8) 4
  let dest := s.tmLoad (ra.toNat + 12) 4
  if src.toNat % 8 ≠ 0 then s.trap causeMisalign src
  else if len % 8 ≠ 0 then s.trap causeMisalign (BitVec.ofNat 64 len)
  else match s.sendBad g seq (some dest) with
    | some e => s.exchTrap e.1 e.2
    | none =>
      match s.myExchGroup g with
      | none => s.exchTrap 1 g
      | some (n, q, i) =>
        match q.exch? i with
        | none => s.exchTrap 4 g
        | some x => match x.calendar with
          | none => s.exchTrap 5 0
          | some c => s.dsendOut d n g i x c src len dest

/-- DSEND. -/
def execDsend (d a b : BitVec 5) (s : State) : Out :=
  .next (s.issueX (rr 0x35#6 d a b 2#11) { gate1 with priv := !s.atP } [a, b] (fun s =>
    let ca := s.x a
    let ra := s.x b
    if ca.toNat % 64 ≠ 0 then s.trap causeMisalign ca
    else if ra.toNat % 8 ≠ 0 then s.trap causeMisalign ra
    else match ((s.recBad ca 64 true false).orElse (fun _ => s.recBad ra 16 true false)).orElse
        (fun _ => (s.sendPois ca (some ra)).map (fun p => (causePoison, p))) with
      | some f => s.trap f.1 f.2
      | none => s.dsendRec d ca ra))

/-- DCLOSE (R291): a closing flit to every member. -/
def execDclose (a : BitVec 5) (s : State) : Out :=
  .next (s.issueX (rr 0x35#6 0#5 a 0#5 3#11) { gate1 with priv := !s.atP } [a] (fun s =>
    let ca := s.x a
    if ca.toNat % 64 ≠ 0 then s.trap causeMisalign ca
    else match (s.recBad ca 64 true false).orElse (fun _ => (s.sendPois ca none).map (fun p => (causePoison, p))) with
      | some f => s.trap f.1 f.2
      | none =>
        let g := s.tmLoad ca.toNat 4
        match s.sendBad g (s.tmLoad (ca.toNat + 16) 8) none with
        | some e => s.exchTrap e.1 e.2
        | none =>
          match s.myExchGroup g with
          | none => s.exchTrap 1 g
          | some (n, q, i) =>
            (s.mapExch n.netid g i (fun x => { x with closed := true, flits := upTo q.members.length })).advance))

/-! ### Arbiters (R448, R449) -/

/-- A group of a network. -/
def State.group? (s : State) (netid g : Nat) : Option (Network × Group) :=
  (s.net? netid).bind (fun n => (n.groups[g]?).map (fun q => (n, q)))

/-- The state with a group changed. -/
def State.mapGroup (s : State) (netid g : Nat) (f : Group → Group) : State :=
  s.mapNet netid (fun n => { n with groups := n.groups.modify g f })

/-- A new issue of a calendar. -/
def State.newIssue (s : State) (q : Group) (seq gen : Nat) : Issue :=
  ⟨seq, gen, Config.calendarT0 s.ticks, match q.issued with
    | some i => if i.seq = seq then i.slotNs else Config.calendarSlotNs s.ticks
    | none => Config.calendarSlotNs s.ticks⟩

/-- PHASE_CALENDAR_COMPUTE (R449): once every post of an exchange has arrived. -/
def execPhaseCalendarCompute (netid group : Nat) (s : State) : Out :=
  .next (match s.group? netid group with
    | none => s
    | some (n, q) => match q.openSeq n with
      | none => s
      | some seq =>
        if (q.issued.map (·.seq)) = some seq then s
        else s.mapGroup netid group (fun q => { q.withPosts n s.ticks seq with issued := some (s.newIssue q seq 0) }))

/-- The hart of a rank that satisfies a test on its status. -/
def State.hartOf (s : State) (netid rank : Nat) (f : HartStatus → Bool) : Option HartId :=
  (s.harts.find? (fun h => h.pid == some ⟨netid, rank⟩ && f h.status)).map (·.id)

/-- Whether a hart waits in DGRANT for a group. -/
def waitsGrant (g : Nat) : HartStatus → Bool
  | .blocked (.dgrant _ _ _ k) => k == g
  | _ => false

/-- The selected hart's DGRANT tried again. -/
def State.dgrantAgain (s : State) : State :=
  match s.hart.status with
  | .blocked (.dgrant d a b g) => s.unblock.dgrantGo d a b g
  | _ => s

/-- CALENDAR_ARRIVAL (R289): a member that holds an earlier generation keeps it; a waiting DGRANT writes it, and a member
on another package sends by it. -/
def execCalendarArrival (netid group member : Nat) (s : State) : Out :=
  .next (match s.group? netid group with
    | none => s
    | some (n, q) => match q.issued, q.exch? member, q.members[member]? with
      | some is, some x, some m =>
        if is.seq ≠ x.seq ∨ x.calendar.isSome then s
        else if n.abroad m.rank then
          s.mapExch netid group member (fun x => x.remoteSends (q.calendar is member) s.ticks member)
        else
          let s := s.mapExch netid group member (fun x => { x with calendar := some (q.calendar is member) })
          match s.hartOf netid m.rank (waitsGrant group) with
          | some h => s.onHart h State.dgrantAgain
          | none => s
      | _, _, _ => s)

/-- The endpoint of a rank. -/
def Network.rankEndpoint (n : Network) (r : Nat) : Nat := (n.entry r).toNat % 2 ^ 13

/-- The endpoint of the lowest-ranked of some ranks. -/
def Network.lowestEndpoint (n : Network) (ranks : List Nat) : Option Nat := (ranks.min?).map n.rankEndpoint

/-- The standby beside a primary: the lowest-ranked member of a package that is not excluded, else the next die of the
primary's package (R448).
DESIGN CHOICE: after a takeover that leaves no further package (R449), the next die of the new primary's package. -/
def Network.standbyFor (n : Network) (ranks : List Nat) (excluded : List Nat) (base : Nat) : Nat :=
  (n.lowestEndpoint (ranks.filter (fun r => !excluded.contains (n.rankEndpoint r / 4)))).getD
    (base / 4 * 4 + (base % 4 + 1) % 4)

/-- ARBITER_HEARTBEAT (R449). -/
def execArbiterHeartbeat (netid group : Nat) (s : State) : Out :=
  .next (s.mapGroup netid group (fun q => { q with lastBeat := s.time }))

/-- STANDBY_TAKEOVER (R449): 400 µs after the last heartbeat the standby becomes primary, and issues the calendar of an
exchange that all have posted with GEN increased by one. -/
def execStandbyTakeover (netid group : Nat) (s : State) : Out :=
  .next (match s.group? netid group with
    | none => s
    | some (n, q) =>
      if s.time.toNat < q.lastBeat.toNat + 400000 then s
      else
        let ranks := q.members.map (·.rank)
        let posted := match q.openSeq n with
          | some seq => q.withPosts n s.ticks seq
          | none => q
        let issued := match q.openSeq n with
          | some seq => some (s.newIssue q seq (match q.issued with
              | some i => if i.seq = seq then i.gen + 1 else 1
              | none => 1))
          | none => q.issued
        let s := s.mapGroup netid group (fun q => { posted with
          primary := q.standby
          standby := n.standbyFor ranks [q.primary / 4, q.standby / 4] q.standby
          issued := issued
          lastBeat := s.time })
        s.fail ⟨4, 0xFF, q.primary, n.vdid, s.time, netid, 0, 0⟩)

/-! ### Bytes and closing flits on the fabric (R288, R290, R292) -/

/-- The first bytes of the flights to a receiver taken off a queue: at most n in all, cut where a granule ends. -/
def takeFlights (receiver : Nat) : Nat → List Flight → List Flight × List Flight
  | _, [] => ([], [])
  | n, f :: fs =>
    if f.receiver ≠ receiver ∨ n = 0 then
      let r := takeFlights receiver n fs
      (r.1, f :: r.2)
    else if f.sources.length ≤ n then
      let r := takeFlights receiver (n - f.sources.length) fs
      (f :: r.1, r.2)
    else
      let k := Nat.min f.sources.length ((f.offset + n + 63) / 64 * 64 - f.offset)
      let rest : Flight := f.drop k
      ([{ f with sources := f.sources.take k }], if k = f.sources.length then fs else rest :: fs)

/-- PHASE_START (R288): the sender's next run puts up to a slot for each of its phases on the fabric. -/
def execPhaseStart (netid group sender run : Nat) (s : State) : Out :=
  .next (match s.group? netid group with
    | none => s
    | some (_, q) => match (q.exch? sender).bind (fun x => x.calendar.map (fun c => (x, c))) with
      | none => s
      | some (x, c) => match c.runs[run]? with
        | none => s
        | some r =>
          if run ≠ x.runsDone then s
          else s.mapExch netid group sender (fun x =>
            let t := takeFlights r.2.2 (r.2.1 * 2 ^ 20) x.flights
            { x with runsDone := run + 1, wire := x.wire ++ t.1, flights := t.2 }))

/-- The sender's next bytes for a receiver, at most to the end of a granule, and its exchange without them: those on
the fabric first, and once its runs are over those still queued. -/
def Exchange.nextBytes (x : Exchange) (receiver : Nat) : Option (Flight × Exchange) :=
  let cut := fun (l : List Flight) => match l.find? (fun f => f.receiver == receiver) with
    | none => none
    | some f =>
      let k := Nat.min f.sources.length (64 - f.offset % 64)
      let rest : Flight := f.drop k
      some (({ f with sources := f.sources.take k } : Flight),
        l.flatMap (fun g => if g = f then (if k = f.sources.length then [] else [rest]) else [g]))
  match cut x.wire with
  | some (f, l) => some (f, { x with wire := l })
  | none =>
    if x.calendar.any (fun c => decide (x.runsDone < c.runs.length)) then none
    else (cut x.flights).map (fun fl => (fl.1, { x with flights := fl.2 }))

/-- EXCHANGE_BYTES_LAND (R292): written once, the granule marked, the counter lowered; poison lands with its bytes. -/
def execExchangeBytesLand (netid group sender receiver : Nat) (s : State) : Out :=
  .next (match s.group? netid group with
    | none => s
    | some (_, q) => match q.exch? sender, q.exch? receiver with
      | some xs, some xr =>
        if xs.seq ≠ xr.seq then s
        else match xs.nextBytes receiver with
          | none => s
          | some (f, xs') =>
            let p := xr.phys f.offset
            let bytes := f.sources.mapIdx (fun j b => (⟨p.addr + j, b, xr.rbase + BitVec.ofNat 64 (f.offset + j), 0, j⟩ : PendByte))
            let s := (s.putGm p.slot netid bytes).setGmFull (p.addr / 64) true
            let s := s.mapExch netid group sender (fun _ => xs')
            s.mapExch netid group receiver (fun x => { x with pending := x.pending - BitVec.ofNat 64 f.sources.length })
      | _, _ => s)

/-- CLOSING_FLIT (R291, R292): behind every byte that the sender has sent to the receiver. -/
def execClosingFlit (netid group sender receiver : Nat) (s : State) : Out :=
  .next (match s.group? netid group with
    | none => s
    | some (_, q) => match q.exch? sender, q.exch? receiver with
      | some xs, some xr =>
        if xs.seq ≠ xr.seq ∨ !xs.flits.contains receiver ∨
          (xs.flights ++ xs.wire).any (fun f => f.receiver == receiver) then s
        else
          let n := xs.sent.getD receiver 0
          let s := s.mapExch netid group sender (fun x => { x with flits := x.flits.erase receiver })
          s.mapExch netid group receiver (fun x => { x with
            closings := x.closings + 1, closeSum := x.closeSum + n, pending := x.pending + BitVec.ofNat 64 n })
      | _, _ => s)

end Sys2Proof.Machine
end

