-- ==== Sys2Proof/Machine/Barrier.lean ====
section
/-! DEFINITION. Barriers and reducing barriers: BARRIER, BARCNT, the completion of a barrier (R134, R296 to R298). -/

namespace Sys2Proof.Machine

/-! ### Reduction records (R298) -/

/-- A reduction record as it is read. -/
structure RedRecord where
  red : Reduction
  src : Word
  dst : Word
deriving DecidableEq, Repr

/-- The record in 32 bytes. -/
def redOf (b : List Byte) : RedRecord :=
  ⟨⟨field b 0 1, field b 1 1, field b 2 1, field b 4 2⟩, BitVec.ofNat 64 (field b 8 8), BitVec.ofNat 64 (field b 16 8)⟩

/-- The offset of the lowest field that reason 11 refuses. -/
def redBad (b : List Byte) : Option Nat :=
  let r := (redOf b).red
  if 10 < r.op then some 0
  else if 3 < r.width ∨ (7 < r.op ∧ r.width < 2) then some 1
  else if (if r.op = 10 then 4 else 0) < r.rm then some 2
  else if field b 3 1 ≠ 0 then some 3
  else if r.count = 0 ∨ 256 / 2 ^ r.width < r.count then some 4
  else if field b 6 2 ≠ 0 then some 6
  else if field b 0x18 8 ≠ 0 then some 0x18 else none

/-- Bytes of a contribution. -/
def Reduction.bytes (r : Reduction) : Nat := r.count * 2 ^ r.width

/-- Two elements combined by an integer operation, at w bits (R220). -/
def redCombine (op w a b : Nat) : Nat :=
  let lt := decide (sextNat w a < sextNat w b)
  match op with
  | 0 => (a + b) % 2 ^ w
  | 1 => a &&& b
  | 2 => a ||| b
  | 3 => a ^^^ b
  | 4 => if lt then a else b
  | 5 => if lt then b else a
  | 6 => Nat.min a b
  | _ => Nat.max a b

/-- One element of the result with its flags, from every member's. -/
def redElem (r : Reduction) (vals : List Nat) : Nat × FFlags :=
  let f : Fmt := if r.width = 2 then .fp32 else .fp64
  if r.op ≤ 7 then
    match vals with
    | [] => (0, 0)
    | v :: vs => (vs.foldl (redCombine r.op (8 * 2 ^ r.width)) v, 0)
  else if r.op ≤ 9 then
    vals.foldl (fun (a : Nat × FFlags) v => withFlags (f.minmax (r.op == 9) a.1 v) a.2) (f.nanBits, 0)
  else
    let a := vals.foldl (fun (a : LongAcc) v => a.addTerm (f.decode v)) LongAcc.zero
    let nv := vals.foldl (fun (fl : FFlags) v => fl ||| flagIf flagNV (f.decode v).isSig) 0
    withFlags (a.round f (.mode r.rm)) nv

/-- The result bytes and flags of contributions. -/
def redResult (r : Reduction) (cs : List (List Byte)) : List Byte × FFlags :=
  let es := (upTo r.count).map (fun i => redElem r (cs.map (fun c => field c (i * 2 ^ r.width) (2 ^ r.width))))
  (es.flatMap (fun e => leBytes (2 ^ r.width) e.1), es.foldl (fun fl e => fl ||| e.2) 0)

/-! ### Arrival (R296) -/

/-- Whether a rank takes part in no barrier any more: it has ended, or the fabric has declared its endpoint failed. -/
def State.rankGone (s : State) (n : Network) (r : Nat) : Bool :=
  entryEnded (n.entry r) || (entryPlaced (n.entry r) && !s.epLive (n.rankEndpoint r))

/-- The index of a member of a group that is gone, where one is. -/
def State.endedMember (s : State) (n : Network) (q : Group) : Option Nat :=
  let l := (q.members.mapIdx (fun i m => (i, m))).filterMap (fun im =>
    if s.rankGone n im.2.rank then some im.1 else none)
  l[Config.endedPick s.ticks % Nat.max l.length 1]?

/-- The EXCHG condition of BARRIER without a record: its group, and an exchange posted and not closed. -/
def State.barrierBad (s : State) (g : Nat) : Option (Nat × Nat) :=
  match s.myGroup g with
  | none => some (1, g)
  | some (_, q, i) => if (q.exch? i).any (fun x => !x.closed) then some (10, g) else none

/-- The arrival at a group's next barrier, and the wait. -/
def State.arrive (s : State) (g : Nat) (a : Arrival) : State :=
  match s.myGroup g with
  | none => s.exchTrap 1 g
  | some (n, q, i) =>
    match s.endedMember n q with
    | some k => s.trap causeTimeout (BitVec.ofNat 64 k)
    | none => (s.mapMember n.netid g i (fun m => { m with arrival := some a })).block (.barrier g)

/-- BARRIER (R296). -/
def execBarrier (a : BitVec 5) (s : State) : Out :=
  .next (s.issueX (rr 0x36#6 0#5 a 0#5 0#11) { gate1 with priv := !s.atP } [a] (fun s =>
    let g := (s.x a).toNat
    match s.barrierBad g with
    | some e => s.exchTrap e.1 e.2
    | none => s.arrive g ⟨none, [], 0⟩))

/-- The conditions of a reduction's source and destination (R298). -/
def State.redStopAt (s : State) (r : RedRecord) : Option (BitVec 8 × Word) :=
  let n := r.red.bytes
  let m := 2 ^ r.red.width
  if r.src.toNat % m ≠ 0 then some (causeMisalign, r.src)
  else if r.dst.toNat % m ≠ 0 then some (causeMisalign, r.dst)
  else match (s.tmFirstBad r.src.toNat n).orElse (fun _ => s.tmFirstBad r.dst.toNat n) with
    | some x => some (causeProt, BitVec.ofNat 64 x)
    | none => ((s.recBad r.src n true false).orElse (fun _ => s.recBad r.dst n false true)).orElse
        (fun _ => (s.recPois r.src n).map (fun x => (causePoison, x)))

/-- The reducing BARRIER (R298). -/
def execBarrierReduce (a b : BitVec 5) (s : State) : Out :=
  .next (s.issueX (rr 0x36#6 0#5 a b 0#11) { gate1 with priv := !s.atP } [a, b] (fun s =>
    let ea := s.x b
    let g := (s.x a).toNat
    if ea.toNat % 32 ≠ 0 then s.trap causeMisalign ea
    else match (s.recBad ea 32 true false).orElse (fun _ => (s.recPois ea 32).map (fun x => (causePoison, x))) with
      | some f => s.trap f.1 f.2
      | none =>
        let bs := s.tmBytes ea.toNat 32
        match s.barrierBad g with
        | some e => s.exchTrap e.1 e.2
        | none => match redBad bs with
          | some o => s.exchTrap 11 o
          | none =>
            let r := redOf bs
            match s.redStopAt r with
            | some f => s.trap f.1 f.2
            | none => s.arrive g ⟨some r.red, s.tmBytes r.src.toNat r.red.bytes, r.dst.toNat⟩))

/-- BARCNT (R297). -/
def execBarcnt (d a : BitVec 5) (s : State) : Out :=
  .next (s.issueX (rr 0x36#6 d a 0#5 1#11) { gate1 with priv := !s.atP } [a] (fun s =>
    let g := (s.x a).toNat
    match s.myGroup g with
    | none => s.exchTrap 1 g
    | some (_, q, i) => (s.setX d (((q.members[i]?).map (·.barcnt)).getD 0)).advance))

/-! ### Completion (R292, R296, R298) -/

/-- Whether a barrier may complete: every member of this package has arrived and no other one is known not to have, no
completion of the last is on its way, and every open exchange is settled (R326). -/
def Group.ready (q : Group) (n : Network) : Bool :=
  q.members.all (fun m => (m.arrival.isSome || n.abroad m.rank) && m.leaving.isNone &&
    m.exch.all (fun x => x.settled q.members.length))

/-- The arrival of a member on another package: its record and contribution are not the model's. -/
def remoteArrival (t i : Nat) : Arrival :=
  let free := Config.remoteNum t i
  if free 0 % 2 = 0 then ⟨none, [], 0⟩
  else
    let r : Reduction := ⟨free 1 % 11, free 2 % 4, free 3 % 5, free 4 % 257⟩
    ⟨some r, (upTo (r.count * 2 ^ r.width)).map (fun j => BitVec.ofNat 8 (free (5 + j))), 0⟩

/-- The group with the arrivals of its members on other packages. -/
def Group.withArrivals (q : Group) (n : Network) (t : Nat) : Group :=
  { q with members := q.members.mapIdx (fun i m =>
      if m.arrival.isNone && n.abroad m.rank then { m with arrival := some (remoteArrival t i) } else m) }

/-- The outcome of the members' records. -/
def Group.outcome (q : Group) : BarResult :=
  let reds := q.members.map (fun m => m.arrival.bind (·.red))
  match reds.head? with
  | none => .plain
  | some none => if reds.all (·.isNone) then .plain else .disagree
  | some (some r) =>
    if reds.all (fun x => x == some r) then
      let res := redResult r (q.members.map (fun m => (m.arrival.map (·.contribution)).getD []))
      .result res.1 res.2
    else .disagree

/-- Whether a hart waits in BARRIER for a group. -/
def waitsBarrier (g : Nat) : HartStatus → Bool
  | .blocked (.barrier k) => k == g
  | _ => false

/-- The completion on a member's hart. -/
def State.barrierDone (s : State) (g dst : Nat) (o : BarResult) : State :=
  let s := s.unblock
  match o with
  | .plain => s.advance
  | .result bs fl => ((s.tmStore dst bs).raise fl).advance
  | .disagree => s.trapAfter causeExchg (exchVal 12 g) 0 0

/-- A member after its barrier: its exchange closed, the closing counts kept for BARCNT. -/
def Member.completed (m : Member) : Member :=
  { m with
    exch := none, arrival := none, leaving := none, barriers := m.barriers + 1
    barcnt := match m.exch with
      | some x => BitVec.ofNat 64 x.closeSum
      | none => 0 }

/-- The group whose barrier is over, with the outcome on its way to every member. -/
def Group.finished (q : Group) : Group :=
  { q with members := q.members.map (fun m => { m with leaving := some q.outcome }), issued := none }

/-- The members that the completion has still to reach. -/
def Group.leavers (q : Group) : List Nat :=
  (q.members.mapIdx (fun i m => (i, m))).filterMap (fun im => if im.2.leaving.isSome then some im.1 else none)

/-- The completion reaches a member: its exchange closes, and its hart goes on. -/
def State.completeMember (s : State) (netid g i : Nat) : State :=
  match (s.group? netid g).bind (fun nq => nq.2.members[i]?) with
  | none => s
  | some m =>
    match m.leaving with
    | none => s
    | some o =>
      let t := s.mapMember netid g i Member.completed
      match t.hartOf netid m.rank (waitsBarrier g) with
      | some h => t.onHart h (fun t => t.barrierDone g ((m.arrival.map (·.dst)).getD 0) o)
      | none => t

/-- BARRIER_COMPLETION (R296): the barrier is over once every member has arrived and every exchange is settled; then the
completion reaches the members one by one, in an order and at instants that are free (R134, R327). -/
def execBarrierCompletion (netid group : Nat) (s : State) : Out :=
  .next (match s.group? netid group with
    | none => s
    | some (n, q) =>
      let done := q.ready n && !q.members.any (fun m => s.rankGone n m.rank)
      let s := if done then s.mapGroup netid group (fun q => (q.withArrivals n s.ticks).finished) else s
      let l := match s.group? netid group with
        | some (_, q) => q.leavers
        | none => []
      match l[Config.memberPick s.ticks % Nat.max l.length 1]? with
      | some i => s.completeMember netid group i
      | none => s)

end Sys2Proof.Machine
end

