-- ==== Sys2Proof/Machine/VMem.lean ====
section
/-! DEFINITION. Vector loads, stores, segment accesses, spills and fills of tile memory (R231 to R240). -/

namespace Sys2Proof.Machine

/-- The address of element i in modes 0 to 2 (R231). -/
def State.vmAddr (s : State) (h : Hart) (mode : Nat) (a b : BitVec 5) (i : Nat) : Word :=
  let w := s.sew
  if mode = 0 then s.opA a + BitVec.ofNat 64 (i * (w / 8))
  else if mode = 1 then s.opA a + BitVec.ofNat 64 i * s.opB b
  else s.opA a + BitVec.ofNat 64 (h.elem w b.toNat i)

/-- The register that holds a poisoned index element, in mode 2 (R233). -/
def State.idxPois (s : State) (h : Hart) (mode : Nat) (b : BitVec 5) (i : Nat) : Option Nat :=
  if mode = 2 then h.poisIn s.sew [b.toNat] i else none

/-- A vector memory instruction's fields as `vrun` takes them: regs the data registers, `units` times the rows (R235). -/
def State.vmInstr (s : State) (word : IWord) (store : Bool) (mode : Nat) (d a b : BitVec 5) (p : BitVec 3) (regs : Nat)
    (units : Nat) (vcfg : Bool) : VInstr where
  word := word
  srcs := (if mode = 2 then [(b.toNat, s.grp)] else []) ++ (if store then [(d.toNat, regs)] else [])
  dsts := if store then [] else [(d.toNat, regs)]
  pred := p
  reads := if mode = 1 then [a, b] else [a]
  xa := s.opA a
  xb := if mode = 1 then s.opB b else 0
  units := units
  vcfg := vcfg || s.badGroup d || (decide (mode = 2) && s.badGroup b)
  vl0 := false

/-- A vector access of tile memory: bytes per access, direction, the addresses of an element's accesses, the register
of a poisoned index. -/
structure TmVec where
  n : Nat
  store : Bool
  addrs : Nat → List Word
  idx : Nat → Option Nat

/-- Steps 1 and 2 of R233 over elements. -/
def State.tmVecAddr (s : State) (v : TmVec) (l : List Nat) : Option Stop :=
  let l := l.filter (fun i => (v.idx i).isNone)
  match l.findSome? (fun i => ((v.addrs i).find? (fun a => decide (a.toNat % v.n ≠ 0))).map (fun a => (⟨causeMisalign, a, i⟩ : Stop))) with
  | some t => some t
  | none => l.findSome? (fun i => ((v.addrs i).find? (fun a => !s.tmOk a.toNat v.n)).map (fun a => ⟨causeProt, a, i⟩))

/-- Step 3 of R233 and the debug table for one element: `data` gives the address at which its data is poisoned. -/
def State.tmVecData (s : State) (v : TmVec) (data : State → Nat → Option Word) (i : Nat) : Option (BitVec 8 × Word) :=
  match s.haltElem i with
  | some c => some c
  | none =>
    match v.idx i with
    | some r => some (causePoison, BitVec.ofNat 64 r)
    | none =>
      match (v.addrs i).findSome? (fun a => s.watchHit true (!v.store) v.store i a.toNat v.n) with
      | some n => some (causeBrk, brkVal n)
      | none => (data s i).map (fun a => (causePoison, a))

/-- The elements in increasing order (R234). -/
def State.tmVecLoop (s : State) (v : TmVec) (data : State → Nat → Option Word) (eff : State → Nat → State) :
    List Nat → VEnd
  | [] => .done s
  | i :: is =>
    match s.tmVecData v data i with
    | some c => .stop s c.1 c.2 i i 0
    | none => State.tmVecLoop (eff s i) v data eff is

/-- A vector access of tile memory from its address conditions on. -/
def State.tmVec (s : State) (v : TmVec) (l : List Nat) (data : State → Nat → Option Word) (eff : State → Nat → State) :
    VEnd :=
  match s.tmVecAddr v l with
  | some t => s.stopBefore t
  | none => s.tmVecLoop v data eff l

/-- The data condition of a load: the first poisoned address of an element (R233). -/
def loadPois (v : TmVec) (s : State) (i : Nat) : Option Word := (v.addrs i).find? (fun a => s.tmPoisoned a.toNat v.n)

/-- The data condition of a store of the element i of groups at registers `regs`, w bits wide: a poisoned source, or a
poisoned word that the store does not replace (R233, R237). -/
def storePois (v : TmVec) (h : Hart) (w : Nat) (regs : List Nat) (s : State) (i : Nat) : Option Word :=
  (((v.addrs i).zip regs).find? (fun ar => h.elemPois w ar.2 i || (decide (v.n < 8) && s.tmPoisoned ar.1.toNat v.n))).map
    (·.1)

/-- VLD, VLDS and VLDX. -/
def State.vload (s : State) (mode : Nat) (d a b : BitVec 5) (p : BitVec 3) (word : IWord) : Out :=
  let w := s.sew
  .next (s.vrun (s.vmInstr word false mode d a b p s.grp (s.rows w) false) (fun s h =>
    let v : TmVec := ⟨w / 8, false, fun i => [s.vmAddr h mode a b i], s.idxPois h mode b⟩
    s.tmVec v (s.actives p) (loadPois v) (fun t i =>
      { t with hart := t.hart.setElem w d.toNat i (t.tmLoad (s.vmAddr h mode a b i).toNat (w / 8)) })))

/-- VST, VSTS and VSTX. -/
def State.vstore (s : State) (mode : Nat) (d a b : BitVec 5) (p : BitVec 3) (word : IWord) : Out :=
  let w := s.sew
  .next (s.vrun (s.vmInstr word true mode d a b p s.grp (s.rows w) false) (fun s h =>
    let v : TmVec := ⟨w / 8, true, fun i => [s.vmAddr h mode a b i], s.idxPois h mode b⟩
    s.tmVec v (s.actives p) (storePois v h w [d.toNat]) (fun t i =>
      t.tmStore (s.vmAddr h mode a b i).toNat (leBytes (w / 8) (h.elem w d.toNat i)))))

/-- VLD (R236). -/
def execVld (d a : BitVec 5) (p : BitVec 3) (s : State) : Out := s.vload 0 d a 0 p (vm 0x29#6 d a 0#5 p 0#3 0#5)
/-- VLDS. -/
def execVlds (d a b : BitVec 5) (p : BitVec 3) (s : State) : Out := s.vload 1 d a b p (vm 0x29#6 d a b p 1#3 0#5)
/-- VLDX. -/
def execVldx (d a b : BitVec 5) (p : BitVec 3) (s : State) : Out := s.vload 2 d a b p (vm 0x29#6 d a b p 2#3 0#5)
/-- VST. -/
def execVst (d a : BitVec 5) (p : BitVec 3) (s : State) : Out := s.vstore 0 d a 0 p (vm 0x2A#6 d a 0#5 p 0#3 0#5)
/-- VSTS. -/
def execVsts (d a b : BitVec 5) (p : BitVec 3) (s : State) : Out := s.vstore 1 d a b p (vm 0x2A#6 d a b p 1#3 0#5)
/-- VSTX. -/
def execVstx (d a b : BitVec 5) (p : BitVec 3) (s : State) : Out := s.vstore 2 d a b p (vm 0x2A#6 d a b p 2#3 0#5)

/-! ### Segments (R238) -/

/-- The memory element width of a segment access in bits: for a load .WIDEN halves and .NARROW doubles SEW, for a store
the other way. -/
def segWm (load : Bool) (sew : Nat) (code : BitVec 2) : Nat :=
  if code = 0 then sew else if (code == 1) == load then sew / 2 else sew * 2

/-- The VCFG condition of a segment access. -/
def State.segBad (s : State) (d : BitVec 5) (wm f : Nat) : Bool :=
  decide (wm < 8) || decide (64 < wm) || decide (d.toNat % s.grp ≠ 0) || decide (vtRc s.hart.vtype < d.toNat + f * s.grp)

/-- The address of field k of record i. -/
def State.segAddr (s : State) (a : BitVec 5) (wm f i k : Nat) : Word := s.opA a + BitVec.ofNat 64 ((i * f + k) * (wm / 8))

/-- The first registers of the field groups. -/
def State.segRegs (s : State) (d : BitVec 5) (f : Nat) : List Nat := (upTo f).map (fun k => d.toNat + k * s.grp)

/-- VLSEG (R238). -/
def execVlseg (d a : BitVec 5) (p : BitVec 3) (wc : BitVec 2) (fm : BitVec 3) (s : State) : Out :=
  let w := s.sew
  let f := fm.toNat + 1
  let wm := segWm true w wc
  .next (s.vrun (s.vmInstr (vm 0x29#6 d a 0#5 p 3#3 (wc ++ fm)) false 3 d a 0 p (f * s.grp) (f * s.rows (Nat.max w wm))
      (s.segBad d wm f)) (fun s _ =>
    let v : TmVec := ⟨wm / 8, false, fun i => (upTo f).map (s.segAddr a wm f i), fun _ => none⟩
    s.tmVec v (s.actives p) (loadPois v) (fun t i =>
      { t with hart := ((v.addrs i).zip (s.segRegs d f)).foldl (fun (h : Hart) (ar : Word × Nat) =>
          h.setElem w ar.2 i (wrapNat w (sextNat wm (t.tmLoad ar.1.toNat (wm / 8))))) t.hart })))

/-- VSSEG (R238). -/
def execVsseg (d a : BitVec 5) (p : BitVec 3) (wc : BitVec 2) (fm : BitVec 3) (s : State) : Out :=
  let w := s.sew
  let f := fm.toNat + 1
  let wm := segWm false w wc
  .next (s.vrun (s.vmInstr (vm 0x2A#6 d a 0#5 p 3#3 (wc ++ fm)) true 3 d a 0 p (f * s.grp) (f * s.rows (Nat.max w wm))
      (s.segBad d wm f)) (fun s h =>
    let v : TmVec := ⟨wm / 8, true, fun i => (upTo f).map (s.segAddr a wm f i), fun _ => none⟩
    s.tmVec v (s.actives p) (storePois v h w (s.segRegs d f)) (fun t i =>
      ((v.addrs i).zip (s.segRegs d f)).foldl (fun (t : State) (ar : Word × Nat) =>
        t.tmStore ar.1.toNat (leBytes (wm / 8) (wrapNat wm (sextNat w (h.elem w ar.2 i))))) t)))

/-! ### Spill and fill (R239, R412) -/

/-- The protection words that n bytes at a TM address of the selected hart touch. -/
def State.tmWords (s : State) (a n : Nat) : List Nat :=
  let k := tmKey s.tileNo a
  (upTo ((k + n + 7) / 8 - k / 8)).map (k / 8 + ·)

/-- The MISALIGN of a spill or fill whose base is no multiple of 64: TELEM 0. -/
def spillAlign (base : Word) : Option Stop := if base.toNat % 64 ≠ 0 then some ⟨causeMisalign, base, 0⟩ else none

/-- Whether the protection word of element i, w bits wide, of a unit-stride spill is written whole by unpoisoned
elements among those spilled. -/
def spilledWhole (h : Hart) (w r : Nat) (l : List Nat) (i : Nat) : Bool :=
  let per := 64 / w
  (upTo per).all (fun j => l.contains (i / per * per + j) && !h.elemPois w r (i / per * per + j))

/-- VSPILL (R239): poison is copied. A protection word that the spill fills with unpoisoned elements ends its poison. -/
def execVspill (d a : BitVec 5) (p : BitVec 3) (s : State) : Out :=
  let w := s.sew
  .next (s.vrun (s.vmInstr (vm 0x2D#6 d a 0#5 p 0#3 2#5) true 0 d a 0 p s.grp (s.rows w) false) (fun s h =>
    let v : TmVec := ⟨w / 8, true, fun i => [s.vmAddr h 0 a 0 i], fun _ => none⟩
    let l := s.actives p
    match if s.vlen = 0 then none else spillAlign (s.opA a) with
    | some t => s.stopBefore t
    | none => s.tmVec v l (fun _ _ => none) (fun t i =>
        let ea := (s.vmAddr h 0 a 0 i).toNat
        let t := t.tmStore ea (leBytes (w / 8) (h.elem w d.toNat i))
        let words := t.tmWords ea (w / 8)
        if h.elemPois w d.toNat i then words.foldl State.poisonTm t
        else if spilledWhole h w d.toNat l i then { t with tmPois := words.foldl setDel t.tmPois }
        else t)))

/-- VFILL (R239): a poisoned word marks its elements; elements from VL to VLMAX - 1 become zero. -/
def execVfill (d a : BitVec 5) (p : BitVec 3) (s : State) : Out :=
  let w := s.sew
  .next (s.vrun (s.vmInstr (vm 0x2D#6 d a 0#5 p 0#3 3#5) false 0 d a 0 p s.grp (s.rows w) false) (fun s h =>
    let v : TmVec := ⟨w / 8, false, fun i => [s.vmAddr h 0 a 0 i], fun _ => none⟩
    match if s.vlen = 0 then none else spillAlign (s.opA a) with
    | some t => s.stopBefore t
    | none =>
      match s.tmVec v (s.actives p) (fun _ _ => none) (fun t i =>
        let ea := (s.vmAddr h 0 a 0 i).toNat
        let hart := t.hart.setElem w d.toNat i (t.tmLoad ea (w / 8))
        if t.tmPoisoned ea (w / 8) then
          { t with hart := hart.poisonElem w d.toNat i }.tileEvent t.tileNo 6 (hart.elemKey w d.toNat i / 8 % 32) (hart.elemKey w d.toNat i / 256)
            (hart.elemKey w d.toNat i / 256) t.myNet
        else { t with hart := hart }) with
      | .done t =>
        let tail := (upTo t.vlmax).filter (fun i => decide (t.vlen ≤ i))
        .done { t with hart := tail.foldl (fun (h : Hart) i => h.setElem w d.toNat i 0) t.hart }
      | e => e))

/-- The conditions of EASPILL and EAFILL up to the debug table: MISALIGN, PROT, a watch. -/
def State.eaFault (s : State) (ea : Word) (store : Bool) : Option (BitVec 8 × Word) :=
  if ea.toNat % 8 ≠ 0 then some (causeMisalign, ea)
  else if !s.tmOk ea.toNat 536 then some (causeProt, ea)
  else (s.watchHit true (!store) store 0 ea.toNat 536).map (fun n => (causeBrk, brkVal n))

/-- EASPILL (R239): 536 bytes, which also end the poison of the words they fill. -/
def execEaspill (d : BitVec 2) (a : BitVec 5) (s : State) : Out :=
  .next (s.issueX (vm 0x2D#6 (0#3 ++ d) a 0#5 0#3 0#3 4#5) gate1 [a] (fun s =>
    let ea := s.x a
    match s.eaFault ea true with
    | some f => s.trap f.1 f.2
    | none =>
      if (s.hart.acc d).pois then s.trap causePoison 0
      else (s.tmStore ea.toNat (leBytes 536 (s.hart.acc d).toNat)).advance))

/-- EAFILL (R239). -/
def execEafill (d : BitVec 2) (a : BitVec 5) (s : State) : Out :=
  .next (s.issueX (vm 0x2D#6 (0#3 ++ d) a 0#5 0#3 0#3 5#5) gate1 [a] (fun s =>
    let ea := s.x a
    match s.eaFault ea false with
    | some f => s.trap f.1 f.2
    | none =>
      if s.tmPoisoned ea.toNat 536 then s.trap causePoison ea
      else { s with hart := s.hart.setAcc d (LongAcc.ofNat (s.tmLoad ea.toNat 536)) }.advance))

end Sys2Proof.Machine
end

