-- ==== Sys2Proof/Machine/Global.lean ====
section
/-! DEFINITION. Global accesses, scalar and vector: loads, stores, synchronisation, FENCE, atomics and multicast stores (R231 to R248). -/

namespace Sys2Proof.Machine

/-! ### Replies (R233, R241, R246, R247) -/

/-- The new value of an atomic on n bytes, or nothing where CAS fails (R246). -/
def amoNew (op : AmoOp) (n old src cmp : Nat) : Option Nat :=
  let lt : Bool := decide (sextNat (8 * n) old < sextNat (8 * n) src)
  match op with
  | .add => some ((old + src) % 256 ^ n)
  | .and => some (old &&& src)
  | .or => some (old ||| src)
  | .xor => some (old ^^^ src)
  | .min => some (if lt then old else src)
  | .max => some (if lt then src else old)
  | .minu => some (Nat.min old src)
  | .maxu => some (Nat.max old src)
  | .swap => some src
  | .cas => if old = cmp then some src else none

/-- An atomic performed at its kettle: the old value and the state after the write. -/
def State.gmAmo (s : State) (p : Phys) (n : Nat) (op : AmoOp) (src cmp : Nat) : Nat × State :=
  let old := leNat (s.gmBytes p n)
  (old, match amoNew op n old src cmp with
    | some v => s.gmStore p (leBytes n v)
    | none => s)

/-- The effect of one access with a reply: its value delivered, or the atomic performed and its old value delivered. -/
def State.replyDone (s : State) (use : ReplyUse) (n : Nat) (e : ElemAccess) : State :=
  match use with
  | .loadX d sg =>
    let v := leNat (s.gmBytes e.phys n)
    s.setX d (if sg then BitVec.ofInt 64 (sextNat (8 * n) v) else BitVec.ofNat 64 v)
  | .amoX op d src cmp =>
    let r := s.gmAmo e.phys n op (src.toNat % 256 ^ n) (cmp.toNat % 256 ^ n)
    r.2.setX d (BitVec.ofInt 64 (sextNat (8 * n) r.1))
  | .loadV d _ => { s with hart := s.hart.setElem (8 * n) d e.elem (leNat (s.gmBytes e.phys n)) }
  | .amoV op d _ =>
    let r := s.gmAmo e.phys n op (s.hart.elem (8 * n) d e.elem) 0
    { r.2 with hart := r.2.hart.setElem (8 * n) d e.elem r.1 }

/-! ### Scalar accesses (R241, R246) -/

/-- The conditions of a scalar global access of n bytes up to its data, or its translation: MISALIGN, XLATE or PROT, a
watch (R241, R246, R471). -/
def State.gmTest (s : State) (ea : Word) (n : Nat) (need : Need) (load store : Bool) :
    Except (BitVec 8 × Word) (TlbEntry × Phys) :=
  if ea.toNat % n ≠ 0 then .error (causeMisalign, ea)
  else match s.myXlate need ea.toNat with
    | .error f => .error (f.cause, ea)
    | .ok r => match s.watchHit false load store 0 ea.toNat n with
      | some e => .error (causeBrk, brkVal e)
      | none => .ok r

/-- The state in which a scalar access of n bytes is tested: an aligned address has been walked (R389). -/
def State.probe (s : State) (ea : Word) (n : Nat) : State := if ea.toNat % n = 0 then s.myTouch [ea.toNat] else s

/-- A scalar access with a reply: done at once within the package, over the fabric at the reply. -/
def State.gmReply (s : State) (word : IWord) (use : ReplyUse) (ea : Word) (n : Nat) (need : Need) (store : Bool) : State :=
  let s := s.probe ea n
  match s.gmTest ea n need true store with
  | .error f => s.trap f.1 f.2
  | .ok r =>
    let s := (s.myUse need r.1).gbytes n
    let e : ElemAccess := ⟨0, ea, r.2⟩
    if s.remote r.2 then (s.sendReads [e] n).block (.reply word use n [e] [] 0 0 ⟨[], []⟩)
    else if s.gmPoisoned r.2 n then s.trap causePoison ea
    else (s.replyDone use n e).advance

/-- LDG (R241). -/
def execLdg (d a : BitVec 5) (z : BitVec 2) (u : BitVec 1) (s : State) : Out :=
  let word := rr 0x17#6 d a 0#5 (0#5 ++ z ++ 0#2 ++ u ++ 0#1)
  .next (s.issueX word gate1 [a] (fun s => s.gmReply word (.loadX d (u == 0)) (s.x a) (2 ^ z.toNat) .r false))

/-- STG (R241). A store into a poisoned granule raises no trap and is logged (R237). -/
def execStg (a b : BitVec 5) (z : BitVec 2) (s : State) : Out :=
  .next (s.issueX (rr 0x17#6 0#5 a b (1#5 ++ z ++ 0#4)) gate1 [a, b] (fun s =>
    let n := 2 ^ z.toNat
    let ea := s.x a
    let s := s.probe ea n
    match s.gmTest ea n .w false true with
    | .error f => s.trap f.1 f.2
    | .ok r => ((((s.myUse .w r.1).gbytes n).packet s.myNet [(r.2, n)]).gmStore r.2 (leBytes n (s.x b).toNat)).advance))

/-- An AMO (R246): x[d] is read by CAS alone. -/
def State.amo (s : State) (op : AmoOp) (opc : BitVec 6) (d a b : BitVec 5) (z q r : BitVec 1) : Out :=
  let word := rr 0x17#6 d a b (opc ++ z ++ q ++ r ++ 0#2)
  .next (s.issueX word gate1 ([a, b] ++ if op = .cas then [d] else []) (fun s =>
    s.gmReply word (.amoX op d (s.x b) (s.x d)) (s.x a) (4 * 2 ^ z.toNat) .rw true))

/-- AMO.ADD (R246). -/
def execAmoAdd (d a b : BitVec 5) (z q r : BitVec 1) (s : State) : Out := s.amo .add 0x21#6 d a b z q r
/-- AMO.AND (R246). -/
def execAmoAnd (d a b : BitVec 5) (z q r : BitVec 1) (s : State) : Out := s.amo .and 0x23#6 d a b z q r
/-- AMO.OR (R246). -/
def execAmoOr (d a b : BitVec 5) (z q r : BitVec 1) (s : State) : Out := s.amo .or 0x25#6 d a b z q r
/-- AMO.XOR (R246). -/
def execAmoXor (d a b : BitVec 5) (z q r : BitVec 1) (s : State) : Out := s.amo .xor 0x27#6 d a b z q r
/-- AMO.MIN (R246). -/
def execAmoMin (d a b : BitVec 5) (z q r : BitVec 1) (s : State) : Out := s.amo .min 0x29#6 d a b z q r
/-- AMO.MAX (R246). -/
def execAmoMax (d a b : BitVec 5) (z q r : BitVec 1) (s : State) : Out := s.amo .max 0x2B#6 d a b z q r
/-- AMO.MINU (R246). -/
def execAmoMinu (d a b : BitVec 5) (z q r : BitVec 1) (s : State) : Out := s.amo .minu 0x2D#6 d a b z q r
/-- AMO.MAXU (R246). -/
def execAmoMaxu (d a b : BitVec 5) (z q r : BitVec 1) (s : State) : Out := s.amo .maxu 0x2F#6 d a b z q r
/-- AMO.SWAP (R246). -/
def execAmoSwap (d a b : BitVec 5) (z q r : BitVec 1) (s : State) : Out := s.amo .swap 0x31#6 d a b z q r
/-- AMO.CAS (R246). -/
def execAmoCas (d a b : BitVec 5) (z q r : BitVec 1) (s : State) : Out := s.amo .cas 0x33#6 d a b z q r

/-! ### Full/empty synchronisation (R232, R242, R243) -/

/-- LDSYNC from its conditions on: it waits while the granule is empty, and comes here again once it is full, with the
translation that it holds (R391). -/
def State.ldsyncGo (s : State) (e : Bool) (d : BitVec 5) (ea : Word) (n : Nat) (held : Option Phys) : State :=
  let give := fun (s : State) (v : Nat) => (s.setX d (BitVec.ofInt 64 (sextNat (8 * n) v))).advance
  if inTm ea then
    if ea.toNat % n ≠ 0 then s.trap causeMisalign ea
    else if !s.tmOk ea.toNat n then s.trap causeProt ea
    else match s.watchHit true true false 0 ea.toNat n with
      | some b => s.trap causeBrk (brkVal b)
      | none =>
        let g := tmKey s.tileNo ea.toNat / 64
        if !setHas s.tmFull g then s.block (.ldsync e d ea n none)
        else if s.tmPoisoned ea.toNat n then s.trap causePoison ea
        else
          let v := s.tmLoad ea.toNat n
          give (if e then s.setTmFull g false else s) v
  else
    let load := fun (s : State) (p : Phys) =>
      if !setHas s.gmFull (p.addr / 64) then s.block (.ldsync e d ea n (some p))
      else if s.gmPoisoned p n then s.trap causePoison ea
      else
        let v := leNat (s.gmBytes p n)
        give ((if e then s.setGmFull (p.addr / 64) false else s).gbytes n) v
    match held with
    | some p => load s p
    | none =>
      let s := s.probe ea n
      match s.gmTest ea n .r true false with
      | .error f => s.trap f.1 f.2
      | .ok r => load (s.myUse .r r.1) r.2

/-- LDSYNC (R242). -/
def execLdsync (d a : BitVec 5) (z : BitVec 1) (s : State) : Out :=
  .next (s.issueX (rr 0x17#6 d a 0#5 (5#6 ++ z ++ 0#4)) gate1 [a] (fun s => s.ldsyncGo false d (s.x a) (4 * 2 ^ z.toNat) none))
/-- LDSYNC.E (R242). -/
def execLdsyncE (d a : BitVec 5) (z : BitVec 1) (s : State) : Out :=
  .next (s.issueX (rr 0x17#6 d a 0#5 (7#6 ++ z ++ 0#4)) gate1 [a] (fun s => s.ldsyncGo true d (s.x a) (4 * 2 ^ z.toNat) none))

/-- SETF and SETE (R243): no alignment, no data byte. -/
def State.setFe (s : State) (word : IWord) (a : BitVec 5) (full : Bool) : Out :=
  .next (s.issueX word gate1 [a] (fun s =>
    let ea := s.x a
    if inTm ea then
      if !s.tmOk ea.toNat 1 then s.trap causeProt ea
      else match s.watchHit true false true 0 ea.toNat 1 with
        | some b => s.trap causeBrk (brkVal b)
        | none => (s.setTmFull (tmKey s.tileNo ea.toNat / 64) full).advance
    else
      let s := s.probe ea 1
      match s.gmTest ea 1 .w false true with
      | .error f => s.trap f.1 f.2
      | .ok r => ((s.myUse .w r.1).setGmFull (r.2.addr / 64) full).advance))

/-- SETF. -/
def execSetf (a : BitVec 5) (s : State) : Out := s.setFe (rr 0x17#6 0#5 a 0#5 0x100#11) a true
/-- SETE. -/
def execSete (a : BitVec 5) (s : State) : Out := s.setFe (rr 0x17#6 0#5 a 0#5 0x140#11) a false

/-- FENCE (R133, R245): a release and an acquire, in a model whose accesses are performed in program order already. -/
def execFence (s : State) : Out := .next (s.issue (rr 0x17#6 0#5 0#5 0#5 0x180#11) gate1 (fun s => s.advance))

/-! ### Vector accesses of global memory (R231 to R237, R247) -/

/-- A vector access of global memory: bytes per element, what its page must allow, whether it loads and stores, its
record's kind, an element's address and the lane whose bank translates it, the registers of a poisoned index and of a
poisoned source. -/
structure GmVec where
  n : Nat
  need : Need
  load : Bool
  store : Bool
  kind : Nat
  addr : Nat → Word
  lane : Nat → Nat
  idx : Nat → Option Nat
  src : Nat → Option Nat

/-- Whether an active element with an address is misaligned (R233 step 1). -/
def GmVec.misaligned (v : GmVec) (i : Nat) : Bool := (v.idx i).isNone && decide ((v.addr i).toNat % v.n ≠ 0)

/-- The state in which the elements of a vector access are tested: unless one is misaligned, the probe pass has walked
every page (R233, R389). -/
def State.gmVecProbe (s : State) (v : GmVec) (l : List Nat) : State :=
  if l.any v.misaligned then s
  else (l.filter (fun i => (v.idx i).isNone)).foldl (fun s i => s.laneTouch (v.lane i) (v.addr i).toNat) s

/-- Steps 1 and 2 of R233: the condition met, or every element's access; an element with a poisoned index has none, and
stands with the zero address. -/
def State.gmVecAddr (s : State) (v : GmVec) (l : List Nat) : Except Stop (List ElemAccess) :=
  match l.find? v.misaligned with
  | some i => .error ⟨causeMisalign, v.addr i, i⟩
  | none => l.mapM (fun i => if (v.idx i).isSome then .ok ⟨i, 0, ⟨0, 0, 0⟩⟩ else
      match s.laneXlate (v.lane i) v.need (v.addr i).toNat with
      | .error f => .error ⟨f.cause, v.addr i, i⟩
      | .ok r => .ok ⟨i, v.addr i, r.2⟩)

/-- The state after every translation is used and every byte requested. -/
def State.gmVecUse (s : State) (v : GmVec) (l : List Nat) : State :=
  let l := l.filter (fun i => (v.idx i).isNone)
  (l.foldl (fun s i => match s.laneXlate (v.lane i) v.need (v.addr i).toNat with
    | .ok r => s.laneUse (v.lane i) v.need r.1
    | .error _ => s) s).gbytes (l.length * v.n)

/-- Step 3 of R233 and the debug table for one element. -/
def State.gmVecData (s : State) (v : GmVec) (e : ElemAccess) : Option (BitVec 8 × Word) :=
  match s.haltElem e.elem with
  | some c => some c
  | none =>
    match v.idx e.elem with
    | some r => some (causePoison, BitVec.ofNat 64 r)
    | none =>
      match s.watchHit false v.load v.store e.elem e.va.toNat v.n with
      | some n => some (causeBrk, brkVal n)
      | none =>
        if (v.src e.elem).isSome || (v.load && s.gmPoisoned e.phys v.n) then some (causePoison, e.va) else none

/-- The elements in order, each committed or the first stop taken, with the record of R473; elements that an earlier stop
marked stay marked. -/
def State.gmVecLoop (s : State) (v : GmVec) (eff : State → ElemAccess → State) :
    List ElemAccess → List (Nat × Word) → VEnd
  | [], dn => .done (s.trace v.kind false v.n dn.reverse)
  | e :: es, dn =>
    match s.gmVecData v e with
    | some c => .stop (s.trace v.kind true v.n dn.reverse) c.1 c.2 e.elem e.elem (s.marks e.elem)
    | none => State.gmVecLoop (eff s e) v eff es ((e.elem, e.va) :: dn)

/-- The lane of a hart whose TLB bank an element uses: its lowest in unit stride, else the element's (R55, R390). -/
def State.elemLane (s : State) (mode i : Nat) : Nat := if mode = 0 then 0 else i % s.hart.lanes

/-- Mode 0 to 2 of a word of majors 0x2B, 0x2C and 0x2E, by its fields. -/
def gmVecOf (s : State) (h : Hart) (word : IWord) (load store : Bool) : GmVec :=
  let mode := (fMode word).toNat
  { n := s.sew / 8, need := if load && store then .rw else if load then .r else .w, load := load, store := store
    kind := if load && store then 3 else if load then 1 else 2
    addr := s.vmAddr h mode (fA word) (fB word), lane := s.elemLane mode, idx := s.idxPois h mode (fB word)
    src := if store then h.poisIn s.sew [(fD word).toNat] else fun _ => none }

/-- A load or atomic: every element at once within the package, else each at its reply (R233, R234). -/
def State.gmVecReply (s : State) (h : Hart) (word : IWord) (use : ReplyUse) (store : Bool) (p : BitVec 3) : VEnd :=
  let v := gmVecOf s h word true store
  let l := s.actives p
  let s := s.gmVecProbe v l
  match s.gmVecAddr v l with
  | .error t => s.stopBefore t
  | .ok es =>
    let s := s.gmVecUse v l
    if es.any (fun e => (v.idx e.elem).isNone && s.remote e.phys) then
      .wait ((s.sendReads es v.n).block (.reply word use v.n es [] (s.opA (fA word)) (if fMode word = 1 then s.opB (fB word) else 0) ⟨[], []⟩))
    else s.gmVecLoop v (fun t e => t.replyDone use v.n e) es []

/-- The fields of a global vector instruction. -/
def State.gmInstr (s : State) (word : IWord) (store dstToo : Bool) (mode : Nat) (d a b : BitVec 5) (p : BitVec 3)
    (vcfg : Bool) : VInstr :=
  let v := s.vmInstr word store mode d a b p s.grp (s.rows s.sew) vcfg
  { v with dsts := if dstToo then [(d.toNat, s.grp)] else v.dsts }

/-- VLDG, VLDGS and VLDGX. -/
def State.gvload (s : State) (mode : BitVec 3) (d a b : BitVec 5) (p : BitVec 3) : Out :=
  let word := vm 0x2B#6 d a b p mode 0#5
  .next (s.vrun (s.gmInstr word false false mode.toNat d a b p false) (fun s h =>
    s.gmVecReply h word (.loadV d.toNat s.grp) false p))

/-- VSTG, VSTGS and VSTGX: the elements that it stores before any stop go out together (R116). -/
def State.gvstore (s : State) (mode : BitVec 3) (d a b : BitVec 5) (p : BitVec 3) : Out :=
  let word := vm 0x2C#6 d a b p mode 0#5
  .next (s.vrun (s.gmInstr word true false mode.toNat d a b p false) (fun s h =>
    let v := gmVecOf s h word false true
    let l := s.actives p
    let s := s.gmVecProbe v l
    match s.gmVecAddr v l with
    | .error t => s.stopBefore t
    | .ok es =>
      let u := s.gmVecUse v l
      (u.packet u.myNet ((es.takeWhile (fun e => (u.gmVecData v e).isNone)).map (fun e => (e.phys, v.n)))).gmVecLoop v
        (fun t e => t.gmStore e.phys (leBytes v.n (h.elem (8 * v.n) d.toNat e.elem))) es []))

/-- VLDG (R236). -/
def execVldg (d a : BitVec 5) (p : BitVec 3) (s : State) : Out := s.gvload 0 d a 0 p
/-- VLDGS. -/
def execVldgs (d a b : BitVec 5) (p : BitVec 3) (s : State) : Out := s.gvload 1 d a b p
/-- VLDGX. -/
def execVldgx (d a b : BitVec 5) (p : BitVec 3) (s : State) : Out := s.gvload 2 d a b p
/-- VSTG. -/
def execVstg (d a : BitVec 5) (p : BitVec 3) (s : State) : Out := s.gvstore 0 d a 0 p
/-- VSTGS. -/
def execVstgs (d a b : BitVec 5) (p : BitVec 3) (s : State) : Out := s.gvstore 1 d a b p
/-- VSTGX. -/
def execVstgx (d a b : BitVec 5) (p : BitVec 3) (s : State) : Out := s.gvstore 2 d a b p

/-- A VAMO (R247): SEW 32 and 64 alone. -/
def State.vamo (s : State) (op : AmoOp) (fn : BitVec 5) (d a b : BitVec 5) (p : BitVec 3) : Out :=
  let word := vm 0x2E#6 d a b p 2#3 fn
  .next (s.vrun (s.gmInstr word true true 2 d a b p (decide (s.sew < 32))) (fun s h =>
    s.gmVecReply h word (.amoV op d.toNat s.grp) true p))

/-- VAMO.ADD (R247). -/
def execVamoAdd (d a b : BitVec 5) (p : BitVec 3) (s : State) : Out := s.vamo .add 0#5 d a b p
/-- VAMO.AND (R247). -/
def execVamoAnd (d a b : BitVec 5) (p : BitVec 3) (s : State) : Out := s.vamo .and 1#5 d a b p
/-- VAMO.OR (R247). -/
def execVamoOr (d a b : BitVec 5) (p : BitVec 3) (s : State) : Out := s.vamo .or 2#5 d a b p
/-- VAMO.XOR (R247). -/
def execVamoXor (d a b : BitVec 5) (p : BitVec 3) (s : State) : Out := s.vamo .xor 3#5 d a b p
/-- VAMO.MIN (R247). -/
def execVamoMin (d a b : BitVec 5) (p : BitVec 3) (s : State) : Out := s.vamo .min 4#5 d a b p
/-- VAMO.MAX (R247). -/
def execVamoMax (d a b : BitVec 5) (p : BitVec 3) (s : State) : Out := s.vamo .max 5#5 d a b p
/-- VAMO.MINU (R247). -/
def execVamoMinu (d a b : BitVec 5) (p : BitVec 3) (s : State) : Out := s.vamo .minu 6#5 d a b p
/-- VAMO.MAXU (R247). -/
def execVamoMaxu (d a b : BitVec 5) (p : BitVec 3) (s : State) : Out := s.vamo .maxu 7#5 d a b p
/-- VAMO.SWAP (R247). -/
def execVamoSwap (d a b : BitVec 5) (p : BitVec 3) (s : State) : Out := s.vamo .swap 8#5 d a b p

/-! ### A reply arrives (R233, R234, R246) -/

/-- An atomic whose reply is lost: it may have been performed (R246). -/
def State.landed (s : State) (use : ReplyUse) (n : Nat) (e : ElemAccess) : State :=
  if Config.amoLanded (s.ticks + e.elem) then
    match use with
    | .amoX op _ src cmp => (s.gmAmo e.phys n op (src.toNat % 256 ^ n) (cmp.toNat % 256 ^ n)).2
    | .amoV op d _ => (s.gmAmo e.phys n op (s.hart.elem (8 * n) d e.elem) 0).2
    | _ => s
  else s

/-- Whether another package's kettle answers an access with a refusal (R395). -/
def State.refused (s : State) (p : Phys) : Bool := s.remote p && Config.peerRefuses s.ticks p.addr

/-- A scalar access whose reply has come, or never will (R233, R246, R395). -/
def State.replyScalar (s : State) (use : ReplyUse) (n : Nat) (e : ElemAccess) : State :=
  let s := (s.gotReply e.phys).unblock
  if s.lost e.phys then (s.landed use n e).trap causeTimeout e.va
  else if s.refused e.phys then s.trap causeProt e.va
  else if s.gmPoisoned e.phys n then s.trap causePoison e.va else (s.replyDone use n e).advance

/-- Step 3 of R233 for an element of a waiting access: TIMEOUT stands in the place of poisoned data where no reply
comes, and PROT where the reply is a refusal (R395). -/
def State.replyData (s : State) (v : GmVec) (e : ElemAccess) : Option (BitVec 8 × Word) :=
  if (v.idx e.elem).isNone && (s.lost e.phys || s.refused e.phys) then
    match ({ s with gmPois := [] }).gmVecData v e with
    | some c => some c
    | none => some (if s.lost e.phys then causeTimeout else causeProt, e.va)
  else s.gmVecData v e

/-- The index mask TDONE of elements done above an element (R234). -/
def tdoneOf (elem : Nat) (done : List ElemAccess) : BitVec 256 :=
  BitVec.ofNat 256 ((done.filter (fun e => decide (elem < e.elem))).foldl (fun m e => m ||| 2 ^ (e.elem - elem)) 0 % 2 ^ 256)

/-- The element accesses of a list in increasing index. -/
def elemSort (l : List ElemAccess) : List ElemAccess := l.mergeSort (fun a b => decide (a.elem ≤ b.elem))

/-- The elements of a waiting access that are performed with an element: for an atomic, all at its location in increasing
index, for they are applied to it one after the other (R132); for a load, the lowest there (R113). An element with a
poisoned index has no location. -/
def sameAt (v : GmVec) (todo : List ElemAccess) (e : ElemAccess) : List ElemAccess :=
  if (v.idx e.elem).isSome then [e]
  else
    let l := todo.filter (fun x => (v.idx x.elem).isNone && x.phys.addr == e.phys.addr)
    if v.store then l else l.take 1

/-- Whether elements, completed in order, leave none more than 255 above the lowest unfinished one (R234). -/
def inWindow : List ElemAccess → List ElemAccess → Bool
  | _, [] => true
  | [], _ :: _ => true
  | low :: todo, e :: es =>
    decide (e.elem ≤ low.elem + 255) && inWindow ((low :: todo).filter (fun x => x.elem != e.elem)) es

/-- An element of a waiting vector access is completed: the lowest unfinished one with a condition stops the instruction, one
above it by more than 255 waits for it, one behind another at its location for that, and the last ends the instruction
(R132, R233, R234). -/
def State.replyElement (s : State) (use : ReplyUse) (n : Nat) (st : Strips) (e : ElemAccess) : State :=
  match s.hart.status with
  | .blocked (.reply word _ _ (low :: todo) done xa xb _) =>
    let g := gmVecOf s (s.view st) word true (fMaj word == 0x2E)
    let todo := low :: todo
    if low.elem + 255 < e.elem || ((sameAt g todo e).head?.map (·.elem)) != some e.elem then s
    else match s.replyData g e with
      | some c =>
        if e.elem = low.elem then
          let t := (todo.filter (fun x => s.lost x.phys)).foldl (fun (t : State) x => t.landed use n x) s
          (t.unblock.trace g.kind true n ((elemSort done).map (fun e => (e.elem, e.va)))).stopAt word xa xb c.1 c.2 e.elem
            e.elem (tdoneOf e.elem done ||| s.marks e.elem)
        else s
      | none =>
        let t := (s.gotReply e.phys).replyDone use n e
        let rest := todo.filter (fun x => x.elem != e.elem)
        if rest = [] then
          ((t.unblock.trace g.kind false n ((elemSort (e :: done)).map (fun e => (e.elem, e.va)))).closeStrips st).advance
        else t.block (.reply word use n rest (e :: done) xa xb st)
  | _ => s

/-- The reply for an element of a waiting vector access comes: the elements performed with it are completed in order. Where
some of them lie too far above the lowest unfinished one, they wait, unless that one is the first of them. -/
def State.replyVector (s : State) (word : IWord) (use : ReplyUse) (n : Nat) (todo : List ElemAccess)
    (st : Strips) (elem : Nat) : State :=
  match todo.find? (fun e => e.elem == elem) with
  | some e =>
    let l := sameAt (gmVecOf s (s.view st) word true (fMaj word == 0x2E)) todo e
    if inWindow todo l || (l.head?.map (·.elem)) == (todo.head?.map (·.elem)) then
      l.foldl (fun (s : State) e => s.replyElement use n st e) s
    else s
  | none => s

/-- GLOBAL_LOAD_REPLY (R233): the reply for an element of the selected hart's waiting access, or for its strips (R261). -/
def execGlobalLoadReply (elem : Nat) (s : State) : Out :=
  .next (match s.hart.status with
    | .blocked (.reply word use n todo _ _ _ st) =>
      match use with
      | .loadX _ _ | .amoX _ _ _ _ => match todo with
        | e :: _ => s.replyScalar use n e
        | [] => s
      | .loadV _ _ | .amoV _ _ _ => s.replyVector word use n todo st elem
    | .blocked (.pops word xa xb _ u) => s.block (.pops word xa xb [] u)
    | _ => s)

/-! ### VLDSYNC (R232, R244) -/

/-- The fields of VLDSYNC; with no active element it takes no trap of step 8 (R244). -/
def State.vldsyncInstr (s : State) (e : Bool) (d a : BitVec 5) (p : BitVec 3) : VInstr :=
  { s.vmInstr (vm 0x2D#6 d a 0#5 p 0#3 (if e then 1#5 else 0#5)) false 0 d a 0 p s.grp (s.rows s.sew) false with
    reads := if (s.actives p).isEmpty then [] else [a] }

/-- Elements with a condition of their own and nothing committed before it. -/
def State.syncStop (s : State) (l : List Nat) (f : State → Nat → Option (BitVec 8 × Word)) : Option Stop :=
  l.findSome? (fun i => (f s i).map (fun c => ⟨c.1, c.2, i⟩))

/-- VLDSYNC on tile memory. -/
def State.vldsyncTm (s : State) (h : Hart) (e : Bool) (d a : BitVec 5) (p : BitVec 3) : VEnd :=
  let n := s.sew / 8
  let l := s.actives p
  let v : TmVec := ⟨n, false, fun i => [s.vmAddr h 0 a 0 i], fun _ => none⟩
  let gs := (l.flatMap (fun i => granulesOf (tmKey s.tileNo (s.vmAddr h 0 a 0 i).toNat) n)).eraseDups
  match s.tmVecAddr v l with
  | some t => s.stopZero t
  | none =>
    match s.syncStop l (fun s i => s.tmVecData v (fun _ _ => none) i) with
    | some t => s.stopZero t
    | none =>
      if !gs.all (setHas s.tmFull) then .wait (s.block (.vldsync e d a p []))
      else match s.syncStop l (fun s i => (loadPois v s i).map (fun a => (causePoison, a))) with
        | some t => s.stopZero t
        | none =>
          let t := { s with hart := l.foldl (fun (g : Hart) i =>
            g.setElem (8 * n) d.toNat i (s.tmLoad (s.vmAddr h 0 a 0 i).toNat n)) s.hart }
          .done (if e then gs.foldl (fun (t : State) g => t.setTmFull g false) t else t)

/-- VLDSYNC on global memory, its elements' translations obtained now or held since it began to wait (R391). -/
def State.vldsyncGm (s : State) (h : Hart) (e : Bool) (d a : BitVec 5) (p : BitVec 3) (held : List ElemAccess) : VEnd :=
  let n := s.sew / 8
  let l := s.actives p
  let v : GmVec := ⟨n, .r, true, false, 1, s.vmAddr h 0 a 0, s.elemLane 0, fun _ => none, fun _ => none⟩
  let fresh := held.isEmpty
  let s := if fresh then s.gmVecProbe v l else s
  match if fresh then s.gmVecAddr v l else .ok held with
  | .error t => s.stopZero t
  | .ok es =>
    let gs := (es.map (fun x => x.phys.addr / 64)).eraseDups
    let watch := fun (s : State) (x : ElemAccess) => match s.haltElem x.elem with
      | some c => some c
      | none => (s.watchHit false true false x.elem x.va.toNat n).map (fun b => (causeBrk, brkVal b))
    match es.findSome? (fun x => (watch s x).map (fun c => (⟨c.1, c.2, x.elem⟩ : Stop))) with
    | some t => s.stopZero t
    | none =>
      let s := if fresh then s.gmVecUse v l else s
      if !gs.all (setHas s.gmFull) then .wait (s.block (.vldsync e d a p es))
      else match es.find? (fun x => s.gmPoisoned x.phys n) with
        | some x => s.stopZero ⟨causePoison, x.va, x.elem⟩
        | none =>
          let t := es.foldl (fun (t : State) x => t.replyDone (.loadV d.toNat s.grp) n x) s
          let t := t.trace 1 false n (es.map (fun x => (x.elem, x.va)))
          .done (if e then gs.foldl (fun (t : State) g => t.setGmFull g false) t else t)

/-- VLDSYNC from step 8 on; the space is decided from x[a] alone, and an instruction without active elements completes
at once. -/
def State.vldsyncGo (s : State) (e : Bool) (d a : BitVec 5) (p : BitVec 3) (held : List ElemAccess) : State :=
  s.vgo (s.vldsyncInstr e d a p) (fun s h =>
    if inTm (s.opA a) then s.vldsyncTm h e d a p else s.vldsyncGm h e d a p held)

/-- VLDSYNC and VLDSYNC.E. -/
def State.vldsync (s : State) (e : Bool) (d a : BitVec 5) (p : BitVec 3) : Out :=
  let v := s.vldsyncInstr e d a p
  .next (s.issue v.word { gate1 with units := v.units, vcfg := v.vcfg, stream := s.hart.streamBad v.srcs v.dsts }
    (fun s => s.vldsyncGo e d a p []))

/-- VLDSYNC. -/
def execVldsync (d a : BitVec 5) (p : BitVec 3) (s : State) : Out := s.vldsync false d a p
/-- VLDSYNC.E. -/
def execVldsyncE (d a : BitVec 5) (p : BitVec 3) (s : State) : Out := s.vldsync true d a p

/-- GRANULE_WAIT_COMPLETE (R120): an LDSYNC or VLDSYNC that waits is tried again; it completes once its granules are
full. -/
def execGranuleWaitComplete (s : State) : Out :=
  .next (match s.hart.status with
    | .blocked (.ldsync e d ea n held) => s.unblock.ldsyncGo e d ea n held
    | .blocked (.vldsync e d a p held) => s.unblock.vldsyncGo e d a p held
    | _ => s)

/-! ### VSTM (R248) -/

/-- The multicast group that a number names on the selected hart's device. -/
def State.mcast? (s : State) (g : Nat) : Option McastGroup :=
  s.mcasts.find? (fun m => some m.vdid == s.myTile.vdid && m.group == g && m.usable)

/-- The same local address at a member package. -/
def atMember (pkg : Nat) (p : Phys) : Phys :=
  { p with addr := (pkg * 4 + p.addr / Config.localBytes % 4) * Config.localBytes + p.addr % Config.localBytes }

/-- The chunks of a multicast: every element's bytes at every member. -/
def mcastChunks (members : List Nat) (es : List (ElemAccess × List Byte)) : List Chunk :=
  members.flatMap (fun m => chunksBySlot false (es.flatMap (fun eb => eb.2.mapIdx (fun j b =>
    let q := atMember m eb.1.phys
    (q.slot, (⟨q.addr + j, .lit b, eb.1.va + BitVec.ofNat 64 j, eb.1.elem, j⟩ : PendByte))))))

/-- VSTM (R248): the conditions in order, then the writes at every member, and the wait for the acknowledgement. -/
def execVstm (d a b : BitVec 5) (p : BitVec 3) (s : State) : Out :=
  let word := vm 0x2D#6 d a b p 0#3 6#5
  let w := s.sew
  let v := s.vmInstr word true 0 d a b p s.grp (s.rows w) false
  .next (s.vrun { v with reads := [a, b], xb := s.opB b } (fun s h =>
    let l := s.actives p
    if s.vlen = 0 ∨ s.vlen ≤ s.startElem then .done s
    else match s.mcast? (s.opB b).toNat with
      | none => .stop s causeMcast (s.opB b) 0 s.startElem 0
      | some m =>
        let g : GmVec := ⟨w / 8, .w, false, true, 2, s.vmAddr h 0 a 0, s.elemLane 0, fun _ => none, h.poisIn w [d.toNat]⟩
        let s := s.gmVecProbe g l
        match s.gmVecAddr g l with
        | .error t => s.stopBefore t
        | .ok es =>
          match es.findSome? (fun e => (s.gmVecData g e).map (fun c => (⟨c.1, c.2, e.elem⟩ : Stop))) with
          | some t => s.stopBefore t
          | none =>
            let s := s.gmVecUse g l
            let chunks := mcastChunks m.members (es.map (fun e => (e, leBytes (w / 8) (h.elem w d.toNat e.elem))))
            let cmd : AsyncWrite := ⟨.vstm, some s.hart.id, s.hart.pid, s.instrPc.toNat, chunks, none, 0, none, [], []⟩
            .wait (({ s with asyncs := s.asyncs ++ [cmd] }).block (.vstm word (s.opA a) (s.opB b) m.group ⟨[], []⟩ es))))

end Sys2Proof.Machine
end

