-- ==== Sys2Proof/Machine/VConfig.lean ====
section
/-! DEFINITION. Vector configuration: VL and VTYPE (R58 to R61, R205). -/

namespace Sys2Proof.Machine

/-- Whether a legal VTYPE value changes SEW, G or RC. -/
def State.vtMoves (s : State) (v : Word) : Bool := v.extractLsb' 0 7 != s.hart.vtype.extractLsb' 0 7

/-- The STREAM condition of a VTYPE write (R61). -/
def State.vtStream (s : State) (v : Word) : Bool := s.hart.anyBinding && s.vtMoves v

/-- The effects of a legal VTYPE write (R60). -/
def State.setVtype (s : State) (v : Word) : State :=
  let t := v.extractLsb' 0 16
  let h := { s.hart with vtype := t, vl := BitVec.ofNat 17 (Nat.min s.hart.vl.toNat (vlmaxOf s.hart.lanes t)) }
  { s with hart := if vtRc t = vtRc s.hart.vtype then h else h.undefV s.ticks }

/-- The state with VL set to a request's grant and x[d] to the same (R205). -/
def State.grantVl (s : State) (d : BitVec 5) (req : Nat) : State :=
  let vl := Nat.min req s.vlmax
  ({ s with hart := { s.hart with vl := BitVec.ofNat 17 vl } }).setX d (BitVec.ofNat 64 vl)

/-- SETVL (R205). -/
def execSetvl (d a : BitVec 5) (s : State) : Out :=
  .next (s.issueX (rr 0x21#6 d a 0#5 0#11) gate1 [a] (fun s => (s.grantVl d (s.x a).toNat).advance))
/-- VSETT (R205): traps VCFG or STREAM as a CSRW of VTYPE does. -/
def execVsett (d a : BitVec 5) (s : State) : Out :=
  let v := s.x a
  .next (s.issueX (rr 0x21#6 d a 0#5 1#11) { gate1 with vcfg := !vtLegal v, stream := s.vtStream v } [a] (fun s =>
    let s := s.setVtype v
    (s.setX d (s.hart.vl.setWidth 64)).advance))
/-- VLMAXQ (R205). -/
def execVlmaxq (d a : BitVec 5) (s : State) : Out :=
  let v := s.x a
  .next (s.scalar (rr 0x21#6 d a 0#5 2#11) [a] d
    (if vtLegal v then BitVec.ofNat 64 (vlmaxOf s.hart.lanes (v.extractLsb' 0 16)) else 0))
/-- SETVLI (R205). -/
def execSetvli (d : BitVec 5) (i : BitVec 16) (s : State) : Out :=
  .next (s.issue (ri 0x22#6 d 0#5 i) gate1 (fun s => (s.grantVl d i.toNat).advance))

end Sys2Proof.Machine
end

