-- ==== Sys2Proof/Machine/System.lean ====
section
/-! DEFINITION. Time, SAFE, BRK, TCAP, the CSR instructions, SYSC, ERET, IINV, TLBINV and HALT, and the steps of a hart
that belong to them: STEEP, ILLEGAL, a fetch refused, WAITT's wake, leave, a hart restarted (R62 to R67, R140, R155,
R157, R172, R186 to R198, R229, R331 to R349, R358 to R360, R477). -/

namespace Sys2Proof.Machine

/-! ### Fetch (R157, R155) -/

/-- Whether the word at the program counter may be fetched: the whole of it lies in TM that the privilege may read. -/
def State.fetchOk (s : State) : Bool := decide (s.hart.pc.toNat < Config.tmBytes) && s.tmOk s.hart.pc.toNat 4

/-- The word at the program counter, as the hart's fetch sees tile memory: a store since its last IINV does not show
(R140). -/
def State.fetchWord (s : State) : IWord :=
  BitVec.ofNat 32 (leNat (s.hart.code.bytes (tmKey s.hart.id.tile s.hart.pc.toNat) 4))

/-- Whether the selected hart runs. -/
def State.running (s : State) : Bool := decide (s.hart.status = .running)

/-- ILLEGAL_INSTRUCTION (R155). -/
def execIllegalInstruction (w : IWord) (s : State) : Out :=
  .next (if s.running then s.trap causeIllegal (w.setWidth 64) else s)

/-- FETCH_PROT (R157). -/
def execFetchProt (s : State) : Out := .next (if s.running then s.trap causeProt s.hart.pc else s)

/-- STEEP_FAULT (R196): before an instruction has any effect. -/
def execSteepFault (s : State) : Out := .next (if s.running && s.atP then s.trap causeSteep 0 else s)

/-! ### Time (R189 to R192) -/

/-- RDTIME. -/
def execRdtime (d : BitVec 5) (s : State) : Out := .next (s.scalar (rr 0x37#6 d 0#5 0#5 0#11) [] d s.time)

/-- WAITT. -/
def execWaitt (a : BitVec 5) (s : State) : Out :=
  .next (s.issueX (rr 0x37#6 0#5 a 0#5 1#11) gate1 [a] (fun s =>
    if (s.x a).toNat ≤ s.time.toNat then s.advance else s.block (.waitt (s.x a))))

/-- WAITT_WAKE (R191, R192): the hart goes on once TIME has reached the target, and a process switched out in WAITT
becomes ready. -/
def execWaittWake (s : State) : Out :=
  let s := s.wakeReady
  .next (match s.hart.status with
    | .blocked (.waitt t) => if t.toNat ≤ s.time.toNat then s.unblock.advance else s
    | _ => s)

/-! ### SAFE (R43 to R48, R171, R172, R193) -/

/-- The safe-point entry that SAFE n names, where it is this SAFE's. -/
def State.safeEntry (s : State) (n : Nat) : Option (Proc × SafeEntry) :=
  s.myProc?.bind (fun q => (q.safeTab[n]?).bind (fun e =>
    if BitVec.ofNat 64 (q.kbase + e.site) = s.hart.pc then some (q, e) else none))

/-- A process with one more instruction completed at P (R478). -/
def Proc.countInstr (q : Proc) : Proc :=
  if q.capture.active then { q with capture := { q.capture with instr := q.capture.instr + 1 } } else q

/-- SAFE. A SAFE that switches the process out has completed before the save. -/
def execSafe (i : BitVec 16) (s : State) : Out :=
  let w := ri 0x38#6 0#5 0#5 i
  .next (s.issue w { gate1 with units := 0, priv := !s.atP, vcfg := s.forked } (fun s =>
    match s.safeEntry i.toNat with
    | none => s.trap causeIllegal (w.setWidth 64)
    | some (q, e) =>
      let s := { s with hart := { s.hart with steepcnt := 0 } }
      match s.due q e with
      | .nothing =>
        let t := s.advance
        { t with hart := { t.hart with chanWait := if e.chanwait then some i.toNat else none } }
      | d => s.switchAt q.countInstr i.toNat e d))

/-! ### BRK, SYSC and TCAP (R197, R198, R477) -/

/-- BRK: the trap's resume address is the BRK itself. -/
def execBrk (i : BitVec 16) (s : State) : Out :=
  .next (s.issue (ri 0x3E#6 0#5 0#5 i) gate1 (fun s => s.trap causeBrk (i.setWidth 64)))

/-- SYSC: the trap's resume address is the next instruction. -/
def execSysc (c : BitVec 12) (s : State) : Out :=
  .next (s.issue (sy 0x3F#6 0#5 0#5 4#4 c) gate1 (fun s => s.trapAfter causeSysc (c.setWidth 64) 0 0))

/-- The process of the selected hart changed. -/
def State.mapMyProc (s : State) (f : Proc → Proc) : State :=
  match s.hart.pid with
  | some p => s.mapProc p f
  | none => s

/-- TCAP 1: a capture starts, or starts again. -/
def execTcapStart (s : State) : Out :=
  .next (s.issue (ri 0x3E#6 0#5 1#5 1#16) gate1 (fun s =>
    (s.mapMyProc (fun q => { q with capture := { Capture.zero with start := s.time, active := true } })).advance))

/-- TCAP 0: the capture ends and its block goes to the host supervisor. -/
def execTcapStop (s : State) : Out :=
  .next (s.issue (ri 0x3E#6 0#5 1#5 0#16) gate1 (fun s =>
    (match s.myProc? with
      | some q => if q.capture.active then
          (s.sendCapture q).mapProc q.pid (fun q => { q with capture := { q.capture with active := false } }) else s
      | none => s).advance))

/-! ### CSRs (R62 to R66, R331 to R337) -/

/-- What a CSR number is: a user CSR, a system CSR of S, one of M, or nothing. -/
inductive CsrKind where
  | user | sys | mon | none
deriving DecidableEq, Repr

/-- The kind of a CSR number. -/
def csrKind (c : Nat) : CsrKind :=
  if [0x001, 0x008, 0x009, 0x00A, 0x010, 0x011, 0x018, 0x020, 0x021, 0x022, 0x023, 0x024, 0xC00, 0xC01, 0xC02].contains c
  then .user
  else if (0x100 ≤ c ∧ c ≤ 0x105) ∨ (0x108 ≤ c ∧ c ≤ 0x117) ∨ (0x120 ≤ c ∧ c ≤ 0x124) ∨ (0x130 ≤ c ∧ c ≤ 0x132) ∨
    (0x140 ≤ c ∧ c ≤ 0x14F) then .sys
  else if 0x300 ≤ c ∧ c ≤ 0x305 then .mon else .none

/-- Whether every field of a CSR is RO at every privilege (R187). -/
def csrReadOnly (c : Nat) : Bool :=
  [0x008, 0x00A, 0x018, 0x022, 0x023, 0x024, 0xC00, 0xC01, 0xC02].contains c ||
  (decide (0x108 ≤ c) && decide (c ≤ 0x10B)) || (decide (0x110 ≤ c) && decide (c ≤ 0x117)) ||
  (decide (0x140 ≤ c) && decide (c ≤ 0x14F))

/-- Whether a system CSR has a field that S may write (R332). -/
def csrWriteS (c : Nat) : Bool := [0x101, 0x102, 0x103, 0x10C, 0x10D, 0x10E, 0x10F, 0x120, 0x121, 0x122, 0x123].contains c

/-- Whether naming a CSR traps PRIV at a privilege (R62, R331, R332). -/
def csrPriv (pr : Priv) (c : Nat) (write : Bool) : Bool :=
  match csrKind c, pr with
  | .user, _ => false
  | _, .m => false
  | .sys, .s => write && !csrWriteS c
  | _, _ => true

/-- The value of a CSR. -/
def State.csr (s : State) (c : Nat) : Word :=
  let h := s.hart
  let t := s.myTile
  match c with
  | 0x001 => h.fflags.setWidth 64
  | 0x008 => h.vl.setWidth 64
  | 0x009 => h.vtype.setWidth 64
  | 0x00A => BitVec.ofNat 64 s.vlmax
  | 0x010 => h.srseed
  | 0x011 => h.srcount
  | 0x018 => h.telem.setWidth 64
  | 0x020 => h.msprec.setWidth 64
  | 0x021 => h.msanchor.setWidth 64
  | 0x022 => h.msm.setWidth 64
  | 0x023 => h.msn.setWidth 64
  | 0x024 => h.msk.setWidth 64
  | 0xC00 => s.time
  | 0xC01 => BitVec.ofNat 64 ((h.pid.map (·.rank)).getD 0)
  | 0xC02 => BitVec.ofNat 64 ((h.pid.map (·.netid)).getD 0)
  | 0x100 => h.tstatus
  | 0x101 => t.tvec.setWidth 64
  | 0x102 => h.tscratch
  | 0x103 => h.tpc
  | 0x104 => h.tcause.setWidth 64
  | 0x105 => h.tval
  | 0x120 => h.steepcnt.setWidth 64
  | 0x121 => h.steeplim.setWidth 64
  | 0x122 => h.quantum.setWidth 64
  | 0x123 => BitVec.ofNat 64 (h.prioCeil.toNat * 256 + h.prioLevel.toNat)
  | 0x124 => h.ctxptr
  | 0x130 => t.lpart.setWidth 64
  | 0x131 => BitVec.ofNat 64 (t.vdid.getD 0)
  | 0x132 => t.hwdog.setWidth 64
  | 0x300 => BitVec.ofNat 64 ((if h.mpchild then 8 else 0) + (if h.mpfork then 4 else 0) + h.mppriv.toNat)
  | 0x301 => h.mtvec.setWidth 64
  | 0x302 => h.mtscratch
  | 0x303 => h.mtpc
  | 0x304 => h.mtcause.setWidth 64
  | 0x305 => h.mtval
  | _ =>
    if 0x108 ≤ c ∧ c ≤ 0x10B then h.tdone.extractLsb' (64 * (c - 0x108)) 64
    else if 0x10C ≤ c ∧ c ≤ 0x10F then tprogWord ((h.tprog.toList.getD (c - 0x10C) none))
    else if 0x110 ≤ c ∧ c ≤ 0x113 then ((h.tprog.toList.getD (c - 0x110) none).map TProg.xa).getD 0
    else if 0x114 ≤ c ∧ c ≤ 0x117 then ((h.tprog.toList.getD (c - 0x114) none).map TProg.xb).getD 0
    else if 0x140 ≤ c ∧ c ≤ 0x14F then h.tmap.extractLsb' (64 * (c - 0x140)) 64
    else 0

/-- A TPROG entry after a value passes through its map (R334): V is W1C; at M the other fields take the value. -/
def tprogPut (m : Bool) (v : Word) (o : Option TProg) : Option TProg :=
  let clear := fun (t : TProg) => if v.getLsbD 63 then { t with v := false } else t
  if m then
    let t := clear (o.getD ⟨false, false, 0, 0, 0, 0, 0, 0, ⟨0, []⟩⟩)
    some { t with f := v.getLsbD 62, pc := v.extractLsb' 38 21, vl := v.extractLsb' 21 17, prog := v.extractLsb' 0 17 }
  else o.map clear

/-- The base harts of a tile under a partition, idle (R33). -/
def baseHarts (t : Nat) (lpart : BitVec 2) : List Hart :=
  let lanes := 32 / 2 ^ lpart.toNat
  (upTo (2 ^ lpart.toNat)).map (fun i => Hart.powerOn ⟨t, i * lanes / 4⟩ (i * lanes) lanes)

/-- The state with a tile's LPART written: the tile's harts are those of the new partition. A hart of monitor code keeps
its state where the partition has it, and the M CSRs of every front end that stays keep theirs. -/
def State.repartition (s : State) (t : Nat) (lpart : BitVec 2) : State :=
  let old := s.harts.filter (fun h => h.id.tile == t)
  let new := (baseHarts t lpart).map (fun h => match old.find? (fun o => decide (o.id = h.id)) with
    | some o => { (if o.status = .idle then h.keepM { o with priv := h.priv, pc := h.pc } else o) with
        lane0 := h.lane0, lanes := h.lanes }
    | none => h)
  let s := s.setTile t { s.tile t with lpart := lpart }
  let rest := s.others.filter (fun h => h.id.tile != t)
  if s.hart.id.tile = t then
    match new.find? (fun h => decide (h.id = s.hart.id)), new with
    | some h, _ => { s with hart := h, others := new.filter (fun o => decide (o.id ≠ h.id)) ++ rest }
    | none, h :: hs => { s with hart := h, others := hs ++ rest }
    | none, [] => s
  else { s with others := new ++ rest }

/-- Whether a process occupies a tile (R33, R337). -/
def State.tileOccupied (s : State) (t : Nat) : Bool := s.procs.any (fun q => q.live && q.tile == t)

/-- The state with a value written to a CSR through its map, at a privilege that may write it (R187, R332 to R337). -/
def State.setCsr (s : State) (c : Nat) (v : Word) : State :=
  let h := s.hart
  let m := decide (h.priv = .m)
  let t := s.myTile
  let put := fun (g : Hart) => { s with hart := g }
  match c with
  | 0x001 => put { h with fflags := v.extractLsb' 0 5 }
  | 0x009 => s.setVtype v
  | 0x010 => put { h with srseed := v }
  | 0x011 => put { h with srcount := v }
  | 0x020 => put { h with msprec := v.extractLsb' 0 8, msm := 0, msn := 0, msk := 0 }
  | 0x021 => put { h with msanchor := v.extractLsb' 0 16, msm := 0, msn := 0, msk := 0 }
  | 0x100 => put { h with pchild := v.getLsbD 3, pfork := v.getLsbD 2 }
  | 0x101 => s.setTile s.tileNo { t with tvec := v.extractLsb' 0 21 &&& ~~~3 }
  | 0x102 => put { h with tscratch := v }
  | 0x103 => put { h with tpc := v }
  | 0x104 => put { h with tcause := v.extractLsb' 0 8 }
  | 0x105 => put { h with tval := v }
  | 0x120 => put { h with steepcnt := v.extractLsb' 0 32 }
  | 0x121 => put { h with steeplim := v.extractLsb' 0 32 }
  | 0x122 => put { h with quantum := v.extractLsb' 0 48 }
  | 0x123 =>
    let ceil := if m then v.extractLsb' 8 4 else h.prioCeil
    let want := v.extractLsb' 0 4
    let level := if ceil.ult want then ceil else want
    let t := (put { h with prioCeil := ceil, prioLevel := level }).mapMyProc (fun q => { q with level := level })
    { t with others := t.others.map (fun g => if g.pid = h.pid ∧ h.pid.isSome then { g with prioLevel := level } else g) }
  | 0x124 => put { h with ctxptr := v &&& 0x00FF_FFFF_FFFF_FFC0 }
  | 0x130 =>
    if s.tileOccupied s.tileNo ∨ !(baseHarts s.tileNo (v.extractLsb' 0 2)).any (fun g => decide (g.id = h.id)) then s
    else s.repartition s.tileNo (v.extractLsb' 0 2)
  | 0x131 => s.setTile s.tileNo { t with vdid := some (v.extractLsb' 0 8).toNat }
  | 0x132 => s.setTile s.tileNo { t with hwdog := v.extractLsb' 0 32 }
  | 0x300 => put { h with mpchild := v.getLsbD 3, mpfork := v.getLsbD 2, mppriv := v.extractLsb' 0 1 }
  | 0x301 => put { h with mtvec := v.extractLsb' 0 21 &&& ~~~3 }
  | 0x302 => put { h with mtscratch := v }
  | 0x303 => put { h with mtpc := v }
  | 0x304 => put { h with mtcause := v.extractLsb' 0 8 }
  | 0x305 => put { h with mtval := v }
  | _ =>
    if 0x10C ≤ c ∧ c ≤ 0x10F then
      put { h with tprog := h.tprog.setIfInBounds (c - 0x10C) (tprogPut m v (h.tprog.toList.getD (c - 0x10C) none)) }
    else s

/-- CSRR (R186, R188). -/
def execCsrr (d : BitVec 5) (c : BitVec 12) (s : State) : Out :=
  let w := sy 0x3F#6 d 0#5 0#4 c
  .next (if csrKind c.toNat = .none then s.trap causeIllegal (w.setWidth 64)
    else s.issue w { gate1 with priv := csrPriv s.hart.priv c.toNat false } (fun s => (s.setX d (s.csr c.toNat)).advance))

/-- A CSR write of a value: ILLEGAL, then the early tests, a poisoned operand, then the write (R187, R188). -/
def State.csrWrite (s : State) (w : IWord) (a : BitVec 5) (c : BitVec 12) (v : Word) : Out :=
  let vt := c == 0x009#12
  .next (if csrKind c.toNat = .none || csrReadOnly c.toNat then s.trap causeIllegal (w.setWidth 64)
    else s.issueX w { gate1 with
        priv := csrPriv s.hart.priv c.toNat true, vcfg := vt && !vtLegal v, stream := vt && s.vtStream v } [a]
      (fun s => (s.setCsr c.toNat v).advance))

/-- CSRW. -/
def execCsrw (a : BitVec 5) (c : BitVec 12) (s : State) : Out := s.csrWrite (sy 0x3F#6 0#5 a 1#4 c) a c (s.x a)
/-- CSRS. -/
def execCsrs (a : BitVec 5) (c : BitVec 12) (s : State) : Out :=
  s.csrWrite (sy 0x3F#6 0#5 a 2#4 c) a c (s.csr c.toNat ||| s.x a)
/-- CSRC. -/
def execCsrc (a : BitVec 5) (c : BitVec 12) (s : State) : Out :=
  s.csrWrite (sy 0x3F#6 0#5 a 3#4 c) a c (s.csr c.toNat &&& ~~~(s.x a))

/-! ### ERET, IINV, TLBINV and HALT (R345, R358 to R360) -/

/-- ERET. -/
def execEret (s : State) : Out :=
  .next (s.issue (sy 0x3F#6 0#5 0#5 5#4 0#12) { gate1 with priv := s.atP } (fun s =>
    match s.hart.priv with
    | .m => s.eretM
    | _ => s.eretS))

/-- IINV: the hart's later fetches read tile memory as it now is (R140). -/
def execIinv (s : State) : Out :=
  .next (s.issue (sy 0x3F#6 0#5 0#5 6#4 0#12) gate1 (fun s => { s with hart := { s.hart with code := s.tm } }.advance))

/-- Whether an address lies in the page that an invalidation names; all ones name every page. -/
def inPage (base size : Nat) (va : Word) : Bool := decide (base ≤ va.toNat % 2 ^ 56) && decide (va.toNat % 2 ^ 56 < base + size)

/-- The addresses of the table entries that may be the leaf of a virtual address, on its walk from a table at a level
down (R387). -/
def State.leafPath (s : State) (d : VDev) (va : Nat) : Nat → Nat → List Nat
  | 0, t =>
    let i := va / 4096 % 512
    [t + 8 * (i - i % 16), t + 8 * i]
  | lvl + 1, t =>
    let i := va / 2 ^ (12 + 9 * (lvl + 1)) % (if lvl = 3 then 256 else 512)
    let e := s.pte d t i
    (t + 8 * i) :: (if pteV e && !pteLeaf e then State.leafPath s d va lvl (pteEndpoint e * Config.localBytes + pteAddr e)
      else [])

/-- The page that an invalidation of a device's address names on a tile: that of the cached translation; else every leaf
that the address's walk may end at, and for what keeps no leaf the largest page. -/
def State.pageOf (s : State) (t vdid : Nat) (va : Word) : PageSpan :=
  let leaves := match s.vdev? vdid with
    | some d => s.leafPath d va.toNat 4 (d.rootEp * Config.localBytes + d.rootAddr)
    | none => []
  if va = BitVec.allOnes 64 then ⟨0, 2 ^ 56, [], 2 ^ 56⟩
  else match (s.tile t).tlb.find? (fun e => e.vdid == vdid && decide (e.base ≤ va.toNat) && decide (va.toNat < e.base + e.size)) with
    | some e => ⟨e.base, e.size, leaves, e.size⟩
    | none => ⟨va.toNat / 4096 * 4096, 4096, leaves, 2 ^ 30⟩

/-- A tile without the translations of a device's page that holds an address, or of all its pages, and without the
device's walk cache (R359, R390). -/
def Tile.invalidate (t : Tile) (vdid : Nat) (va : Word) : Tile :=
  { t with
    tlb := List.filter (fun e => !(e.vdid == vdid && (va == BitVec.allOnes 64 ||
      (decide (e.base ≤ va.toNat) && decide (va.toNat < e.base + e.size))))) t.tlb
    walks := t.walks.filter (fun w => w.vdid != vdid) }

/-- Whether an access used the page, by its address and the leaf that translated it. -/
def PageSpan.used (p : PageSpan) (va : Word) (q : Phys) : Bool := inPage p.base p.size va || p.leaves.contains q.leaf

/-- Whether an access that keeps no leaf may have used the page. -/
def PageSpan.near (p : PageSpan) (va : Word) : Bool := va.toNat % 2 ^ 56 / p.reach == p.base / p.reach

/-- Whether a waiting instruction has accesses in flight that have used a page. -/
def Wait.uses (p : PageSpan) : Wait → Bool
  | .reply _ _ _ todo _ _ _ st => (todo ++ (st.pops ++ st.apps).flatMap (·.elems)).any (fun e => p.used e.va e.phys)
  | .ldsync _ _ ea _ (some q) => p.used ea q
  | .vldsync _ _ _ _ es | .pops _ _ _ es _ => es.any (fun e => p.used e.va e.phys)
  | .vstm _ _ _ _ st es => (es ++ (st.pops ++ st.apps).flatMap (·.elems)).any (fun e => p.used e.va e.phys)
  | _ => false

/-- Whether a pending write belongs to a hart of a tile, or to a process there. -/
def State.onTile (s : State) (t : Nat) (a : AsyncWrite) : Bool :=
  a.owner.any (fun h => h.tile == t) || (a.pid.bind s.proc?).any (fun q => q.tile == t)

/-- Whether a member's exchange holds a page: its receive region until the exchange is settled, or global bytes that a
DSEND has still to take (R285, R290). -/
def Exchange.uses (x : Exchange) (p : PageSpan) (members : Nat) : Bool :=
  (!x.settled members && (x.rpages.mapIdx (fun k q => (k, q))).any (fun kq =>
    p.used (if kq.1 = 0 then x.rbase else BitVec.ofNat 64 ((x.rbase.toNat / 4096 + kq.1) * 4096)) kq.2)) ||
  (x.flights ++ x.wire).any (fun f => (f.sources.mapIdx (fun j b => (j, b))).any (fun jb => match jb.2 with
    | .gm q => p.used (f.va + BitVec.ofNat 64 jb.1) q
    | _ => false))

/-- Whether an exchange of a process of a tile holds a page. -/
def State.exchUses (s : State) (t : Nat) (p : PageSpan) : Bool :=
  s.nets.any (fun n => n.groups.any (fun g => g.members.any (fun m =>
    (s.proc? ⟨n.netid, m.rank⟩).any (fun q => q.tile == t) && m.exch.any (fun x => x.uses p g.members.length))))

/-- Whether accesses of a tile's harts and engines in flight have used translations of a page (R359). -/
def State.inFlight (s : State) (t : Nat) (p : PageSpan) : Bool :=
  s.harts.any (fun h => h.id.tile == t && (match h.status with | .blocked w => w.uses p | _ => false)) ||
  s.asyncs.any (fun a => s.onTile t a && a.chunks.any (fun c => c.bytes.any (fun b => p.near b.va))) || s.exchUses t p

/-- TLBINV past its tests: it completes once no access in flight has used what it invalidates. -/
def State.tlbinvGo (s : State) (va : Word) : State :=
  let v := s.myTile.vdid.getD 0
  let p := s.pageOf s.tileNo v va
  let s := s.setTile s.tileNo (s.myTile.invalidate v va)
  if s.inFlight s.tileNo p then s.block (.tlbinv p) else s.advance

/-- TLBINV. -/
def execTlbinv (a : BitVec 5) (s : State) : Out :=
  .next (s.issueX (sy 0x3F#6 0#5 a 7#4 0#12) { gate1 with priv := s.atP } [a] (fun s => s.tlbinvGo (s.x a)))

/-- Every TLBINV that no access in flight holds up any more completes (R359). -/
def State.tlbWake (s : State) : State :=
  (s.harts.map (·.id)).foldl (fun s id => s.onHart id (fun s => match s.hart.status with
    | .blocked (.tlbinv p) => if s.inFlight s.tileNo p then s else s.unblock.advance
    | _ => s)) s

/-- HALT: at P and S the process ends, at M the hart parks. -/
def execHalt (s : State) : Out :=
  .next (s.issue (sy 0x3F#6 0#5 0#5 8#4 0#12) { gate1 with vcfg := s.atP && s.forked } (fun s =>
    match s.hart.priv, s.hart.pid with
    | .p, some p => s.endProc p .halt 0 0
    | .s, some p => s.endProc p .haltAtS (s.hart.tcause.setWidth 64) s.hart.tval
    | _, _ =>
      let t := s.advance
      { t with hart := { t.hart with status := .parked } }))

/-- HART_RESTART (R360): a parked hart goes on at M. -/
def execHartRestart (tile front : Nat) (s : State) : Out :=
  .next (s.mapHarts (fun h => if h.id = ⟨tile, front⟩ ∧ h.status = .parked then { h with status := .running } else h))

/-! ### Leave (R229, R437) -/

/-- LEAVE_GRANT: the selected hart holds leave. -/
def execLeaveGrant (s : State) : Out := .next { s with hart := { s.hart with leave := true } }

/-- LEAVE_LAPSE. -/
def execLeaveLapse (s : State) : Out := .next { s with hart := { s.hart with leave := false } }

end Sys2Proof.Machine
end

