-- ==== Sys2Proof/Machine/Timeout.lean ====
section
/-! DEFINITION. How a wait ends from outside the hart: the multicast acknowledgement, the hang watchdog, and the
stall sample that says what a hart waits for (R248, R347, R356, R357, R447, R476). -/

namespace Sys2Proof.Machine

/-! ### VSTM_ACK (R248, R347) -/

/-- What a silent member makes of a chunk of a multicast that is still under way: undefined bytes, no granule marked; a member
that takes none performs nothing. -/
def State.voidChunk (s : State) (a : AsyncWrite) (c : Chunk) : State :=
  if s.memberTakes a c then
    s.putGm c.slot ((a.pid.map (·.netid)).getD 0) (c.bytes.map (fun b => { b with src := .lit (Config.undefByte s.ticks b.key) }))
  else s

/-- The bits of a failure bitmap that stand for members of other packages; this package's member is known. -/
def State.memberMask (s : State) (members : List Nat) (failed : BitVec 1024) : BitVec 1024 :=
  BitVec.ofNat 1024 ((members.mapIdx (fun k m => (k, m))).foldl (fun v km =>
    if km.2 ≠ s.pkg ∧ failed.getLsbD km.1 then v + 2 ^ km.1 else v) 0)

/-- The bits of the members at which a multicast has failed. -/
def failedMask (members failed : List Nat) : BitVec 1024 :=
  BitVec.ofNat 1024 ((members.mapIdx (fun k m => (k, m))).foldl (fun v km =>
    if failed.contains km.2 then v + 2 ^ km.1 else v) 0)

/-- The writes of a multicast that are still pending: performed and marked at the members that acknowledge; with the
members at which any of it has failed. -/
def State.endMcast (s : State) (members : List Nat) (failed : BitVec 1024) (a : AsyncWrite) : State × List Nat :=
  a.chunks.foldl (fun (r : State × List Nat) c =>
    let silent := (members.findIdx? (fun m => m == c.endpoint / 4)).any (fun k => failed.getLsbD k)
    (if silent then r.1.voidChunk a c else r.1.performChunk a c,
      if r.1.memberFails a c then c.endpoint / 4 :: r.2 else r.2)) (s, a.failed)

/-- VSTM_ACK: the selected hart's VSTM completes, or traps MCAST past its end. The acknowledgement says which members of
other packages failed; those at a dead endpoint, those where a byte landed poisoned, and this package's own member are
known besides (R447). -/
def execVstmAck (failed : BitVec 1024) (s : State) : Out :=
  .next (match s.hart.status with
    | .blocked (.vstm _ _ _ g st es) =>
      let members := ((s.mcast? g).map (·.members)).getD []
      let told := s.memberMask members failed
      let mine := s.asyncs.filter (fun a => a.mcastOf s.hart)
      let r := mine.foldl (fun (r : State × List Nat) a =>
        let x := r.1.endMcast members told a
        (x.1, x.2 ++ r.2)) (s, [])
      let mask := told ||| failedMask members r.2
      let t := { r.1 with asyncs := r.1.asyncs.filter (fun a => !a.mcastOf s.hart) }.unblock
      let t := (t.trace 2 (mask != 0) (t.sew / 8) (es.map (fun e => (e.elem, e.va)))).closeStrips st
      if mask = 0 then t.advance
      else t.trapAfter causeMcast (BitVec.ofNat 64 (((upTo members.length).filter (fun k => mask.getLsbD k)).length))
        t.vlen mask
    | _ => s)

/-! ### The hang watchdog (R356, R357) -/

/-- A waiting access stopped at an element boundary (R342). -/
def State.replyStop (s : State) (word : IWord) (use : ReplyUse) (n : Nat) (todo done : List ElemAccess) (xa xb : Word)
    (cause : BitVec 8) : State :=
  match use, todo with
  | .loadV _ _, e :: _ | .amoV _ _ _, e :: _ =>
    (s.unblock.trace (if fMaj word == 0x2E then 3 else 1) true n ((elemSort done).map (fun x => (x.elem, x.va)))).stopAt
      word xa xb cause 0 e.elem e.elem (tdoneOf e.elem done ||| s.marks e.elem)
  | _, _ => s.unblock.trap cause 0

/-- Whether a word is an instruction with elements, or MMA, whose work an expiry may cut in two (R342, R357). -/
def elemWord (w : IWord) : Bool :=
  let m := (fMaj w).toNat
  (decide (0x23 ≤ m) && decide (m ≤ 0x2E)) || m == 0x33

/-- WATCHDOG of an instruction at P: it stops at an element boundary, an instruction with elements once it has come to a
boundary that nothing fixes. The waits on another party never expire. -/
def State.watchInstr (s : State) : State :=
  match s.hart.status with
  | .running =>
    if s.hart.replay.isEmpty && s.fetchOk && elemWord s.fetchWord then
      { s with hart := { s.hart with expireAt := some (Config.expiryElem s.ticks) } }
    else s.trap causeWatchdog 0
  | .blocked (.reply word use n todo done xa xb _) => s.replyStop word use n todo done xa xb causeWatchdog
  | .blocked (.vstm word xa xb _ _ _) =>
    -- what it has sent is performed as every issued store is
    s.unblock.stopAt word xa xb causeWatchdog 0 0 0 0
  | .blocked (.pops word xa xb _ _) =>
    s.unblock.stopAt word xa xb causeWatchdog 0 s.startElem s.startElem (s.marks s.startElem)
  | .blocked (.txEntry _) => s.unblock.trap causeWatchdog 0
  | .blocked (.sunb _) => s.unblock.trap causeWatchdog 0
  | _ => s

/-- WATCHDOG of S code, whether it runs or waits. -/
def State.watchCode (s : State) : State :=
  match s.hart.priv, s.hart.status with
  | .s, .running | .s, .blocked _ => s.unblock.trap causeWatchdog 0
  | _, _ => s

/-- The process that the selected hart is about to save: at a SAFE with something due, or waiting where it may be
switched out. -/
def State.saving (s : State) : Option Proc :=
  match s.hart.status with
  | .running =>
    let w := s.fetchWord
    if s.atP && s.hart.replay.isEmpty && s.fetchOk && fMaj w == 0x38 && fD w == 0 && fA w == 0 && !s.forked then
      match s.safeEntry (fImm w).toNat with
      | some (q, e) => if s.due q e = .nothing then none else some q
      | none => none
    else none
  | .blocked w =>
    match s.hart.chanWait, s.myProc? with
    | some n, some q => match q.safeTab[n]? with
      | some e => if w.yields && s.wanted q e then some q else none
      | none => none
    | _, _ => none
  | _ => none

/-- The selected hart with a WATCHDOG of a save or restore delivered to M (R338). -/
def State.watchAtM (s : State) : Hart :=
  s.hart.enterM (if s.hart.priv = .p then 0 else 1) (simpleTrap causeWatchdog 0 s.hart.pc)

/-- WATCHDOG of a save: M is entered, SEAL stays 0, the tile is quarantined, the process is lost, and the tile's other
processes leave it. -/
def State.watchSave (s : State) : State :=
  match s.saving with
  | none => s
  | some q =>
    let m := s.watchAtM
    let s := { s with hart := m }
    let place := s.ctxPlace q
    let s := s.gmStore { place with addr := place.addr + 0x38 } (leBytes 8 0)
    let t := s.tileNo
    let s := if (s.tile t).quarantined then s else
      (s.setTile t { s.tile t with quarantined := true }).tileEvent t 17 0 0 (s.tile t).hwdog.toNat q.pid.netid
    ((s.endProc q.pid .watchdogSave 0 0).evacuate t).mapHarts (fun h => if h.id = m.id then h.keepM m else h)

/-- WATCHDOG of a restore: M is entered, the restore is abandoned, and the process waits behind the others of its
level. -/
def State.watchRestore (s : State) : State :=
  if s.hart.status = .idle then
    match (s.nextReady s.tileNo).bind s.proc? with
    | some q =>
      if q.status = .ready true then
        ({ s with hart := s.watchAtM }.dequeue q.tile q.pid).enqueue q.tile q.pid q.level false
      else s
    | none => s
  else s

/-- HANG_WATCHDOG_EXPIRY (R357). -/
def execHangWatchdogExpiry (span : Span) (s : State) : Out :=
  .next (match span with
    | .instrAtP => if s.atP then s.watchInstr else s
    | .codeAtS => s.watchCode
    | .save => s.watchSave
    | .restore => s.watchRestore)

/-! ### STALL_SAMPLE (R476) -/

/-- What a stall sample says: cause, peer, port, lag. -/
structure Stall where
  cause : Nat
  peer : Nat
  port : Nat
  lag : Nat
deriving DecidableEq, Repr

/-- The peer of a channel end as a sample names it. -/
def ChanEnd.peer : ChanEnd → Nat
  | .rank r => r
  | .host _ => 0xFFFFFFFF

/-- A sample of a hart that waits on a channel. -/
def State.stallChan (s : State) (port : BitVec 3) (write : Bool) : Stall :=
  match s.myChan port with
  | none => ⟨if write then 4 else 3, 0, port.toNat, 0⟩
  | some (_, _, c) => if write then ⟨4, c.cons.peer, port.toNat, (c.wr - c.rd).toNat⟩ else ⟨3, c.prod.peer, port.toNat, 0⟩

/-- The granules that a waiting LDSYNC or VLDSYNC covers and that are empty. -/
def State.emptyCovered (s : State) (w : Wait) : Nat :=
  let tm := fun (eas : List Word) => ((eas.map (fun ea => tmKey s.tileNo ea.toNat / 64)).eraseDups.filter
    (fun g => !setHas s.tmFull g)).length
  let gm := fun (rs : List Phys) => ((rs.map (·.addr / 64)).eraseDups.filter (fun g => !setHas s.gmFull g)).length
  match w with
  | .ldsync _ _ ea _ none => tm [ea]
  | .ldsync _ _ _ _ (some r) => gm [r]
  | .vldsync _ _ a p es => if inTm (s.opA a) then tm ((s.actives p).map (s.vmAddr s.hart 0 a 0)) else gm (es.map (·.phys))
  | _ => 0

/-- The peer of an access to a key of global memory: the kettle, or the endpoint of another package. -/
def State.stallPeer (s : State) (k : Nat) : Nat :=
  if k / Config.localBytes / 4 = s.pkg then kettleOf (k % Config.localBytes) else k / Config.localBytes + 64

/-- A sample of a hart that awaits elements from global memory. -/
def State.stallReply (s : State) (es : List ElemAccess) : Stall :=
  ⟨6, s.stallPeer ((es.head?.map (fun e => e.phys.addr)).getD 0), 0xFF, es.length⟩

/-- A sample of a hart that waits in VSTM: where the first of its writes is still to be performed. -/
def State.stallMcast (s : State) (es : List ElemAccess) : Stall :=
  match (s.asyncs.find? (fun a => a.mcastOf s.hart)).bind (·.chunks.head?) with
  | some c => ⟨6, s.stallPeer (64 * c.granule), 0xFF, es.length⟩
  | none => s.stallReply es

/-- The word that a running hart is at: the first that ERET re-issues, or the one at its program counter. -/
def State.nextWord (s : State) : Option IWord :=
  match s.hart.current, s.hart.replay with
  | none, r :: _ => some r.entry.word
  | _, _ => if s.fetchOk then some s.fetchWord else none

/-- A sample of a running hart: at an instruction that needs leave it may wait for it; it may wait on an older instruction
of its chain, or for a queue, a TM bank or the memory port; else it issues. Which of these is timing, and free. -/
def State.stallRunning (s : State) : Stall :=
  match s.nextWord with
  | none => ⟨0, 0, 0xFF, 0⟩
  | some w =>
    let free := Config.stallKind s.ticks
    if needsLeave w s.sew && !s.hart.leave && Config.waitsLeave s.ticks then ⟨1, 0, 0xFF, 0⟩
    else if elemWord w && free 0 % 3 == 1 then ⟨2, free 1 % 2 ^ 21 / 4 * 4, 0xFF, free 2 % 2 ^ 17⟩
    else if free 0 % 3 == 2 then ⟨10, 0, 0xFF, 0⟩
    else ⟨0, 0, 0xFF, 0⟩

/-- What the selected hart waits for. -/
def State.stall (s : State) : Stall :=
  match s.hart.status with
  | .blocked (.crd _ _ p) => s.stallChan p false
  | .blocked (.crdm _ _ p _) => s.stallChan p false
  | .blocked (.vcrd _ _ p) => s.stallChan p false
  | .blocked (.cwr _ p) => s.stallChan p true
  | .blocked (.cwrm _ p _) => s.stallChan p true
  | .blocked (.vcwr _ p) => s.stallChan p true
  | .blocked (.cclose p) => s.stallChan p true
  | .blocked (.ldsync e d ea n r) => ⟨5, 0, 0xFF, s.emptyCovered (.ldsync e d ea n r)⟩
  | .blocked (.vldsync e d a p es) => ⟨5, 0, 0xFF, s.emptyCovered (.vldsync e d a p es)⟩
  | .blocked (.reply _ _ _ todo _ _ _ _) => s.stallReply todo
  | .blocked (.pops _ _ _ es _) => s.stallReply es
  | .blocked (.vstm _ _ _ _ _ es) => s.stallMcast es
  | .blocked (.txEntry _) => ⟨7, 0, 0xFF, s.txBusy (fun a => a.owner == some s.hart.id)⟩
  | .blocked (.barrier g) => ⟨8, g, 0xFF, 0⟩
  | .blocked (.dgrant _ _ _ g) => ⟨8, g, 0xFF, 0⟩
  | .blocked .joinl => ⟨8, 0, 0xFF, 0⟩
  | .blocked (.waitt t) => ⟨9, 0, 0xFF, Nat.min (t.toNat - s.time.toNat) 0xFFFFFFFF⟩
  | .blocked (.sunb _) => ⟨10, 0, 0xFF, 0⟩
  | .running => s.stallRunning
  | _ => ⟨0, 0, 0xFF, 0⟩

/-- STALL_SAMPLE: a record of kind 6 of the selected hart. -/
def execStallSample (s : State) : Out :=
  .next (match s.traceEntry with
    | some d =>
      if d.sample && !decide (s.hart.status = .idle) then
        let x := s.stall
        s.traceWrite d (s.traceHeader 32 6 x.cause ++ leBytes 4 x.peer ++ leBytes 1 x.port ++ leBytes 3 0 ++
          leBytes 4 x.lag ++ leBytes 4 0)
      else s
    | none => s)

end Sys2Proof.Machine
end

