-- ==== Sys2Proof/Machine/Fabric.lean ====
section
/-! DEFINITION. The fabric: links, switches and endpoints that fall silent, request packets of other endpoints, and the
rank entries that another home die sends (R116, R253, R289, R296, R368, R395, R406, R440 to R449). -/

namespace Sys2Proof.Machine

/-! ### Silence (R441, R444, R445) -/

/-- The devices that the loss of an endpoint or of its link affects: those with a tile on the die or a region there. -/
def State.affected (s : State) (ep : Nat) : List Nat :=
  (s.vdevs.filter (fun d => d.regions.any (fun r => r.endpoint == ep) ||
    (ep / 4 == s.pkg && d.tiles.any (fun t => t / Config.tilesPerDie == ep % 4)))).map (·.vdid)

/-- A record of a kind for every affected device, or one that names none. -/
def State.failAll (s : State) (kind plane ep : Nat) : State :=
  match s.affected ep with
  | [] => s.fail ⟨kind, plane, ep, 0xFFFF, s.time, 0, 0, 0⟩
  | l => l.foldl (fun (s : State) v => s.fail ⟨kind, plane, ep, v, s.time, 0, 0, 0⟩) s

/-- FLIT_RETRY (R441): the episode is logged as class 11 at its port. -/
def execFlitRetry (die plane flits : Nat) (s : State) : Out :=
  .next (s.whenOn (fun s => s.event die 11 plane 0 flits 0 0xFFFF))

/-- The packets under way on a path that has failed go on another plane (R441, R443, R444). -/
def State.resend (s : State) (hit : Outbound → Bool) : State :=
  { s with outbound := s.outbound.map (fun o =>
      if hit o then { o with plane := s.planeFrom o.src (o.addr / Config.localBytes) (o.plane + 1) } else o) }

/-- LINK_TIMEOUT (R444): the link is out of service, and its traffic moves to other planes. -/
def execLinkTimeout (die plane : Nat) (s : State) : Out :=
  .next (s.whenOn (fun s =>
    let s := { s with linksDown := if s.linksDown.contains (die, plane) then s.linksDown else (die, plane) :: s.linksDown }
    (s.resend (fun o => o.src == 4 * s.pkg + die && o.plane == plane)).failAll 1 plane (4 * s.pkg + die)))

/-- SWITCH_TIMEOUT (R444): the switch on the silent path is marked failed; the packet goes on another plane. -/
def execSwitchTimeout (endpoint plane : Nat) (s : State) : Out :=
  .next (s.whenOn (fun s =>
    let s := { s with switchesDown := if s.switchesDown.contains (endpoint, plane) then s.switchesDown
      else (endpoint, plane) :: s.switchesDown }
    (s.resend (fun o => o.addr / Config.localBytes == endpoint && o.plane == plane)).failAll 2 plane endpoint))

/-! ### An endpoint declared failed (R233, R253, R289, R296, R444) -/

/-- What the selected hart awaits from an endpoint by LDSYNC, VLDSYNC or the pops of a strip: no reply comes (R233,
R261). -/
def State.syncLost (s : State) (ep : Nat) : State :=
  let at_ := fun (p : Phys) => p.addr / Config.localBytes == ep
  match s.hart.status with
  | .blocked (.ldsync _ _ ea _ (some p)) => if at_ p then s.unblock.trap causeTimeout ea else s
  | .blocked (.vldsync e d a p es) =>
    match es.find? (fun (x : ElemAccess) => at_ x.phys) with
    | none => s
    | some x => s.unblock.vgo (s.vldsyncInstr e d a p) (fun s _ => s.stopZero ⟨causeTimeout, x.va, x.elem⟩)
  | .blocked (.pops word xa xb es _) =>
    match (elemSort es).find? (fun (x : ElemAccess) => at_ x.phys) with
    | none => s
    | some x => s.unblock.stopAt word xa xb causeTimeout x.va x.elem s.startElem (s.marks x.elem)
  | _ => s

/-- Whether a chunk or one of its sources lies at an endpoint. -/
def Chunk.touches (c : Chunk) (ep : Nat) : Bool :=
  (!c.toTm && c.endpoint == ep) || c.bytes.any (fun b => match b.src with
    | .gm p => p.addr / Config.localBytes == ep
    | _ => false)

/-- A pending write after an endpoint has failed: a transfer command that touches it is abandoned, one of a lost process
with a lost store for each granule it writes there; of another writer only the chunks for it are lost. A multicast keeps
its chunks until its acknowledgement (R248, R253, R361). -/
def State.asyncLost (s : State) (ep : Nat) (a : AsyncWrite) : State :=
  match a.writer with
  | .vstm => s
  | .engine =>
    if s.lostWriter a then (a.chunks.filter (·.touches ep)).foldl (fun (s : State) c => s.lostStore ep a c) s
    else if a.chunks.any (·.touches ep) then
      s.fail ⟨3, 0xFF, ep, s.asyncVdid a, s.time, (a.pid.map (·.netid)).getD 0, 0, 0⟩
    else s
  | _ => (a.chunks.filter (·.touches ep)).foldl (fun (s : State) c => s.lostStore ep a c) s

/-- What is left of a pending write. -/
def State.survive (s : State) (ep : Nat) (a : AsyncWrite) : Option AsyncWrite :=
  match a.writer with
  | .vstm => some a
  | .engine => if a.chunks.any (·.touches ep) && !s.lostWriter a then none
    else some { a with chunks := a.chunks.filter (fun c => !c.touches ep) }
  | _ => some { a with chunks := a.chunks.filter (fun c => !c.touches ep) }

/-- The plain stores under way to an endpoint that is declared failed: a record for each of them that is lost (R233,
R445). -/
def State.storesLost (s : State) (ep : Nat) : State :=
  let at_ := fun (o : Outbound) => o.store && decide (o.addr / Config.localBytes = ep) &&
    decide (s.time.toNat < o.sentAt.toNat + groupTimeout)
  let l := (s.outbound.filter at_).mapIdx (fun i o => (i, o))
  l.foldl (fun (s : State) io => if Config.storeLost s.ticks io.1 then
      s.fail ⟨5, 0xFF, ep, ((s.net? io.2.netid).map (·.vdid)).getD 0xFFFF, s.time, io.2.netid,
        BitVec.ofNat 64 (io.2.addr / 64 * 64 % Config.localBytes), BitVec.ofNat 64 ((2 ^ io.2.len - 1) * 2 ^ (io.2.addr % 64))⟩
    else s) { s with outbound := s.outbound.filter (fun o => decide (o.addr / Config.localBytes ≠ ep)) }

/-- The barriers that wait for members placed at an endpoint end in TIMEOUT (R296). -/
def State.failGroups (s : State) (ep : Nat) : State :=
  s.nets.foldl (fun (s : State) n =>
    (n.groups.mapIdx (fun i g => (i, g))).foldl (fun (s : State) ig => s.endBarrier n.netid ig.1 ig.2
      (fun m => entryPlaced (n.entry m.rank) && n.rankEndpoint m.rank == ep)) s) s

/-- Something done on every hart. -/
def State.onHarts (s : State) (f : State → State) : State :=
  (s.harts.map (·.id)).foldl (fun (s : State) id => s.onHart id f) s

/-- GROUP_TIMEOUT (R444): the endpoint is declared failed. A load, an atomic or a multicast that waits for it learns so
at its reply. -/
def execGroupTimeout (endpoint : Nat) (s : State) : Out :=
  .next (if s.power = .ready ∧ s.epLive endpoint then
    let s := s.onHarts (fun s => s.syncLost endpoint)
    let s := { s with liveEps := s.liveEps.filter (· != endpoint) }
    let s := s.failAll 3 0xFF endpoint
    let s := s.asyncs.foldl (fun (s : State) a => s.asyncLost endpoint a) s
    let s := { s with asyncs := s.asyncs.filterMap (s.survive endpoint) }
    let s := s.loseSends (fun _ => true) (fun b => match b with
      | .gm p => p.addr / Config.localBytes == endpoint
      | _ => false) (· == endpoint)
    let s := s.storesLost endpoint
    let s := s.asyncSweep.txWake
    (s.failGroups endpoint).onHarts State.dgrantAgain
  else s)

/-! ### Request packets (R116, R395, R406, R443) -/

/-- The bytes that an operation reaches. -/
def packetSize : PacketOp → Nat
  | .read n => n
  | .write d => d.length
  | .mark d => d.length
  | .atomic _ n _ _ => n
  | .setFull => 1
  | .setEmpty => 1
  | .slot _ _ => 0
  | .token _ => 0
  | .slotFree _ => 0

/-- The atomic operation of a code of R246. -/
def amoOf : Nat → Option AmoOp
  | 0x10 => some .add | 0x11 => some .and | 0x12 => some .or | 0x13 => some .xor | 0x14 => some .min | 0x15 => some .max
  | 0x16 => some .minu | 0x17 => some .maxu | 0x18 => some .swap | 0x19 => some .cas
  | _ => none

/-- Whether a record of a served packet is that of a packet. -/
def Served.isOf (x : Served) (p : Packet) : Bool := x.src == p.src && x.dst == p.dst && x.seq == p.seq

/-- An answer on its way to an endpoint: sequence number, code (0 performed, 1 refused, 2 poisoned) and data. A duplicate
of the packet will be given the same (R443). -/
def State.answerPacket (s : State) (p : Packet) (code : Nat) (data : List Byte) : State :=
  let a := leBytes 8 p.seq ++ leBytes 1 code ++ data
  { s with
    packets := s.packets ++ [(p.src, a)]
    served := s.served.map (fun x => if x.isOf p then { x with answer := some a } else x) }

/-- The base of a moved region at the destination of its device's migration (R404). -/
def movedBase (dest id : Nat) : Nat :=
  let x := Config.movedFrame dest id
  (4 * dest + x % 4) * Config.localBytes + x / 4 % 2 ^ 32 * 65536

/-- A packet performed at the kettle of an address and answered. -/
def State.performAt (s : State) (p : Packet) (ph : Phys) : State :=
  let mark := fun (s : State) (b : Bool) (n : Nat) => (granulesOf ph.addr n).foldl (fun (s : State) g => s.setGmFull g b) s
  match p.op with
  | .read n => if s.gmPoisoned ph n then s.answerPacket p 2 [] else s.answerPacket p 0 (s.gmBytes ph n)
  | .write bs => ((s.packet p.netid [(ph, bs.length)]).gmStore ph bs).answerPacket p 0 []
  | .mark bs => (mark ((s.packet p.netid [(ph, bs.length)]).gmStore ph bs) true bs.length).answerPacket p 0 []
  | .atomic c n x y => match amoOf c with
    | none => s.answerPacket p 1 []
    | some op =>
      if s.gmPoisoned ph n then s.answerPacket p 2 []
      else
        let r := s.gmAmo ph n op (x.toNat % 256 ^ n) (y.toNat % 256 ^ n)
        r.2.answerPacket p 0 (leBytes n r.1)
  | .setFull => (mark s true 1).answerPacket p 0 []
  | .setEmpty => (mark s false 1).answerPacket p 0 []
  | .slot _ _ => s.answerPacket p 1 []
  | .token _ => s.answerPacket p 1 []
  | .slotFree _ => s.answerPacket p 1 []

/-- A packet performed at its kettle, at the slot that its page's KSEL selects (R397); refused where that names no entry of
the key map. -/
def State.performPacket (s : State) (d : VDev) (p : Packet) : State :=
  match d.keyMap[p.ksel]? with
  | some k => s.performAt p ⟨p.dst * Config.localBytes + p.addr, k, 0⟩
  | none => s.answerPacket p 1 []

/-- The region of a device that a packet addresses (R395). -/
def VDev.packetRegion (d : VDev) (p : Packet) : Option Region :=
  d.regions.find? (fun r => r.endpoint == p.dst && decide (r.base ≤ p.addr) &&
    decide (p.addr + packetSize p.op ≤ r.base + r.size))

/-- A slot number that no key map names: it stands for the destination's slot with the same key (R403). -/
def peerSlot : Nat := 4096

/-- A packet sent on to the destination of a migration with its offset kept, performed there under the key of its
granule, and the reply returned (R406). -/
def State.forwardPacket (s : State) (dest : Nat) (p : Packet) (r : Region) : State :=
  let a := movedBase dest r.id + (p.addr - r.base)
  match numGet s.gmKey (granule a) with
  | some (.loaded k) =>
    let t := { s with keySlots := numPut s.keySlots peerSlot k }.performAt p ⟨a, peerSlot, 0⟩
    { t with keySlots := numDel t.keySlots peerSlot }
  | _ => s.performAt p ⟨a, 0, 0⟩

/-- The package that a device has moved to. -/
def State.movedTo (s : State) (vdid : Nat) : Nat := ((s.departed.find? (fun x => x.vdid == vdid)).map (·.destPkg)).getD 0

/-- Whether the source holds the requests of peers to a device's regions: from step 5 to step 9 of its migration (R406). -/
def State.holdsPeers (s : State) (vdid : Nat) : Bool :=
  s.migrations.any (fun m => m.vdid == vdid && decide (m.phase = .final))

/-- A packet to a region of a device: held, sent on, or performed (R406). -/
def State.peerPacket (s : State) (d : VDev) (r : Region) (p : Packet) : State :=
  if d.forwarding then s.forwardPacket (s.movedTo d.vdid) p r
  else if s.holdsPeers d.vdid then s.mapVdev d.vdid (fun d => { d with peers := d.peers ++ [p] })
  else s.performPacket d p

/-- A packet that has not come before: held, sent on or performed; one outside the issuer's regions is refused (R395). -/
def State.newPacket (s : State) (p : Packet) : State :=
  match s.vdev? p.vdid with
  | none => s.answerPacket p 1 []
  | some d =>
    match d.packetRegion p with
    | none => s.answerPacket p 1 []
    | some r => s.peerPacket d r p

/-- The channel that a packet of another package's channel unit names, with the end there on a rank that this package does
not run. -/
def State.packetChan (s : State) (p : Packet) (i : Nat) (producer : Bool) : Option (Network × Chan) :=
  (s.net? p.netid).bind (fun n => (n.chans[i]?).bind (fun c =>
    match if producer then c.prod else c.cons with
    | .rank r => if n.vdid = p.vdid && !n.mine r then some (n, c) else none
    | .host _ => none))

/-- A packet of a channel unit: nothing where it has to be held at the producer, whose unit sends it again (R374); refused
where it names no such end, or a write that the channel does not take. -/
def State.chanPacket (s : State) (p : Packet) : Option State :=
  let write := fun (i : Nat) (len : Nat) (f : State → State) =>
    match s.packetChan p i true with
    | none => some (s.answerPacket p 1 [])
    | some (n, c) =>
      if c.closed || decide (c.slotBytes < len) then some (s.answerPacket p 1 [])
      else if n.writeWaits c then none
      else some ((f s).answerPacket p 0 [])
  match p.op with
  | .slot i bs => write i bs.length (fun s => s.chanPut p.netid i bs)
  | .token i => write i 0 (fun s => s.chanClose p.netid i)
  | .slotFree i => some (match s.packetChan p i false with
    | some (_, c) => match c.ring with
      | .host (_ :: l) => ((s.mapChan p.netid i (fun c => { c with ring := .host l })).chanTake p.netid i).answerPacket p 0 []
      | _ => s.answerPacket p 1 []
    | none => s.answerPacket p 1 [])
  | _ => some (s.newPacket p)

/-- REQUEST_PACKET (R443): performed at most once; a duplicate is answered again as the first was, once that has been. What
the spec does not give, the form of a channel unit's packets, is a DESIGN CHOICE. -/
def execRequestPacket (p : Packet) (s : State) : Out :=
  .next (if p.dst / 4 ≠ s.pkg ∨ s.power ≠ .ready then s
  else match s.served.find? (fun x => x.isOf p) with
    | some x => match x.answer with
      | some a => { s with packets := s.packets ++ [(p.src, a)] }
      | none => s
    | none => ({ s with served := ⟨p.src, p.dst, p.seq, none⟩ :: s.served }.chanPacket p).getD s)

/-! ### Rank entries of other packages (R368) -/

/-- Whether the entries of another package contradict this one's. -/
def Network.conflicts (n : Network) (x : RankExchange) : Bool :=
  x.digest != n.digest || x.nproc != n.nproc ||
  (x.entries.mapIdx (fun k e => (x.rankLo + k, e))).any (fun re => n.mine re.1 && entryPlaced re.2)

/-- Every live process of a network on this package ended for a reason (R368, R384). -/
def State.endNet (s : State) (netid : Nat) (r : EndReason) : State :=
  ((s.procs.filter (fun q => q.pid.netid == netid && q.live)).map (·.pid)).foldl
    (fun (s : State) p => s.endProc p r 0 0) s

/-- The entry of a rank that has ended (R373). -/
def endedEntry (e : Word) : Word := (e ||| 0x400000000#64) &&& ~~~0x200000000#64

/-- A whole network ended by request: its processes here, and the ranks that are elsewhere or that no message covers
(R368, R384). -/
def State.endWhole (s : State) (netid : Nat) : State :=
  (s.endNet netid .endRequest).mapNet netid (fun n => { n with entries := n.entries.map endedEntry })

/-- The arbiters of a group, chosen by the places of its members; one with an exchange under way keeps its own (R448). -/
def Group.choose (g : Group) (n : Network) (home : Nat) : Group :=
  if g.issued.isSome || g.members.any (·.exch.isSome) then g
  else
    let ranks := g.members.map (·.rank)
    let primary := (n.lowestEndpoint ranks).getD home
    { g with primary := primary, standby := n.standbyFor ranks [primary / 4] home }

/-- The home die's endpoint of a device. -/
def State.homeEp (s : State) (vdid : Nat) : Nat := 4 * s.pkg + ((s.vdev? vdid).map (·.homeDie)).getD 0

/-- RANK_ENTRY_EXCHANGE (R368): a conflict ends the network on this package; else the entries of the other package's
ranks are taken over, and a rank that has ended meanwhile ends the barriers it belongs to (R296). -/
def execRankEntryExchange (x : RankExchange) (s : State) : Out :=
  .next (match s.net? x.netid with
    | none => s
    | some n =>
      if n.conflicts x then s.endNet x.netid .launchConflict
      else
        let news := (x.entries.mapIdx (fun k e => (x.rankLo + k, e))).filter (fun re => !n.mine re.1 && decide (re.1 < n.nproc))
        let gone := (news.filter (fun re => entryEnded re.2 && !entryEnded (n.entry re.1))).map (·.1)
        let s := s.mapNet x.netid (fun (n : Network) =>
          let n := { n with entries := news.foldl (fun (l : List Word) (re : Nat × Word) => l.set re.1 re.2) n.entries, changedAt := s.time, deadlockTold := false }
          { n with groups := n.groups.map (fun (g : Group) => Group.choose g n (s.homeEp n.vdid)) })
        (gone.foldl (fun (s : State) r => s.endGroups x.netid r) s).wakeReady)

end Sys2Proof.Machine
end

