-- ==== Sys2Proof/Machine/Image.lean ====
section
/-! DEFINITION. The network image as the placement engine reads it: its tables, and the conditions that a launch tests
(R4, R22, R166 to R172, R365, R369). -/

namespace Sys2Proof.Machine

/-- The bytes of a network image. -/
abbrev Image := List Byte

/-! ### Header and tables (R166 to R169) -/

/-- Bytes of the header. -/
def imageHeader : Nat := 128
/-- LENGTH. -/
def Image.length64 (i : Image) : Nat := field i 0x08 8
/-- NPROC. -/
def Image.nproc (i : Image) : Nat := field i 0x10 4
/-- NCHAN. -/
def Image.nchan (i : Image) : Nat := field i 0x14 4
/-- NGROUP. -/
def Image.ngroup (i : Image) : Nat := field i 0x18 4
/-- NKERN. -/
def Image.nkern (i : Image) : Nat := field i 0x1C 4
/-- NGM. -/
def Image.ngm (i : Image) : Nat := field i 0x48 4
/-- DIGEST. -/
def Image.digest (i : Image) : List Byte := (List.drop 0x50 i).take 32
/-- The offset of process entry r. -/
def Image.procAt (i : Image) (r : Nat) : Nat := field i 0x20 8 + 32 * r
/-- The offset of channel entry c. -/
def Image.chanAt (i : Image) (c : Nat) : Nat := field i 0x28 8 + 16 * c
/-- The offset of group entry g. -/
def Image.groupAt (i : Image) (g : Nat) : Nat := field i 0x30 8 + 16 * g
/-- The offset of kernel entry k. -/
def Image.kernAt (i : Image) (k : Nat) : Nat := field i 0x38 8 + 32 * k
/-- The offset of global region entry g. -/
def Image.gmAt (i : Image) (g : Nat) : Nat := field i 0x40 8 + 32 * g
/-- Port word p of rank r. -/
def Image.portWord (i : Image) (r p : Nat) : Nat := field i (i.procAt r + 0x10 + 2 * p) 2
/-- Kernel of rank r. -/
def Image.kernelOf (i : Image) (r : Nat) : Nat := field i (i.procAt r + 4) 2
/-- TMLEN of kernel k. -/
def Image.tmLen (i : Image) (k : Nat) : Nat := field i (i.kernAt k + 0x0C) 4
/-- IMAGELEN of kernel k. -/
def Image.imageLen (i : Image) (k : Nat) : Nat := field i (i.kernAt k + 8) 4
/-- NSAFE of kernel k. -/
def Image.nsafe (i : Image) (k : Nat) : Nat := field i (i.kernAt k + 0x14) 4
/-- The offset of safe-point entry n of kernel k. -/
def Image.safeAt (i : Image) (k n : Nat) : Nat := field i (i.kernAt k + 0x18) 8 + 32 * n
/-- Whether the producer, or the consumer, end of channel c is a host endpoint. -/
def Image.hostEnd (i : Image) (c : Nat) (producer : Bool) : Bool :=
  (field i (i.chanAt c + 2) 1).testBit (if producer then 0 else 1)
/-- The rank or host endpoint of an end of channel c. -/
def Image.endOf (i : Image) (c : Nat) (producer : Bool) : Nat := field i (i.chanAt c + if producer then 4 else 8) 4
/-- Bytes of the ring of channel c. -/
def Image.ringBytes (i : Image) (c : Nat) : Nat := 2 ^ (field i (i.chanAt c + 1) 1 + field i (i.chanAt c) 1)
/-- The channels that rank r consumes. -/
def Image.consumed (i : Image) (r : Nat) : List Nat :=
  (upTo i.nchan).filter (fun c => !i.hostEnd c false && i.endOf c false == r)
/-- Member ranks of group g. -/
def Image.groupRanks (i : Image) (g : Nat) : List Nat :=
  (upTo (field i (i.groupAt g) 4)).map (fun k => field i (field i (i.groupAt g + 8) 8 + 4 * k) 4)

/-! ### The conditions of status 3 (R170, R171, R172): image offset, and whether the field there fails -/

/-- Whether a table of n entries of a size lies inside the image. -/
def Image.inside (i : Image) (off n size : Nat) : Bool := decide (off + n * size ≤ i.length64)

/-- The header's. -/
def Image.headerTests (i : Image) : List (Nat × Bool) :=
  [(0x08, decide (i.length64 < imageHeader)), (0x14, decide (32767 < i.nchan)), (0x1C, decide (65535 < i.nkern)),
   (0x20, !i.inside (i.procAt 0) i.nproc 32), (0x28, !i.inside (i.chanAt 0) i.nchan 16),
   (0x30, !i.inside (i.groupAt 0) i.ngroup 16), (0x38, !i.inside (i.kernAt 0) i.nkern 32),
   (0x40, !i.inside (i.gmAt 0) i.ngm 32)]

/-- The port words of all processes in table order: rank, port and word. -/
def Image.portWords (i : Image) : List (Nat × Nat × Nat) :=
  (upTo i.nproc).flatMap (fun r => (upTo 8).map (fun p => (r, p, i.portWord r p)))

/-- Whether a port word fails: it names no channel, an end that is not its rank's, or one that an earlier word names. -/
def Image.portFails (i : Image) (r p : Nat) : Bool :=
  let w := i.portWord r p
  if w = 0xFFFF then false
  else
    let c := w % 2 ^ 15
    let producer := w.testBit 15
    decide (i.nchan ≤ c) || i.hostEnd c producer || i.endOf c producer != r ||
    i.portWords.any (fun x => x.2.2 == w && (decide (x.1 < r) || (x.1 == r && decide (x.2.1 < p))))

/-- A process entry's. -/
def Image.procTests (i : Image) (r : Nat) : List (Nat × Bool) :=
  let b := i.procAt r
  [(b, field i b 4 != r), (b + 4, decide (i.nkern ≤ i.kernelOf r)), (b + 6, decide (14 < field i (b + 6) 1)),
   (b + 7, field i (b + 7) 1 != 0)] ++ (upTo 8).map (fun p => (b + 0x10 + 2 * p, i.portFails r p))

/-- Whether an end of a channel fails: no rank or endpoint, or a process end that no port word names. -/
def Image.endFails (i : Image) (c : Nat) (producer : Bool) : Bool :=
  if i.hostEnd c producer then decide (65535 < i.endOf c producer)
  else decide (i.nproc ≤ i.endOf c producer) ||
    !(upTo 8).any (fun p => i.portWord (i.endOf c producer) p == c + (if producer then 2 ^ 15 else 0))

/-- A channel entry's. -/
def Image.chanTests (i : Image) (c : Nat) : List (Nat × Bool) :=
  let b := i.chanAt c
  let s := field i b 1
  [(b, decide (s < 3) || decide (16 < s) || (i.hostEnd c false && i.endOf c false == 65535 && s != 6)),
   (b + 1, decide (field i (b + 1) 1 < 1) || decide (16 < field i (b + 1) 1)), (b + 2, decide (4 ≤ field i (b + 2) 1)),
   (b + 3, field i (b + 3) 1 != 0), (b + 4, i.endFails c true), (b + 8, i.endFails c false),
   (b + 12, field i (b + 12) 4 != 0)]

/-- A group entry's. -/
def Image.groupTests (i : Image) (g : Nat) : List (Nat × Bool) :=
  let b := i.groupAt g
  let off := field i (b + 8) 8
  let n := field i b 4
  [(b + 4, field i (b + 4) 4 != 0), (b + 8, !i.inside off n 4)] ++
  (if i.inside off n 4 then (upTo n).map (fun k => (off + 4 * k, decide (i.nproc ≤ field i (off + 4 * k) 4))) else [])

/-- A global region entry's. That the region is no smaller than its initialised bytes is the model's condition: R169 gives
none. -/
def Image.gmTests (i : Image) (g : Nat) : List (Nat × Bool) :=
  let b := i.gmAt g
  let al := field i (b + 24) 4
  [(b, !i.inside (field i b 8) (field i (b + 8) 8) 1), (b + 16, decide (field i (b + 16) 8 < field i (b + 8) 8)),
   (b + 24, decide (al < 6) || decide (30 < al)), (b + 28, field i (b + 28) 4 != 0)]

/-- Whether a SAFE of kernel k uses entry n: it stands at the entry's SITE (R172). -/
def Image.safeUsed (i : Image) (k n : Nat) : Bool :=
  let site := field i (i.safeAt k n + 0x14) 4
  decide (site + 4 ≤ i.imageLen k) && field i (field i (i.kernAt k) 8 + site) 4 == 0x38 * 2 ^ 26 + n

/-- STUB of the lowest-numbered used entry of kernel k. -/
def Image.firstStub (i : Image) (k : Nat) : Option Nat :=
  ((upTo (i.nsafe k)).find? (i.safeUsed k)).map (fun n => field i (i.safeAt k n + 0xC) 4)

/-- Whether entry n of kernel k is an unused entry: no SAFE uses it, every mask and FLAGS are zero, and its three offsets
are STUB of the lowest-numbered used entry (R172). -/
def Image.safeUnused (i : Image) (k n : Nat) : Bool :=
  let b := i.safeAt k n
  !i.safeUsed k n && field i b 8 == 0 && field i (b + 8) 4 == 0 &&
  i.firstStub k == some (field i (b + 0xC) 4) && field i (b + 0x10) 4 == field i (b + 0xC) 4 &&
  field i (b + 0x14) 4 == field i (b + 0xC) 4

/-- A safe-point entry's: the portable bit says whether vectors, predicates, matrices or streams are live, but for an
unused entry, whose FLAGS are zero (R171, R172). -/
def Image.safeTests (i : Image) (k n : Nat) : List (Nat × Bool) :=
  let b := i.safeAt k n
  let code := i.imageLen k
  let noVec := field i (b + 4) 4 == 0 && field i (b + 8) 1 == 0 && field i (b + 9) 1 / 16 == 0 && field i (b + 0xA) 1 == 0
  let off := fun o => decide (field i o 4 % 4 ≠ 0) || decide (code ≤ field i o 4)
  [(b, (field i b 1).testBit 0), (b + 8, (field i (b + 8) 1).testBit 0), (b + 9, decide (64 ≤ field i (b + 9) 1)),
   (b + 0xA, decide (16 ≤ field i (b + 0xA) 1)),
   (b + 0xB, decide (4 ≤ field i (b + 0xB) 1) || (!i.safeUnused k n && (field i (b + 0xB) 1).testBit 0 != noVec)),
   (b + 0xC, off (b + 0xC)), (b + 0x10, off (b + 0x10)), (b + 0x14, decide (code ≤ field i (b + 0x14) 4)),
   (b + 0x18, field i (b + 0x18) 8 != 0)]

/-- The kernels that no rank runs. -/
def Image.unused (i : Image) : List Nat :=
  (upTo i.nkern).filter (fun k => !(upTo i.nproc).any (fun r => i.kernelOf r == k))

/-- A kernel entry's, and its safe-point table's. A block that does not fit is status 4's. That ENTRY is a multiple of 4
follows from R157. -/
def Image.kernTests (i : Image) (k : Nat) : List (Nat × Bool) :=
  let b := i.kernAt k
  let n := i.nsafe k
  let tab := decide (n ≤ 65536) && i.inside (i.safeAt k 0) n 32
  [(b, !i.inside (field i b 8) (i.imageLen k) 1), (b + 0x0C, decide (i.tmLen k < i.imageLen k)),
   (b + 0x10, decide (i.tmLen k ≤ field i (b + 0x10) 4) || decide (field i (b + 0x10) 4 % 4 ≠ 0)), (b + 0x14, decide (65536 < n)),
   (b + 0x18, !i.inside (i.safeAt k 0) n 32)] ++
  (if tab then (upTo n).flatMap (i.safeTests k) else [])

/-- The tests of a table that lies inside the image. -/
def Image.tableTests (i : Image) (off n size : Nat) (f : Nat → List (Nat × Bool)) : List (Nat × Bool) :=
  if i.inside off n size then (upTo n).flatMap f else []

/-- Every condition of status 3. R170 names no ranges of single fields; that a field outside the range that R22 and R166
to R171 give it fails is the model's reading. -/
def Image.tests (i : Image) : List (Nat × Bool) :=
  i.headerTests ++ i.tableTests (i.procAt 0) i.nproc 32 i.procTests ++ i.tableTests (i.chanAt 0) i.nchan 16 i.chanTests ++
  i.tableTests (i.groupAt 0) i.ngroup 16 i.groupTests ++ i.tableTests (i.kernAt 0) i.nkern 32 i.kernTests ++
  i.tableTests (i.gmAt 0) i.ngm 32 i.gmTests

/-- The status and DETAIL of an image that is refused: statuses 1, 2 and 3 in that order (R369). -/
def Image.fault (i : Image) : Option (Nat × Nat) :=
  if field i 0 4 ≠ 0x4D4F4C48 ∨ i.digest ≠ sha256 ((List.drop 0x80 i).take (i.length64 - 0x80)) ∨ field i 0x4C 4 ≠ 0 ∨
      field i 0x70 16 ≠ 0 then some (1, 0)
  else if field i 4 4 ≠ 1 then some (2, field i 4 4)
  else (((i.tests.filter (·.2)).map (·.1)).min?).map (fun o => (3, o))

end Sys2Proof.Machine
end

