-- ==== Sys2Proof/Machine/Launch.lean ====
section
/-! DEFINITION. Launch, placement and start of networks, the deadlock sentinel, and the completion of a network (R31,
R164, R165, R306, R351, R364 to R382, R458). -/

namespace Sys2Proof.Machine

/-! ### The launch message (R366, R367) -/

/-- STAGE of a message. -/
def lmStage (m : List Byte) : Bool := (field m 0x0C 2).testBit 1
/-- GO. -/
def lmGo (m : List Byte) : Bool := (field m 0x0C 2).testBit 2
/-- TIMED. -/
def lmTimed (m : List Byte) : Bool := (field m 0x0C 2).testBit 0
/-- NETID. -/
def lmNetid (m : List Byte) : Nat := field m 0x08 4
/-- IMAGE. -/
def lmImage (m : List Byte) : Nat := field m 0 8
/-- ARGS. -/
def lmArgs (m : List Byte) : Nat := field m 0x18 8
/-- STATUS. -/
def lmStatus (m : List Byte) : Nat := field m 0x20 8
/-- CADDY. -/
def lmCaddy (m : List Byte) : Nat := field m 0x28 8
/-- Bytes of the caddy. -/
def lmCaddyLen (m : List Byte) : Nat := field m 0x0E 2 * 65536
/-- RANKLO. -/
def lmRankLo (m : List Byte) : Nat := field m 0x38 4

/-- The number of ranks that a message places. -/
def lmRankCnt (m : List Byte) (nproc : Nat) : Nat :=
  if field m 0x3C 4 = 0 then nproc - lmRankLo m else field m 0x3C 4

/-- The offset of the first field of a message that breaks R366 or R367 (step 1 of R369). -/
def lmFault (m : List Byte) : Option Nat :=
  let go := lmGo m && !lmStage m
  let fl := field m 0x0C 2
  let tests := [(0x00, decide (lmImage m % 64 ≠ 0) || (go && lmImage m != 0)), (0x08, lmNetid m == 0),
    (0x0C, decide (8 ≤ fl) || (lmStage m && lmGo m)), (0x0E, go && field m 0x0E 2 != 0),
    (0x10, !lmTimed m && field m 0x10 8 != 0), (0x18, decide (lmArgs m % 64 ≠ 0)), (0x20, decide (lmStatus m % 64 ≠ 0)),
    (0x28, decide (lmCaddy m % 65536 ≠ 0) || (lmCaddy m == 0) != (field m 0x0E 2 == 0)),
    (0x30, go && field m 0x30 4 != 0), (0x34, go && field m 0x34 4 != 0), (0x38, go && lmRankLo m != 0),
    (0x3C, go && field m 0x3C 4 != 0)]
  (tests.find? (·.2)).map (·.1)

/-! ### Status records (R369) -/

/-- The translation of a range for the placement engine. -/
def State.engineRange (s : State) (d : VDev) (n : Need) (va len : Nat) :
    Except (XFault × Nat) (List (Nat × TlbEntry × Phys)) :=
  s.xlateRange (fun s a => s.xlateEngine d n a) va len

/-- The state after an engine has used translations. -/
def State.engineUse (s : State) (d : VDev) (n : Need) (l : List (Nat × TlbEntry × Phys)) : State :=
  l.foldl (fun (s : State) e => s.setAD d n e.2.1) s

/-- A status record: to the host supervisor, and at STATUS by an asynchronous writer, where that address can be
written. -/
def State.status (s : State) (d : VDev) (netid va code detail : Nat) : State :=
  let rec_ := leBytes 4 netid ++ leBytes 4 code ++ leBytes 8 detail
  let s := s.report d.vdid 2 0 netid rec_
  if va = 0 ∨ va % 64 ≠ 0 then s
  else match s.engineRange d .w va 16 with
    | .error _ => s
    | .ok l =>
      let s := s.engineUse d .w l
      { s with asyncs := s.asyncs ++ [⟨.status, none, none, 0, chunksBySlot false (pendLits l va rec_), none, 0, none, [], []⟩] }

/-! ### Room in tile memory (R22, R164, R369, R370, R372) -/

/-- Units of 64 bytes in a tile's memory. -/
def tmUnits : Nat := Config.tmBytes / 64

/-- The free runs of 64-byte units of a tile's memory, lowest first: first unit and length. -/
def freeRuns (t : Nat) (used : List (Nat × Nat)) : List (Nat × Nat) :=
  ((upTo tmUnits).foldr (fun u (l : List (Nat × Nat)) =>
    if rangeFree t used (64 * u) 64 then
      match l with
      | (a, n) :: r => if a = u + 1 then (u, n + 1) :: r else (u, 1) :: l
      | [] => [(u, 1)]
    else l) [])

/-- Places for rings in free runs, one after another: every assignment of rings to runs is tried, so places are found
wherever they exist. -/
def fitRings : List (Nat × Nat) → List (Nat × Nat) → Option (List (Nat × Nat))
  | _, [] => some []
  | runs, (c, bytes) :: rs =>
    let u := (bytes + 63) / 64
    (upTo runs.length).findSome? (fun i =>
      let r := runs.getD i (0, 0)
      if u ≤ r.2 then (fitRings (runs.set i (r.1 + u, r.2 - u)) rs).map ((c, 64 * r.1) :: ·) else none)

/-- Places for a kernel block at a base and for rings. -/
def fitAt (t : Nat) (used : List (Nat × Nat)) (len : Nat) (rings : List (Nat × Nat)) (base : Nat) :
    Option (Nat × List (Nat × Nat)) :=
  if base % 4096 = 0 ∧ rangeFree t used base len then
    (fitRings (freeRuns t ((base, len) :: used)) rings).map (fun r => (base, r))
  else none

/-- The lowest base at which a kernel block and its rings fit. -/
def fitBlock (t : Nat) (used : List (Nat × Nat)) (len : Nat) (rings : List (Nat × Nat)) : Option (Nat × List (Nat × Nat)) :=
  (upTo (Config.tmBytes / 4096)).findSome? (fun i => fitAt t used len rings (4096 * i))

/-- Rings at the places that the engine chooses, where those are free. -/
def chosenRings (ticks t : Nat) : List (Nat × Nat) → List (Nat × Nat) → Option (List (Nat × Nat))
  | _, [] => some []
  | used, (c, n) :: rs =>
    let b := Config.ringBase (ticks + c)
    if b % 64 = 0 ∧ rangeFree t used b n then (chosenRings ticks t ((b, n) :: used) rs).map ((c, b) :: ·) else none

/-- The places of a kernel block and its rings, block base first: the engine's own choice where that is free, else the
lowest base that serves; none only where no places exist. -/
def placeBlock (ticks rank t : Nat) (used : List (Nat × Nat)) (len : Nat) (rings : List (Nat × Nat)) :
    Option (Nat × List (Nat × Nat)) :=
  let b := Config.blockBase (ticks + rank)
  match if b % 4096 = 0 ∧ rangeFree t used b len then chosenRings ticks t ((b, len) :: used) rings else none with
  | some r => some (b, r)
  | none => fitBlock t used len rings

/-- The rings that a rank consumes, with their bytes. -/
def Image.rings (i : Image) (r : Nat) : List (Nat × Nat) := (i.consumed r).map (fun c => (c, i.ringBytes c))

/-- Whether a kernel block with rings fits on some tile of a device with no network present (status 4). -/
def State.everFits (s : State) (d : VDev) (len : Nat) (rings : List (Nat × Nat)) : Bool :=
  d.tiles.any (fun t => (fitBlock t [((s.tile t).handlerBase, (s.tile t).handlerLen)] len rings).isSome)

/-- Status 4 and its DETAIL: the first rank that fits nowhere, or for a kernel that no rank runs an open value (R170,
R369). -/
def State.fitFault (s : State) (d : VDev) (i : Image) : Option (Nat × Nat) :=
  match (upTo i.nproc).find? (fun r => !s.everFits d (i.tmLen (i.kernelOf r)) (i.rings r)) with
  | some r => some (4, r)
  | none => (i.unused.find? (fun k => !s.everFits d (i.tmLen k) [])).map (fun k => (4, Config.unusedBlock k))

/-! ### The tests of R369 -/

/-- The range that fails first of some ranges with their needs. -/
def State.rangesBad (s : State) (d : VDev) : List (Need × Nat × Nat) → Option Nat
  | [] => none
  | (n, va, len) :: l => match s.engineRange d n va len with
    | .error e => some e.2
    | .ok _ => s.rangesBad d l

/-- Bytes from a virtual address, as the engine reads them. -/
def State.engineBytes (s : State) (d : VDev) (va len : Nat) : List Byte :=
  match s.engineRange d .r va len with
  | .ok l => s.gmGather (physRange l va len)
  | .error _ => []

/-- The image of a message, header first. -/
def State.imageAt (s : State) (d : VDev) (va : Nat) : Image :=
  let hdr := s.engineBytes d va imageHeader
  s.engineBytes d va (Nat.max imageHeader (Image.length64 hdr))

/-- Whether a NETID is held on the package: by a network, or by a message that waits (R368, R369). -/
def State.netHeld (s : State) (netid : Nat) : Bool :=
  (s.net? netid).isSome || s.vdevs.any (fun d => d.waiting.any (fun w => w.accepted && lmNetid w.msg == netid))

/-- The ranges that step 2 of R369 tests for a message that stages, in its order; beyond the header only what the header
tells. -/
def State.stageRanges (s : State) (d : VDev) (m : List Byte) : List (Need × Nat × Nat) :=
  (.r, lmImage m, imageHeader) :: (match s.rangesBad d [(.r, lmImage m, imageHeader)] with
    | some _ => []
    | none =>
      let hdr := s.engineBytes d (lmImage m) imageHeader
      [(.r, lmImage m, Nat.max imageHeader (Image.length64 hdr))] ++
        (if lmArgs m = 0 then [] else [(.r, lmArgs m, 64 * Image.nproc hdr)]) ++
        (if lmStatus m = 0 then [] else [(.w, lmStatus m, 16)]) ++
        (if lmCaddy m = 0 then [] else [(.rw, lmCaddy m, lmCaddyLen m)]))

/-- The ranges that step 2 of R369 tests for a GO message. -/
def State.goRanges (s : State) (m : List Byte) : List (Need × Nat × Nat) :=
  (if lmArgs m = 0 then [] else [(.r, lmArgs m, 64 * Nat.max 1 (((s.net? (lmNetid m)).map (·.nproc)).getD 1))]) ++
    (if lmStatus m = 0 then [] else [(.w, lmStatus m, 16)])

/-- The state after the walks for a message that passes step 1 of R369: A set in the leaves (R389). -/
def State.launchWalks (s : State) (d : VDev) (m : List Byte) : State :=
  if (lmFault m).isSome then s
  else (if lmGo m then s.goRanges m else s.stageRanges d m).foldl (fun (s : State) r =>
    match s.engineRange d r.1 r.2.1 r.2.2 with
    | .ok l => s.engineUse d .r l
    | .error _ => s) s

/-- The status code and DETAIL of a message that stages and is refused. -/
def State.stageFault (s : State) (d : VDev) (m : List Byte) : Option (Nat × Nat) :=
  match lmFault m with
  | some o => some (5, o)
  | none => match s.rangesBad d (s.stageRanges d m) with
    | some a => some (7, a)
    | none =>
      let i := s.imageAt d (lmImage m)
      match i.fault with
      | some f => some f
      | none =>
        let cnt := lmRankCnt m i.nproc
        if i.nproc ≤ lmRankLo m ∨ i.nproc < lmRankLo m + cnt then some (5, 0x38)
        else match s.fitFault d i with
          | some f => some f
          | none =>
            if s.netHeld (lmNetid m) then some (6, lmNetid m)
            else if !d.tiles.any (fun t => (s.tile t).open?) then some (8, 0) else none

/-- The status code and DETAIL of a GO message that is refused. -/
def State.goFault (s : State) (d : VDev) (m : List Byte) : Option (Nat × Nat) :=
  match lmFault m with
  | some o => some (5, o)
  | none =>
    match s.rangesBad d (s.goRanges m) with
    | some a => some (7, a)
    | none => match s.net? (lmNetid m) with
      | some n => if n.started ∨ n.vdid ≠ d.vdid then some (6, lmNetid m) else none
      | none => some (6, lmNetid m)

/-! ### Placement (R351, R370 to R373) -/

/-- A safe-point table entry of an image. -/
def Image.safeEntry (i : Image) (k n : Nat) : SafeEntry :=
  let b := i.safeAt k n
  ⟨BitVec.ofNat 32 (field i b 4), BitVec.ofNat 32 (field i (b + 4) 4), BitVec.ofNat 8 (field i (b + 8) 1),
   BitVec.ofNat 8 (field i (b + 9) 1), BitVec.ofNat 8 (field i (b + 0xA) 1), (field i (b + 0xB) 1).testBit 0,
   (field i (b + 0xB) 1).testBit 1, field i (b + 0xC) 4, field i (b + 0x10) 4, field i (b + 0x14) 4⟩

/-- A channel of an image, its ring not placed yet. -/
def Image.chan (i : Image) (c : Nat) : Chan where
  slotLog := field i (i.chanAt c) 1
  k := field i (i.chanAt c + 1) 1
  prod := if i.hostEnd c true then .host (i.endOf c true) else .rank (i.endOf c true)
  cons := if i.hostEnd c false then .host (i.endOf c false) else .rank (i.endOf c false)
  wr := 0
  rd := 0
  closed := false
  token := none
  ring := .host []

/-- A group of an image. -/
def Image.group (i : Image) (g : Nat) : Group :=
  ⟨(i.groupRanks g).map (fun r => ⟨r, none, none, none, 0, 0, 0⟩), 0, 0, none, 0⟩

/-- Whether a range of global memory lies in no context area of a process that has not ended. -/
def State.ctxFree (s : State) (a : Nat) : Bool :=
  (s.procs.filter Proc.live).all (fun q => !overlaps a Config.ctxAreaBytes q.ctxphys Config.ctxAreaBytes)

/-- The physical place of a context area at a virtual address: where its pages translate to one free range of the
device's memory. -/
def State.ctxAt (s : State) (d : VDev) (va : Nat) : Option Nat :=
  match s.engineRange d .rw va Config.ctxAreaBytes with
  | .error _ => none
  | .ok l => match l.head? with
    | none => none
    | some e =>
      let a := e.2.2.addr
      if l.all (fun x => x.2.2.addr + va == a + x.1) && a % 64 == 0 && s.ctxFree a then some a else none

/-- Virtual addresses in the pages that a device's tables map, from a table at a level down: where the engine looks for a
context area. -/
def State.ctxCands (s : State) (d : VDev) : Nat → Nat → Nat → List Nat
  | 0, _, va => (upTo 512).map (fun i => va + 4096 * i)
  | lvl + 1, t, va =>
    let size := 2 ^ (12 + 9 * (lvl + 1))
    (upTo 512).flatMap (fun i =>
      let e := s.pte d t i
      if !pteV e then []
      else if pteLeaf e then
        (upTo (Nat.min (size / Config.ctxAreaBytes) (2 * s.procs.length + 1))).map (fun k => va + size * i + Config.ctxAreaBytes * k)
      else State.ctxCands s d lvl (pteEndpoint e * Config.localBytes + pteAddr e) (va + size * i))

/-- The virtual and the physical address of the context area reserved for a rank (R335, R351): the engine's choice where that
serves, else the first place that the device's tables map; none where nothing serves. -/
def State.ctxOf (s : State) (d : VDev) (netid r : Nat) : Option (Word × Nat) :=
  let choice := (Config.ctxVa d.vdid netid r).toNat / 64 * 64
  (choice :: s.ctxCands d 4 (d.rootEp * Config.localBytes + d.rootAddr) 0).findSome? (fun va =>
    (s.ctxAt d va).map (fun a => (BitVec.ofNat 64 va, a)))

/-- The process of a rank at its place (R165, R167, R370). -/
def newProc (d : VDev) (m : List Byte) (i : Image) (r t base : Nat) (args : List Word) (ctx : Word × Nat) : Proc :=
  let b := i.procAt r
  let k := i.kernelOf r
  { pid := ⟨lmNetid m, r⟩, vdid := d.vdid, status := .staged, tile := t, kernel := k, kbase := base, klen := i.tmLen k
    entry := field i (i.kernAt k + 0x10) 4
    safeTab := (upTo (i.nsafe k)).map (i.safeEntry k)
    ports := (upTo 8).map (fun p =>
      let w := i.portWord r p
      if w = 0xFFFF then none else some ⟨w % 2 ^ 15, w.testBit 15⟩)
    seed := BitVec.ofNat 64 (field i (b + 8) 8)
    args := args
    level := BitVec.ofNat 4 (Nat.min (field i (b + 6) 1) d.ceil)
    steeplim := if field m 0x30 4 = 0 then BitVec.allOnes 32 else BitVec.ofNat 32 (field m 0x30 4)
    quantum := BitVec.ofNat 48 (field m 0x34 4)
    ctxptr := ctx.1, ctxphys := ctx.2
    gen := 0, switches := 0, charge := 0, held := 0, capture := Capture.zero, stopDue := false, binds := [], issued := false }

/-- The arguments of a rank (R366). -/
def State.argsOf (s : State) (d : VDev) (table r : Nat) : List Word :=
  if table = 0 then List.replicate 8 0
  else
    let bs := s.engineBytes d (table + 64 * r) 64
    (upTo 8).map (fun j => BitVec.ofNat 64 (field bs (8 * j) 8))

/-- A kernel block loaded: the image's bytes, zeros to its length, every granule empty (R118, R372). -/
def State.loadBlock (s : State) (t base : Nat) (i : Image) (k : Nat) : State :=
  let key := tmKey t base
  let bs := (List.drop (field i (i.kernAt k) 8) i).take (i.imageLen k)
  let s := s.tmStoreKey key (bs ++ List.replicate (i.tmLen k - bs.length) 0)
  { s with tmFull := setClear (key / 64) ((i.tmLen k + 63) / 64) s.tmFull }

/-- A rank of an accepted message placed on the best eligible tile, its ring places and its entry in the network's tables;
nothing where no tile has room, or no address of the device can hold its context (R370, R371). -/
def State.placeRank (s : State) (d : VDev) (w : Waiting) (r : Nat) : Option State :=
  let i : Image := w.image
  let netid := lmNetid w.msg
  let place := fun t => placeBlock s.ticks r t (s.tmUsed t) (i.tmLen (i.kernelOf r)) (i.rings r)
  match s.bestTile (d.tiles.filter (fun t => (s.tile t).open? && (place t).isSome)), s.ctxOf d netid r with
  | some t, some ctx => match place t with
    | none => none
    | some (base, rings) =>
      let q := newProc d w.msg i r t base (w.args.getD r []) ctx
      let s := s.loadBlock t base i (i.kernelOf r)
      let s := { s with procs := s.procs ++ [q] }
      some (s.mapNet netid (fun n => { n with
        chans := rings.foldl (fun (l : List Chan) cb => l.modify cb.1 (fun c => { c with ring := .tile t cb.2 })) n.chans
        entries := n.entries.set r (s.placedEntry t) }))
  | _, _ => none

/-- Every rank of an accepted message placed in increasing order. -/
def State.placeRanks (s : State) (d : VDev) (w : Waiting) (cnt : Nat) : Option State :=
  (upTo cnt).foldl (fun (o : Option State) k => o.bind (fun s => s.placeRank d w (lmRankLo w.msg + k))) (some s)

/-- A network as a message stages it. -/
def newNet (s : State) (d : VDev) (m : List Byte) (i : Image) : Network :=
  { netid := lmNetid m, vdid := d.vdid, digest := i.digest, nproc := i.nproc
    chans := (upTo i.nchan).map i.chan
    groups := (upTo i.ngroup).map i.group
    entries := List.replicate i.nproc 0x200000000#64
    rankLo := lmRankLo m, rankCnt := lmRankCnt m i.nproc, started := false, startAt := none
    caddyVa := BitVec.ofNat 64 (lmCaddy m), caddyLen := lmCaddyLen m, caddyUsed := 0
    argsVa := BitVec.ofNat 64 (lmArgs m), statusVa := BitVec.ofNat 64 (lmStatus m), statusDue := false
    changedAt := s.time, deadlockTold := false }

/-! ### Start (R375, R377) -/

/-- A staged process joins the tail of its level. -/
def State.joinQueue (s : State) (p : Pid) : State :=
  match s.proc? p with
  | some q => match q.status with
    | .staged => (s.mapProc p (fun q => { q with status := .ready false })).enqueue q.tile p q.level false
    | _ => s
  | none => s

/-- The processes of a network on this package, in increasing rank. -/
def Network.pids (n : Network) : List Pid := (upTo n.rankCnt).map (fun k => ⟨n.netid, n.rankLo + k⟩)

/-- A staged network started by a message: at once, or when TIME reaches START. -/
def State.startNet (s : State) (m : List Byte) (n : Network) : State :=
  let at_ : Option Word := if lmTimed m then some (BitVec.ofNat 64 (field m 0x10 8)) else none
  let s := s.mapNet n.netid (fun n => { n with
    started := true, startAt := at_, statusVa := BitVec.ofNat 64 (lmStatus m), statusDue := true, changedAt := s.time })
  if at_.all (fun t => decide (t.toNat ≤ s.time.toNat)) then (n.pids).foldl (fun (s : State) p => s.joinQueue p) s else s

/-! ### Launching (R364 to R370) -/

/-- Whether launches for a device are held: a migration of it stops its processes (R404). -/
def State.launchHeld (s : State) (v : Nat) : Bool :=
  s.migrations.any (fun g => g.vdid == v && decide (g.phase ≠ .rounds))

/-- The ranks of a network that the supervisor ended while its message waited, ended (R384). -/
def State.endDoomed (s : State) (d : VDev) (netid : Nat) : State :=
  (d.doomed.filter (fun p => p.netid == netid)).foldl (fun (s : State) p => s.endProc p .endRequest 0 0)
    (s.mapVdev d.vdid (fun d => { d with doomed := d.doomed.filter (fun p => p.netid != netid) }))

/-- A message that the engine accepts, with what it names (R369). -/
def State.accepted (s : State) (d : VDev) (m : List Byte) : Waiting :=
  let i := s.imageAt d (lmImage m)
  ⟨m, true, i, (upTo i.nproc).map (s.argsOf d (lmArgs m))⟩

/-- An accepted message placed in a device: nothing where it must wait. -/
def State.stage (s : State) (d : VDev) (w : Waiting) : Option State :=
  if s.launchHeld d.vdid then none
  else
    let n := newNet s d w.msg w.image
    match { s with nets := s.nets ++ [n] }.placeRanks d w n.rankCnt with
    | none => none
    | some t =>
      let t := t.mapNet n.netid (fun n => { n with groups := n.groups.map (fun g => Group.choose g n (t.homeEp d.vdid)) })
      let t := t.endDoomed d n.netid
      if lmStage w.msg then some (t.status d n.netid (lmStatus w.msg) 0 n.rankCnt) else some (t.startNet w.msg n)

/-- A GO message in a device. -/
def State.go (s : State) (d : VDev) (m : List Byte) : State :=
  match s.goFault d m, s.net? (lmNetid m) with
  | some f, _ => (s.launchWalks d m).status d (lmNetid m) (lmStatus m) f.1 f.2
  | none, some n =>
    let s := s.launchWalks d m
    let s := (n.pids).foldl (fun (s : State) p => s.mapProc p (fun q => { q with args := s.argsOf d (lmArgs m) p.rank })) s
    s.startNet m n
  | none, none => s

/-- A message put behind those of its device that wait. -/
def State.keep (s : State) (v : Nat) (w : Waiting) : State := s.mapVdev v (fun d => { d with waiting := d.waiting ++ [w] })

/-- A launch message for a device: held, done, refused, or kept until there is room (R369, R404). -/
def State.launch (s : State) (v : Nat) (m : List Byte) : State :=
  if s.power ≠ .ready then s
  else match s.vdev? v with
    | none => s
    | some d =>
      if s.launchHeld v then s.keep v ⟨m, false, [], []⟩
      else if lmGo m && !lmStage m then s.go d m
      else match s.stageFault d m with
        | some f => (s.launchWalks d m).status d (lmNetid m) (lmStatus m) f.1 f.2
        | none =>
          let t := s.launchWalks d m
          (t.stage d (t.accepted d m)).getD (t.keep v (t.accepted d m))

/-- The waiting message at a place of a device's list goes on, where it need no longer wait: an accepted one finds room, one
that was held is taken up as on its arrival. -/
def State.resumeAt (s : State) (d : VDev) (i : Nat) : Option State :=
  (d.waiting[i]?).bind (fun w =>
    let rest := d.waiting.eraseIdx i
    let t := s.mapVdev d.vdid (fun d => { d with waiting := rest })
    if w.accepted then t.stage { d with waiting := rest } w
    else if s.launchHeld d.vdid then none
    else some (t.launch d.vdid w.msg))

/-- The oldest waiting message that no longer has to wait goes on. -/
def State.resumeWaiting (s : State) : State :=
  (s.vdevs.findSome? (fun d => (upTo d.waiting.length).findSome? (s.resumeAt d))).getD s

/-- LAUNCH_WAIT_RESUME (R369). -/
def execLaunchWaitResume (s : State) : Out := .next s.resumeWaiting

/-- Whether a channel is a launch channel (R365). -/
def Chan.isLaunch (c : Chan) : Bool := decide (c.cons = .host 0xFFFF)

/-- The placement engine takes the oldest slot of a launch channel, if one holds a slot. -/
def State.pumpLaunch (s : State) : State :=
  match s.nets.findSome? (fun n => (n.chans.mapIdx (fun i c => (n, i, c))).findSome? (fun x =>
      if x.2.2.isLaunch then (match x.2.2.ring with
        | .host (m :: rest) => some (x.1, x.2.1, m, rest)
        | _ => none) else none)) with
  | some (n, i, m, rest) =>
    ((s.mapChan n.netid i (fun c => { c with ring := .host rest })).chanTake n.netid i).launch n.vdid m
  | none => s

/-- LAUNCH_CHANNEL_CLOSE (R365): the token is taken, and nothing is placed. -/
def execLaunchChannelClose (netid chan : Nat) (s : State) : Out :=
  .next (match s.chan? netid chan with
    | some c => if c.isLaunch ∧ c.atToken ∧ c.readable then s.chanTake netid chan else s
    | none => s)

/-- PROCESS_START (R375). -/
def execProcessStart (netid rank : Nat) (s : State) : Out :=
  .next (match s.net? netid with
    | none => s
    | some n =>
      if n.started ∧ n.startAt.all (fun t => decide (t.toNat ≤ s.time.toNat)) then s.joinQueue ⟨netid, rank⟩ else s)

/-- The status records of started networks whose ranks have all issued their first instruction, or have ended before
it (R369). -/
def State.statusSweep (s : State) : State :=
  s.nets.foldl (fun (s : State) n =>
    match s.vdev? n.vdid with
    | some d =>
      if n.statusDue && (n.pids).all (fun p => (s.proc? p).all (fun q => q.issued || !q.live)) then
        (s.mapNet n.netid (fun n => { n with statusDue := false })).status d n.netid n.statusVa.toNat 0 n.rankCnt
      else s
    | none => s) s

/-! ### The deadlock sentinel (R264, R380 to R382) -/

/-- A process's state for the sentinel; what a blocked one waits on. -/
inductive Standing where
  | active | waiting | ended
  | write (chan : Nat)
  | read (wait : Nat)
deriving DecidableEq, Repr

/-- Whether a process can go no further than another party lets it. -/
def Standing.blocked : Standing → Bool
  | .write _ | .read _ => true
  | _ => false

/-- Whether LDSYNC or VLDSYNC of the selected hart still finds an empty granule. -/
def State.syncEmpty (s : State) : Bool :=
  match s.hart.status with
  | .blocked (.ldsync e d ea n r) => decide (s.emptyCovered (.ldsync e d ea n r) ≠ 0)
  | .blocked (.vldsync e d a p es) => decide (s.emptyCovered (.vldsync e d a p es) ≠ 0)
  | _ => false

/-- The standing of a process that waits. -/
def State.standWait (s : State) (q : Proc) (h : Option Hart) (w : Wait) : Standing :=
  let on := fun (port : BitVec 3) (write : Bool) =>
    if s.waitOver q w then Standing.active
    else match s.portChan q port.toNat with
      | some (_, i, c) => if write then (if c.full then .write i else .active) else .read i
      | none => .active
  match w with
  | .crd _ _ p => on p false
  | .crdm _ _ p _ => on p false
  | .vcrd _ _ p => on p false
  | .cwr _ p => on p true
  | .cwrm _ p _ => on p true
  | .vcwr _ p => on p true
  | .cclose p => on p true
  | .ldsync _ _ ea _ _ => match h with
    | some h => if (s.select h.id).syncEmpty then .read ea.toNat else .active
    | none => .active
  | .vldsync _ _ a _ _ => match h with
    | some h => if (s.select h.id).syncEmpty then .read ((s.select h.id).opA a).toNat else .active
    | none => .active
  | .dgrant _ _ _ g => .read g
  | .barrier g => match s.group? q.pid.netid g with
    | some (n, gr) => if gr.ready n || !gr.leavers.isEmpty then .active else .read g
    | none => .active
  | .joinl => match h with
    | some h => if h.joined.isSome then .active else .read 0
    | none => .active
  | .waitt _ => .waiting
  | .reply _ _ _ _ _ _ _ _ | .pops _ _ _ _ _ | .sunb _ | .txEntry _ | .vstm _ _ _ _ _ _ | .tlbinv _ => .active

/-- The standing of a hart of a process. -/
def State.standHart (s : State) (q : Proc) (h : Hart) : Standing :=
  match h.status with
  | .blocked w => if h.priv = .p then s.standWait q (some h) w else .active
  | _ => .active

/-- Whether the rank entry of a process says that it is in transit (R374). -/
def State.transit (s : State) (p : Pid) : Bool := (s.net? p.netid).any (fun n => entryTransit (n.entry p.rank))

/-- The standing of a process; one in transit is active (R380). In the forked state it is blocked only when both harts are,
and on a write if either is (R264). -/
def State.standing (s : State) (q : Proc) : Standing :=
  match q.status with
  | .ended _ => .ended
  | .switchedOut w => if s.transit q.pid then .active else s.standWait q none w
  | .staged | .ready _ => .active
  | .onHart _ =>
    let l := (s.harts.filter (fun h => h.pid == some q.pid)).map (s.standHart q)
    match l.find? (fun x => !x.blocked) with
    | some x => x
    | none => (l.find? (fun x => match x with | .write _ => true | _ => false)).getD (l.headD .active)

/-- The standing of a rank on another package, as its die last reported it to the home (R380): a free value that holds
until the next report. -/
def Network.reported (n : Network) (r : Nat) : Standing :=
  let x := Config.remoteStanding n.netid r n.changedAt.toNat
  if entryEnded (n.entry r) then .ended
  else if entryTransit (n.entry r) then .active
  else match x % 4 with
    | 0 => .active
    | 1 => .waiting
    | 2 => .read (x / 4)
    | _ =>
      let l := (upTo n.chans.length).filter (fun i => match n.chans[i]? with
        | some c => decide (c.prod = .rank r) && c.full && (match c.cons with | .rank _ => true | .host _ => false)
        | none => false)
      match l[x / 4 % Nat.max l.length 1]? with
      | some i => .write i
      | none => .active

/-- The standings of a network's processes as its home knows them, by rank. -/
def State.standings (s : State) (n : Network) : List (Nat × Standing) :=
  (upTo n.nproc).filterMap (fun r =>
    if n.mine r then (s.proc? ⟨n.netid, r⟩).map (fun q => (r, s.standing q)) else some (r, n.reported r))

/-- Whether a calendar of a network is owed: every member has posted, and one has no calendar yet. -/
def Network.owed (n : Network) : Bool :=
  n.groups.any (fun g => (g.openSeq n).isSome && g.members.any (fun m => m.exch.any (fun x => x.calendar.isNone)))

/-- Whether an asynchronous write of a network is pending, DSEND's bytes included (R137). -/
def State.netPending (s : State) (n : Network) : Bool :=
  s.asyncs.any (fun a => (a.pid.map (·.netid)) == some n.netid) ||
  n.groups.any (fun g => g.members.any (fun m => m.exch.any (fun x => !x.flights.isEmpty || !x.wire.isEmpty)))

/-- Whether a blocked operation involves a channel with a host end. -/
def State.hostInvolved (s : State) (n : Network) : Bool :=
  let hostEnd := fun (c : Chan) => (match c.prod with | .host _ => true | _ => false) ||
    (match c.cons with | .host _ => true | _ => false)
  let waits := s.harts.filterMap (fun h => match h.status, h.pid with
    | .blocked w, some p => if p.netid = n.netid then some (p, w) else none
    | _, _ => none) ++ s.procs.filterMap (fun q => match q.status with
    | .switchedOut w => if q.pid.netid = n.netid then some (q.pid, w) else none
    | _ => none)
  waits.any (fun pw => match s.proc? pw.1 with
    | none => false
    | some q => match pw.2 with
      | .crd _ _ p | .vcrd _ _ p | .cwr _ p | .vcwr _ p | .cclose p => (s.portChan q p.toNat).any (fun x => hostEnd x.2.2)
      | .crdm _ _ p _ | .cwrm _ p _ => (s.portChan q p.toNat).any (fun x => hostEnd x.2.2)
      | _ => false)

/-- Report kind 4, with some rank's entry first. -/
def deadlockBody (sub : Nat) (first : Option Nat) (l : List (Nat × Standing)) : List Byte :=
  let ent := fun (x : Nat × Standing) => match x.2 with
    | .write c => leBytes 4 x.1 ++ leBytes 1 1 ++ leBytes 3 0 ++ leBytes 8 c
    | .read w => leBytes 4 x.1 ++ leBytes 1 2 ++ leBytes 3 0 ++ leBytes 8 w
    | _ => leBytes 4 x.1 ++ leBytes 1 3 ++ leBytes 3 0 ++ leBytes 8 0
  let l := l.filter (fun x => x.2.blocked)
  let head := l.filter (fun x => match first with | some c => decide (x.2 = .write c) | none => false)
  let rest := l.filter (fun x => !head.contains x)
  leBytes 1 sub ++ leBytes 3 0 ++ leBytes 4 l.length ++ (head ++ rest).flatMap ent

/-- The state with a deadlock told. -/
def State.tellDeadlock (s : State) (n : Network) (sub : Nat) (first : Option Nat) (l : List (Nat × Standing)) : State :=
  (s.report n.vdid 4 0 n.netid (deadlockBody sub first l)).mapNet n.netid (fun n => { n with deadlockTold := true })

/-- The channel that the sentinel grows: the smallest ring, ties to the lowest index. -/
def Network.smallest (n : Network) (l : List Nat) : Option Nat :=
  l.foldl (fun (b : Option Nat) c =>
    let size := fun (i : Nat) => ((n.chans[i]?).map Chan.ringBytes).getD 0
    match b with
    | none => some c
    | some d => if size c < size d ∨ (size c = size d ∧ c < d) then some c else some d) none

/-- The ranges of the caddy that rings of a network occupy, by offset and length. -/
def Network.caddyRings (n : Network) : List (Nat × Nat) :=
  n.chans.filterMap (fun c => match c.ring with
    | .caddy va _ => some ((va - n.caddyVa).toNat, c.ringBytes)
    | _ => none)

/-- The lowest 64-byte-aligned offset of the caddy at which a ring of some bytes meets no ring of the network: it is 0 or
the end of one. -/
def Network.caddyPlace (n : Network) (len : Nat) : Nat :=
  let l := n.caddyRings
  (((0 :: l.map (fun r => (r.1 + r.2 + 63) / 64 * 64)).filter (fun o => !l.any (fun r => overlaps o len r.1 r.2))).min?).getD
    n.caddyLen

/-- A channel grown into the caddy (R382): k + 1, each unread slot at its place in the new ring, with its poison. Nothing
where no growth can be made. -/
def State.grow (s : State) (n : Network) (i : Nat) (c : Chan) : Option State :=
  let len := 2 * c.ringBytes
  let off := n.caddyPlace len
  match s.vdev? n.vdid with
  | none => none
  | some d =>
    if n.caddyLen < off + len ∨ 30 < c.k + 1 then none
    else match s.engineRange d .rw (n.caddyVa.toNat + off) len with
      | .error _ => none
      | .ok l =>
        let va := n.caddyVa + BitVec.ofNat 64 off
        let c' := { c with k := c.k + 1, ring := .caddy va (physIn l va.toNat) }
        let s := s.engineUse d .rw l
        let t := (upTo (c.wr - c.rd).toNat).foldl (fun (t : State) j =>
          let idx := c.rd + BitVec.ofNat 32 j
          if c.token = some idx then t
          else
            let r := s.slotRead n c idx
            let ps := physRange l (va.toNat + c'.slotOff idx) c.slotBytes
            r.2.foldl (fun (t : State) w => match (ps.drop (8 * w)).head? with
              | some p => t.poisonGm (p.addr / 64) n.netid
              | none => t) (t.gmScatter n.netid ps r.1)) s
        let t := t.mapNet n.netid (fun n => { n with caddyUsed := Nat.max n.caddyUsed (off + len), changedAt := s.time, deadlockTold := false })
        some ((t.mapChan n.netid i (fun _ => c')).wakeReady)

/-- SENTINEL_CHECK (R381): at the network's home, once nothing has changed for 50 µs, or for 500 µs where the network
spans packages. -/
def execSentinelCheck (netid : Nat) (s : State) : Out :=
  .next (match s.net? netid with
    | none => s
    | some n =>
      let l := s.standings n
      let quiet := if n.rankCnt = n.nproc then 50000 else 500000
      if !n.mine 0 || n.deadlockTold || l.all (fun x => decide (x.2 = .ended)) ||
          l.any (fun x => decide (x.2 ≠ .ended) && !x.2.blocked) || s.netPending n || n.owed || s.hostInvolved n ||
          decide (s.time.toNat < n.changedAt.toNat + quiet) then s
      else match n.smallest (l.filterMap (fun x => match x.2 with | .write c => some c | _ => none)) with
        | none => s.tellDeadlock n 1 none l
        | some c => match n.chans[c]? with
          | none => s
          | some ch => (s.grow n c ch).getD (s.tellDeadlock n 2 (some c) l))

/-! ### Completion of a network (R31, R306, R458) -/

/-- A rank's 16 bytes of the completion report. -/
def State.completionEntry (s : State) (netid r : Nat) : List Byte :=
  match s.proc? ⟨netid, r⟩ with
  | some q =>
    let fl := match q.status with
      | .ended e => (if e.lost then 1 else 0) + (match e with
        | .endRequest | .haltAtS | .supervisorFault | .launchConflict => 2
        | _ => 0)
      | _ => 0
    leBytes 8 q.charge ++ leBytes 1 fl ++ leBytes 7 0
  | none => leBytes 8 (Config.remoteCharge netid r) ++ leBytes 1 (Config.remoteFlags netid r % 4) ++ leBytes 7 0

/-- Report kind 3. -/
def State.completionBody (s : State) (n : Network) : List Byte :=
  let es := (upTo n.nproc).map (s.completionEntry n.netid)
  leBytes 4 n.nproc ++ leBytes 4 (es.filter (fun e => (field e 8 1).testBit 0)).length ++ es.flatten

/-- Whether a network is over: every rank has ended, and no write of its processes is pending. -/
def State.netOver (s : State) (n : Network) : Bool :=
  (upTo n.nproc).all (fun r => entryEnded (n.entry r)) && !s.netPending n

/-- A network taken away with its processes. -/
def State.dropNet (s : State) (netid : Nat) : State :=
  { s with nets := s.nets.filter (fun n => n.netid != netid), procs := s.procs.filter (fun q => q.pid.netid != netid) }

/-- A tile without a device, its memory zeroed (R393, R396). -/
def State.freeTile (s : State) (t : Nat) : State :=
  let k := tmKey t 0
  let tl := s.tile t
  { s with
    tm := Memory.clear k Config.tmBytes s.tm
    tmFull := setClear (k / 64) (Config.tmBytes / 64) s.tmFull
    tmPois := setClear (k / 8) (Config.tmBytes / 8) s.tmPois }.setTile t { tl with
      vdid := none, hwdog := 10000, tvec := 0, handlerBase := 0, handlerLen := 0, tlb := [], walks := []
      queue := Vector.replicate 16 [] }

/-- Report kind 1 on the management MAC or to a device's supervisor (R457). -/
def answerBody (result detail : Nat) (data : List Byte) : List Byte := leBytes 4 result ++ leBytes 4 0 ++ leBytes 8 detail ++ data

/-- A device whose destroy request waits is destroyed once no network of it is left: its keys erased, the memory of its
tiles zeroed, its resources free (R396). -/
def State.tryDestroy (s : State) (v : Nat) : State :=
  match s.vdev? v with
  | none => s
  | some d => match d.destroyTag with
    | none => s
    | some tag =>
      if s.nets.any (fun n => n.vdid == v) then s
      else
        let s := { s with keySlots := s.keySlots.filter (fun k => k.1 == 0 || !d.keyMap.contains k.1) }
        let s := d.tiles.foldl (fun (s : State) t => s.freeTile t) s
        { s with
          vdevs := s.vdevs.filter (fun d => d.vdid != v)
          conns := s.conns.filter (fun c => c.vdid != v)
          unsent := s.unsent.filter (fun x => x.1 != v)
          mcasts := s.mcasts.filter (fun g => g.vdid != v) }.reportMgmt 1 tag (answerBody 0 0 [])

/-- NETWORK_COMPLETION (R306): the home reports; the other packages release the network. -/
def execNetworkCompletion (netid : Nat) (s : State) : Out :=
  .next (match s.net? netid with
    | none => s
    | some n =>
      if s.netOver n then
        let s := if n.mine 0 then s.report n.vdid 3 0 netid (s.completionBody n) else s
        (s.dropNet netid).tryDestroy n.vdid
      else s)

end Sys2Proof.Machine
end

