-- ==== Sys2Proof/Machine/HostPort.lean ====
section
/-! DEFINITION. The host port: acknowledgements, resending, launch messages and channel slots from hosts, and their reads and
writes of global memory (R142, R367, R388, R451 to R454, R483, R484). -/

namespace Sys2Proof.Machine

/-! ### Connections (R451) -/

/-- The MAC identity of a connection: the low 48 bits of its identifier; the host's address and port lie above. -/
def connMac (c : Nat) : Nat := c % 2 ^ 48

/-- Whether a connection to a device, or to the management MAC, which the device number 0xFFFF names, exists or may be
opened: on a MAC identity of the device, which carries at most 64. -/
def State.mayOpen (s : State) (c vdid : Nat) : Bool :=
  (s.conn? c).isSome ||
  ((vdid == 0xFFFF || (s.vdev? vdid).any (fun d => d.macs.contains (connMac c))) &&
    decide ((s.conns.filter (fun x => x.vdid == vdid && (vdid == 0xFFFF || connMac x.id == connMac c))).length < 64))

/-- The connection of a device that a message comes on, opened by its first message. -/
def State.openConn (s : State) (c vdid : Nat) : State :=
  if (s.conn? c).isSome || !s.mayOpen c vdid then s
  else { s with conns := s.conns ++ [⟨c, vdid, 0, 0, [], 0, [], [], 0⟩] }

/-- The state with a message of a device received on its connection. -/
def State.counted (s : State) (c vdid : Nat) : State :=
  (s.openConn c vdid).mapConn c (fun x => if x.vdid = vdid then { x with rxSeq := x.rxSeq + 1 } else x)

/-- A message sent on a connection, where that is still open. -/
def State.sendOn (s : State) (c cls ep : Nat) (payload : List Byte) : State :=
  match s.conn? c with
  | none => s
  | some x => s.sendTo x ⟨0, cls, ep, none, payload⟩

/-- The slot, or the token, of an acknowledged class-3 message freed (R454). -/
def State.freeSlot (s : State) (m : OutMsg) : State :=
  match m.chan with
  | none => s
  | some (n, i) =>
    let s := if m.payload.isEmpty then s else s.mapChan n i (fun c => { c with ring := match c.ring with
      | .host l => .host l.tail
      | r => r })
    s.chanTake n i

/-- What a cumulative acknowledgement ends (R451). -/
def State.ackUpTo (s : State) (conn ack : Nat) : State :=
  match s.conn? conn with
  | none => s
  | some x =>
    let done := x.unacked.filter (fun m => decide (m.seq ≤ ack))
    let s := s.mapConn conn (fun x => { x with unacked := x.unacked.filter (fun m => decide (ack < m.seq)), resends := 0 })
    done.foldl State.freeSlot s

/-- GHT_ACK (R451): cumulative. -/
def execGhtAck (conn ack : Nat) (s : State) : Out := .next (s.ackUpTo conn ack)

/-- GHT_RETRANSMIT (R451): what is unacknowledged is sent again. -/
def execGhtRetransmit (conn : Nat) (s : State) : Out :=
  .next (match s.conn? conn with
    | none => s
    | some x =>
      if x.unacked.isEmpty then s
      else { s.mapConn conn (fun x => { x with resends := x.resends + 1, acked := x.ack }) with
        sent := s.sent ++ (x.unacked.flatMap (fun m => m.frames x.vdid x.ack)).map (fun f => (conn, f)) })

/-- Whether a message is sent again on another connection after a reset: a slot, a token or a report. A reply to an access
goes with the connection that the access came on. -/
def OutMsg.lasting (m : OutMsg) : Bool := m.cls == 3 || m.cls == 9 || m.cls == 10

/-- GHT_CONNECTION_RESET (R451): the connection is gone, and the management MAC is told. R458 gives that report no kind.
DESIGN CHOICE: slots, tokens and reports that were not acknowledged wait for the next connection of the device. -/
def execGhtConnectionReset (conn : Nat) (s : State) : Out :=
  .next (match s.conn? conn with
    | none => s
    | some x =>
      if x.unacked.isEmpty then s
      else { s with
        conns := s.conns.filter (fun c => c.id != conn)
        unsent := (x.unacked.filter OutMsg.lasting).map (fun m => (x.vdid, m)) ++ s.unsent }.reportMgmt 0 0 (leBytes 8 conn))

/-! ### What the port sends by itself (R451, R455) -/

/-- The bytes of a report: its header and its body (R455). -/
def Report.bytes (r : Report) : List Byte :=
  leBytes 2 r.kind ++ leBytes 2 0 ++ leBytes 4 r.tag ++ leBytes 4 r.netid ++ leBytes 4 r.body.length ++ r.body

/-- A report put into a message: class 10 on the management MAC, class 9 to the device's host supervisor (R453).
DESIGN CHOICE: its ENDPOINT field is 0. -/
def State.sendReport (s : State) (r : Report) : State :=
  s.sendMsg (if r.management then 0xFFFF else r.vdid) (if r.management then 10 else 9) 0 none r.bytes

/-- A message that waits, sent on the first connection of its device; it goes on waiting without one, and ends with its
device.
DESIGN CHOICE: the first connection. -/
def State.sendWaiting (s : State) (x : Nat × OutMsg) : State :=
  match s.conns.find? (fun c => c.vdid == x.1) with
  | some c => s.sendTo c x.2
  | none => if x.1 = 0xFFFF ∨ (s.vdev? x.1).isSome then { s with unsent := s.unsent ++ [x] } else s

/-- An acknowledgement alone, where a connection owes one (R452, R453). -/
def State.sendAck (s : State) (x : Conn) : State :=
  if x.acked < x.ack then
    { s.mapConn x.id (fun x => { x with acked := x.ack }) with
      sent := s.sent ++ [(x.id, frameHead 0 x.vdid 0 0 x.ack 0 0x8000)] }
  else s

/-- What the port sends in a step: the reports not yet sent, the messages that wait, acknowledgements. -/
def State.pumpOut (s : State) : State :=
  let s := (s.reports.drop s.reportsSent).foldl State.sendReport s
  let s := s.unsent.foldl State.sendWaiting { s with reportsSent := s.reports.length, unsent := [] }
  s.conns.foldl State.sendAck s

/-! ### Channel slots from hosts (R24, R30, R374, R454, R483) -/

/-- The network and index of the channel whose producer end is bound to a host endpoint of a device. -/
def State.hostChan (s : State) (vdid ep : Nat) : Option (Network × Nat × Chan) :=
  (s.nets.filter (fun n => n.vdid == vdid)).findSome? (fun n =>
    (n.chans.mapIdx (fun i c => (n, i, c))).find? (fun x => decide (x.2.2.prod = .host ep)))

/-- Report kind 15: a slot discarded. -/
def State.discard (s : State) (m : HostMsg) (reason : Nat) : State :=
  s.report m.vdid 15 0 0 (leBytes 2 m.endpoint ++ leBytes 1 reason ++ leBytes 5 0 ++ leBytes 8 m.seq)

/-- A class-2 slot: nothing where it has to wait. -/
def State.hostSlot (s : State) (m : HostMsg) : Option State :=
  match s.hostChan m.vdid m.endpoint with
  | none => some (s.discard m 3)
  | some (n, i, c) =>
    if c.closed then some (s.discard m 1)
    else if c.slotBytes < m.payload.length then some (s.discard m 2)
    else if n.writeWaits c then none
    else some (s.chanPut n.netid i m.payload)

/-- A class-2 message of length 0: the channel closed as CCLOSE closes it; nothing where it has to wait.
DESIGN CHOICE: at an endpoint bound to no producer end, or on a channel already closed, the message is performed with no
effect and no report; R483 names reports for slots alone. -/
def State.hostClose (s : State) (m : HostMsg) : Option State :=
  match s.hostChan m.vdid m.endpoint with
  | none => some s
  | some (n, i, c) => if c.closed then some s else if n.writeWaits c then none else some (s.chanClose n.netid i)

/-! ### Memory (R388, R484) -/

/-- RESULT of a refused access. -/
def XFault.result : XFault → Nat
  | .xlate => 1
  | .prot => 2

/-- The status of a refused access. -/
def refusal (e : XFault × Nat) : List Byte := leBytes 4 e.1.result ++ leBytes 4 0 ++ leBytes 8 e.2

/-- A class-4 write: checked whole, performed and answered. -/
def State.hostWrite (s : State) (m : HostMsg) : State :=
  let va := field m.payload 0 8
  let bs := m.payload.drop 8
  match s.vdev? m.vdid with
  | none => s
  | some d => match s.engineRange d .w va bs.length with
    | .error e => s.sendOn m.conn 7 m.endpoint (refusal e)
    | .ok l => (((s.engineUse d .w l).gmStoreRange l va bs)).sendOn m.conn 7 m.endpoint (leBytes 8 0)

/-- The bitmap of poisoned granules that a range touches, and the range's data with those granules zero.
DESIGN CHOICE: the bitmap has one bit for each granule touched, bit 0 of its first byte for the lowest, and is rounded up to
whole bytes with zeros; R453 gives neither its length nor its bit order. -/
def State.hostData (s : State) (l : List (Nat × TlbEntry × Phys)) (va n : Nat) : List Byte × List Byte :=
  let ps := physRange l va n
  let bad := fun (p : Phys) => setHas s.gmPois (p.addr / 64)
  let gs := upTo ((va + n + 63) / 64 - va / 64)
  let map := gs.foldl (fun v g => if (ps.zip (upTo n)).any (fun pj => (va + pj.2) / 64 == va / 64 + g && bad pj.1)
    then v + 2 ^ g else v) 0
  (ps.map (fun p => if bad p then 0 else s.gmByte (s.slotKey p.slot) p.addr), leBytes ((gs.length + 7) / 8) map)

/-- A class-5 read: checked whole and answered. A read of more than 8,192 bytes is none that R453 allows. -/
def State.hostRead (s : State) (m : HostMsg) : State :=
  let va := field m.payload 0 8
  let n := field m.payload 8 8
  if 8192 < n then s
  else match s.vdev? m.vdid with
    | none => s
    | some d => match s.engineRange d .r va n with
      | .error e => s.sendOn m.conn 6 m.endpoint (refusal e)
      | .ok l =>
        let r := s.hostData l va n
        (s.engineUse d .r l).sendOn m.conn 6 m.endpoint (leBytes 8 0 ++ r.1 ++ r.2)

/-! ### Order on a connection (R454) -/

/-- Classes of the messages that keep their order, as `Conn.held` names them: 1, 4, 5, and 2 with a payload or, as 3,
without. What reaches a device between step 5 and step 9 of its migration waits (R404). -/
def State.perform (s : State) (cls : Nat) (m : HostMsg) : Option State :=
  if s.holdsPeers m.vdid then none
  else match cls with
  | 1 => some (s.launch m.vdid m.payload)
  | 2 => s.hostSlot m
  | 3 => s.hostClose m
  | 4 => some (s.hostWrite m)
  | _ => some (s.hostRead m)

/-- A message received: performed once, in order; one that waits, or that comes behind one that waits, is held, and is
acknowledged only when it has been performed (R374, R454). -/
def State.receive (s : State) (cls : Nat) (m : HostMsg) : State :=
  if s.power ≠ .ready ∨ (s.vdev? m.vdid).all (·.forwarding) then s
  else
    let s := s.openConn m.conn m.vdid
    match s.conn? m.conn with
    | none => s
    | some x =>
      if x.vdid ≠ m.vdid ∨ m.seq ≠ x.rxSeq + x.held.length + 1 then s
      else
        let hold := s.mapConn m.conn (fun x => { x with held := x.held ++ [(cls, m)] })
        if x.held.isEmpty then ((s.counted m.conn m.vdid).perform cls m).getD hold
        else hold

/-- A held message that can be performed is, the oldest of its connection. -/
def State.pumpHeld (s : State) : State :=
  (s.conns.findSome? (fun x => match x.held with
    | [] => none
    | (cls, m) :: rest => (s.mapConn x.id (fun x => { x with held := rest, rxSeq := x.rxSeq + 1 })).perform cls m)).getD s

/-- A class-1 message (R453). -/
def launchMsg (h : LaunchHead) (msg : List Byte) : HostMsg := ⟨h.conn, h.vdid, 65535, h.seq, msg⟩

/-- LAUNCH_STAGE; a message with GO besides STAGE is invalid and refused. -/
def execLaunchStage (h : LaunchHead) (msg : List Byte) (s : State) : Out :=
  .next (if lmStage msg then s.receive 1 (launchMsg h msg) else s)

/-- LAUNCH_GO. -/
def execLaunchGo (h : LaunchHead) (msg : List Byte) (s : State) : Out :=
  .next (if lmGo msg && !lmStage msg then s.receive 1 (launchMsg h msg) else s)

/-- LAUNCH_STAGE_AND_START. -/
def execLaunchStageAndStart (h : LaunchHead) (msg : List Byte) (s : State) : Out :=
  .next (if !lmGo msg && !lmStage msg then s.receive 1 (launchMsg h msg) else s)

/-- HOST_CHANNEL_SLOT. -/
def execHostChannelSlot (m : HostMsg) (s : State) : Out := .next (s.receive (if m.payload.isEmpty then 3 else 2) m)
/-- HOST_CHANNEL_CLOSE. -/
def execHostChannelClose (m : HostMsg) (s : State) : Out := .next (s.receive 3 m)
/-- HOST_MEMORY_WRITE. -/
def execHostMemoryWrite (m : HostMsg) (s : State) : Out := .next (s.receive 4 m)
/-- HOST_MEMORY_READ. -/
def execHostMemoryRead (m : HostMsg) (s : State) : Out := .next (s.receive 5 m)

end Sys2Proof.Machine
end

