-- ==== Sys2Proof/Machine/Requests.lean ====
section
/-! DEFINITION. Requests of the host supervisor and of the owner: their headers and layouts, the answer, and each request's
effect, but for migration and checkpoints (R337, R359, R373, R384, R392 to R400, R425, R426, R429, R430, R434, R446, R455
to R457, R481). -/

namespace Sys2Proof.Machine

/-! ### Layouts (R455, R456) -/

/-- The layout of a request: whether it belongs to the management MAC, its body's length, and the body's fields that must
be zero or in range, by offset, with whether they fail. -/
structure Layout where
  mgmt : Bool
  len : List Byte → Nat
  tests : List Byte → List (Nat × Bool)

/-- A layout of fixed length. -/
def fixed (mgmt : Bool) (n : Nat) (tests : List Byte → List (Nat × Bool)) : Layout := ⟨mgmt, fun _ => n, tests⟩

/-- A length rounded up to a multiple of 8. -/
def up8 (n : Nat) : Nat := (n + 7) / 8 * 8

/-- A reserved field of n bytes. -/
def rsv (b : List Byte) (off n : Nat) : Nat × Bool := (off, field b off n != 0)

/-- Offsets of the parts of a create body behind its fixed 32 bytes. -/
def crTiles : Nat := 0x20
/-- REGIONS. -/
def crRegions (b : List Byte) : Nat := crTiles + up8 (2 * field b 0 2)
/-- MACS. -/
def crMacs (b : List Byte) : Nat := crRegions b + 32 * field b 2 1
/-- KEYS. -/
def crKeys (b : List Byte) : Nat := crMacs b + 8 * field b 3 1
/-- HANDLER. -/
def crHandler (b : List Byte) : Nat := crKeys b + up8 (2 * field b 4 1)

/-- The tiles that a create body names. -/
def createTiles (b : List Byte) : List Nat := (upTo (field b 0 2)).map (fun i => field b (crTiles + 2 * i) 2)
/-- Its regions. -/
def createRegions (b : List Byte) : List Region :=
  (upTo (field b 2 1)).map (fun i =>
    let o := crRegions b + 32 * i
    ⟨field b o 2, field b (o + 2) 2, field b (o + 8) 8, field b (o + 16) 8⟩)
/-- Its MAC addresses. -/
def createMacs (b : List Byte) : List Nat := (upTo (field b 3 1)).map (fun i => field b (crMacs b + 8 * i) 6)
/-- Its key map. -/
def createKeys (b : List Byte) : List Nat := (upTo (field b 4 1)).map (fun i => field b (crKeys b + 2 * i) 2)

/-- The tests of a create body (R393, R456). -/
def createTests (b : List Byte) : List (Nat × Bool) :=
  let nt := field b 0 2
  let hlen := field b 0x14 4
  let hbase := field b 0x18 4
  let hent := field b 0x1C 4
  let inRoot := (createRegions b).any (fun r => r.endpoint == field b 6 2 && decide (r.base ≤ field b 8 8) &&
    decide (field b 8 8 + 4096 ≤ r.base + r.size))
  [(0, nt == 0 || decide (2048 < nt)), (2, field b 2 1 == 0 || decide (64 < field b 2 1)),
   (3, field b 3 1 == 0 || decide (8 < field b 3 1)), (4, field b 4 1 == 0 || decide (8 < field b 4 1)),
   (5, decide (15 < field b 5 1)), (6, decide (8192 ≤ field b 6 2)),
   (8, decide (field b 8 8 % 4096 ≠ 0) || !inRoot),
   (0x14, decide (hlen % 4096 ≠ 0) || decide (hlen < 4096) || decide (65536 < hlen)),
   (0x18, decide (hbase % 4096 ≠ 0) || decide (Config.tmBytes < hbase + hlen)),
   (0x1C, decide (hent % 4 ≠ 0) || decide (hent < 256) || decide (hlen ≤ hent))] ++
  (upTo nt).map (fun i => (crTiles + 2 * i, decide (2048 ≤ field b (crTiles + 2 * i) 2))) ++
  [rsv b (crTiles + 2 * nt) (up8 (2 * nt) - 2 * nt)] ++
  (upTo (field b 2 1)).flatMap (fun i =>
    let o := crRegions b + 32 * i
    [(o + 2, decide (8192 ≤ field b (o + 2) 2)), rsv b (o + 4) 4, (o + 8, decide (field b (o + 8) 8 % 65536 ≠ 0)),
     (o + 16, decide (field b (o + 16) 8 % 65536 ≠ 0) || field b (o + 16) 8 == 0 ||
       decide (Config.localBytes < field b (o + 8) 8 + field b (o + 16) 8)), rsv b (o + 24) 8]) ++
  (upTo (field b 3 1)).map (fun i => rsv b (crMacs b + 8 * i + 6) 2) ++
  (upTo (field b 4 1)).map (fun i => (crKeys b + 2 * i, decide (4096 ≤ field b (crKeys b + 2 * i) 2))) ++
  [rsv b (crKeys b + 2 * field b 4 1) (up8 (2 * field b 4 1) - 2 * field b 4 1)]

/-- The layout of a request code. -/
def layoutOf : Nat → Option Layout
  | 1 => some (fixed false 8 (fun _ => []))
  | 2 => some (fixed false 8 (fun b => [(0, decide (1023 < field b 0 2)), (2, decide (6 < field b 2 1)), rsv b 3 1]))
  | 3 => some (fixed false 0 (fun _ => []))
  | 4 => some ⟨false, fun b => 8 + up8 (2 * field b 2 2), fun b =>
      let n := field b 2 2
      [(0, decide (4095 < field b 0 2)), (2, n == 0 || decide (1024 < n)), (4, decide (n ≤ field b 4 2)), rsv b 6 2] ++
      (upTo n).map (fun i => (8 + 2 * i, decide (1023 < field b (8 + 2 * i) 2))) ++ [rsv b (8 + 2 * n) (up8 (2 * n) - 2 * n)]⟩
  | 5 => some ⟨false, fun b => 40 + up8 (4 * field b 19 1) + 16 * field b 20 1, fun b =>
      let n := field b 19 1
      [(16, decide (1023 < field b 16 2)), (18, decide (1 < field b 18 1)), (20, decide (64 < field b 20 1)), rsv b 21 3,
       rsv b 28 4, (32, field b 18 1 == 0 && field b 32 8 != 0), rsv b (40 + 4 * n) (up8 (4 * n) - 4 * n)]⟩
  | 6 => some (fixed false 16 (fun _ => []))
  | 7 => some (fixed false 16 (fun b => [(8, decide (1023 < field b 8 2)), (10, decide (1023 < field b 10 2)), rsv b 12 4]))
  | 8 => some (fixed false 32 (fun _ => []))
  | 9 => some (fixed false 8 (fun b => [rsv b 4 4]))
  | 10 => some (fixed false 8 (fun _ => []))
  | 11 => some (fixed false 8 (fun b => [(2, decide (3 < field b 2 1)), rsv b 3 5]))
  | 12 => some (fixed false 16 (fun b => [rsv b 12 4]))
  | 13 => some (fixed false 8 (fun b => [rsv b 4 4]))
  | 14 => some (fixed false 8 (fun _ => []))
  | 32 => some ⟨true, fun b => crHandler b + field b 0x14 4, createTests⟩
  | 33 => some (fixed true 8 (fun b => [rsv b 4 4]))
  | 34 => some (fixed true 80 (fun b => [(0, decide (4095 < field b 0 2)), rsv b 2 6]))
  | 35 => some (fixed true 8 (fun b => [(0, decide (4095 < field b 0 2)), rsv b 2 6]))
  | 36 => some (fixed true 32 (fun _ => []))
  | 37 => some (fixed true 16 (fun _ => []))
  | 38 => some (fixed true 0 (fun _ => []))
  | 39 => some (fixed true 16 (fun b => [(0, decide (63 < field b 0 1)), rsv b 1 7,
      (8, decide (4 ≤ field b 8 1) || decide (field b 9 1 < 70) || decide (100 < field b 9 1) || field b 10 6 != 0)]))
  | 40 => some (fixed true 40 (fun _ => []))
  | 41 => some (fixed true 8 (fun b => [(0, decide (1023 < field b 0 2)), (2, decide (127 < field b 2 1)), rsv b 3 5]))
  | 42 => some ⟨true, fun b => b.length, fun _ => []⟩
  | _ => none

/-! ### Headers and answers (R455, R457) -/

/-- REQ of a request. -/
def reqCode (r : HostRequest) : Nat := field r.payload 0 2
/-- TAG. -/
def reqTag (r : HostRequest) : Nat := field r.payload 4 4
/-- The body. -/
def reqBody (r : HostRequest) : List Byte := r.payload.drop 16

/-- Report kind 1 in answer to a request. -/
def State.answer (s : State) (r : HostRequest) (result detail : Nat) (data : List Byte) : State :=
  if r.management then s.reportMgmt 1 (reqTag r) (answerBody result detail data)
  else s.report r.vdid 1 (reqTag r) 0 (answerBody result detail data)

/-- Whether a request comes on a connection that may carry it: the management MAC, or a connection of the device that the
header names. -/
def State.connOk (s : State) (r : HostRequest) (mgmt : Bool) : Bool :=
  r.management == mgmt && (mgmt || ((s.vdev? r.vdid).isSome && (s.conn? r.conn).all (fun c => c.vdid == r.vdid)))

/-- RESULT and DETAIL of a request that is answered with no other effect: an unknown code, the wrong connection, a header
or a body that breaks its layout. The owner's read of health words comes on the management MAC (R430). -/
def State.reqFault (s : State) (r : HostRequest) : Option (Nat × Nat) :=
  match layoutOf (reqCode r) with
  | none => some (3, reqCode r)
  | some l =>
    let b := reqBody r
    if !(s.connOk r l.mgmt || (reqCode r == 13 && r.management)) then some (3, reqCode r)
    else if field r.payload 2 2 ≠ 0 ∨ field r.payload 12 4 ≠ 0 ∨ field r.payload 8 4 ≠ b.length ∨ l.len b ≠ b.length then
      some (2, Config.malformedDetail s.ticks)
    else ((((l.tests b).filter (·.2)).map (·.1)).min?).map (fun o => (2, o))

/-- The connection of a request, with its message counted. -/
def State.countRequest (s : State) (r : HostRequest) : State :=
  if r.management then s.counted r.conn 0xFFFF
  else if (s.vdev? r.vdid).isNone then s else s.counted r.conn r.vdid

/-- Whether a request's connection exists or may be opened (R451). -/
def State.hears (s : State) (r : HostRequest) : Bool :=
  if r.management then s.mayOpen r.conn 0xFFFF else (s.vdev? r.vdid).isNone || s.mayOpen r.conn r.vdid

/-- A request of one code: answered as refused, or acted on. In recovery only a firmware update is answered (R481). -/
def State.onRequest (s : State) (r : HostRequest) (code : Nat) (act : State → State) : State :=
  if reqCode r ≠ code ∨ ¬(s.power = .ready ∨ (s.power = .recovery ∧ code = 42 ∧ r.management)) ∨ !s.hears r then s
  else
    let s := s.countRequest r
    match s.reqFault r with
    | some f => s.answer r f.1 f.2 []
    | none => act s

/-- UNKNOWN_REQUEST: a request that its header or its layout refuses. -/
def execUnknownRequest (r : HostRequest) (s : State) : Out :=
  .next (if s.power ≠ .ready ∨ !s.hears r then s
  else
    let s := s.countRequest r
    match s.reqFault r with
    | some f => s.answer r f.1 f.2 []
    | none => s)

/-! ### Supervisor requests -/

/-- The device that a supervisor's request names. -/
def State.reqDev (s : State) (r : HostRequest) (act : State → VDev → State) : State :=
  match s.vdev? r.vdid with
  | some d => act s d
  | none => s.answer r 3 (reqCode r) []

/-- Whether accesses in flight on a device's tiles hold up a shootdown. -/
def State.shootHeld (s : State) (x : Shoot) : Bool :=
  ((s.vdev? x.req.vdid).map (·.tiles)).getD [] |>.any (fun t => s.inFlight t x.page)

/-- The largest page that a device's tiles hold of an address. -/
def State.shootPage (s : State) (d : VDev) (va : Word) : PageSpan :=
  d.tiles.foldl (fun (p : PageSpan) t =>
    let q := s.pageOf t d.vdid va
    ⟨if p.size < q.size then q.base else p.base, Nat.max p.size q.size, q.leaves, Nat.max p.reach q.reach⟩)
    ⟨va.toNat / 4096 * 4096, 4096, [], 4096⟩

/-- SHOOTDOWN (R392): the answer comes once every tile of the device has completed. -/
def execShootdown (r : HostRequest) (s : State) : Out :=
  .next (s.onRequest r 1 (fun s => s.reqDev r (fun s d =>
    let va := BitVec.ofNat 64 (field (reqBody r) 0 8)
    let p := s.shootPage d va
    let s := d.tiles.foldl (fun (s : State) t => s.setTile t ((s.tile t).invalidate d.vdid va)) s
    let x : Shoot := ⟨p, r⟩
    if s.shootHeld x then { s with shoots := s.shoots ++ [x] } else s.answer r 0 0 [])))

/-- Every shootdown that nothing holds up any more answered. -/
def State.shootSweep (s : State) : State :=
  (s.shoots.filter (fun x => !s.shootHeld x)).foldl (fun (t : State) x => t.answer x.req 0 0 [])
    { s with shoots := s.shoots.filter s.shootHeld }

/-- The multicast groups that every member has accepted by this step (R446). -/
def State.mcastSweep (s : State) : State :=
  { s with mcasts := s.mcasts.map (fun m => if Config.groupAccepted s.ticks m.group then { m with usable := true } else m) }

/-- MULTICAST_GROUP (R446): this package's member accepts. -/
def execMulticastGroup (r : HostRequest) (s : State) : Out :=
  .next (s.onRequest r 4 (fun s =>
    let b := reqBody r
    let g := field b 0 2
    if s.mcasts.any (fun m => m.group == g) then s.answer r 1 (6 + g * 256) []
    else
      let ms := (upTo (field b 2 2)).map (fun i => field b (8 + 2 * i) 2)
      let m : McastGroup := ⟨r.vdid, g, field b 4 2, ms, ms.all (· == s.pkg)⟩
      { s with mcasts := s.mcasts ++ [m] }.answer r 0 0 []))

/-- A network of the device whose accepted message waits for room, by the message (R369, R384). -/
def State.waitingNet (s : State) (r : HostRequest) (netid : Nat) : Option Waiting :=
  (s.vdev? r.vdid).bind (fun d => d.waiting.find? (fun w => w.accepted && lmNetid w.msg == netid))

/-- A network whose message waits ended as a whole: the message goes, each of its ranks ends as one that was placed does, and
the network is over once the ranks on other packages are (R31, R384). -/
def State.endWaiting (s : State) (d : VDev) (w : Waiting) : State :=
  let netid := lmNetid w.msg
  let i : Image := w.image
  let n := newNet s d w.msg i
  let t := s.mapVdev d.vdid (fun d => { d with
    waiting := d.waiting.filter (fun x => !(x.accepted && lmNetid x.msg == netid)), doomed := d.doomed.filter (fun p => p.netid != netid) })
  let t := { t with
    nets := t.nets ++ [n]
    procs := t.procs ++ n.pids.map (fun p => { newProc d w.msg i p.rank (d.tiles.headD 0) 0 [] (0, 0) with klen := 0 }) }
  (n.pids.foldl (fun (t : State) p => t.endProc p .endRequest 0 0) t).status d netid (lmStatus w.msg) 0 0

/-- A known network of the device that a request comes from (R384). -/
def State.knownNet (s : State) (r : HostRequest) (netid : Nat) : Option Network :=
  (s.net? netid).filter (fun n => n.vdid == r.vdid)

/-- END_NETWORK (R384). -/
def execEndNetwork (r : HostRequest) (s : State) : Out :=
  .next (s.onRequest r 9 (fun s =>
    let n := field (reqBody r) 0 4
    match s.knownNet r n with
    | some _ => (s.endWhole n).answer r 0 0 []
    | none => match s.vdev? r.vdid, s.waitingNet r n with
      | some d, some w => (s.endWaiting d w).answer r 0 0 []
      | _, _ => s.answer r 4 n []))

/-- END_PROCESS (R384). DESIGN CHOICE: for a rank of a known network that no message has placed, RESULT 0 and no change. -/
def execEndProcess (r : HostRequest) (s : State) : Out :=
  .next (s.onRequest r 10 (fun s =>
    let n := field (reqBody r) 0 4
    let k := field (reqBody r) 4 4
    match s.knownNet r n with
    | some q => if q.nproc ≤ k then s.answer r 4 k [] else (s.endProc ⟨n, k⟩ .endRequest 0 0).answer r 0 0 []
    | none => match s.waitingNet r n with
      | some m =>
        if Image.nproc m.image ≤ k then s.answer r 4 k []
        else (s.mapVdev r.vdid (fun d => { d with doomed := ⟨n, k⟩ :: d.doomed })).answer r 0 0 []
      | none => s.answer r 4 n []))

/-- PARTITION (R33, R337). -/
def execPartition (r : HostRequest) (s : State) : Out :=
  .next (s.onRequest r 11 (fun s => s.reqDev r (fun s d =>
    let k := field (reqBody r) 0 2
    match d.tiles[k]? with
    | none => s.answer r 4 k []
    | some t =>
      if s.tileOccupied t then s.answer r 5 0 []
      else (s.repartition t (BitVec.ofNat 2 (field (reqBody r) 2 1))).answer r 0 0 [])))

/-- READ_RANK_ENTRIES (R373, R457). -/
def execReadRankEntries (r : HostRequest) (s : State) : Out :=
  .next (s.onRequest r 12 (fun s =>
    let b := reqBody r
    match s.knownNet r (field b 0 4) with
    | none => s.answer r 4 (field b 0 4) []
    | some n =>
      let lo := field b 4 4
      let cnt := Nat.min (lo + field b 8 4) n.nproc - lo
      s.answer r 0 cnt ((upTo cnt).flatMap (fun k => leBytes 8 (n.entry (lo + k)).toNat))))

/-- A tile's health word (R430). -/
def healthWord (t : Nat) (x : Tile) : Nat :=
  x.wear / 2 ^ 20 % 2 ^ 36 * 2 ^ 28 + Config.islandOf t % 64 * 2 ^ 16 + x.laneB.getD 0 % 32 * 2 ^ 11 +
  (if x.laneB.isSome then 2 ^ 10 else 0) + x.laneA.getD 0 % 32 * 2 ^ 5 + (if x.laneA.isSome then 16 else 0) +
  (if x.quarantined then 8 else 0) + x.health.code

/-- The health words of some of the tiles of a list, in answer to a request. -/
def State.healthOf (s : State) (r : HostRequest) (tiles : List Nat) : State :=
  let k := field (reqBody r) 0 2
  let n := field (reqBody r) 2 2
  if tiles.length < k + n then s.answer r 4 (Nat.max k tiles.length) []
  else s.answer r 0 n (((tiles.drop k).take n).flatMap (fun t => leBytes 8 (healthWord t (s.tile t))))

/-- READ_HEALTH (R430): of logical tiles of the device for its host supervisor, of package tiles for the owner. -/
def execReadHealth (r : HostRequest) (s : State) : Out :=
  .next (s.onRequest r 13 (fun s =>
    if r.management then s.healthOf r (upTo 2048) else s.reqDev r (fun s d => s.healthOf r d.tiles)))

/-- READ_CHARGE (R429). -/
def execReadCharge (r : HostRequest) (s : State) : Out :=
  .next (s.onRequest r 14 (fun s =>
    let n := field (reqBody r) 0 4
    let k := field (reqBody r) 4 4
    match s.knownNet r n with
    | none => s.answer r 4 n []
    | some q =>
      if q.nproc ≤ k then s.answer r 4 k []
      else s.answer r 0 1 (leBytes 8 (((s.proc? ⟨n, k⟩).map (·.charge)).getD (Config.remoteCharge n k)))))

/-! ### Attestation (R399, R400) -/

/-- The first 256 bytes of an attestation report: what SIG covers. -/
def State.attestBody (s : State) (kind : Nat) (nonce : List Byte) (vdid : Nat) (vdcfg : List Byte) : List Byte :=
  leBytes 4 0x41545331 ++ leBytes 2 1 ++ leBytes 2 kind ++ padTo 32 (nonce.take 32) ++ padTo 16 (Config.serial.take 16) ++
  leBytes 4 vdid ++ leBytes 4 0 ++ padTo 32 s.m0 ++ padTo 32 s.m1 ++ padTo 32 s.m2 ++ padTo 32 vdcfg ++
  leBytes 8 s.time.toNat ++ leBytes 8 s.logNext ++ padTo 32 s.logHead ++ leBytes 16 0

/-- An attestation report. -/
def State.attest (s : State) (kind : Nat) (nonce : List Byte) (vdid : Nat) (vdcfg : List Byte) : List Byte :=
  let b := s.attestBody kind nonce vdid vdcfg
  b ++ signature b

/-- DEVICE_ATTESTATION. -/
def execDeviceAttestation (r : HostRequest) (s : State) : Out :=
  .next (s.onRequest r 8 (fun s => s.reqDev r (fun s d => s.answer r 0 1 (s.attest 2 (reqBody r) d.vdid d.vdcfg))))

/-- PACKAGE_ATTESTATION. -/
def execPackageAttestation (r : HostRequest) (s : State) : Out :=
  .next (s.onRequest r 36 (fun s => s.answer r 0 1 (s.attest 1 (reqBody r) 0xFFFFFFFF [])))

/-! ### Creating and destroying devices (R364, R393, R394, R396) -/

/-- Whether two regions share a byte. -/
def Region.meets (a b : Region) : Bool := a.endpoint == b.endpoint && overlaps a.base a.size b.base b.size

/-- The first index of a list at which a test on the element and those before it holds. -/
def firstClash {α : Type} (l : List α) (f : List α → α → Bool) : Option α :=
  (l.mapIdx (fun i a => (i, a))).findSome? (fun ia => if f (l.take ia.1) ia.2 then some ia.2 else none)

/-- The lowest free VDID. -/
def State.freeVdid (s : State) : Option Nat := (upTo 256).find? (fun v => (s.vdev? v).isNone)

/-- The regions that devices hold: those of a device that has migrated away are free (step 10 of R404). -/
def State.regionsHeld (s : State) : List Region := (s.vdevs.filter (fun d => !d.forwarding)).flatMap (·.regions)

/-- The bytes of this package's memory that regions take, which lies at the four endpoints of its dies (R1, R440). -/
def State.dramUsed (s : State) (l : List Region) : Nat :=
  (l.filter (fun r => r.endpoint / 4 == s.pkg)).foldl (fun v r => v + r.size) 0

/-- The first resource that a create request names and that is not free: its kind and number (R393, R457). The package's
usable memory bounds the sum of its regions (R1). -/
def State.notFree (s : State) (b : List Byte) : Option (Nat × Nat) :=
  let tile := firstClash (createTiles b) (fun seen t => seen.contains t || (s.tile t).outOfService ||
    s.vdevs.any (fun d => d.tiles.contains t))
  let region := firstClash (createRegions b) (fun seen r => (seen ++ s.regionsHeld).any (fun x => x.id == r.id || x.meets r) ||
    !s.epLive r.endpoint || (r.endpoint / 4 == s.pkg && decide (Config.dramBytes < s.dramUsed (r :: seen ++ s.regionsHeld))))
  let mac := firstClash (createMacs b) (fun seen m => seen.contains m || s.vdevs.any (fun d => d.macs.contains m))
  let key := firstClash (createKeys b) (fun seen k => seen.contains k || k == 0 || (numGet s.keySlots k).isNone ||
    s.vdevs.any (fun d => d.keyMap.contains k))
  match tile, region, mac, key, s.freeVdid with
  | some t, _, _, _, _ => some (1, t)
  | none, some r, _, _, _ => some (2, r.id)
  | none, none, some m, _, _ => some (3, m % 2 ^ 32)
  | none, none, none, some k, _ => some (4, k)
  | none, none, none, none, none => some (5, 0)
  | none, none, none, none, some _ => none

/-- The home die: the one with the most tiles of the device, ties to the lowest (R364). -/
def homeOf (tiles : List Nat) : Nat :=
  let n := fun (die : Nat) => (tiles.filter (fun t => t / Config.tilesPerDie == die)).length
  (upTo Config.diesPerPackage).foldl (fun b die => if n b < n die then die else b) 0

/-- A region's bytes zeroed and every granule empty (R394). -/
def State.clearRegion (s : State) (r : Region) : State :=
  let k := r.endpoint * Config.localBytes + r.base
  { s with
    gm := Memory.clear k r.size s.gm
    gmKey := s.gmKey.filter (fun c => decide (64 * c.1 < k) || decide (k + r.size ≤ 64 * c.1))
    gmStamp := s.gmStamp.filter (fun c => decide (c.1 < k) || decide (k + r.size ≤ c.1))
    gmFull := setClear (k / 64) (r.size / 64) s.gmFull
    gmPois := setClear (k / 64) (r.size / 64) s.gmPois }

/-- A tile given to a device: its memory zeroed, the handler block in place. -/
def State.giveTile (s : State) (b : List Byte) (v t : Nat) : State :=
  let s := s.freeTile t
  let hbase := field b 0x18 4
  let hlen := field b 0x14 4
  let s := s.tmStoreKey (tmKey t hbase) ((b.drop (crHandler b)).take hlen)
  s.setTile t { s.tile t with
    vdid := some v, hwdog := BitVec.ofNat 32 (field b 0x10 4), tvec := BitVec.ofNat 21 (hbase + field b 0x1C 4)
    handlerBase := hbase, handlerLen := hlen }

/-- The device that a create request describes; VDCFG is the digest of the request (R399). -/
def newDev (r : HostRequest) (v : Nat) : VDev :=
  let b := reqBody r
  { vdid := v
    tiles := createTiles b
    regions := createRegions b
    macs := createMacs b
    keyMap := createKeys b
    ceil := field b 5 1
    rootEp := field b 6 2
    rootAddr := field b 8 8
    homeDie := homeOf (createTiles b)
    hbase := field b 0x18 4
    hlen := field b 0x14 4
    hwdog := BitVec.ofNat 32 (field b 0x10 4)
    tvec := BitVec.ofNat 21 (field b 0x18 4 + field b 0x1C 4)
    vdcfg := sha256 r.payload
    waiting := []
    doomed := []
    logging := false
    dirty := []
    forwarding := false
    peers := []
    destroyTag := none }

/-- CREATE (R394). -/
def execCreate (r : HostRequest) (s : State) : Out :=
  .next (s.onRequest r 32 (fun s =>
    let b := reqBody r
    if Config.monitorCeiling < field b 5 1 then s.answer r 3 32 []
    else if field b 6 2 / 4 ≠ s.pkg then s.answer r 2 6 []
    else match s.notFree b, s.freeVdid with
      | some f, _ => s.answer r 1 (f.1 + f.2 * 256) []
      | none, none => s.answer r 1 5 []
      | none, some v =>
        let d := newDev r v
        let s := d.regions.foldl (fun (s : State) g => s.clearRegion g) s
        let s := d.tiles.foldl (fun (s : State) t => s.giveTile b v t) s
        { s with vdevs := s.vdevs ++ [d] }.answer r 0 (v + d.homeDie * 256) []))

/-- DESTROY (R396): it completes once every network of the device has ended. -/
def execDestroy (r : HostRequest) (s : State) : Out :=
  .next (s.onRequest r 33 (fun s =>
    let v := field (reqBody r) 0 4
    match s.vdev? v with
    | none => s.answer r 4 v []
    | some _ =>
      if s.migrations.any (fun g => g.vdid == v) then s.answer r 5 0 []
      else (s.mapVdev v (fun d => { d with destroyTag := some (reqTag r) })).tryDestroy v))

/-! ### Keys (R397, R398) -/

/-- The key-encryption key in force: before the owner's, all zeros. -/
def State.kek (s : State) : List Byte := s.okek.getD (List.replicate 32 0)

/-- Whether the map of a live device names a slot. -/
def State.slotLive (s : State) (k : Nat) : Bool := s.vdevs.any (fun d => d.keyMap.contains k)

/-- KEY_LOAD (R398).
DESIGN CHOICE: one that names slot 0, the monitor's, is refused with RESULT 3, which R398's list does not name. -/
def execKeyLoad (r : HostRequest) (s : State) : Out :=
  .next (s.onRequest r 34 (fun s =>
    let k := field (reqBody r) 0 2
    if k = 0 ∨ s.slotLive k then s.answer r 3 34 []
    else match keyUnwrap s.kek ((reqBody r).drop 8) with
      | none => s.answer r 6 0 []
      | some key =>
        if key.take 32 = (key.drop 32).take 32 then s.answer r 6 0 []
        else { s with keySlots := numPut s.keySlots k key }.answer r 0 0 []))

/-- KEY_ERASE (R398). -/
def execKeyErase (r : HostRequest) (s : State) : Out :=
  .next (s.onRequest r 35 (fun s =>
    let k := field (reqBody r) 0 2
    if k = 0 then s.answer r 3 35 [] else { s with keySlots := numDel s.keySlots k }.answer r 0 0 []))

/-- SET_OKEK (R398). -/
def execSetOkek (r : HostRequest) (s : State) : Out :=
  .next (s.onRequest r 40 (fun s =>
    match keyUnwrap s.kek (reqBody r) with
    | none => s.answer r 6 0 []
    | some k => { s with okek := some k }.answer r 0 0 []))

/-! ### The log (R425, R426) -/

/-- The number of the segment's first entry. -/
def State.logFirst (s : State) : Nat := (s.log.head?.map (·.seq)).getD s.logNext

/-- LOG_READ: a seal of the head, then the entries of the range with the periodic seals in it, and the new seal. -/
def execLogRead (r : HostRequest) (s : State) : Out :=
  .next (s.onRequest r 37 (fun s =>
    let lo := field (reqBody r) 0 8
    let hi := field (reqBody r) 8 8
    let old := s.seals.filter (fun x => x.kind == 1)
    let s := s.sealLog 2
    let items := (s.log.filter (fun e => decide (lo ≤ e.seq) && decide (e.seq ≤ hi))).flatMap (fun e =>
      e.bytes :: (old.filter (fun x => x.seq == e.seq)).map LogSeal.bytes) ++
      ((s.seals.filter (fun x => x.kind == 2)).getLast?.map LogSeal.bytes).toList
    let all := decide (lo ≤ s.logFirst) && decide (s.logNext ≤ hi + 1)
    { s with lastRead := if all then s.logNext else s.lastRead }.answer r 0 items.length items.flatten))

/-- ARCHIVE (R426): after a read that has returned every entry. -/
def execArchive (r : HostRequest) (s : State) : Out :=
  .next (s.onRequest r 38 (fun s =>
    if s.lastRead ≠ s.logNext then s.answer r 3 38 []
    else
      let t := { s with log := [], seals := [], logUsed := 0, logNearFull := false }
      (t.writeEntry ⟨s.time, 0, 16, 0, 0, BitVec.ofNat 64 (s.logNext - 1), 0, 0xFFFF⟩).answer r 0 0 []))

/-! ### Limits, configuration and firmware (R434, R440, R459, R481) -/

/-- ISLAND_LIMITS (R434). -/
def execIslandLimits (r : HostRequest) (s : State) : Out :=
  .next (s.onRequest r 39 (fun s =>
    let b := reqBody r
    let i := field b 0 1
    (s.setIsland i { s.island i with cap := field b 8 1 % 4, tgov := field b 9 1 }).answer r 0 0 []))

/-- CONFIGURATION (R456): for the next boot. -/
def execConfiguration (r : HostRequest) (s : State) : Out :=
  .next (s.onRequest r 41 (fun s =>
    let b := reqBody r
    { s with nextPkg := field b 0 2, nextPtpDomain := field b 2 1 }.answer r 0 0 []))

/-- FIRMWARE_UPDATE (R456, R481). -/
def execFirmwareUpdate (r : HostRequest) (s : State) : Out :=
  .next (s.onRequest r 42 (fun s =>
    if Config.firmwareOk (reqBody r) then { s with firmware := reqBody r }.answer r 0 0 [] else s.answer r 6 0 []))

end Sys2Proof.Machine
end

