-- ==== Sys2Proof/Machine/Relocate.lean ====
section
/-! DEFINITION. Live migration, checkpoints and restore (R403 to R407, R461 to R468). -/

namespace Sys2Proof.Machine

/-! ### Chunks of memory (R404, R463, R464) -/

/-- The mark map of granules: two bits each, FULL and POIS. -/
def markMap (gs : List (Bool × Bool)) : List Byte :=
  leBytes ((gs.length + 3) / 4) (gs.foldr (fun g v => 4 * v + (if g.1 then 1 else 0) + (if g.2 then 2 else 0)) 0)

/-- n bytes of a memory and the mark map of their granules; poison stands by units of 2^p bytes. -/
def chunkText (m : Memory) (full pois : List Nat) (unit base n : Nat) : List Byte :=
  m.bytes base n ++ markMap ((granulesOf base n).map (fun g =>
    (setHas full g, (upTo (64 / unit)).any (fun j => setHas pois (64 / unit * g + j)))))

/-- KEY of n bytes of a memory with their marks. -/
def chunkKey (m : Memory) (full pois : List Nat) (unit base n : Nat) : List Byte := sha256 (chunkText m full pois unit base n)

/-- The bytes and the mark map of a chunk. -/
def ShardChunk.text (c : ShardChunk) : List Byte := chunkText c.cells c.full c.pois (if c.kind = 0 then 8 else 64) c.base c.len

/-- The part of a list of keys, in units, that lies in a range. -/
def inRange (unit base n : Nat) (l : List Nat) : List Nat :=
  l.filter (fun k => decide (base ≤ unit * k) && decide (unit * k < base + n))

/-- A chunk of tile memory. -/
def State.tmChunk (s : State) (t base n : Nat) : ShardChunk :=
  let k := tmKey t base
  ⟨0, t, k, n, s.tm.filter (fun c => decide (k ≤ c.1) && decide (c.1 < k + n)), [], inRange 64 k n s.tmFull,
   inRange 8 k n s.tmPois, chunkKey s.tm s.tmFull s.tmPois 8 k n⟩

/-- A chunk of global memory. -/
def State.gmChunk (s : State) (k n : Nat) : ShardChunk :=
  ⟨1, 0, k, n, s.gm.filter (fun c => decide (k ≤ c.1) && decide (c.1 < k + n)),
   s.gmKey.filter (fun c => decide (k ≤ 64 * c.1) && decide (64 * c.1 < k + n)), inRange 64 k n s.gmFull, inRange 64 k n s.gmPois,
   chunkKey s.gm s.gmFull s.gmPois 64 k n⟩

/-! ### Live migration -/

/-- Whether a migration of a device is in progress. -/
def State.migrating (s : State) (v : Nat) : Bool := s.migrations.any (fun g => g.vdid == v)

/-- The stop of some processes asked for, or given up. -/
def State.setStop (s : State) (f : Proc → Bool) (b : Bool) : State :=
  { s with procs := s.procs.map (fun q => if f q && q.live then { q with stopDue := b } else q) }

/-- Report kind 14, then the answer to the migrate request. -/
def State.migrated (s : State) (g : Migration) (result : Nat) : State :=
  let s := { s with migrations := s.migrations.filter (fun x => x.vdid != g.vdid) }
  let s := s.report g.vdid 14 g.tag 0 (leBytes 4 result ++ leBytes 4 0)
  s.report g.vdid 1 g.tag 0 (answerBody 0 0 [])

/-- Every log unit of a device's regions, as runs (R401). -/
def VDev.unitRuns (d : VDev) : List (Nat × Nat × Nat) := d.regions.map (fun r => (r.id, 0, r.size / 4096))

/-- Every bitmap word of a device's regions, as runs. -/
def VDev.wordRuns (d : VDev) : List (Nat × Nat × Nat) := d.regions.map (fun r => (r.id, 0, (r.size / 4096 + 63) / 64))

/-- MIGRATE (R403, R404): logging on with every bitmap zero, and round 1 begins. A destination that holds no shell fails at
once. The answer comes when the migration is over. -/
def execMigrate (r : HostRequest) (s : State) : Out :=
  .next (s.onRequest r 2 (fun s => s.reqDev r (fun s d =>
    let b := reqBody r
    if s.migrating d.vdid ∨ d.forwarding ∨ s.ckpts.any (fun c => c.vdid == d.vdid) then s.answer r 5 0 []
    else
      let g : Migration := ⟨d.vdid, reqTag r, field b 0 2, field b 2 1, field b 4 4, .rounds, 1, 0, d.unitRuns, []⟩
      if !Config.shellHeld s.ticks g.destPkg then s.migrated g 2
      else { s with migrations := s.migrations ++ [g] }.mapVdev d.vdid (fun d => { d with logging := true, dirty := [] }))))

/-- The state with a migration changed. -/
def State.mapMig (s : State) (v : Nat) (f : Migration → Migration) : State :=
  { s with migrations := s.migrations.map (fun g => if g.vdid = v then f g else g) }

/-- A log unit copied to the destination as ciphertext, with its granule bits and poison marks (R402, R404). -/
def State.copyUnit (s : State) (d : VDev) (dest id u : Nat) : State :=
  match d.regions.find? (fun r => r.id == id) with
  | none => s
  | some r =>
    let a := r.endpoint * Config.localBytes + r.base + 4096 * u
    let b := movedBase dest id + 4096 * u
    let tags := (upTo 64).filterMap (fun j => (numGet s.gmKey (a / 64 + j)).map (fun k => (b / 64 + j, k)))
    let t : State := { s with
      gm := s.gm.store b (s.gm.bytes a 4096)
      gmKey := tags.foldl (fun l x => numPut l x.1 x.2) (s.gmKey.filter (fun x => decide (x.1 < b / 64) || decide (b / 64 + 64 ≤ x.1)))
      gmFull := setMove (a / 64) 64 (b / 64) s.gmFull
      gmPois := setMove (a / 64) 64 (b / 64) s.gmPois }
    t.logGmPois ((upTo 64).map (b / 64 + ·) |>.filter (setHas t.gmPois)) 0

/-- The units of a bitmap word that are marked. -/
def VDev.marked (d : VDev) (id w : Nat) : List Nat := ((upTo 64).map (64 * w + ·)).filter (fun u => d.dirty.contains (id, u))

/-- Where a migration's copying goes on: the next unit, the next bitmap word read and cleared by one swap, or the next
round; after the last round the stop falls due for every process (R402, R404). -/
def State.copyOn (s : State) (d : VDev) (g : Migration) : State :=
  match g.copy, g.words with
  | (id, u, n) :: rest, _ =>
    (s.copyUnit d g.destPkg id u).mapMig g.vdid (fun g => { g with copy := if n ≤ 1 then rest else (id, u + 1, n - 1) :: rest })
  | [], (id, w, n) :: rest =>
    (s.mapVdev d.vdid (fun d => { d with dirty := d.dirty.filter (fun x => !(x.1 == id && x.2 / 64 == w)) })).mapMig g.vdid
      (fun g => { g with
        copy := (d.marked id w).map (fun u => (id, u, 1))
        words := if n ≤ 1 then rest else (id, w + 1, n - 1) :: rest })
  | [], [] => match g.phase with
    | .rounds =>
      if g.round < 2 + g.rounds then s.mapMig g.vdid (fun g => { g with round := g.round + 1, words := d.wordRuns })
      else (s.mapMig g.vdid (fun g => { g with phase := .stopping, stopAt := s.time })).setStop (fun q => q.vdid == g.vdid) true
    | .stopping => s
    | .final => s

/-- Whether a process holds no hart. -/
def Proc.off (q : Proc) : Bool := match q.status with | .onHart _ => false | _ => true

/-- Whether step 5 of R404 may complete: every process saved or switched out at a safe point that serves, every MDRAIN and
VSTM write performed, every exchange closed. -/
def State.quiet (s : State) (f : Proc → Bool) (writers : List Writer) : Bool :=
  ((s.procs.filter Proc.live).filter f).all (fun q => q.off && s.stopHolds q) &&
  !s.asyncs.any (fun a => writers.contains a.writer && (a.pid.bind s.proc?).any f)

/-- Whether a pending write belongs to a process of a device. -/
def State.asyncOf (s : State) (v : Nat) (a : AsyncWrite) : Bool := (a.pid.bind s.proc?).any (fun q => q.vdid == v)

/-- The rank entries of a device's placed ranks on this package changed. -/
def State.mapEntries (s : State) (v : Nat) (f : Word → Word) : State :=
  { s with nets := s.nets.map (fun n => if n.vdid = v then
      { n with entries := n.entries.mapIdx (fun r e => if n.mine r && entryPlaced e && !entryEnded e then f e else e) }
    else n) }

/-- MIGRATION_QUIESCED (step 5 of R404): every transfer command stops, every rank entry becomes TRANSIT, and the final swap
begins; from now on peers' requests are held. -/
def execMigrationQuiesced (vdid : Nat) (s : State) : Out :=
  .next (match s.migrations.find? (fun g => g.vdid == vdid), s.vdev? vdid with
    | some g, some d =>
      if g.phase = .stopping ∧ s.quiet (fun q => q.vdid == vdid) [.drain, .vstm] then
        ((s.stopCmds (s.asyncOf vdid)).mapEntries vdid inTransit).mapMig vdid
          (fun g => { g with phase := .final, words := d.wordRuns })
      else s
    | _, _ => s)

/-- A rank entry with the coordinates that a tile of the destination gives it; it is in transit until the restore there
(R404). -/
def movedEntry (dest : Nat) (d : VDev) (tile : Nat) : Word :=
  let t := Config.movedTile dest (d.tiles.findIdx (· == tile)) % 2048
  inTransit (BitVec.ofNat 64 (2 ^ 32 + t % Config.tilesPerDie * 2 ^ 13 + (4 * dest + t / Config.tilesPerDie)))

/-- What the destination receives of a device's tiles, networks, processes and waiting launch messages (steps 4 and 7 of
R404). -/
def State.departure (s : State) (d : VDev) (dest : Nat) : Departure :=
  let nets := (s.nets.filter (fun n => n.vdid == d.vdid)).map (fun (n : Network) =>
    { n with entries := n.entries.mapIdx (fun r e =>
        if n.mine r && entryPlaced e && !entryEnded e then movedEntry dest d (((s.proc? ⟨n.netid, r⟩).map (·.tile)).getD 0)
        else e) })
  ⟨d.vdid, dest, d.tiles.mapIdx (fun i t => (i, s.tmChunk t 0 Config.tmBytes)), nets,
   s.procs.filter (fun q => q.vdid == d.vdid), s.asyncs.filter (fun a => decide (a.writer = .engine) && s.asyncOf d.vdid a),
   d.waiting⟩

/-- A table entry that names a moved region, with the region's new place; the offset within the region and the low bits
are kept (step 8 of R404). -/
def movedPte (rs : List Region) (base : Nat → Nat) (e : Word) : Word :=
  if !pteV e then e
  else match rs.find? (fun r => r.endpoint == pteEndpoint e && decide (r.base ≤ pteAddr e) && decide (pteAddr e < r.base + r.size)) with
    | none => e
    | some r =>
      let k := base r.id + (pteAddr e - r.base)
      BitVec.ofNat 64 (e.toNat % 2 ^ 11 + k % Config.localBytes / 4096 * 2 ^ 11 + k / Config.localBytes * 2 ^ 51)

/-- The entries of a table and of the tables below it rewritten, lvl levels deep; the tables keep their keys. -/
def State.rewriteTable (f : Word → Word) : Nat → State → Nat → State
  | 0, s, _ => s
  | lvl + 1, s, t => (upTo 512).foldl (fun (s : State) i =>
      let key := (numGet s.gmKey (granule (t + 8 * i))).getD .monitor
      let e := leWord ((upTo 8).map (fun j => s.gmByte key (t + 8 * i + j)))
      let e' := f e
      let s := if e' = e then s else { s with gm := s.gm.store (t + 8 * i) (leBytes 8 e'.toNat) }
      if !pteV e' || pteLeaf e' then s
      else State.rewriteTable f lvl s (pteEndpoint e' * Config.localBytes + pteAddr e')) s

/-- The processes and networks of a device gone from the package with all that travels with them, its keys erased, its
tiles zeroed and free (step 10 of R404). Its regions are free too (`State.regionsHeld`), but stay named until peers are
updated, for the requests that still name them (R406). -/
def State.moveAway (s : State) (d : VDev) : State :=
  let s := { s with
    asyncs := s.asyncs.filter (fun a => !s.asyncOf d.vdid a)
    nets := s.nets.filter (fun n => n.vdid != d.vdid)
    procs := s.procs.filter (fun q => q.vdid != d.vdid)
    mcasts := s.mcasts.filter (fun m => m.vdid != d.vdid)
    keySlots := s.keySlots.filter (fun k => k.1 == 0 || !d.keyMap.contains k.1) }
  let s := d.tiles.foldl (fun (s : State) t => s.freeTile t) s
  s.mapVdev d.vdid (fun d => { d with
    tiles := [], keyMap := [], waiting := [], doomed := [], logging := false, dirty := [], forwarding := true, peers := [] })

/-- Steps 7 to 10 of R404, once the final copy is complete: the tiles, networks and processes go, the tables at the
destination name the regions' new places, held requests are sent on, and the source lets the device go. -/
def State.handOver (s : State) (d : VDev) (g : Migration) : State :=
  let base := movedBase g.destPkg
  let s := { s with departed := s.departed ++ [s.departure d g.destPkg] }
  let root := match d.regions.find? (fun r => r.endpoint == d.rootEp && decide (r.base ≤ d.rootAddr) &&
      decide (d.rootAddr < r.base + r.size)) with
    | some r => base r.id + (d.rootAddr - r.base)
    | none => d.rootEp * Config.localBytes + d.rootAddr
  let s := State.rewriteTable (movedPte d.regions base) 5 s root
  let s := s.moveAway d
  let s := d.peers.foldl (fun (s : State) p => match d.packetRegion p with
    | some r => s.forwardPacket g.destPkg p r
    | none => s) s
  s.migrated g 0

/-- The copying of every migration gets on by one act, where it does. -/
def State.migrateOn (s : State) : State :=
  s.migrations.foldl (fun (s : State) g =>
    match s.vdev? g.vdid with
    | none => s
    | some d =>
      if !Config.copyMoves (s.ticks + g.vdid) then s
      else if g.phase = .final ∧ g.copy = [] ∧ g.words = [] then s.handOver d g
      else s.copyOn d g) s

/-- MIGRATION_ABORT (R407): step 5 has not completed within STOPLIM, or the destination failed. The transfer commands
resume, TRANSIT is cleared, the peers' requests held are performed, and logging ends. -/
def execMigrationAbort (vdid : Nat) (stoplim : Bool) (s : State) : Out :=
  .next (match s.migrations.find? (fun g => g.vdid == vdid), s.vdev? vdid with
    | some g, some d =>
      if stoplim ∧ ¬(g.phase = .stopping ∧ g.stopAt.toNat + 1000 * g.stoplim ≤ s.time.toNat) then s
      else
        let s := (s.setStop (fun q => q.vdid == vdid) false).resumeCmds (s.asyncOf vdid)
        let s := if g.phase = .final then s.mapEntries vdid (fun e => e &&& ~~~0x200000000#64) else s
        let s := (s.mapVdev vdid (fun d => { d with logging := false, dirty := [], peers := [] })).migrated g (if stoplim then 1 else 2)
        d.peers.foldl (fun (s : State) p => s.performPacket d p) s
    | _, _ => s)

/-- PEERS_UPDATED (R406): forwarding ends; a request to a released frame is refused from now on. -/
def execPeersUpdated (r : HostRequest) (s : State) : Out :=
  .next (s.onRequest r 3 (fun s => s.reqDev r (fun s d =>
    if d.forwarding then { s.answer r 0 0 [] with
      vdevs := s.vdevs.filter (fun x => x.vdid != d.vdid), departed := s.departed.filter (fun x => x.vdid != d.vdid) }
    else s.answer r 0 0 [])))

/-! ### Checkpoint: stopping (R461, R462) -/

/-- A checkpoint in progress. -/
def State.ckpt? (s : State) (job : Word) : Option Ckpt := s.ckpts.find? (fun c => decide (c.job = job))

/-- The state without a job's checkpoint in progress. -/
def State.dropCkpt (s : State) (job : Word) : State := { s with ckpts := s.ckpts.filter (fun c => decide (c.job ≠ job)) }

/-- Report kind 8. -/
def State.progress (s : State) (c : Ckpt) (st : Nat) : State :=
  s.report c.vdid 8 c.tag 0 (leBytes 8 c.job.toNat ++ leBytes 8 c.step.toNat ++ leBytes 4 st ++ leBytes 4 0)

/-- Whether a process belongs to a job. -/
def Ckpt.has (c : Ckpt) (q : Proc) : Bool := c.nets.contains q.pid.netid

/-- Whether a step of a job is greater than every earlier one, also those that were abandoned or failed. -/
def State.stepNew (s : State) (job step : Word) : Bool :=
  s.shards.all (fun x => decide (x.job ≠ job) || decide (x.step.toNat < step.toNat)) &&
  s.lastSteps.all (fun x => decide (x.1 ≠ job) || decide (x.2.toNat < step.toNat))

/-- CHECKPOINT (R461): the stop falls due for every process of the job.
DESIGN CHOICE: a STEP that is not greater is answered RESULT 2 with the offset of STEP, 8, as DETAIL; the spec names no
RESULT for it. -/
def execCheckpoint (r : HostRequest) (s : State) : Out :=
  .next (s.onRequest r 5 (fun s => s.reqDev r (fun s d =>
    let b := reqBody r
    let job := BitVec.ofNat 64 (field b 0 8)
    let step := BitVec.ofNat 64 (field b 8 8)
    let nn := field b 19 1
    let nets := (upTo nn).map (fun i => field b (40 + 4 * i) 4)
    let ro := 40 + up8 (4 * nn)
    let regs := (upTo (field b 20 1)).map (fun i =>
      (BitVec.ofNat 64 (field b (ro + 16 * i) 8), BitVec.ofNat 64 (field b (ro + 16 * i + 8) 8)))
    match nets.find? (fun n => (s.knownNet r n).isNone) with
    | some n => s.answer r 4 n []
    | none =>
      if s.migrating d.vdid ∨ (s.ckpt? job).isSome then s.answer r 5 0 []
      else if !s.stepNew job step then s.answer r 2 8 []
      else
        let c : Ckpt := ⟨job, step, d.vdid, reqTag r, field b 16 2, field b 18 1, nets, regs, field b 24 4,
          BitVec.ofNat 64 (field b 32 8), s.time, .stopping⟩
        { s with
          ckpts := s.ckpts ++ [c]
          lastSteps := (job, step) :: s.lastSteps.filter (fun x => decide (x.1 ≠ job)) }.setStop c.has true)))

/-- CHECKPOINT_QUIESCED (R462): the job's asynchronous writes are performed too, its exchanges' included (R137). -/
def execCheckpointQuiesced (job : Word) (s : State) : Out :=
  .next (match s.ckpt? job with
    | none => s
    | some c =>
      if c.phase = .stopping ∧ s.quiet c.has [.engine, .drain, .vstm] then
        let s := { s with ckpts := s.ckpts.map (fun (x : Ckpt) => if x.job = job then { x with phase := CkptPhase.quiesced } else x) }
        (s.progress c 1).report c.vdid 1 c.tag 0 (answerBody 0 0 [])
      else s)

/-- CHECKPOINT_ABANDON (R462): QBOUND has passed without quiescence. -/
def execCheckpointAbandon (job : Word) (s : State) : Out :=
  .next (match s.ckpt? job with
    | none => s
    | some c =>
      if c.phase = .stopping ∧ c.startedAt.toNat + 1000 * c.qbound ≤ s.time.toNat then
        (((s.setStop c.has false).dropCkpt job).progress c 4).report c.vdid 1 c.tag 0 (answerBody 0 0 [])
      else s)

/-! ### Checkpoint: the shard (R462 to R466) -/

/-- The chunks of a virtual range, page piece by page piece; a piece that fails translation has no bytes to hold. -/
def State.vaChunks (s : State) (d : VDev) (va n : Nat) : List ShardChunk :=
  (pagesOf va n).filterMap (fun a =>
    let x := match s.xlateEngine d .r a with
      | .ok r => some r
      | .error _ => (s.xlateEngine d .w a).toOption
    x.map (fun r => s.gmChunk r.2.addr (Nat.min (va + n) ((a / 4096 + 1) * 4096) - a)))

/-- The 128-byte header of a shard (R464).
DESIGN CHOICE: the places and widths of its fields, which the spec lists in this order. -/
def Shard.header (x : Shard) (len : Nat) : List Byte :=
  padTo 128 (leBytes 4 0x43484B31 ++ leBytes 4 Config.shardLevel ++ leBytes 8 x.job.toNat ++ leBytes 8 x.step.toNat ++
    leBytes 4 x.pkg ++ leBytes 4 x.chunks.length ++ leBytes 8 len)

/-- The frames of a shard's chunks, each with its offset; those of a shared store are not in the shard, and their offset is
their place in the store's own order (R464, R465). -/
def Shard.frames (x : Shard) (stored : List (Word × ShardChunk)) : List (Nat × List Byte) :=
  match x.store with
  | some a =>
    let l := stored.filter (fun y => decide (y.1 = a))
    x.chunks.map (fun c => (l.findIdx (fun y => y.2.key == c.key), []))
  | none => (x.chunks.foldl (fun (r : Nat × List (Nat × List Byte)) c =>
      let f := Config.zstd c.text
      (r.1 + f.length, r.2 ++ [(r.1, f)])) (128 + 64 * x.chunks.length, [])).2

/-- The 64-byte index entry of a chunk (R464). -/
def ShardChunk.entry (c : ShardChunk) (off clen : Nat) : List Byte :=
  leBytes 2 c.kind ++ leBytes 2 c.tile ++ leBytes 4 c.len ++ leBytes 8 (if c.kind = 0 then c.base % Config.tmBytes else c.base) ++
  leBytes 8 off ++ leBytes 4 clen ++ leBytes 4 0 ++ c.key

/-- Every byte of a shard before its seal. -/
def Shard.body (x : Shard) (stored : List (Word × ShardChunk)) : List Byte :=
  let fs := x.frames stored
  let idx := (x.chunks.zip fs).flatMap (fun cf => cf.1.entry cf.2.1 cf.2.2.length)
  let data := fs.flatMap (·.2)
  x.header (128 + idx.length + data.length + 64) ++ idx ++ data

/-- The 64-byte seal that belongs to a shard (R464). -/
def Shard.sealOf (x : Shard) (stored : List (Word × ShardChunk)) : List Byte :=
  padTo 64 (leBytes 8 x.step.toNat ++ sha256 (x.body stored))

/-- Whether a shard is sealed: its seal is present and both of its fields match. -/
def Shard.sealed (x : Shard) (stored : List (Word × ShardChunk)) : Bool := decide (x.sealBytes = x.sealOf stored)

/-- The shard of a job on this package before it is sealed (R463): the memory of every tile that holds a process of it, the
context areas, the declared regions and the caddies; the rank entries and the channels' indices in its networks; and the
transfer records. -/
def State.shardOf (s : State) (c : Ckpt) : Shard :=
  let procs := s.procs.filter c.has
  let nets := s.nets.filter (fun n => c.nets.contains n.netid)
  let tiles := ((procs.filter Proc.live).map (·.tile)).eraseDups
  let tms := tiles.flatMap (fun t => [s.tmChunk t 0 0x100000, s.tmChunk t 0x100000 0x100000])
  let ctxs := (procs.filter Proc.live).map (fun q => s.gmChunk q.ctxphys Config.ctxAreaBytes)
  let regs := match s.vdev? c.vdid with
    | some d => c.regions.flatMap (fun r => s.vaChunks d r.1.toNat r.2.toNat) ++
        nets.flatMap (fun n => s.vaChunks d n.caddyVa.toNat n.caddyUsed)
    | none => []
  ⟨s.pkg, c.job, c.step, nets, procs,
   s.asyncs.filter (fun a => decide (a.writer = .engine) && (a.pid.bind s.proc?).any c.has), tms ++ ctxs ++ regs,
   if c.mode = 1 then some c.store else none, []⟩

/-- The chunks of a mode-1 shard written to its shared store: none whose KEY the store holds (R465). -/
def State.storeChunks (s : State) (x : Shard) : State :=
  match x.store with
  | none => s
  | some a => { s with stored := x.chunks.foldl (fun l c =>
      if l.any (fun (y : Word × ShardChunk) => decide (y.1 = a) && y.2.key == c.key) then l else l ++ [(a, c)]) s.stored }

/-- A shard with its seal written. -/
def State.sealShard (s : State) (x : Shard) : Shard := { x with sealBytes := x.sealOf s.stored }

/-- The newest shard of a list. -/
def newestShard (l : List Shard) : Option Shard :=
  l.foldl (fun (b : Option Shard) y => match b with
    | none => some y
    | some z => if z.step.toNat < y.step.toNat then some y else some z) none

/-- The shards that the reserve holds beside a new step of a job: the newest one of the job and those of other jobs (R466). -/
def State.shardsBeside (s : State) (job : Word) : List Shard :=
  s.shards.filter (fun y => decide (y.job ≠ job)) ++ (newestShard (s.shards.filter (fun y => decide (y.job = job)))).toList

/-- A sealed shard put into the reserve, which keeps two steps of a job (R466). -/
def State.keepShard (s : State) (x : Shard) : State := { s with shards := s.shardsBeside x.job ++ [x] }

/-- Whether a shard fits the reserve: its bytes and its seal beside the shards that stay (R466). -/
def State.shardFits (s : State) (x : Shard) : Bool :=
  decide (((x :: s.shardsBeside x.job).map (fun y => (y.body s.stored).length + 64)).sum ≤ Config.reserveBytes)

/-- COPY (R462): the primary shard is written and sealed in the reserve, in mode 1 its chunks in the shared store (R465), and
the processes go on. -/
def execCopy (r : HostRequest) (s : State) : Out :=
  .next (s.onRequest r 6 (fun s => s.reqDev r (fun s d =>
    let job := BitVec.ofNat 64 (field (reqBody r) 0 8)
    match (s.ckpt? job).filter (fun c => c.vdid == d.vdid && decide (c.phase = CkptPhase.quiesced) &&
        c.step.toNat == field (reqBody r) 8 8) with
    | none => s.answer r 4 job.toNat []
    | some c =>
      let c := { c with tag := reqTag r }
      let s' := s.setStop c.has false
      let x := s.shardOf c
      let u := s'.storeChunks x
      if !u.shardFits x then ((s'.dropCkpt job).progress c 5).answer r 0 0 []
      else if !Config.copyWorks s.ticks then ((s'.dropCkpt job).progress c 6).answer r 0 0 []
      else
        let t := (u.keepShard (u.sealShard x)).progress c 2
        if c.mode = 1 then ((t.dropCkpt job).progress c 3).answer r 0 0 []
        else { t with ckpts := t.ckpts.map (fun (x : Ckpt) => if x.job = job then { c with phase := CkptPhase.copied } else x) }.answer
          r 0 0 [])))

/-- BUDDY_SEAL (R462): the buddy's copy is sealed, and the step is complete on this package. -/
def execBuddySeal (job : Word) (s : State) : Out :=
  .next (match s.ckpt? job with
    | none => s
    | some c => if c.phase = .copied then (s.dropCkpt job).progress c 3 else s)

/-! ### Restore (R467, R468) -/

/-- The newest step of a job that is sealed here and on every other package. -/
def State.commonStep (s : State) (job : Word) : Option Shard :=
  newestShard (s.shards.filter (fun x => decide (x.job = job) && x.sealed s.stored && Config.peersHold job.toNat x.step.toNat))

/-- Whether a chunk matches its KEY. -/
def ShardChunk.ok (c : ShardChunk) : Bool := decide (c.key = sha256 c.text)

/-- The code with which a restore fails, or the shard that it loads. -/
def State.restoreTest (s : State) (job : Word) (spare failed : Nat) : Except Nat Shard :=
  match s.commonStep job with
  | none => .error 1
  | some x =>
    if !Config.spareFit spare failed then .error 3
    else if spare = s.pkg ∨ !Config.buddyReadable job.toNat x.step.toNat then .error 4
    else if !x.chunks.all (·.ok) then .error 2
    else .ok x

/-- The live state of some networks discarded. -/
def State.discardNets (s : State) (l : List Nat) : State :=
  let s := (s.procs.filter (fun q => l.contains q.pid.netid)).foldl
    (fun (s : State) q => (s.dequeue q.tile q.pid).freeHarts q.pid) s
  { s with
    asyncs := s.asyncs.filter (fun a => !(a.pid.any (fun p => l.contains p.netid)))
    nets := s.nets.filter (fun n => !l.contains n.netid)
    procs := s.procs.filter (fun q => !l.contains q.pid.netid) }

/-- A range of a set of numbers, in units, taken from another set. -/
def rangeFrom (unit base n : Nat) (from_ to_ : List Nat) : List Nat :=
  (inRange unit base n from_).foldl setAdd (to_.filter (fun k => !(decide (base ≤ unit * k) && decide (unit * k < base + n))))

/-- A range of a memory taken from another. -/
def Memory.takeRange (base n : Nat) (from_ to_ : Memory) : Memory :=
  Memory.storeAll (Memory.clear base n to_) (from_.filter (fun c => decide (base ≤ c.1) && decide (c.1 < base + n)))

/-- A range of tile memory taken from cells with their granule bits and poison marks. -/
def State.takeTm (s : State) (lo len : Nat) (m : Memory) (full pois : List Nat) : State :=
  { s with
    tm := Memory.takeRange lo len m s.tm
    tmFull := rangeFrom 64 lo len full s.tmFull
    tmPois := rangeFrom 8 lo len pois s.tmPois }

/-- The ranges of a tile's memory that processes of other networks than some hold: their blocks and rings. -/
def State.othersOn (s : State) (t : Nat) (nets : List Nat) : List (Nat × Nat) :=
  (s.procs.filter (fun q => q.live && q.tile == t && !nets.contains q.pid.netid)).flatMap (fun q =>
    ((q.kbase, q.klen) :: (s.ringsOf q.pid).map (fun r => (r.2.2.1, r.2.2.2))).map (fun r => (tmKey t r.1, r.2)))

/-- A chunk of tile memory loaded whole (R467), but for what processes of other networks hold on the tile; the acts of
marking are logged (R420). -/
def State.loadTm (s : State) (nets : List Nat) (c : ShardChunk) : State :=
  if c.kind ≠ 0 then s
  else
    let t := s.takeTm c.base c.len c.cells c.full c.pois
    let t := (s.othersOn c.tile nets).foldl (fun (t : State) r => t.takeTm r.1 r.2 s.tm s.tmFull s.tmPois) t
    t.logMoved c.tile ((inRange 8 c.base c.len t.tmPois).filter (fun w => !setHas s.tmPois w))

/-- A chunk of global memory loaded; the acts of marking are logged. -/
def State.loadGm (s : State) (c : ShardChunk) : State :=
  if c.kind = 0 then s
  else
    let t : State := { s with
      gm := Memory.takeRange c.base c.len c.cells s.gm
      gmKey := c.tags.foldl (fun (l : List (Nat × XtsKey)) x => numPut l x.1 x.2)
        (s.gmKey.filter (fun x => decide (64 * x.1 < c.base) || decide (c.base + c.len ≤ 64 * x.1)))
      gmFull := rangeFrom 64 c.base c.len c.full s.gmFull
      gmPois := rangeFrom 64 c.base c.len c.pois s.gmPois }
    t.logGmPois ((inRange 64 c.base c.len t.gmPois).filter (fun g => !setHas s.gmPois g)) 0

/-- A rank entry of the failed package, which the spare takes over. -/
def entryMove (failed spare : Nat) (e : Word) : Word :=
  let ep := e.toNat % 2 ^ 13
  if ep / 4 = failed ∧ entryPlaced e then BitVec.ofNat 64 (e.toNat - ep + 4 * spare + ep % 4) else e

/-- A shard loaded: tile memory, global memory, networks, processes and transfer records. -/
def State.loadShard (s : State) (x : Shard) (spare failed : Nat) : State :=
  let s := s.discardNets (x.nets.map (·.netid))
  let nets := x.nets.map (fun n => { n with
    entries := n.entries.map (entryMove failed spare), changedAt := s.time, deadlockTold := false })
  let procs := x.procs.map (fun (q : Proc) => { q with stopDue := false })
  let s := { s with nets := s.nets ++ nets, procs := s.procs ++ procs, asyncs := s.asyncs ++ x.transfers }
  let s := x.chunks.foldl (fun (s : State) c => (s.loadTm (x.nets.map (·.netid)) c).loadGm c) s
  (procs.foldl (fun (s : State) q => match q.status with
    | .ready _ => s.enqueue q.tile q.pid q.level false
    | _ => s) s).wakeReady

/-- A device's regions on a failed package at their places on the spare, with the tables that name them (R467). -/
def State.retable (s : State) (d : VDev) (spare failed : Nat) : State :=
  let rs := d.regions.filter (fun r => r.endpoint / 4 == failed)
  let base := movedBase spare
  (State.rewriteTable (movedPte rs base) 5 s (d.rootEp * Config.localBytes + d.rootAddr)).mapVdev d.vdid (fun d => { d with
    regions := d.regions.map (fun r => if r.endpoint / 4 = failed then
      { r with endpoint := base r.id / Config.localBytes, base := base r.id % Config.localBytes } else r) })

/-- Report kind 9. -/
def State.restored (s : State) (r : HostRequest) (job step : Word) (result : Nat) : State :=
  (s.report r.vdid 9 (reqTag r) 0 (leBytes 8 job.toNat ++ leBytes 8 step.toNat ++ leBytes 4 result ++ leBytes 4 0)).answer r 0 0 []

/-- The steps that a package reports as sealed in its reserve when a restore begins (R467).
DESIGN CHOICE: R458 gives this report no kind; it is of kind 0, with JOB and the steps as its body. -/
def State.stepsHeld (s : State) (r : HostRequest) (job : Word) : State :=
  s.report r.vdid 0 (reqTag r) 0 (leBytes 8 job.toNat ++
    (s.shards.filter (fun x => decide (x.job = job) && x.sealed s.stored)).flatMap (fun x => leBytes 8 x.step.toNat))

/-- RESTORE (R467): the steps held are reported, and a restore that fails changes nothing else. -/
def execRestore (r : HostRequest) (s : State) : Out :=
  .next (s.onRequest r 7 (fun s => s.reqDev r (fun s d =>
    let job := BitVec.ofNat 64 (field (reqBody r) 0 8)
    if s.migrating d.vdid then s.answer r 5 0 []
    else
      let spare := field (reqBody r) 8 2
      let failed := field (reqBody r) 10 2
      let s := s.stepsHeld r job
      match s.restoreTest job spare failed with
      | .error e => s.restored r job 0 e
      | .ok x => (((s.dropCkpt job).loadShard x spare failed).retable d spare failed).restored r job x.step 0)))

end Sys2Proof.Machine
end

