-- ==== Sys2Proof/Machine/Cycle.lean ====
section
/-! DEFINITION. What a step is about and what surrounds it: inputs, asynchronous writers and engines, the selected hart's
fetch, the waits of a hart, and after each step time, the counters, and what the engines do by themselves (R3, R35, R119,
R137, R155 to R157, R345, R369, R377, R381, R454, R471, R472, R478). -/

namespace Sys2Proof.Machine

/-! ### The groups' exchanges and barriers (R288 to R292, R296) -/

/-- What the arbiter and the fabric can do for a group now: a calendar computed, a calendar delivered, the next send run,
the next bytes landed, a closing flit delivered, the barrier completed. -/
noncomputable def Group.work (q : Group) (n : Network) (g : Nat) : List Instr :=
  let netid := n.netid
  let idx := upTo q.members.length
  let cals := match q.openSeq n with
    | some seq => if (q.issued.map (·.seq)) = some seq then
        idx.filterMap (fun i => (q.exch? i).bind (fun x => if x.calendar.isNone then some (.calendarArrival netid g i) else none))
      else [.phaseCalendarCompute netid g]
    | none => []
  let runs := idx.filterMap (fun i => (q.exch? i).bind (fun x => x.calendar.bind (fun c =>
    if x.runsDone < c.runs.length then some (.phaseStart netid g i x.runsDone) else none)))
  let lands := idx.flatMap (fun i => match q.exch? i with
    | some x => (((x.wire ++ x.flights).map (·.receiver)).eraseDups).map (fun r => .exchangeBytesLand netid g i r)
    | none => [])
  let flits := idx.flatMap (fun i => match q.exch? i with
    | some x => x.flits.map (fun r => .closingFlit netid g i r)
    | none => [])
  cals ++ runs ++ lands ++ flits ++ (if (q.ready n || !q.leavers.isEmpty) && !q.members.isEmpty then [.barrierCompletion netid g] else [])

/-- What the engines of the package can do by themselves now, beside the harts: perform an asynchronous write, write the
log, serve the groups, and report a network that is over. -/
noncomputable def State.internal (s : State) : List Instr :=
  (if s.asyncs.isEmpty then [] else [.granuleMarking (Config.enginePick s.ticks)]) ++
  (if s.logEvents.isEmpty then [] else [.logEntryWrite]) ++
  s.nets.flatMap (fun n => (n.groups.mapIdx (fun g q => q.work n g)).flatten ++
    (if s.netOver n then [.networkCompletion n.netid] else []))

/-! ### A hart that waits -/

/-- The element that a reply arrives for: any of those outstanding (R233). -/
def State.replyElem (s : State) (todo : List ElemAccess) : Nat :=
  ((todo[Config.replyPick s.ticks % Nat.max todo.length 1]?).map (·.elem)).getD 0

/-- The next thing that may end a group's wait. -/
noncomputable def State.groupNext (s : State) (g : Nat) : Option Instr :=
  match s.hart.pid with
  | none => none
  | some p => (s.group? p.netid g).bind (fun x => (x.2.work x.1 g).head?)

/-- What may happen to a selected hart that waits: its hart is given up, or the wait is tried. -/
noncomputable def State.waitNext (s : State) (w : Wait) : Option Instr :=
  let yields := match s.hart.chanWait, s.myProc? with
    | some n, some q => w.yields && !s.waitOver q w && (q.safeTab[n]?).any (fun e => s.wanted q e)
    | _, _ => false
  if yields then some .hartDispatch
  else match w with
    | .crd _ _ _ | .crdm _ _ _ _ | .vcrd _ _ _ => some .channelReadUnblock
    | .cwr _ _ | .cwrm _ _ _ | .vcwr _ _ | .cclose _ => some .channelWriteUnblock
    | .ldsync _ _ _ _ _ | .vldsync _ _ _ _ _ => some .granuleWaitComplete
    | .tlbinv _ => if s.asyncs.isEmpty then none else some (.granuleMarking (Config.enginePick s.ticks))
    | .reply _ _ _ todo _ _ _ _ => some (.globalLoadReply (s.replyElem todo))
    | .pops _ _ _ es _ => some (.globalLoadReply ((es.head?.map (·.elem)).getD 0))
    | .joinl => some .joinlComplete
    | .waitt _ => some .waittWake
    | .sunb _ => some .sunbComplete
    | .txEntry _ => some (.granuleMarking (Config.enginePick s.ticks))
    | .dgrant _ _ _ g | .barrier g => s.groupNext g
    | .vstm _ _ _ _ _ _ => some (.vstmAck (Config.mcastFailed s.ticks))

/-! ### A hart that runs (R155 to R157, R345, R471) -/

/-- What a step does: an instruction or event executed in a state, and whether the selected hart issued it itself. -/
structure Todo where
  instr : Option Instr
  own : Bool
  on : State

/-- The next instruction of a running hart: the first that ERET re-issues, a breakpoint, or the word at the program
counter. A recorded word of ERET that is no instruction traps as a fetched one does. -/
noncomputable def State.runNext (s : State) : Todo :=
  match s.hart.current, s.hart.replay with
  | none, r :: rest =>
    let t := { s with hart := { s.hart with replay := rest, current := some r } }
    ⟨some ((decode r.entry.word).getD (.illegalInstruction r.entry.word)), true, t⟩
  | _, _ =>
    match s.breakAt s.hart.pc with
    | some n => ⟨none, false, s.trap causeBrk (brkVal n)⟩
    | none =>
      if s.fetchOk then ⟨some ((decode s.fetchWord).getD (.illegalInstruction s.fetchWord)), true, s⟩
      else ⟨some .fetchProt, true, s⟩

/-- What the selected hart does. -/
noncomputable def State.hartNext (s : State) : Todo :=
  match s.hart.status with
  | .idle => ⟨some .hartDispatch, false, s⟩
  | .running => s.runNext
  | .blocked (.pops word _ _ [] u) =>
    -- the replies for its strips have come: the instruction is issued again
    ⟨some ((decode word).getD (.illegalInstruction word)), true, s.reissued u⟩
  | .blocked w => ⟨s.waitNext w, false, s⟩
  | .parked => ⟨none, false, s⟩

/-! ### Inputs -/

/-- Whether an event is one that comes from outside the hart: no instruction word, and none of the traps that belong to
a hart's own fetch and issue. -/
def isInput (i : Instr) : Bool :=
  i.wellFormed && !i.isWord && (match i with
    | .steepFault | .illegalInstruction _ | .fetchProt => false
    | _ => true)

/-- What happens inside the package: what an engine does, or the selected hart; nothing without power. -/
noncomputable def State.inside (s : State) : Todo :=
  if s.power = .ready then
    if !s.internal.isEmpty && Config.engineMoves s.ticks then
      ⟨s.internal[Config.enginePick s.ticks % Nat.max s.internal.length 1]?, false, s⟩
    else s.hartNext
  else ⟨none, false, s⟩

/-- What the next step is about: the oldest input, where it is due, or what happens inside. -/
noncomputable def State.todo (s : State) : Todo :=
  match s.events with
  | (k, i) :: rest => if k ≤ s.ticks then ⟨some i, false, { s with events := rest }⟩ else s.inside
  | [] => s.inside

/-- Whether the input that is due is none that an outside agent can bring. -/
def State.badEvent (s : State) : Bool :=
  match s.events with
  | (k, i) :: _ => decide (k ≤ s.ticks) && !isInput i
  | [] => false

/-! ### After a step -/

/-- Whether a hart waits. -/
def Hart.waits (h : Hart) : Bool := match h.status with
  | .blocked _ => true
  | _ => false

/-- Whether a hart b has completed an instruction at P on the way to a state t (R478): it runs on at P, it trapped past the
end of its instruction, or it is a child that a JOINL ended. -/
def completedAtP (b : Hart) (t : State) (i : Option Instr) : Bool :=
  decide (b.priv = .p) && b.pid.isSome && (match t.harts.find? (fun h => decide (h.id = b.id)) with
    | none => b.parent.isSome && decide (i = some .joinl)
    | some h => decide (h.pid = b.pid) &&
      ((decide (h.priv = .p) && decide (h.status = .running)) ||
       (decide (h.priv = .s) && decide (h.tpc = b.pc + 4) && h.tprog.toList.all (·.isNone) && b.current.isNone)))

/-- The harts that have completed an instruction at P in a step from s to t: the selected one, where it issued it or waited
in it, and every other that waited in one. TCAP 1 begins the count after itself. -/
def State.completers (s t : State) (i : Option Instr) (own : Bool) : List Hart :=
  s.harts.filter (fun b => (b.waits || (own && decide (b.id = s.hart.id))) && decide (i ≠ some .tcapStart) && completedAtP b t i)

/-- A process's capture counts an instruction, where it is active in s. -/
def State.countFor (s t : State) (b : Hart) : State :=
  match b.pid with
  | some p => if (s.proc? p).any (fun q => q.capture.active) then t.mapProc p Proc.countInstr else t
  | none => t

/-- Whether the entry that ERET passes over has been passed by a hart b of s that stands as h after a step: it has executed
something, or its wait is over. -/
def State.passedBy (s : State) (b h : Hart) (i : Option Instr) (own : Bool) : Bool :=
  !h.waits && (b.waits || (own && decide (b.id = s.hart.id))) && decide (i ≠ some .eret)

/-- The account of a step: INSTR of the active captures, the process's first instruction, and what holds for one
instruction alone: an expiry, replies that have come, the entry that ERET passes over (R472). -/
def State.account (s t : State) (i : Option Instr) (own : Bool) : State :=
  let t := (s.completers t i own).foldl s.countFor t
  let t := if own && s.atP then
      match s.hart.pid with
      | some p => t.mapProc p (fun q => { q with issued := true })
      | none => t
    else t
  t.mapHarts (fun h =>
    let h := if own && decide (h.id = s.hart.id) then { h with expireAt := none, asked := false } else h
    if h.noMatch.isSome && (s.harts.find? (fun b => decide (b.id = h.id))).any (fun b => s.passedBy b h i own)
    then { h with noMatch := none } else h)

/-- Time passes: TIME, which never falls, the step counter, the cycles for which a process is charged while it holds a hart,
and the cycles of the captures of processes that hold one at P, of which STALL counts some, and ADMIT some of those (R429,
R460, R478). -/
def State.pass (s : State) : State :=
  let on := fun (p : Pid) => s.harts.any (fun h => h.pid == some p)
  let held := fun (p : Pid) => (s.harts.filter (fun h => h.pid == some p && decide (h.priv = .p))).length
  { s with
    ticks := s.ticks + 1
    time := if s.power = .off then s.time
      else BitVec.ofNat 64 (Nat.min (s.time.toNat + Config.elapsed s.ticks) (2 ^ 64 - 1))
    procs := s.procs.map (fun q =>
      let q := if on q.pid then { q with held := q.held + Config.cycles s.ticks } else q
      if q.capture.active && decide (0 < held q.pid) then
      let cycles := held q.pid * Config.cycles s.ticks
      let stall := Nat.min cycles (Config.stallCycles s.ticks)
      { q with capture := { q.capture with
        cycles := q.capture.cycles + BitVec.ofNat 64 cycles
        stall := q.capture.stall + BitVec.ofNat 64 stall
        admission := q.capture.admission + BitVec.ofNat 64 (Nat.min stall (Config.admitCycles s.ticks)) } } else q) }

/-- A process of a network whose START has come joins its run queue (R375). -/
def State.startOne (s : State) (q : Proc) : State :=
  match s.net? q.pid.netid with
  | some n =>
    if n.started && n.startAt.any (fun t => decide (t.toNat ≤ s.time.toNat)) then s.joinQueue q.pid else s
  | none => s

/-- The run queues after the starts and the waits that are over at one instant: by increasing NETID, then rank (R377). -/
def State.queueUp (s : State) : State := s.procsInOrder.foldl (fun s q => (s.startOne q).wakeOne q) s

/-- What the engines do as soon as they can: starts, processes whose wait is over, launches, the host's held messages,
status records, invalidations, migrations, and what the host port sends (R451). -/
def State.engines (s : State) : State :=
  if s.power = .ready then
    s.queueUp.resumeWaiting.pumpHeld.pumpLaunch.statusSweep.tlbWake.shootSweep.mcastSweep.migrateOn.pumpOut
  else if s.power = .recovery then s.pumpOut else s

/-- What the sentinel watches of a network (R381). -/
def State.watched (s : State) (n : Network) : List (Nat × Standing) × Bool × Bool :=
  (s.standings n, s.netPending n, n.owed)

/-- Whether a report about a rank on another package reaches the home of a network at this step (R380). -/
def State.reported (s : State) (n : Network) : Bool :=
  n.mine 0 && (upTo n.nproc).any (fun r => n.abroad r) && Config.remoteReport s.ticks n.netid

/-- The instant noted at which something that the sentinel watches has changed since s. -/
def State.noteChanges (s t : State) : State :=
  { t with nets := t.nets.map (fun n => match s.net? n.netid with
      | some o => if s.watched o = t.watched n && !s.reported o then n else { n with changedAt := t.time, deadlockTold := false }
      | none => n) }

/-- The hart that the next step concerns. -/
def State.chooseHart (s : State) : State :=
  match s.sched with
  | [] => s
  | id :: rest => { s with sched := rest }.select id

/-- All that follows a step from s to t. -/
def State.finish (s t : State) (i : Option Instr) (own : Bool) : State :=
  (s.noteChanges ((s.account t i own).pass.engines.silicon s)).chooseHart

/-! ### An instruction placed (the host's probe) -/

/-- A safe-point entry at the block's first word that keeps everything and is not portable. -/
def probeSafe : SafeEntry where
  xlive := 0xFFFFFFFF
  vlive := 0xFFFFFFFF
  plive := 0xFF
  emlive := 0x3F
  slive := 0xF
  portable := false
  chanwait := false
  stub := 0
  resume := 0
  site := 0

/-- The process on the selected hart whose first word is placed. -/
def probeProc (h : HartId) : Proc where
  pid := ⟨1, 0⟩
  vdid := 0
  status := .onHart h
  tile := h.tile
  kernel := 0
  kbase := 0
  klen := Config.tmBytes
  entry := 0
  safeTab := [probeSafe]
  ports := []
  seed := 0
  args := []
  level := 0
  steeplim := 0xFFFFFFFF
  quantum := 0
  ctxptr := 0
  ctxphys := 0
  gen := 0
  switches := 0
  charge := 0
  held := 0
  capture := Capture.zero
  stopDue := false
  binds := []
  issued := false

/-- Its network, of that one process. -/
def probeNet : Network where
  netid := 1
  vdid := 0
  digest := []
  nproc := 1
  chans := []
  groups := []
  entries := [0x100000000#64]
  rankLo := 0
  rankCnt := 1
  started := true
  startAt := none
  caddyVa := 0
  caddyLen := 0
  caddyUsed := 0
  argsVa := 0
  statusVa := 0
  statusDue := false
  changedAt := 0
  deadlockTold := false

/-- The state with a word as the next instruction of the selected hart. -/
def State.placeWord (s : State) (w : Nat) : State :=
  let v := BitVec.ofNat 32 w
  let m := s.tm.store (tmKey s.hart.id.tile 0) [byteOfWord v 0, byteOfWord v 1, byteOfWord v 2, byteOfWord v 3]
  { s with
    power := .ready
    events := []
    sched := []
    asyncs := []
    logEvents := []
    tm := m
    nets := [probeNet]
    procs := [probeProc s.hart.id]
    hart := { s.hart with
      status := .running, priv := .p, pc := 0, pid := some ⟨1, 0⟩, steeplim := 0xFFFFFFFF
      replay := [], current := none, dbg := [], noMatch := none, expireAt := none, asked := false, code := m } }

end Sys2Proof.Machine
end

