-- ==== Sys2Proof/Machine/Branch.lean ====
section
/-! DEFINITION. Branches and jumps (R182 to R185). -/

namespace Sys2Proof.Machine

/-- A conditional branch of major m (R182). -/
def State.branch (s : State) (m : BitVec 6) (a b : BitVec 5) (i : BitVec 16) (taken : Word → Word → Bool) : Out :=
  .next (s.issueX (ri m a b i) gate1 [a, b] (fun s =>
    s.setPc (if taken (s.x a) (s.x b) then s.hart.pc + 4 * i.signExtend 64 else s.hart.pc + 4)))

/-- BEQ (R182). -/
def execBeq (a b : BitVec 5) (i : BitVec 16) (s : State) : Out := s.branch 0x18#6 a b i (fun a b => a == b)
/-- BNE (R182). -/
def execBne (a b : BitVec 5) (i : BitVec 16) (s : State) : Out := s.branch 0x19#6 a b i (fun a b => a != b)
/-- BLT (R182). -/
def execBlt (a b : BitVec 5) (i : BitVec 16) (s : State) : Out := s.branch 0x1A#6 a b i (fun a b => a.slt b)
/-- BGE (R182). -/
def execBge (a b : BitVec 5) (i : BitVec 16) (s : State) : Out := s.branch 0x1B#6 a b i (fun a b => !a.slt b)
/-- BLTU (R182). -/
def execBltu (a b : BitVec 5) (i : BitVec 16) (s : State) : Out := s.branch 0x1C#6 a b i (fun a b => a.ult b)
/-- BGEU (R182). -/
def execBgeu (a b : BitVec 5) (i : BitVec 16) (s : State) : Out := s.branch 0x1D#6 a b i (fun a b => !a.ult b)
/-- J (R183). -/
def execJ (i : BitVec 26) (s : State) : Out :=
  .next (s.issue (jp 0x1E#6 i) gate1 (fun s => s.setPc (s.hart.pc + 4 * i.signExtend 64)))
/-- JAL (R183): x1 receives PC + 4. -/
def execJal (i : BitVec 26) (s : State) : Out :=
  .next (s.issue (jp 0x1F#6 i) gate1 (fun s =>
    (s.setX 1 (s.hart.pc + 4)).setPc (s.hart.pc + 4 * i.signExtend 64)))
/-- JALR (R184): the target is formed before the link is written; a misaligned one traps. -/
def execJalr (d a : BitVec 5) (i : BitVec 16) (s : State) : Out :=
  .next (s.issueX (ri 0x20#6 d a i) gate1 [a] (fun s =>
    let t := s.x a + i.signExtend 64
    if t.toNat % 4 ≠ 0 then s.trap causeMisalign t
    else (s.setX d (s.hart.pc + 4)).setPc t))

end Sys2Proof.Machine
end

