-- ==== Sys2Proof/Machine/Frames.lean ====
section
/-! DEFINITION. Frames that the host port receives: their header, the fragments of a message, and what each class brings
(R451 to R455). -/

namespace Sys2Proof.Machine

/-- Whether a frame's header is wrong: MAGIC, VERSION, the reserved field, or a class that R453 does not list. -/
def frameBad (f : List Byte) : Bool :=
  field f 0 2 != 0x4748 || field f 2 1 != 1 || decide (10 < field f 3 1) || field f 0x1E 2 != 0

/-- The step of a request by its code (R456). -/
def requestExec (code : Nat) : HostRequest → State → Out :=
  match code with
  | 1 => execShootdown
  | 2 => execMigrate
  | 3 => execPeersUpdated
  | 4 => execMulticastGroup
  | 5 => execCheckpoint
  | 6 => execCopy
  | 7 => execRestore
  | 8 => execDeviceAttestation
  | 9 => execEndNetwork
  | 10 => execEndProcess
  | 11 => execPartition
  | 12 => execReadRankEntries
  | 13 => execReadHealth
  | 14 => execReadCharge
  | 32 => execCreate
  | 33 => execDestroy
  | 34 => execKeyLoad
  | 35 => execKeyErase
  | 36 => execPackageAttestation
  | 37 => execLogRead
  | 38 => execArchive
  | 39 => execIslandLimits
  | 40 => execSetOkek
  | 41 => execConfiguration
  | 42 => execFirmwareUpdate
  | _ => execUnknownRequest

/-- The state after a request. -/
def State.request (s : State) (r : HostRequest) : State :=
  match requestExec (reqCode r) r s with
  | .next t => t
  | _ => s

/-- The connection that a frame of a device comes on: the device's first, else one of its first MAC identity with some
host.
DESIGN CHOICE: what carries a frame, below its GHT header, is not part of it here. -/
def State.frameConn (s : State) (vdid : Nat) : Nat :=
  match s.conns.find? (fun c => c.vdid == vdid) with
  | some c => c.id
  | none => ((s.vdev? vdid).bind (·.macs.head?)).getD 0 + 2 ^ 48 * Config.hostPeer s.ticks

/-- A whole message received, by its class: launches, slots, tokens and accesses are performed in order (R454), requests at
once. Only a host's classes bring anything. -/
def State.deliver (s : State) (cls : Nat) (m : HostMsg) : State :=
  match cls with
  | 1 => s.receive 1 m
  | 2 => s.receive (if m.payload.isEmpty then 3 else 2) m
  | 4 => s.receive 4 m
  | 5 => s.receive 5 m
  | 8 => s.request ⟨m.conn, false, m.vdid, m.payload⟩
  | 10 => s.request ⟨m.conn, true, m.vdid, m.payload⟩
  | _ => s

/-- The bytes of a message once every fragment of it has come. -/
def wholeMessage (fs : List (Nat × Bool × List Byte)) : Option (List Byte) :=
  (fs.find? (·.2.1)).bind (fun l =>
    (upTo (l.1 + 1)).foldl (fun (o : Option (List Byte)) j => o.bind (fun bs =>
      (fs.find? (fun f => f.1 == j)).map (fun f => bs ++ f.2.2))) (some []))

/-- A frame with a right header, received: its acknowledgement counts, and where it carries the next message of its
connection, that is performed once it is whole; any other message is one performed before, or one that is to be sent
again (R451, R452).
DESIGN CHOICE: a frame shorter than its LENGTH says brings nothing. -/
def State.frameIn (s : State) (f : List Byte) : State :=
  let cls := field f 3 1
  let vdid := field f 4 2
  let seq := field f 8 8
  let frag := field f 0x1C 2
  let len := field f 0x18 4
  if s.power = .off ∨ f.length < 32 + len then s
  else
    let c := s.frameConn vdid
    let s := s.ackUpTo c (field f 0x10 8)
    if seq = 0 then s
    else
      let s := s.openConn c vdid
      match s.conn? c with
      | none => s
      | some x =>
        if x.vdid ≠ vdid ∨ seq ≠ x.rxSeq + x.held.length + 1 ∨ x.frags.any (fun g => g.1 == frag % 2 ^ 15) then s
        else
          let fs := x.frags ++ [(frag % 2 ^ 15, decide (2 ^ 15 ≤ frag), (f.drop 32).take len)]
          match wholeMessage fs with
          | none => s.mapConn c (fun x => { x with frags := fs })
          | some bs => (s.mapConn c (fun x => { x with frags := [] })).deliver cls ⟨c, vdid, field f 6 2, seq, bs⟩

/-- GHT_FRAME_DROPPED: a frame that its header condemns is dropped and counted; any other is received. -/
def execGhtFrameDropped (frame : List Byte) (s : State) : Out :=
  .next (if frameBad frame then { s with framesDropped := s.framesDropped + 1 } else s.frameIn frame)

end Sys2Proof.Machine
end

