-- ==== Sys2Proof/Machine/Lanes.lean ====
section
/-! DEFINITION. Lanes: FORKL and JOINL (R39 to R43, R263, R264). -/

namespace Sys2Proof.Machine

/-- A hart of which the vector registers, the predicates, VL and the banks have become undefined and the shape is
withdrawn (R39, R42); t and n pick the free values. -/
def Hart.vague (h : Hart) (t n : Nat) : Hart :=
  { h.undefV t with
    p := Vector.ofFn (fun i : Fin 8 => Config.undefPred t (8 * n + i.val))
    vl := BitVec.ofNat 17 (Config.undefVl (2 * t + n) % (vlmaxOf h.lanes h.vtype + 1))
    m := Vector.replicate 2 ⟨some t, [], []⟩
    msm := 0
    msn := 0
    msk := 0 }

/-- The front end of a lane (R33). -/
def frontOf (lane : Nat) : Nat := lane / 4

/-- The child that FORKL makes of a hart, at a target (R39). -/
def Hart.fork (h : Hart) (target : Word) (t : Nat) : Hart :=
  let half := h.lanes / 2
  let lane := h.lane0 + half
  ({ Hart.powerOn ⟨h.id.tile, frontOf lane⟩ lane half with
    status := .running
    priv := h.priv
    pc := target
    pid := h.pid
    parent := some h.id.front
    x := h.x
    xPois := h.xPois
    vtype := h.vtype
    srseed := h.srseed
    srcount := h.srcount
    msprec := h.msprec
    msanchor := h.msanchor
    telem := h.telem
    steepcnt := h.steepcnt
    steeplim := h.steeplim
    quantum := h.quantum
    prioLevel := h.prioLevel
    prioCeil := h.prioCeil
    ctxptr := h.ctxptr
    dbg := h.dbg
    code := h.code }).vague t 1

/-- A command that holds no entry of a hart: the entries of a new child start empty (R264). -/
def AsyncWrite.disown (h : HartId) (a : AsyncWrite) : AsyncWrite := if a.owner = some h then { a with owner := none } else a

/-- FORKL (R39). -/
def execForkl (i : BitVec 16) (s : State) : Out :=
  .next (s.issue (ri 0x32#6 0#5 0#5 i)
    { gate1 with priv := !s.atP, vcfg := decide (s.hart.lanes < 8) || s.hart.child.isSome, stream := s.hart.anyBinding }
    (fun s =>
      let c := s.hart.fork (s.hart.pc + 4 * i.signExtend 64) s.ticks
      let h := { s.hart with lanes := s.hart.lanes / 2, child := some c.id.front }
      { s with
        hart := h.vague s.ticks 0, others := s.others ++ [c]
        asyncs := s.asyncs.map (AsyncWrite.disown c.id) }.advance))

/-- The hart after it joins its child (R41, R42). -/
def Hart.absorb (h : Hart) (r : JoinRecord) (t : Nat) : Hart :=
  let g := { h with
    lanes := 2 * h.lanes
    child := none
    joined := none
    fflags := h.fflags ||| r.fflags
    srcount := h.srcount + r.draws
    draws := h.draws + r.draws
    steepcnt := if h.steepcnt.ult r.steep then r.steep else h.steepcnt
    qcount := h.qcount + r.units }
  g.vague t 0

/-- What a child leaves for its parent. -/
def Hart.record (h : Hart) : JoinRecord := ⟨h.fflags, h.draws, h.steepcnt, h.qcount⟩

/-- The end of a child (R41): its record goes to its parent, which is selected next; its registers are discarded. -/
def State.leaveJoin (s : State) : State :=
  let isParent := fun (h : Hart) => h.id.tile == s.hart.id.tile && h.child == some s.hart.id.front
  match s.others.find? isParent with
  | none => s
  | some p => { s with
      hart := { p with joined := some s.hart.record }
      others := s.others.filter (fun h => !isParent h) }

/-- JOINL past its tests: it joins an outstanding child first, waiting for it, and a child then ends (R41, R42). -/
def State.joinlGo (s : State) : State :=
  if s.hart.child.isSome && s.hart.joined.isNone then s.block .joinl
  else
    let s := match s.hart.joined with
      | some r => { s with hart := s.hart.absorb r s.ticks }
      | none => s
    if s.hart.parent.isSome then s.leaveJoin else s.advance

/-- JOINL. -/
def execJoinl (s : State) : Out :=
  .next (s.issue (ri 0x32#6 0#5 1#5 0#16)
    { gate1 with priv := !s.atP, vcfg := s.hart.parent.isNone && s.hart.child.isNone } State.joinlGo)

/-- JOINL_COMPLETE (R42): a JOINL that waits is tried again, and completes once the child has executed JOINL. -/
def execJoinlComplete (s : State) : Out :=
  .next (match s.hart.status with
    | .blocked .joinl => s.unblock.joinlGo
    | _ => s)

end Sys2Proof.Machine
end

