-- ==== Sys2Proof/Machine/VFloat.lean ====
section
/-! DEFINITION. Vector floating point: arithmetic, comparisons, sign injection, conversions, estimates and fused forms (R209 to R216). -/

namespace Sys2Proof.Machine

/-- fmt(SEW, FMT) (R200). -/
def State.fmt (s : State) : Fmt := fmtOf s.sew (vtFmt s.hart.vtype)
/-- Rounding by VTYPE.RM. -/
def State.rdir (s : State) : RDir := .mode (vtRm s.hart.vtype)

/-- A binary operation of major 0x24. -/
def State.vfp (s : State) (fn : BitVec 7) (d a b : BitVec 5) (p : BitVec 3) (sc : BitVec 1) (vcfg : Bool)
    (f : Nat → Nat → Nat × FFlags) : Out :=
  .next (s.vvBin (vv 0x24#6 d a b p sc fn) d a b p sc vcfg f)
/-- A unary operation of major 0x24. -/
def State.vfp1 (s : State) (fn : BitVec 7) (d a : BitVec 5) (p : BitVec 3) (vcfg : Bool) (f : Nat → Nat × FFlags) : Out :=
  .next (s.vvUn (vv 0x24#6 d a 0#5 p 0#1 fn) d a p vcfg f)
/-- A comparison of major 0x24. -/
def State.vfcmp (s : State) (fn : BitVec 7) (d : BitVec 3) (a b : BitVec 5) (p : BitVec 3) (sc : BitVec 1) (c : FCond) :
    Out :=
  .next (s.vvCmp (vv 0x24#6 (0#2 ++ d) a b p sc fn) d a b p sc (s.fmt.compare c))

/-- a with its sign bit replaced (R211). -/
def Fmt.withSign (f : Fmt) (a : Nat) (neg : Bool) : Nat := a % f.signBit + (if neg then f.signBit else 0)
/-- The sign bit of an encoding. -/
def Fmt.sign (f : Fmt) (a : Nat) : Bool := a.testBit (f.width - 1)

/-- A fused operation of major 0x25; the addend is v[d] as it stood (R212). -/
def State.vfused (s : State) (fn : BitVec 7) (d a b : BitVec 5) (p : BitVec 3) (sc : BitVec 1) (negP negC : Bool) : Out :=
  let w := s.sew
  .next (s.vrun (s.vvInstr (vv 0x25#6 d a b p sc fn) d a b p sc true false) (fun s h =>
    s.elemLoop (h.poisIn w (vvRegs d a b sc true)) w d.toNat
      (fun i => s.fmt.fma s.rdir negP negC (h.elem w a.toNat i) (s.operandB h b sc w i) (h.elem w d.toNat i))
      (s.actives p) 0))

/-- VFADD (R209). -/
def execVfadd (d a b : BitVec 5) (p : BitVec 3) (sc : BitVec 1) (s : State) : Out :=
  s.vfp 0x0#7 d a b p sc false (s.fmt.add s.rdir)
/-- VFSUB (R209). -/
def execVfsub (d a b : BitVec 5) (p : BitVec 3) (sc : BitVec 1) (s : State) : Out :=
  s.vfp 0x1#7 d a b p sc false (s.fmt.sub s.rdir)
/-- VFMUL (R209). -/
def execVfmul (d a b : BitVec 5) (p : BitVec 3) (sc : BitVec 1) (s : State) : Out :=
  s.vfp 0x2#7 d a b p sc false (s.fmt.mul s.rdir)
/-- VFDIV (R209). -/
def execVfdiv (d a b : BitVec 5) (p : BitVec 3) (sc : BitVec 1) (s : State) : Out :=
  s.vfp 0x3#7 d a b p sc false (s.fmt.div s.rdir)
/-- VFMIN (R209). -/
def execVfmin (d a b : BitVec 5) (p : BitVec 3) (sc : BitVec 1) (s : State) : Out :=
  s.vfp 0x5#7 d a b p sc false (s.fmt.minmax false)
/-- VFMAX (R209). -/
def execVfmax (d a b : BitVec 5) (p : BitVec 3) (sc : BitVec 1) (s : State) : Out :=
  s.vfp 0x6#7 d a b p sc false (s.fmt.minmax true)
/-- VFSQRT (R209). -/
def execVfsqrt (d a : BitVec 5) (p : BitVec 3) (s : State) : Out := s.vfp1 4#7 d a p false (s.fmt.sqrt s.rdir)
/-- VFCMP.EQ (R210). -/
def execVfcmpEq (d : BitVec 3) (a b : BitVec 5) (p : BitVec 3) (sc : BitVec 1) (s : State) : Out :=
  s.vfcmp 0x8#7 d a b p sc .eq
/-- VFCMP.NE (R210). -/
def execVfcmpNe (d : BitVec 3) (a b : BitVec 5) (p : BitVec 3) (sc : BitVec 1) (s : State) : Out :=
  s.vfcmp 0x9#7 d a b p sc .ne
/-- VFCMP.LT (R210). -/
def execVfcmpLt (d : BitVec 3) (a b : BitVec 5) (p : BitVec 3) (sc : BitVec 1) (s : State) : Out :=
  s.vfcmp 0xA#7 d a b p sc .lt
/-- VFCMP.LE (R210). -/
def execVfcmpLe (d : BitVec 3) (a b : BitVec 5) (p : BitVec 3) (sc : BitVec 1) (s : State) : Out :=
  s.vfcmp 0xB#7 d a b p sc .le
/-- VFCMP.GT (R210). -/
def execVfcmpGt (d : BitVec 3) (a b : BitVec 5) (p : BitVec 3) (sc : BitVec 1) (s : State) : Out :=
  s.vfcmp 0xC#7 d a b p sc .gt
/-- VFCMP.GE (R210). -/
def execVfcmpGe (d : BitVec 3) (a b : BitVec 5) (p : BitVec 3) (sc : BitVec 1) (s : State) : Out :=
  s.vfcmp 0xD#7 d a b p sc .ge
/-- VFCMP.UN (R210). -/
def execVfcmpUn (d : BitVec 3) (a b : BitVec 5) (p : BitVec 3) (sc : BitVec 1) (s : State) : Out :=
  s.vfcmp 0xE#7 d a b p sc .un
/-- VFSGN.J (R211). -/
def execVfsgnJ (d a b : BitVec 5) (p : BitVec 3) (sc : BitVec 1) (s : State) : Out :=
  s.vfp 0x10#7 d a b p sc false (fun a b => (s.fmt.withSign a (s.fmt.sign b), 0))
/-- VFSGN.JN (R211). -/
def execVfsgnJn (d a b : BitVec 5) (p : BitVec 3) (sc : BitVec 1) (s : State) : Out :=
  s.vfp 0x11#7 d a b p sc false (fun a b => (s.fmt.withSign a (!s.fmt.sign b), 0))
/-- VFSGN.JX (R211). -/
def execVfsgnJx (d a b : BitVec 5) (p : BitVec 3) (sc : BitVec 1) (s : State) : Out :=
  s.vfp 0x12#7 d a b p sc false (fun a b => (s.fmt.withSign a (s.fmt.sign a != s.fmt.sign b), 0))
/-- VFCLASS (R211). -/
def execVfclass (d a : BitVec 5) (p : BitVec 3) (s : State) : Out :=
  s.vfp1 0x13#7 d a p false (fun a => (s.fmt.classify a, 0))

/-! ### Conversions (R213 to R215) -/

/-- The rank of element i among the active elements that the instruction has left to do (R68). -/
def rankIn (l : List Nat) (i : Nat) : Nat := (l.takeWhile (fun j => decide (j < i))).length

/-- The upper word of the draw for the k-th element drawn from now on (R68, R95). -/
def State.drawAt (s : State) (k : Nat) : Nat :=
  drawOf s.hart.srseed (BitVec.ofNat 64 ((s.hart.pid.map (·.rank)).getD 0)) (s.hart.srcount + BitVec.ofNat 64 k)

/-- The state after n draws (R41, R68). -/
def State.drew (s : State) (n : Nat) : State :=
  { s with hart := { s.hart with srcount := s.hart.srcount + BitVec.ofNat 64 n, draws := s.hart.draws + BitVec.ofNat 64 n } }

/-- The end of a stochastic instruction: SRCOUNT advances by the elements done (R68). -/
def VEnd.drew (e : VEnd) (l : List Nat) : VEnd :=
  match e with
  | .done s => .done (s.drew l.length)
  | .stop s c v i pr td => .stop (s.drew (rankIn l i)) c v i pr td
  | .wait s => .wait s

/-- Registers of a source group of element width ws (R214). -/
def State.srcGrp (s : State) (ws : Nat) : Nat := Nat.max 1 (s.grp * ws / s.sew)

/-- The shape of VFCVT: the source group and its VCFG conditions, and `f` for an element with its draw. -/
def State.vfcvt (s : State) (word : IWord) (d a : BitVec 5) (p : BitVec 3) (ws : Nat) (draws : Bool)
    (f : RDir → Nat → Nat × FFlags) : Out :=
  let w := s.sew
  let eg := s.srcGrp ws
  .next (s.vrun { word := word, srcs := [(a.toNat, eg)], dsts := [(d.toNat, s.grp)], pred := p, reads := [], xa := 0, xb := 0
                  units := s.rows (Nat.max ws w)
                  vcfg := s.badGroup d || decide (8 * w < s.grp * ws) || decide (a.toNat % eg ≠ 0) ||
                    decide (vtRc s.hart.vtype < a.toNat + eg)
                  vl0 := false } (fun s h =>
    let l := s.actives p
    if draws then
      (s.elemLoop (h.poisIn ws [a.toNat]) w d.toNat
        (fun i => f (.draw (s.drawAt (rankIn l i))) (h.elem ws a.toNat i)) l 0).drew l
    else s.elemLoop (h.poisIn ws [a.toNat]) w d.toNat (fun i => f s.rdir (h.elem ws a.toNat i)) l 0))

/-- VFCVT class 0 (R88, R213): stochastic when it narrows and VTYPE.SR is set. -/
def execVfcvtFf (d a : BitVec 5) (src : BitVec 3) (p : BitVec 3) (s : State) : Out :=
  let from_ := fmtCode src.toNat
  s.vfcvt (vv 0x24#6 d a (0#2 ++ src) p 0#1 0x14#7) d a p from_.width
    (vtSr s.hart.vtype && narrowing from_ s.fmt) (fun r x => s.fmt.round r (from_.decode x))
/-- VFCVT class 1 (R89). -/
def execVfcvtFs (d a : BitVec 5) (src : BitVec 3) (p : BitVec 3) (s : State) : Out :=
  let from_ := fmtCode src.toNat
  s.vfcvt (vv 0x24#6 d a (1#2 ++ src) p 0#1 0x14#7) d a p from_.width false
    (fun r x => toInt r true s.sew (from_.decode x))
/-- VFCVT class 2 (R89). -/
def execVfcvtFu (d a : BitVec 5) (src : BitVec 3) (p : BitVec 3) (s : State) : Out :=
  let from_ := fmtCode src.toNat
  s.vfcvt (vv 0x24#6 d a (2#2 ++ src) p 0#1 0x14#7) d a p from_.width false
    (fun r x => toInt r false s.sew (from_.decode x))
/-- VFCVT class 3 (R90). -/
def execVfcvtIf (d a : BitVec 5) (u : BitVec 1) (wd : BitVec 2) (p : BitVec 3) (s : State) : Out :=
  let ws := 8 <<< wd.toNat
  s.vfcvt (vv 0x24#6 d a (3#2 ++ u ++ wd) p 0#1 0x14#7) d a p ws false
    (fun r x => s.fmt.ofInt r (if u = 1 then (x : Int) else sextNat ws x))

/-! ### Estimates, steps, exponential and logarithm (R216) -/

/-- SEW 8 is not allowed. -/
def State.noEstimate (s : State) : Bool := s.sew == 8
/-- SEW 8 and 64 are not allowed. -/
def State.noExp (s : State) : Bool := s.sew == 8 || s.sew == 64

/-- VFRCPE (R106). -/
def execVfrcpe (d a : BitVec 5) (p : BitVec 3) (s : State) : Out := s.vfp1 0x18#7 d a p s.noEstimate s.fmt.rcpe
/-- VFRCPS (R107). -/
def execVfrcps (d a b : BitVec 5) (p : BitVec 3) (sc : BitVec 1) (s : State) : Out :=
  s.vfp 0x19#7 d a b p sc s.noEstimate (s.fmt.step s.rdir 2 0)
/-- VFRSQE (R106). -/
def execVfrsqe (d a : BitVec 5) (p : BitVec 3) (s : State) : Out := s.vfp1 0x1A#7 d a p s.noEstimate s.fmt.rsqe
/-- VFRSQS (R107). -/
def execVfrsqs (d a b : BitVec 5) (p : BitVec 3) (sc : BitVec 1) (s : State) : Out :=
  s.vfp 0x1B#7 d a b p sc s.noEstimate (s.fmt.step s.rdir 3 1)
/-- VFEXP2 (R104). -/
def execVfexp2 (d a : BitVec 5) (p : BitVec 3) (s : State) : Out := s.vfp1 0x1C#7 d a p s.noExp (s.fmt.exp2 s.rdir)
/-- VFLOG2 (R105). -/
def execVflog2 (d a : BitVec 5) (p : BitVec 3) (s : State) : Out := s.vfp1 0x1D#7 d a p s.noExp (s.fmt.log2 s.rdir)

/-! ### Fused multiply-add (R212) -/

/-- VFMA. -/
def execVfma (d a b : BitVec 5) (p : BitVec 3) (sc : BitVec 1) (s : State) : Out := s.vfused 0#7 d a b p sc false false
/-- VFMS. -/
def execVfms (d a b : BitVec 5) (p : BitVec 3) (sc : BitVec 1) (s : State) : Out := s.vfused 1#7 d a b p sc false true
/-- VFNMA. -/
def execVfnma (d a b : BitVec 5) (p : BitVec 3) (sc : BitVec 1) (s : State) : Out := s.vfused 2#7 d a b p sc true true
/-- VFNMS. -/
def execVfnms (d a b : BitVec 5) (p : BitVec 3) (sc : BitVec 1) (s : State) : Out := s.vfused 3#7 d a b p sc true false

end Sys2Proof.Machine
end

