-- ==== Sys2Proof/Machine/LongAcc.lean ====
section
/-! DEFINITION. The long-accumulator family (R97 to R99, R225 to R227). -/

namespace Sys2Proof.Machine

/-- The state with a long accumulator written. -/
def State.setAcc (s : State) (n : BitVec 2) (a : LongAcc) : State := { s with hart := s.hart.setAcc n a }

/-- An instruction on accumulators alone: one unit, and POISON for a poisoned accumulator that it reads (R412). -/
def State.accInstr (s : State) (w : IWord) (reads : List (BitVec 2)) (body : State → State) : Out :=
  .next (s.issue w gate1 (fun s =>
    if reads.any (fun n => (s.hart.acc n).pois) then s.trap causePoison 0 else (body (s.spin w)).advance))

/-- EACLR. -/
def execEaclr (d : BitVec 2) (s : State) : Out :=
  s.accInstr (vv 0x28#6 (0#3 ++ d) 0#5 0#5 0#3 0#1 0#7) [] (fun s => s.setAcc d LongAcc.zero)
/-- EAADDX. -/
def execEaaddx (d a : BitVec 2) (s : State) : Out :=
  s.accInstr (vv 0x28#6 (0#3 ++ d) (0#3 ++ a) 0#5 0#3 0#1 3#7) [d, a]
    (fun s => s.setAcc d ((s.hart.acc d).add (s.hart.acc a)))
/-- EAMOV. -/
def execEamov (d a : BitVec 2) (s : State) : Out :=
  s.accInstr (vv 0x28#6 (0#3 ++ d) (0#3 ++ a) 0#5 0#3 0#1 5#7) [a] (fun s => s.setAcc d (s.hart.acc a))
/-- The formats of EARND (R154). -/
def earndFmt : Nat → Fmt
  | 0 => .fp64 | 1 => .fp32 | 2 => .fp16 | _ => .bf16
/-- EARND (R99, R226). -/
def execEarnd (d : BitVec 5) (a : BitVec 2) (m : BitVec 3) (f : BitVec 2) (s : State) : Out :=
  s.accInstr (vv 0x28#6 d (0#3 ++ a) (m ++ f) 0#3 0#1 4#7) [a] (fun s =>
    let r := (s.hart.acc a).round (earndFmt f.toNat) (if m = 7 then s.rdir else .mode m.toNat)
    (s.setX d (BitVec.ofNat 64 r.1)).raise r.2)

/-- The terms added one after another (R98, R204): what has been added when an element stops stays. -/
def State.accLoop (s : State) (pois : Nat → Option Nat) (d : BitVec 2) (f : Nat → FVal × FFlags) :
    List Nat → FFlags → VEnd
  | [], fl => .done (s.raise fl)
  | i :: is, fl =>
    match s.elemStop pois i with
    | some c => .stop (s.raise fl) c.1 c.2 i i 0
    | none =>
      let r := f i
      State.accLoop (s.setAcc d ((s.hart.acc d).addTerm r.1)) pois d f is (fl ||| r.2)

/-- EAADD and EADOT: the loop, after the POISON of a poisoned e[d] (R412). -/
def State.accBody (s : State) (pois : Nat → Option Nat) (d : BitVec 2) (p : BitVec 3) (f : Nat → FVal × FFlags) : VEnd :=
  if (s.hart.acc d).pois && decide (s.vlen ≠ 0) then s.stopZero ⟨causePoison, 0, 0⟩
  else s.accLoop pois d f (s.actives p) 0

/-- EAADD: each element is a term, NV for a signalling NaN. -/
def execEaadd (d : BitVec 2) (a : BitVec 5) (p : BitVec 3) (s : State) : Out :=
  let w := s.sew
  let v := s.vvInstr (vv 0x28#6 (0#3 ++ d) a 0#5 p 0#1 1#7) a a a p 1 false false
  .next (s.vrun { v with dsts := [], reads := [], xb := 0 } (fun s h =>
    s.accBody (h.poisIn w [a.toNat]) d p (fun i =>
      let x := s.fmt.decode (h.elem w a.toNat i)
      (x, flagIf flagNV x.isSig))))
/-- EADOT: each exact product is a term. -/
def execEadot (d : BitVec 2) (a b : BitVec 5) (p : BitVec 3) (sc : BitVec 1) (s : State) : Out :=
  let w := s.sew
  let v := s.vvInstr (vv 0x28#6 (0#3 ++ d) a b p sc 2#7) a a b p sc false false
  .next (s.vrun { v with dsts := [] } (fun s h =>
    s.accBody (h.poisIn w (vvRegs a a b sc false)) d p (fun i =>
      (s.fmt.decode (h.elem w a.toNat i)).mul (s.fmt.decode (s.operandB h b sc w i)))))

end Sys2Proof.Machine
end

