-- ==== Sys2Proof/Machine/Matrix.lean ====
section
/-! DEFINITION. The matrix instructions: MSHAPE, MPACK, MUNPK, MZERO, MMA and MDRAIN (R100, R101, R267 to R283). -/

namespace Sys2Proof.Machine

/-! ### The granted shape (R64, R270, R271) -/

/-- Whether no shape is granted. -/
def State.noShape (s : State) : Bool := s.hart.msm == 0
/-- Precision of A, in bits. -/
def State.precA (s : State) : Nat := s.hart.msprec.toNat % 16 + 1
/-- Precision of B, in bits. -/
def State.precB (s : State) : Nat := s.hart.msprec.toNat / 16 + 1
/-- The exponent of the accumulator grid. -/
def State.anchor (s : State) : Int := s.hart.msanchor.toInt

/-- The quotient rounded up. -/
def cdiv (a b : Nat) : Nat := (a + b - 1) / b

/-- The grant of L lanes for a request (R271). -/
def grantShape (lanes m n k : Nat) : Nat × Nat × Nat :=
  if m = 0 ∨ n = 0 ∨ k = 0 then (0, 0, 0)
  else
    let n' := if n ≤ 32 then 32 else 64
    (Nat.min (lanes * cdiv m lanes) (64 * lanes / n'), n', Nat.min (32 * cdiv k 32) 4096)

/-- The bits of a request that are not reserved (R270). -/
def shapeMask : Word := 0x00FF1FFF1FFF1FFF

/-- MSHAPE (R270). -/
def execMshape (d a b : BitVec 5) (s : State) : Out :=
  .next (s.issueX (mx 0x33#6 d a b 0#3 0#1 0#2 0#1 0#4) gate1 [a, b] (fun s =>
    let q := s.x a
    if q &&& ~~~shapeMask ≠ 0 then s.trap causeMatrix q
    else
      let g := grantShape s.hart.lanes (q.extractLsb' 0 13).toNat (q.extractLsb' 16 13).toNat (q.extractLsb' 32 13).toNat
      let s' : State := { s with hart := { s.hart with
        msprec := q.extractLsb' 48 8
        msanchor := (s.x b).extractLsb' 0 16
        msm := BitVec.ofNat 13 g.1
        msn := BitVec.ofNat 13 g.2.1
        msk := BitVec.ofNat 13 g.2.2 } }
      (s'.setX d ((q &&& 0x00FF000000000000) + BitVec.ofNat 64 (g.1 + g.2.1 * 2 ^ 16 + g.2.2 * 2 ^ 32))).advance))

/-! ### Plane blocks (R268, R269, R273, R274) -/

/-- The lowest byte of n from an address on that may not be touched, as a stop. -/
def State.tmStop (s : State) (ea : Word) (n elem : Nat) : Option Stop :=
  (s.tmFirstBad ea.toNat n).map (fun a => ⟨causeProt, BitVec.ofNat 64 a, elem⟩)

/-- The byte addresses of row r, position k of a block at precision p: its plane words and its scale. -/
def blockAddrs (base : Word) (p r : Nat) : List Word :=
  (upTo p).flatMap (fun j => (upTo 4).map (fun i => base + BitVec.ofNat 64 (128 * j + 4 * r + i))) ++
    [base + BitVec.ofNat 64 (128 * p + r)]

/-- The accesses of MPACK or MUNPK, byte by byte. -/
def blockVec (base : Word) (p : Nat) (store : Bool) : TmVec :=
  ⟨1, store, fun e => blockAddrs base p (e / 32), fun _ => none⟩

/-- The conditions of MPACK and MUNPK before any data (R273). -/
def State.blockStop (s : State) (base : Word) (p : Nat) : Option Stop :=
  if base.toNat % 32 ≠ 0 then some ⟨causeMisalign, base, 0⟩
  else s.tmStop base (128 * p + cdiv s.vlen 32) 0

/-- The fields of MPACK and MUNPK. -/
def State.blockInstr (s : State) (word : IWord) (store : Bool) (d a : BitVec 5) (p : BitVec 3) : VInstr :=
  s.vmInstr word store 0 d a 0 p s.grp (s.rows s.sew) false

/-- A row of MPACK: the scale, the 32 encodings and the flags (R93, R94). -/
def packRow (p : Nat) (dir : Nat → RDir) (val : Nat → FVal) (act : List Nat) (r : Nat) : Nat × List Nat × FFlags :=
  let run := act.filter (fun e => e / 32 == r)
  let sc := blockScale p (run.foldl (fun m e => maxMag m (val e).mag) none)
  let q := (upTo 32).map (fun k =>
    if run.contains (32 * r + k) then toBlockInt (dir (32 * r + k)) p sc (val (32 * r + k)) else (0, 0))
  (sc, q.map (·.1), q.foldl (fun f x => f ||| x.2) 0)

/-- The word of a plane: bit k is bit j of encoding k. -/
def planeWord (j : Nat) (q : List Nat) : Nat :=
  (q.mapIdx (fun k e => if e.testBit j then 2 ^ k else 0)).foldl (· + ·) 0

/-- MPACK (R273). -/
def execMpack (d a : BitVec 5) (q : BitVec 4) (p : BitVec 3) (s : State) : Out :=
  let word := mx 0x33#6 d a (0#1 ++ q) p 0#1 0#2 0#1 1#4
  let w := s.sew
  let bp := q.toNat + 1
  .next (s.mrun (s.blockInstr word true d a p) (decide (1024 < s.vlen)) (fun s h =>
    let base := s.opA a
    let v := blockVec base bp true
    let l := s.actives p
    if s.vlen = 0 then .done s
    else match s.blockStop base bp with
      | some t => s.stopZero t
      | none =>
        match l.findSome? (fun e => (s.tmVecData v (fun _ e =>
            (h.poisIn w [d.toNat] e).map (BitVec.ofNat 64)) e).map (fun c => (⟨c.1, c.2, e⟩ : Stop))) with
        | some t => s.stopZero t
        | none =>
          let dir := fun e => if vtSr s.hart.vtype then RDir.draw (s.drawAt (rankIn l e)) else s.rdir
          let rows := (upTo (cdiv s.vlen 32)).map
            (packRow bp dir (fun e => s.fmt.decode (h.elem w d.toNat e)) l)
          let t := (upTo bp).foldl (fun (t : State) j =>
            t.tmStore (base.toNat + 128 * j) (rows.flatMap (fun r => leBytes 4 (planeWord j r.2.1)))) s
          let t := t.tmStore (base.toNat + 128 * bp) (rows.map (fun r => BitVec.ofNat 8 r.1))
          let t := if vtSr s.hart.vtype then t.drew l.length else t
          .done (t.raise (rows.foldl (fun f r => f ||| r.2.2) 0))))

/-- The integer that p plane bits encode (R92). -/
def blockInt (p bits : Nat) : Int := if p = 1 then (if bits = 1 then -1 else 1) else sextNat p bits

/-- The encoding at position k of row r of a block in the selected hart's TM. -/
def State.planeBits (s : State) (base p r k : Nat) : Nat :=
  (upTo p).foldl (fun v j => if (s.tmLoad (base + 128 * j + 4 * r) 4).testBit k then v + 2 ^ j else v) 0

/-- MUNPK (R274). -/
def execMunpk (d a : BitVec 5) (q : BitVec 4) (p : BitVec 3) (s : State) : Out :=
  let word := mx 0x33#6 d a (0#1 ++ q) p 0#1 0#2 0#1 2#4
  let w := s.sew
  let bp := q.toNat + 1
  .next (s.mrun (s.blockInstr word false d a p) (decide (1024 < s.vlen)) (fun s _ =>
    let base := s.opA a
    let v := blockVec base bp false
    if s.vlen = 0 then .done s
    else match s.blockStop base bp with
      | some t => s.stopBefore t
      | none => s.tmVecLoop v (loadPois v) (fun t e =>
          let sc := t.tmLoad (base.toNat + 128 * bp + e / 32) 1
          let n := blockInt bp (t.planeBits base.toNat bp (e / 32) (e % 32))
          let r := if sc = 255 then (s.fmt.nanBits, flagNV)
            else s.fmt.round s.rdir (.fin (decide (n < 0)) n.natAbs ((sc : Int) - 127))
          { t with hart := t.hart.setElem w d.toNat e r.1 }.raise r.2) (s.actives p)))

/-! ### MZERO and MMA (R275 to R278) -/

/-- The units of a walk of the shape: (M/L) × (N/32) × n, and one where no shape is granted. -/
def State.shapeUnits (s : State) (n : Nat) : Nat :=
  if s.noShape then 1 else Nat.max 1 (s.hart.msm.toNat / s.hart.lanes * (s.hart.msn.toNat / 32) * n)

/-- MZERO (R275). -/
def execMzero (k : BitVec 1) (s : State) : Out :=
  .next (s.issue (mx 0x33#6 0#5 0#5 0#5 0#3 k 0#2 0#1 3#4)
    { gate1 with units := s.shapeUnits 1, matrix := s.noShape } (fun s =>
      let n := s.hart.msm.toNat * s.hart.msn.toNat
      { s with hart := s.hart.setBank k ((upTo n).foldl (fun b i => b.put i 0) (s.hart.bank k)) }.advance))

/-- An operand of MMA: its rows, its blocks along K, its precision and where it lies (R269). -/
structure Planes where
  rows : Nat
  kblocks : Nat
  prec : Nat
  base : Nat

/-- The address of the block that holds row i in K-block kb. -/
def Planes.block (o : Planes) (i kb : Nat) : Nat := o.base + (i / 32 * o.kblocks + kb) * (128 * o.prec + 32)

/-- The bytes of row i in K-block kb: its plane words, and its scale byte. -/
def Planes.words (o : Planes) (i kb : Nat) : List (Nat × Nat) :=
  (upTo o.prec).map (fun j => (o.block i kb + 128 * j + 4 * (i % 32), 4)) ++
    [(o.block i kb + 128 * o.prec + i % 32, 1)]

/-- The address of a row's scale byte. -/
def Planes.scaleAt (o : Planes) (i kb : Nat) : Nat := o.block i kb + 128 * o.prec + i % 32

/-- The least number of a list. -/
def least (l : List Nat) : Option Nat := l.min?

/-- The lowest byte of an operand, its blocks taken whole, outside the granted TM (R269, R277). -/
def State.planesBad (s : State) (o : Planes) : Option Nat :=
  s.tmFirstBad o.base (cdiv o.rows 32 * o.kblocks * (128 * o.prec + 32))

/-- The lowest scale byte from K-block kb on that is 0xFF and not poisoned. -/
def State.planesNan (s : State) (o : Planes) (kb0 : Nat) : Option Nat :=
  least ((upTo o.rows).flatMap (fun i => (upTo o.kblocks).filterMap (fun kb =>
    if kb0 ≤ kb ∧ s.tmLoad (o.scaleAt i kb) 1 = 255 ∧ !s.tmPoisoned (o.scaleAt i kb) 1 then some (o.scaleAt i kb) else none)))

/-- The accesses of K-block kb. -/
def Planes.reads (o : Planes) (kb : Nat) : List (Nat × Nat) := (upTo o.rows).flatMap (fun i => o.words i kb)

/-- Row i of K-block kb: its scale and its 32 integers. -/
def State.planesRow (s : State) (o : Planes) (kb i : Nat) : Nat × List Int :=
  (s.tmLoad (o.scaleAt i kb) 1,
   (upTo 32).map (fun k => blockInt o.prec (s.planeBits (o.block i kb) o.prec (i % 32) k)))

/-- The sum of a K-block's products for one bank element, each rounded alone to the nearest integer, ties to even
(R100). -/
def dotRounded (anch : Int) (a b : Nat × List Int) : Int :=
  ((a.2.zip b.2).map (fun q =>
    let g := q.1 * q.2
    (roundInt (.mode 0) (decide (g < 0)) g.natAbs ((a.1 : Int) + b.1 - 254 - anch)).1)).foldl (· + ·) 0

/-- A bank with the first n elements changed; poison marks stay. -/
def Bank.update (b : Bank) (n : Nat) (f : Nat → BitVec 128 → BitVec 128) : Bank :=
  { (upTo n).foldl (fun (c : Bank) i => c.put i (f i (b.get i))) b with pois := b.pois }

/-- K-block kb applied to bank k. -/
def State.mmaBlock (s : State) (k : BitVec 1) (oa ob : Planes) (kb : Nat) : State :=
  let ra := (upTo oa.rows).map (s.planesRow oa kb)
  let rb := (upTo ob.rows).map (s.planesRow ob kb)
  let sum := fun e => dotRounded s.anchor (ra.getD (e / ob.rows) (0, [])) (rb.getD (e % ob.rows) (0, []))
  { s with hart := s.hart.setBank k ((s.hart.bank k).update (oa.rows * ob.rows) (fun e q => q + BitVec.ofInt 128 (sum e))) }

/-- A watch or poison that K-block kb meets.
DESIGN CHOICE: of several poisoned words of one K-block the one with the lowest address over both operands is reported; R277
gives TVAL no order there. -/
def State.mmaData (s : State) (oa ob : Planes) (kb : Nat) : Option (BitVec 8 × Word) :=
  let l := oa.reads kb ++ ob.reads kb
  match l.findSome? (fun an => s.watchHit true true false kb an.1 an.2) with
  | some n => some (causeBrk, brkVal n)
  | none => (least ((l.filter (fun an => s.tmPoisoned an.1 an.2)).map (·.1))).map (fun a => (causePoison, BitVec.ofNat 64 a))

/-- The K-blocks in order (R276, R277); an expiry of the hang watchdog stops between two of them (R342). -/
def State.mmaLoop (s : State) (k : BitVec 1) (oa ob : Planes) : List Nat → VEnd
  | [] => .done s
  | kb :: kbs =>
    match if s.expired kb then some (causeWatchdog, 0) else s.mmaData oa ob kb with
    | some c => .stop s c.1 c.2 kb kb 0
    | none => State.mmaLoop (s.mmaBlock k oa ob kb) k oa ob kbs

/-- The conditions of MMA before any accumulation (R277). -/
def State.mmaStop (s : State) (xa xb : Word) (oa ob : Planes) : Option Stop :=
  if xa.toNat % 32 ≠ 0 then some ⟨causeMisalign, xa, 0⟩
  else if xb.toNat % 32 ≠ 0 then some ⟨causeMisalign, xb, 0⟩
  else
    let at_ := fun (c : BitVec 8) (l : Option Nat) => l.map (fun a => (⟨c, BitVec.ofNat 64 a, 0⟩ : Stop))
    (at_ causeProt (s.planesBad oa)).orElse (fun _ => (at_ causeProt (s.planesBad ob)).orElse (fun _ =>
      (at_ causeMatrix (s.planesNan oa s.startElem)).orElse (fun _ => at_ causeMatrix (s.planesNan ob s.startElem))))

/-- MMA (R276). -/
def execMma (a b : BitVec 5) (k : BitVec 1) (s : State) : Out :=
  let word := mx 0x33#6 0#5 a b 0#3 k 0#2 0#1 4#4
  let kbs := s.hart.msk.toNat / 32
  .next (s.mrun { word := word, srcs := [], dsts := [], pred := 0, reads := [a, b], xa := s.opA a, xb := s.opB b
                  units := s.shapeUnits ((kbs - s.startElem) * cdiv s.precA 8 * s.precB), vcfg := false, vl0 := true }
      s.noShape (fun s _ =>
    let oa : Planes := ⟨s.hart.msm.toNat, kbs, s.precA, (s.opA a).toNat⟩
    let ob : Planes := ⟨s.hart.msn.toNat, kbs, s.precB, (s.opB b).toNat⟩
    match s.mmaStop (s.opA a) (s.opB b) oa ob with
    | some t => s.stopBefore t
    | none => s.mmaLoop k oa ob ((upTo kbs).filter (fun kb => decide (s.startElem ≤ kb)))))

/-! ### MDRAIN (R101, R280 to R282) -/

/-- What a conversion delivers: a format, or block integers of p bits (R154). -/
inductive Drain where
  | fp (f : Fmt)
  | bi (p : Nat)
deriving DecidableEq, Repr

/-- The conversion of a code; codes 5 to 15 are no instruction. -/
def drainOf (c : BitVec 5) : Drain :=
  match c.toNat with
  | 0 => .fp .fp32 | 1 => .fp .bf16 | 2 => .fp .fp16 | 3 => .fp .e4m3 | 4 => .fp .e5m2
  | n => .bi (n - 15)

/-- Bytes of a drained element (R280). -/
def Drain.bytes : Drain → Nat
  | .fp f => f.width / 8
  | .bi p => if p ≤ 8 then 1 else 2

/-- A bank element as its drained bytes hold it (R101, R281). -/
def Drain.convert (c : Drain) (d : RDir) (anch : Int) (q : BitVec 128) : Nat × FFlags :=
  let v := q.toInt
  let neg := decide (v < 0)
  let inRange := decide (-(2 ^ 119) ≤ v) && decide (v < 2 ^ 119)
  match c with
  | .fp f =>
    if !inRange then (f.signed neg (f.overflow d neg), flagOF ||| flagNX)
    else if v = 0 then (0, 0) else f.roundFin d neg v.natAbs anch false
  | .bi p =>
    let r := if !inRange then ((toBlockInt d p 127 (.inf neg)).1, flagOF ||| flagNX)
      else toBlockInt d p (max 0 (min 254 (anch + 127))).toNat (.fin neg v.natAbs anch)
    (if p = 1 then r.1 else wrapNat (8 * c.bytes) (sextNat p r.1), r.2)

/-- The address of element e in amodes 0 to 2 (R280). -/
def State.drainAddr (s : State) (h : Hart) (m : BitVec 2) (a b : BitVec 5) (wd e : Nat) : Word :=
  let n := Nat.max s.hart.msn.toNat 1
  if m = 0 then s.opA a + BitVec.ofNat 64 (e * wd)
  else if m = 1 then s.opA a + BitVec.ofNat 64 (e / n) * s.opB b + BitVec.ofNat 64 (e % n * wd)
  else s.opA a + BitVec.ofNat 64 (h.elem s.sew b.toNat e)

/-- The fields of MDRAIN. -/
def State.drainInstr (s : State) (word : IWord) (a b : BitVec 5) (p : BitVec 3) (m : BitVec 2) : VInstr where
  word := word
  srcs := if m = 2 then [(b.toNat, s.grp)] else []
  dsts := []
  pred := p
  reads := if m = 1 then [a, b] else [a]
  xa := s.opA a
  xb := if m = 1 then s.opB b else 0
  units := s.rows 128
  vcfg := decide (m = 2) && s.badGroup b
  vl0 := false

/-- The elements of a drain in order: each converted and handed on, its bytes with its address; the stop where one is
poisoned or stopped by the debug table. -/
def State.drainLoop (s : State) (data : Nat → Option (BitVec 8 × Word)) (f : Nat → Nat × FFlags) (addr : Nat → Word)
    (wd : Nat) (put : State → Nat → Word → List Byte → State) : List Nat → FFlags → VEnd
  | [], fl => .done (s.raise fl)
  | e :: es, fl =>
    match data e with
    | some c => .stop (s.raise fl) c.1 c.2 e e 0
    | none =>
      let r := f e
      State.drainLoop (put s e (addr e) (leBytes wd r.1)) data f addr wd put es (fl ||| r.2)

/-- A drained element's bytes on their way to global memory: added to the last command. -/
def State.drainGm (es : List ElemAccess) (s : State) (e : Nat) (va : Word) (bs : List Byte) : State :=
  match es.find? (fun x => x.elem == e) with
  | none => s
  | some x => { s with asyncs := s.asyncs.modify (s.asyncs.length - 1) (fun c =>
      let pend := bs.mapIdx (fun j b => (⟨x.phys.addr + j, .lit b, va + BitVec.ofNat 64 j, e, j⟩ : PendByte))
      { c with chunks := pend.foldl (fun cs b => chunkAdd false x.phys.slot b cs) c.chunks }) }

/-- MDRAIN (R280). -/
def execMdrain (c a b : BitVec 5) (p : BitVec 3) (k : BitVec 1) (m : BitVec 2) (g : BitVec 1) (s : State) : Out :=
  let word := mx 0x33#6 c a b p k m g 5#4
  let dr := drainOf c
  let wd := dr.bytes
  .next (s.mrun (s.drainInstr word a b p m)
      (s.noShape || decide (s.hart.msm.toNat * s.hart.msn.toNat < s.vlen)) (fun s h =>
    let l := s.actives p
    let bank := s.hart.bank k
    let idx := s.idxPois h m.toNat b
    let addr := s.drainAddr h m a b wd
    let dir := fun e => if vtSr s.hart.vtype then RDir.draw (s.drawAt (rankIn l e)) else s.rdir
    let conv := fun e => dr.convert (dir e) s.anchor (bank.get e)
    let pois := fun e => if setHas bank.pois e then some (addr e) else none
    let fin := fun (v : VEnd) => if vtSr s.hart.vtype then v.drew l else v
    if g = 0 then
      let v : TmVec := ⟨wd, true, fun e => [addr e], idx⟩
      match s.tmVecAddr v l with
      | some t => s.stopBefore t
      | none => fin (s.drainLoop (s.tmVecData v (fun _ e => pois e)) conv addr wd
          (fun t _ va bs => t.tmStore va.toNat bs) l 0)
    else
      let v : GmVec := ⟨wd, .w, false, false, 2, addr, s.elemLane m.toNat, idx, fun e => (pois e).map (fun _ => 0)⟩
      let s := s.gmVecProbe v l
      match s.gmVecAddr v l with
      | .error t => s.stopBefore t
      | .ok es =>
        let data := fun e => match es.find? (fun x => x.elem == e) with
          | some x => s.gmVecData v x
          | none => none
        let cmd : AsyncWrite := ⟨.drain, some s.hart.id, s.hart.pid, s.instrPc.toNat, [], none, 0, none, [], []⟩
        let t := s.gmVecUse v l
        fin ({ t with asyncs := t.asyncs ++ [cmd] }.drainLoop data conv addr wd (State.drainGm es) l 0)))

end Sys2Proof.Machine
end

