-- ==== Sys2Proof/Machine/MulDiv.lean ====
section
/-! DEFINITION. Multiply and divide (R178). -/

namespace Sys2Proof.Machine

/-- An operation of major 0x0B. -/
def State.mulRR (s : State) (fn : BitVec 11) (d a b : BitVec 5) (f : Word → Word → Word) : Out :=
  .next (s.scalar (rr 0xB#6 d a b fn) [a, b] d (f (s.x a) (s.x b)))

/-- The upper half of a product of 128 bits. -/
def highHalf (p : BitVec 128) : Word := p.extractLsb' 64 64
/-- DIV: −1 for a zero divisor; the wrapped quotient of −2^63 by −1 is −2^63. -/
def divW (a b : Word) : Word := if b = 0 then BitVec.allOnes 64 else a.sdiv b
/-- DIVU. -/
def divuW (a b : Word) : Word := if b = 0 then BitVec.allOnes 64 else a / b
/-- REM, with the sign of the dividend. -/
def remW (a b : Word) : Word := if b = 0 then a else a.srem b
/-- REMU. -/
def remuW (a b : Word) : Word := if b = 0 then a else a % b

/-- MUL (R178). -/
def execMul (d a b : BitVec 5) (s : State) : Out :=
  s.mulRR 0#11 d a b (fun a b => a * b)
/-- MULH (R178). -/
def execMulh (d a b : BitVec 5) (s : State) : Out :=
  s.mulRR 1#11 d a b (fun a b => highHalf (a.signExtend 128 * b.signExtend 128))
/-- MULHU (R178). -/
def execMulhu (d a b : BitVec 5) (s : State) : Out :=
  s.mulRR 2#11 d a b (fun a b => highHalf (a.setWidth 128 * b.setWidth 128))
/-- MULHSU (R178). -/
def execMulhsu (d a b : BitVec 5) (s : State) : Out :=
  s.mulRR 3#11 d a b (fun a b => highHalf (a.signExtend 128 * b.setWidth 128))
/-- DIV (R178). -/
def execDiv (d a b : BitVec 5) (s : State) : Out :=
  s.mulRR 4#11 d a b divW
/-- DIVU (R178). -/
def execDivu (d a b : BitVec 5) (s : State) : Out :=
  s.mulRR 5#11 d a b divuW
/-- REM (R178). -/
def execRem (d a b : BitVec 5) (s : State) : Out :=
  s.mulRR 6#11 d a b remW
/-- REMU (R178). -/
def execRemu (d a b : BitVec 5) (s : State) : Out :=
  s.mulRR 7#11 d a b remuW

end Sys2Proof.Machine
end

