-- ==== Sys2Proof/Machine/Predicate.lean ====
section
/-! DEFINITION. The predicate family (R223, R224). -/

namespace Sys2Proof.Machine

/-- An instruction of major 0x27. -/
def State.pInstr (s : State) (d a b : BitVec 5) (p : BitVec 3) (fn : BitVec 7) : VInstr where
  word := vv 0x27#6 d a b p 0#1 fn
  srcs := []
  dsts := []
  pred := p
  reads := []
  xa := 0
  xb := 0
  units := s.rows s.sew
  vcfg := false
  vl0 := false

/-- A predicate instruction whose active bits below VL take f. -/
def State.pOp (s : State) (d a b p : BitVec 3) (fn : BitVec 7) (f : Hart → Nat → Bool) : Out :=
  .next (s.vrun (s.pInstr (0#2 ++ d) (0#2 ++ a) (0#2 ++ b) p fn) (fun s h =>
    s.predLoop (fun _ => none) d (fun i => (f h i, 0)) (s.actives p) 0))

/-- PAND. -/
def execPand (d a b p : BitVec 3) (s : State) : Out := s.pOp d a b p 0#7 (fun h i => h.pbit a i && h.pbit b i)
/-- POR. -/
def execPor (d a b p : BitVec 3) (s : State) : Out := s.pOp d a b p 1#7 (fun h i => h.pbit a i || h.pbit b i)
/-- PXOR. -/
def execPxor (d a b p : BitVec 3) (s : State) : Out := s.pOp d a b p 2#7 (fun h i => h.pbit a i != h.pbit b i)
/-- PANDN. -/
def execPandn (d a b p : BitVec 3) (s : State) : Out := s.pOp d a b p 3#7 (fun h i => h.pbit a i && !h.pbit b i)
/-- PSET (R224): every bit below VLMAX. -/
def execPset (d p : BitVec 3) (s : State) : Out :=
  .next (s.vrun (s.pInstr (0#2 ++ d) 0#5 0#5 p 4#7) (fun s h =>
    match s.anyStop (fun _ => none) (s.actives p) with
    | some t => s.stopZero t
    | none => .done { s with hart := s.hart.setP d ((upTo s.vlmax).foldl
        (fun v i => pput v i (decide (i < s.vlen) && h.pbit p i)) (s.hart.pval d)) }))
/-- PFIRST. -/
def execPfirst (d a p : BitVec 3) (s : State) : Out :=
  let first := (upTo s.vlen).find? (fun i => s.hart.pbit p i && s.hart.pbit a i)
  s.pOp d a 0 p 5#7 (fun _ i => first == some i)
/-- PCNT (R224): over every bit below VLMAX. -/
def execPcnt (d : BitVec 5) (a p : BitVec 3) (s : State) : Out :=
  .next (s.vrun (s.pInstr d (0#2 ++ a) 0#5 p 6#7) (fun s h =>
    match s.anyStop (fun _ => none) (s.actives p) with
    | some t => s.stopZero t
    | none => .done (s.setX d (BitVec.ofNat 64
        ((upTo s.vlmax).filter (fun i => h.pbit a i && h.pbit p i)).length))))
/-- PMOV. -/
def execPmov (d a p : BitVec 3) (s : State) : Out := s.pOp d a 0 p 7#7 (fun h i => h.pbit a i)

end Sys2Proof.Machine
end

