-- ==== Sys2Proof/Machine/Scalar.lean ====
section
/-! DEFINITION. The scalar ALU, its immediate forms, LIH and ADDPC (R173 to R177). -/

namespace Sys2Proof.Machine

/-! ### The values of R173 -/

/-- SRA: ⌊sa / 2^sh⌋. -/
def sraW (a : Word) (sh : Nat) : Word := a.sshiftRight sh
/-- ROL: (a × 2^sh) | ⌊a / 2^(64 − sh)⌋. -/
def rolW (a : Word) (sh : Nat) : Word := (a <<< sh) ||| (a >>> (64 - sh))
/-- ROR: ⌊a / 2^sh⌋ | (a × 2^(64 − sh)). -/
def rorW (a : Word) (sh : Nat) : Word := (a >>> sh) ||| (a <<< (64 - sh))
/-- CLZ: 64 for zero. -/
def clzW (a : Word) : Word := if a = 0 then 64 else BitVec.ofNat 64 (63 - Nat.log2 a.toNat)
/-- CTZ: 64 for zero. -/
def ctzW (a : Word) : Word := BitVec.ofNat 64 (((upTo 64).find? (fun i => a.getLsbD i)).getD 64)
/-- POPC. -/
def popcW (a : Word) : Word := BitVec.ofNat 64 (((upTo 64).filter (fun i => a.getLsbD i)).length)
/-- A truth value as 1 or 0. -/
def boolW (b : Bool) : Word := if b then 1 else 0
/-- sext(v, n) of the low n bits, as 64 bits. -/
def sextW (n : Nat) (a : Word) : Word := (a.setWidth n).signExtend 64
/-- The shift amount x[b][5:0]. -/
def shOf (b : Word) : Nat := b.toNat % 64
/-- sext(imm16, 16). -/
def immS (i : BitVec 16) : Word := i.signExtend 64
/-- zext(imm16, 16). -/
def immZ (i : BitVec 16) : Word := i.setWidth 64

/-- A register–register operation of R173. -/
def State.aluRR (s : State) (fn : BitVec 11) (d a b : BitVec 5) (f : Word → Word → Word) : Out :=
  .next (s.scalar (rr 1#6 d a b fn) [a, b] d (f (s.x a) (s.x b)))

/-- A unary operation of R173. -/
def State.aluR (s : State) (fn : BitVec 11) (d a : BitVec 5) (f : Word → Word) : Out :=
  .next (s.scalar (rr 1#6 d a 0#5 fn) [a] d (f (s.x a)))

/-- A register–immediate operation of R174 to R176. -/
def State.aluRI (s : State) (m : BitVec 6) (d a : BitVec 5) (i : BitVec 16) (f : Word → Word) : Out :=
  .next (s.scalar (ri m d a i) [a] d (f (s.x a)))

/-- ADD (R173). -/
def execAdd (d a b : BitVec 5) (s : State) : Out := s.aluRR 0x0#11 d a b (fun a b => a + b)
/-- SUB (R173). -/
def execSub (d a b : BitVec 5) (s : State) : Out := s.aluRR 0x1#11 d a b (fun a b => a - b)
/-- AND (R173). -/
def execAnd (d a b : BitVec 5) (s : State) : Out := s.aluRR 0x2#11 d a b (fun a b => a &&& b)
/-- OR (R173). -/
def execOr (d a b : BitVec 5) (s : State) : Out := s.aluRR 0x3#11 d a b (fun a b => a ||| b)
/-- XOR (R173). -/
def execXor (d a b : BitVec 5) (s : State) : Out := s.aluRR 0x4#11 d a b (fun a b => a ^^^ b)
/-- ANDN (R173). -/
def execAndn (d a b : BitVec 5) (s : State) : Out := s.aluRR 0x5#11 d a b (fun a b => a &&& ~~~b)
/-- ORN (R173). -/
def execOrn (d a b : BitVec 5) (s : State) : Out := s.aluRR 0x6#11 d a b (fun a b => a ||| ~~~b)
/-- SLL (R173). -/
def execSll (d a b : BitVec 5) (s : State) : Out := s.aluRR 0x7#11 d a b (fun a b => a <<< shOf b)
/-- SRL (R173). -/
def execSrl (d a b : BitVec 5) (s : State) : Out := s.aluRR 0x8#11 d a b (fun a b => a >>> shOf b)
/-- SRA (R173). -/
def execSra (d a b : BitVec 5) (s : State) : Out := s.aluRR 0x9#11 d a b (fun a b => sraW a (shOf b))
/-- ROL (R173). -/
def execRol (d a b : BitVec 5) (s : State) : Out := s.aluRR 0xA#11 d a b (fun a b => rolW a (shOf b))
/-- ROR (R173). -/
def execRor (d a b : BitVec 5) (s : State) : Out := s.aluRR 0xB#11 d a b (fun a b => rorW a (shOf b))
/-- SLT (R173). -/
def execSlt (d a b : BitVec 5) (s : State) : Out := s.aluRR 0xC#11 d a b (fun a b => boolW (a.slt b))
/-- SLTU (R173). -/
def execSltu (d a b : BitVec 5) (s : State) : Out := s.aluRR 0xD#11 d a b (fun a b => boolW (a.ult b))
/-- MIN (R173). -/
def execMin (d a b : BitVec 5) (s : State) : Out := s.aluRR 0xE#11 d a b (fun a b => if a.slt b then a else b)
/-- MAX (R173). -/
def execMax (d a b : BitVec 5) (s : State) : Out := s.aluRR 0xF#11 d a b (fun a b => if a.slt b then b else a)
/-- MINU (R173). -/
def execMinu (d a b : BitVec 5) (s : State) : Out := s.aluRR 0x10#11 d a b (fun a b => if a.ult b then a else b)
/-- MAXU (R173). -/
def execMaxu (d a b : BitVec 5) (s : State) : Out := s.aluRR 0x11#11 d a b (fun a b => if a.ult b then b else a)
/-- CLZ (R173). -/
def execClz (d a : BitVec 5) (s : State) : Out := s.aluR 0x12#11 d a (fun a => clzW a)
/-- CTZ (R173). -/
def execCtz (d a : BitVec 5) (s : State) : Out := s.aluR 0x13#11 d a (fun a => ctzW a)
/-- POPC (R173). -/
def execPopc (d a : BitVec 5) (s : State) : Out := s.aluR 0x14#11 d a (fun a => popcW a)
/-- SEXTB (R173). -/
def execSextb (d a : BitVec 5) (s : State) : Out := s.aluR 0x15#11 d a (fun a => sextW 8 a)
/-- SEXTH (R173). -/
def execSexth (d a : BitVec 5) (s : State) : Out := s.aluR 0x16#11 d a (fun a => sextW 16 a)
/-- SEXTW (R173). -/
def execSextw (d a : BitVec 5) (s : State) : Out := s.aluR 0x17#11 d a (fun a => sextW 32 a)
/-- ZEXTW (R173). -/
def execZextw (d a : BitVec 5) (s : State) : Out := s.aluR 0x18#11 d a (fun a => (a.setWidth 32).setWidth 64)
/-- ADDI (R174). -/
def execAddi (d a : BitVec 5) (i : BitVec 16) (s : State) : Out := s.aluRI 0x2#6 d a i (fun a => a + immS i)
/-- ANDI (R174). -/
def execAndi (d a : BitVec 5) (i : BitVec 16) (s : State) : Out := s.aluRI 0x3#6 d a i (fun a => a &&& immZ i)
/-- ORI (R174). -/
def execOri (d a : BitVec 5) (i : BitVec 16) (s : State) : Out := s.aluRI 0x4#6 d a i (fun a => a ||| immZ i)
/-- XORI (R174). -/
def execXori (d a : BitVec 5) (i : BitVec 16) (s : State) : Out := s.aluRI 0x5#6 d a i (fun a => a ^^^ immZ i)
/-- SLTI (R174). -/
def execSlti (d a : BitVec 5) (i : BitVec 16) (s : State) : Out := s.aluRI 0x6#6 d a i (fun a => boolW (a.slt (immS i)))
/-- SLTIU (R174). -/
def execSltiu (d a : BitVec 5) (i : BitVec 16) (s : State) : Out := s.aluRI 0x7#6 d a i (fun a => boolW (a.ult (immS i)))
/-- SLLI (R175). -/
def execSlli (d a : BitVec 5) (h : BitVec 6) (s : State) : Out :=
  s.aluRI 8#6 d a (0#10 ++ h) (fun a => a <<< h.toNat)
/-- SRLI (R175). -/
def execSrli (d a : BitVec 5) (h : BitVec 6) (s : State) : Out :=
  s.aluRI 8#6 d a (1#10 ++ h) (fun a => a >>> h.toNat)
/-- SRAI (R175). -/
def execSrai (d a : BitVec 5) (h : BitVec 6) (s : State) : Out :=
  s.aluRI 8#6 d a (2#10 ++ h) (fun a => sraW a h.toNat)
/-- LIH (R176). -/
def execLih (d a : BitVec 5) (i : BitVec 16) (s : State) : Out := s.aluRI 9#6 d a i (fun a => (a <<< 16) + immZ i)
/-- ADDPC (R177): PC is the address of the ADDPC itself. -/
def execAddpc (d a : BitVec 5) (i : BitVec 16) (s : State) : Out :=
  s.aluRI 0xA#6 d a i (fun a => s.hart.pc + a + immS i)

end Sys2Proof.Machine
end

