-- ==== Sys2Proof/Machine/Stream.lean ====
section
/-! DEFINITION. Stream bindings: SBIND and SUNB (R74, R258 to R262). -/

namespace Sys2Proof.Machine

/-- The STREAM conditions of a descriptor (R260). -/
def State.descBad (s : State) (b : Binding) (bs : List Byte) : Bool :=
  let m := s.sew / 8
  s.hart.streams.toList.any (fun o => match o with
    | some c => c.covers b.reg b.grp
    | none => false) ||
  s.hart.streams.toList.all (·.isSome) ||
  decide (8 ≤ field bs 0x2C 1) || decide (field bs 0x2D 3 ≠ 0) || decide (field bs 0x38 8 ≠ 0) ||
  decide (8 <<< b.width.toNat ≠ s.sew) || decide (b.total = 0) || decide (b.total < b.pos) ||
  decide (b.base.toNat % m ≠ 0) || decide (b.stride0.toNat % m ≠ 0) || decide (b.stride1.toNat % m ≠ 0) ||
  decide (b.stride2.toNat % m ≠ 0)

/-- The lowest free binding slot. -/
def Hart.freeSlot (h : Hart) : Nat := h.streams.toList.findIdx (·.isNone)

/-- SBIND (R260). -/
def execSbind (d a : BitVec 5) (s : State) : Out :=
  .next (s.issueX (rr 0x31#6 d a 0#5 0#11)
    { gate1 with priv := !s.atP, vcfg := s.badGroup d, stream := s.hart.parent.isSome } [a] (fun s =>
      let ea := s.x a
      if ea.toNat % 64 ≠ 0 then s.trap causeMisalign ea
      else if !s.tmOk ea.toNat 64 then s.trap causeProt ea
      else match s.watchHit true true false 0 ea.toNat 64 with
        | some n => s.trap causeBrk (brkVal n)
        | none =>
          if s.tmPoisoned ea.toNat 64 then s.trap causePoison ea
          else
            let bs := s.tmBytes ea.toNat 64
            let b := Binding.ofBytes bs d.toNat s.grp ea s.ticks
            if s.descBad b bs then s.trap causeStream ea
            else { s with hart := { s.hart with
              streams := s.hart.streams.setIfInBounds s.hart.freeSlot (some b) } }.advance))

/-- The slot of the binding of the group that begins at a register. -/
def Hart.boundSlot (h : Hart) (d : BitVec 5) : Option (Nat × Binding) :=
  (h.streams.toList.mapIdx (fun i o => (i, o))).findSome? (fun io => match io.2 with
    | some b => if b.reg = d.toNat then some (io.1, b) else none
    | none => none)

/-- The end of a binding: POS stored in its descriptor, a plain store that a watch may match, the slot free (R262, R471). -/
def State.unbind (s : State) (d : BitVec 5) : State :=
  match s.hart.boundSlot d with
  | none => s
  | some (i, b) =>
    match s.watchHit true false true 0 (b.descAddr.toNat + 0x30) 8 with
    | some n => s.trap causeBrk (brkVal n)
    | none =>
      let s := s.tmStore (b.descAddr.toNat + 0x30) (leBytes 8 b.pos)
      { s with hart := { s.hart with streams := s.hart.streams.setIfInBounds i none } }.advance

/-- SUNB (R262): of a store binding it waits until every appended element has been performed. -/
def execSunb (d : BitVec 5) (s : State) : Out :=
  .next (s.issue (rr 0x31#6 d 0#5 0#5 1#11)
    { gate1 with priv := !s.atP, vcfg := s.badGroup d, stream := (s.hart.boundSlot d).isNone } (fun s =>
      match s.hart.boundSlot d with
      | some (_, b) => if b.store then s.block (.sunb d) else s.unbind d
      | none => s))

/-- SUNB_COMPLETE (R262): every appended element has been performed, as the model's stores are at once. -/
def execSunbComplete (s : State) : Out :=
  .next (match s.hart.status with
    | .blocked (.sunb d) => s.unblock.unbind d
    | _ => s)

end Sys2Proof.Machine
end

