-- ==== Sys2Proof/Machine/TmAccess.lean ====
section
/-! DEFINITION. Scalar loads and stores of tile memory (R179 to R181, R471). -/

namespace Sys2Proof.Machine

/-- The condition that a scalar TM access of n bytes meets first, with its TVAL (R180, R471): MISALIGN, PROT, a watch,
POISON. -/
def State.tmFault (s : State) (ea : Word) (n : Nat) (store : Bool) : Option (BitVec 8 × Word) :=
  if ea.toNat % n ≠ 0 then some (causeMisalign, ea)
  else if !s.tmOk ea.toNat n then some (causeProt, ea)
  else match s.watchHit true (!store) store 0 ea.toNat n with
    | some e => some (causeBrk, brkVal e)
    | none => if (!store || decide (n < 8)) && s.tmPoisoned ea.toNat n then some (causePoison, ea) else none

/-- The effective address of R179. -/
def State.tmEa (s : State) (a : BitVec 5) (i : BitVec 16) : Word := s.x a + i.signExtend 64

/-- A load of n bytes, extended as `ext` says. -/
def State.tmLoadX (s : State) (m : BitVec 6) (d a : BitVec 5) (i : BitVec 16) (n : Nat) (ext : Word → Word) : Out :=
  let ea := s.tmEa a i
  .next (s.issueX (ri m d a i) gate1 [a] (fun s =>
    match s.tmFault ea n false with
    | some f => s.trap f.1 f.2
    | none => (s.setX d (ext (BitVec.ofNat 64 (s.tmLoad ea.toNat n)))).advance))

/-- A store of the low n bytes of x[d]. -/
def State.tmStoreX (s : State) (m : BitVec 6) (d a : BitVec 5) (i : BitVec 16) (n : Nat) : Out :=
  let ea := s.tmEa a i
  .next (s.issueX (ri m d a i) gate1 [a, d] (fun s =>
    match s.tmFault ea n true with
    | some f => s.trap f.1 f.2
    | none => (s.tmStore ea.toNat (leBytes n (s.x d).toNat)).advance))

/-- sext of the low n bits. -/
def loadSext (n : Nat) (v : Word) : Word := (v.setWidth n).signExtend 64

/-- LDB (R179). -/
def execLdb (d a : BitVec 5) (i : BitVec 16) (s : State) : Out := s.tmLoadX 0xC#6 d a i 1 (loadSext 8)
/-- LDBU (R179). -/
def execLdbu (d a : BitVec 5) (i : BitVec 16) (s : State) : Out := s.tmLoadX 0xD#6 d a i 1 id
/-- LDH (R179). -/
def execLdh (d a : BitVec 5) (i : BitVec 16) (s : State) : Out := s.tmLoadX 0xE#6 d a i 2 (loadSext 16)
/-- LDHU (R179). -/
def execLdhu (d a : BitVec 5) (i : BitVec 16) (s : State) : Out := s.tmLoadX 0xF#6 d a i 2 id
/-- LDW (R179). -/
def execLdw (d a : BitVec 5) (i : BitVec 16) (s : State) : Out := s.tmLoadX 0x10#6 d a i 4 (loadSext 32)
/-- LDWU (R179). -/
def execLdwu (d a : BitVec 5) (i : BitVec 16) (s : State) : Out := s.tmLoadX 0x11#6 d a i 4 id
/-- LDD (R179). -/
def execLdd (d a : BitVec 5) (i : BitVec 16) (s : State) : Out := s.tmLoadX 0x12#6 d a i 8 id
/-- STB (R179). -/
def execStb (d a : BitVec 5) (i : BitVec 16) (s : State) : Out := s.tmStoreX 0x13#6 d a i 1
/-- STH (R179). -/
def execSth (d a : BitVec 5) (i : BitVec 16) (s : State) : Out := s.tmStoreX 0x14#6 d a i 2
/-- STW (R179). -/
def execStw (d a : BitVec 5) (i : BitVec 16) (s : State) : Out := s.tmStoreX 0x15#6 d a i 4
/-- STD (R179). -/
def execStd (d a : BitVec 5) (i : BitVec 16) (s : State) : Out := s.tmStoreX 0x16#6 d a i 8

end Sys2Proof.Machine
end

