-- ==== Sys2Proof/Machine/VInt.lean ====
section
/-! DEFINITION. The vector integer family: arithmetic, comparisons, merges and moves, single elements (R206 to R208). -/

namespace Sys2Proof.Machine

/-! ### The operations of R206 on elements of w bits, before they are cut to w bits -/

/-- A result without flags. -/
def noFlags (n : Nat) : Nat × FFlags := (n, 0)
/-- sh := b mod SEW. -/
def vsh (w b : Nat) : Nat := b % w
/-- The high half of the signed product. -/
def vmulhE (w a b : Nat) : Nat := wrapNat w (sextNat w a * sextNat w b / 2 ^ w)
/-- VDIV. -/
def vdivE (w a b : Nat) : Nat := if sextNat w b = 0 then 2 ^ w - 1 else wrapNat w ((sextNat w a).tdiv (sextNat w b))
/-- VDIVU. -/
def vdivuE (w a b : Nat) : Nat := if b = 0 then 2 ^ w - 1 else a / b
/-- VREM. -/
def vremE (w a b : Nat) : Nat := if sextNat w b = 0 then a else wrapNat w ((sextNat w a).tmod (sextNat w b))
/-- VSRA. -/
def vsraE (w a b : Nat) : Nat := wrapNat w (sextNat w a / 2 ^ vsh w b)
/-- The signed clamp of R78. -/
def clampS (w : Nat) (v : Int) : Nat := wrapNat w (max (-(2 ^ (w - 1))) (min (2 ^ (w - 1) - 1) v))
/-- The unsigned clamp of R78. -/
def clampU (w v : Nat) : Nat := Nat.min v (2 ^ w - 1)
/-- Signed order of elements. -/
def ltS (w a b : Nat) : Bool := decide (sextNat w a < sextNat w b)

/-- A binary operation of major 0x23. -/
def State.vint (s : State) (fn : BitVec 7) (d a b : BitVec 5) (p : BitVec 3) (sc : BitVec 1) (f : Nat → Nat → Nat) : Out :=
  .next (s.vvBin (vv 0x23#6 d a b p sc fn) d a b p sc false (fun x y => noFlags (f x y % 2 ^ s.sew)))

/-- A comparison of major 0x23. -/
def State.vcmp (s : State) (fn : BitVec 7) (d : BitVec 3) (a b : BitVec 5) (p : BitVec 3) (sc : BitVec 1)
    (f : Nat → Nat → Bool) : Out :=
  .next (s.vvCmp (vv 0x23#6 (0#2 ++ d) a b p sc fn) d a b p sc (fun x y => (f x y, 0)))

/-- VADD (R206). -/
def execVadd (d a b : BitVec 5) (p : BitVec 3) (sc : BitVec 1) (s : State) : Out :=
  s.vint 0x0#7 d a b p sc (fun a b => a + b)
/-- VSUB (R206). -/
def execVsub (d a b : BitVec 5) (p : BitVec 3) (sc : BitVec 1) (s : State) : Out :=
  s.vint 0x1#7 d a b p sc (fun a b => a + 2 ^ s.sew - b)
/-- VRSUB (R206). -/
def execVrsub (d a b : BitVec 5) (p : BitVec 3) (sc : BitVec 1) (s : State) : Out :=
  s.vint 0x2#7 d a b p sc (fun a b => b + 2 ^ s.sew - a)
/-- VMUL (R206). -/
def execVmul (d a b : BitVec 5) (p : BitVec 3) (sc : BitVec 1) (s : State) : Out :=
  s.vint 0x3#7 d a b p sc (fun a b => a * b)
/-- VMULH (R206). -/
def execVmulh (d a b : BitVec 5) (p : BitVec 3) (sc : BitVec 1) (s : State) : Out :=
  s.vint 0x4#7 d a b p sc (fun a b => vmulhE s.sew a b)
/-- VMULHU (R206). -/
def execVmulhu (d a b : BitVec 5) (p : BitVec 3) (sc : BitVec 1) (s : State) : Out :=
  s.vint 0x5#7 d a b p sc (fun a b => a * b / 2 ^ s.sew)
/-- VDIV (R206). -/
def execVdiv (d a b : BitVec 5) (p : BitVec 3) (sc : BitVec 1) (s : State) : Out :=
  s.vint 0x6#7 d a b p sc (fun a b => vdivE s.sew a b)
/-- VDIVU (R206). -/
def execVdivu (d a b : BitVec 5) (p : BitVec 3) (sc : BitVec 1) (s : State) : Out :=
  s.vint 0x7#7 d a b p sc (fun a b => vdivuE s.sew a b)
/-- VREM (R206). -/
def execVrem (d a b : BitVec 5) (p : BitVec 3) (sc : BitVec 1) (s : State) : Out :=
  s.vint 0x8#7 d a b p sc (fun a b => vremE s.sew a b)
/-- VAND (R206). -/
def execVand (d a b : BitVec 5) (p : BitVec 3) (sc : BitVec 1) (s : State) : Out :=
  s.vint 0x9#7 d a b p sc (fun a b => a &&& b)
/-- VOR (R206). -/
def execVor (d a b : BitVec 5) (p : BitVec 3) (sc : BitVec 1) (s : State) : Out :=
  s.vint 0xA#7 d a b p sc (fun a b => a ||| b)
/-- VXOR (R206). -/
def execVxor (d a b : BitVec 5) (p : BitVec 3) (sc : BitVec 1) (s : State) : Out :=
  s.vint 0xB#7 d a b p sc (fun a b => a ^^^ b)
/-- VSLL (R206). -/
def execVsll (d a b : BitVec 5) (p : BitVec 3) (sc : BitVec 1) (s : State) : Out :=
  s.vint 0xC#7 d a b p sc (fun a b => a * 2 ^ vsh s.sew b)
/-- VSRL (R206). -/
def execVsrl (d a b : BitVec 5) (p : BitVec 3) (sc : BitVec 1) (s : State) : Out :=
  s.vint 0xD#7 d a b p sc (fun a b => a / 2 ^ vsh s.sew b)
/-- VSRA (R206). -/
def execVsra (d a b : BitVec 5) (p : BitVec 3) (sc : BitVec 1) (s : State) : Out :=
  s.vint 0xE#7 d a b p sc (fun a b => vsraE s.sew a b)
/-- VMIN (R206). -/
def execVmin (d a b : BitVec 5) (p : BitVec 3) (sc : BitVec 1) (s : State) : Out :=
  s.vint 0xF#7 d a b p sc (fun a b => if ltS s.sew a b then a else b)
/-- VMAX (R206). -/
def execVmax (d a b : BitVec 5) (p : BitVec 3) (sc : BitVec 1) (s : State) : Out :=
  s.vint 0x10#7 d a b p sc (fun a b => if ltS s.sew a b then b else a)
/-- VMINU (R206). -/
def execVminu (d a b : BitVec 5) (p : BitVec 3) (sc : BitVec 1) (s : State) : Out :=
  s.vint 0x11#7 d a b p sc (fun a b => Nat.min a b)
/-- VMAXU (R206). -/
def execVmaxu (d a b : BitVec 5) (p : BitVec 3) (sc : BitVec 1) (s : State) : Out :=
  s.vint 0x12#7 d a b p sc (fun a b => Nat.max a b)
/-- VSADD (R206). -/
def execVsadd (d a b : BitVec 5) (p : BitVec 3) (sc : BitVec 1) (s : State) : Out :=
  s.vint 0x13#7 d a b p sc (fun a b => clampS s.sew (sextNat s.sew a + sextNat s.sew b))
/-- VSADDU (R206). -/
def execVsaddu (d a b : BitVec 5) (p : BitVec 3) (sc : BitVec 1) (s : State) : Out :=
  s.vint 0x14#7 d a b p sc (fun a b => clampU s.sew (a + b))
/-- VSSUB (R206). -/
def execVssub (d a b : BitVec 5) (p : BitVec 3) (sc : BitVec 1) (s : State) : Out :=
  s.vint 0x15#7 d a b p sc (fun a b => clampS s.sew (sextNat s.sew a - sextNat s.sew b))
/-- VSSUBU (R206). -/
def execVssubu (d a b : BitVec 5) (p : BitVec 3) (sc : BitVec 1) (s : State) : Out :=
  s.vint 0x16#7 d a b p sc (fun a b => a - b)
/-- VCMP.EQ (R207). -/
def execVcmpEq (d : BitVec 3) (a b : BitVec 5) (p : BitVec 3) (sc : BitVec 1) (s : State) : Out :=
  s.vcmp 0x18#7 d a b p sc (fun a b => a == b)
/-- VCMP.NE (R207). -/
def execVcmpNe (d : BitVec 3) (a b : BitVec 5) (p : BitVec 3) (sc : BitVec 1) (s : State) : Out :=
  s.vcmp 0x19#7 d a b p sc (fun a b => a != b)
/-- VCMP.LT (R207). -/
def execVcmpLt (d : BitVec 3) (a b : BitVec 5) (p : BitVec 3) (sc : BitVec 1) (s : State) : Out :=
  s.vcmp 0x1A#7 d a b p sc (fun a b => ltS s.sew a b)
/-- VCMP.LTU (R207). -/
def execVcmpLtu (d : BitVec 3) (a b : BitVec 5) (p : BitVec 3) (sc : BitVec 1) (s : State) : Out :=
  s.vcmp 0x1B#7 d a b p sc (fun a b => decide (a < b))
/-- VCMP.LE (R207). -/
def execVcmpLe (d : BitVec 3) (a b : BitVec 5) (p : BitVec 3) (sc : BitVec 1) (s : State) : Out :=
  s.vcmp 0x1C#7 d a b p sc (fun a b => !ltS s.sew b a)
/-- VCMP.LEU (R207). -/
def execVcmpLeu (d : BitVec 3) (a b : BitVec 5) (p : BitVec 3) (sc : BitVec 1) (s : State) : Out :=
  s.vcmp 0x1D#7 d a b p sc (fun a b => decide (a ≤ b))
/-- VCMP.GT (R207). -/
def execVcmpGt (d : BitVec 3) (a b : BitVec 5) (p : BitVec 3) (sc : BitVec 1) (s : State) : Out :=
  s.vcmp 0x1E#7 d a b p sc (fun a b => ltS s.sew b a)
/-- VCMP.GTU (R207). -/
def execVcmpGtu (d : BitVec 3) (a b : BitVec 5) (p : BitVec 3) (sc : BitVec 1) (s : State) : Out :=
  s.vcmp 0x1F#7 d a b p sc (fun a b => decide (b < a))

/-- VMERGE (R208): the predicate selects, and every element below VL is written. -/
def execVmerge (d a b : BitVec 5) (p : BitVec 3) (sc : BitVec 1) (s : State) : Out :=
  let w := s.sew
  .next (s.vrun (s.vvInstr (vv 0x23#6 d a b p sc 0x20#7) d a b p sc false false) (fun s h =>
    s.elemLoop (fun i => h.poisIn w (if h.pbit p i then [a.toNat] else if sc = 1 then [] else [b.toNat]) i) w d.toNat
      (fun i => noFlags (if h.pbit p i then h.elem w a.toNat i else s.operandB h b sc w i)) (s.actives 0) 0))

/-- VMV from a vector register (R208). -/
def execVmvV (d a : BitVec 5) (p : BitVec 3) (s : State) : Out :=
  .next (s.vvUn (vv 0x23#6 d a 0#5 p 0#1 0x21#7) d a p false noFlags)

/-- VMV from a scalar register (R208). -/
def execVmvX (d b : BitVec 5) (p : BitVec 3) (s : State) : Out :=
  let w := s.sew
  let v := s.vvInstr (vv 0x23#6 d 0#5 b p 1#1 0x21#7) d d b p 1 false false
  .next (s.vrun { v with srcs := [] } (fun s _ =>
    s.elemLoop (fun _ => none) w d.toNat (fun _ => noFlags ((s.opB b).toNat % 2 ^ w)) (s.actives p) 0))

/-- VXTR (R208): element x[b] of v[a], or 0 at or above VL. -/
def execVxtr (d a b : BitVec 5) (s : State) : Out :=
  let w := s.sew
  let v := s.vvInstr (vv 0x23#6 d a b 0#3 1#1 0x22#7) a a b 0 1 false false
  .next (s.vrun { v with dsts := [], vl0 := true } (fun s h =>
    let k := (s.opB b).toNat
    if k < s.vlen then
      match s.anyStop (h.poisIn w [a.toNat]) [k] with
      | some t => s.stopZero t
      | none => .done (s.setX d (BitVec.ofInt 64 (sextNat w (h.elem w a.toNat k))))
    else .done (s.setX d 0)))

/-- VINS (R208): x[a] into element x[b] of v[d], where that lies below VL. -/
def execVins (d a b : BitVec 5) (s : State) : Out :=
  let w := s.sew
  .next (s.vrun { word := vv 0x23#6 d a b 0#3 1#1 0x23#7, srcs := [], dsts := [(d.toNat, s.grp)], pred := 0, reads := [a, b]
                  xa := s.opA a, xb := s.opB b, units := s.rows w, vcfg := s.badGroup d, vl0 := true } (fun s _ =>
    let k := (s.opB b).toNat
    if k < s.vlen then
      s.elemLoop (fun _ => none) w d.toNat (fun _ => noFlags ((s.opA a).toNat % 2 ^ w)) [k] 0
    else .done s))

end Sys2Proof.Machine
end

