-- ==== Sys2Proof/Machine/VPermute.lean ====
section
/-! DEFINITION. Slides, gathers, compression, index vectors, reductions, scans and hashing (R217 to R222). -/

namespace Sys2Proof.Machine

/-- The register of a poisoned element i at width w, where that element is read. -/
def Hart.poisAt (h : Hart) (w r i : Nat) : Option Nat := if h.elemPois w r i then some (h.elemReg w r i) else none

/-- VSLUP (R217): an element below the offset is no destination. -/
def execVslup (d a b : BitVec 5) (p : BitVec 3) (s : State) : Out :=
  let w := s.sew
  .next (s.vrun (s.vvInstr (vv 0x26#6 d a b p 1#1 0#7) d a b p 1 false false) (fun s h =>
    let off := (s.opB b).toNat
    let low := (s.actives p).filter (fun i => decide (i < off))
    match s.anyStop (fun _ => none) low with
    | some t => .stop s t.cause t.val t.elem t.elem 0
    | none => s.elemLoop (fun i => h.poisAt w a.toNat (i - off)) w d.toNat (fun i => noFlags (h.elem w a.toNat (i - off)))
        ((s.actives p).filter (fun i => decide (off ≤ i))) 0))

/-- VSLDN (R217). -/
def execVsldn (d a b : BitVec 5) (p : BitVec 3) (s : State) : Out :=
  let w := s.sew
  .next (s.vrun (s.vvInstr (vv 0x26#6 d a b p 1#1 1#7) d a b p 1 false false) (fun s h =>
    let off := (s.opB b).toNat
    s.elemLoop (fun i => if i + off < s.vlen then h.poisAt w a.toNat (i + off) else none) w d.toNat
      (fun i => noFlags (if i + off < s.vlen then h.elem w a.toNat (i + off) else 0)) (s.actives p) 0))

/-- VGATH (R217): the index element is read as well as the element it names (R204). -/
def execVgath (d a b : BitVec 5) (p : BitVec 3) (sc : BitVec 1) (s : State) : Out :=
  let w := s.sew
  .next (s.vrun (s.vvInstr (vv 0x26#6 d a b p sc 2#7) d a b p sc false false) (fun s h =>
    let idx := s.operandB h b sc w
    s.elemLoop (fun i => if sc = 0 ∧ h.elemPois w b.toNat i then some (h.elemReg w b.toNat i)
        else if idx i < s.vlen then h.poisAt w a.toNat (idx i) else none) w d.toNat
      (fun i => noFlags (if idx i < s.vlen then h.elem w a.toNat (idx i) else 0)) (s.actives p) 0))

/-- VCOMP (R218): selected elements packed from element 0 on. -/
def execVcomp (d a : BitVec 5) (p : BitVec 3) (s : State) : Out :=
  let w := s.sew
  let v := s.vvInstr (vv 0x26#6 d a 0#5 p 0#1 3#7) d a a p 1 false false
  .next (s.vrun { v with reads := [], xb := 0 } (fun s h =>
    let l := s.actives p
    match s.anyStop (h.poisIn w [a.toNat]) l with
    | some t => s.stopZero t
    | none => .done { s with hart := s.hart.setElems w d.toNat (l.map (fun i => h.elem w a.toNat i)) }))

/-- VIOTA (R219): every element below VL, whatever the predicate. -/
def execViota (d : BitVec 5) (p : BitVec 3) (s : State) : Out :=
  let w := s.sew
  let v := s.vvInstr (vv 0x26#6 d 0#5 0#5 p 0#1 4#7) d d d p 1 false false
  .next (s.vrun { v with srcs := [], reads := [], xb := 0 } (fun s h =>
    let l := (upTo s.vlen).filter (fun j => h.pbit p j)
    s.elemLoop (fun _ => none) w d.toNat (fun i => noFlags (rankIn l i % 2 ^ w)) (s.actives 0) 0))

/-! ### Reductions and scans (R220, R221) -/

/-- The condition that a reduction or scan meets: its elements' in order, and at element 0 its poisoned init (R204). -/
def State.redStop (s : State) (h : Hart) (w : Nat) (a b : BitVec 5) (init : Bool) (l : List Nat) : Option Stop :=
  let brk0 := if l.head? = some 0 then s.elemStop (fun _ => none) 0 else none
  match brk0 with
  | some c => some ⟨c.1, c.2, 0⟩
  | none =>
    if init && h.elemPois w b.toNat 0 then some ⟨causePoison, BitVec.ofNat 64 b.toNat, 0⟩
    else s.anyStop (h.poisIn w [a.toNat]) l

/-- A reduction with an init: `f` folds the active elements. -/
def State.vreduce (s : State) (fn : BitVec 7) (d a b : BitVec 5) (p : BitVec 3) (sc : BitVec 1)
    (f : Nat → Nat → Nat × FFlags) : Out :=
  let w := s.sew
  .next (s.vrun (s.vvInstr (vv 0x26#6 d a b p sc fn) d a b p sc false false) (fun s h =>
    if s.vlen = 0 then .done s
    else
      let l := s.actives p
      match s.redStop h w a b (decide (sc = 0)) l with
      | some t => s.stopZero t
      | none =>
        let r := l.foldl (fun (acc : Nat × FFlags) i => withFlags (f acc.1 (h.elem w a.toNat i)) acc.2)
          (s.operandB h b sc w 0, 0)
        .done ({ s with hart := s.hart.setElem w d.toNat 0 r.1 }.raise r.2)))

/-- An inclusive scan: the running value at each active element. -/
def scanVals (f : Nat → Nat → Nat × FFlags) (el : Nat → Nat) : List Nat → Nat → FFlags → List (Nat × Nat) × FFlags
  | [], _, fl => ([], fl)
  | i :: is, acc, fl =>
    let r := f acc (el i)
    let t := scanVals f el is r.1 (fl ||| r.2)
    ((i, r.1) :: t.1, t.2)

/-- A scan with an init. -/
def State.vscan (s : State) (fn : BitVec 7) (d a b : BitVec 5) (p : BitVec 3) (sc : BitVec 1)
    (f : Nat → Nat → Nat × FFlags) : Out :=
  let w := s.sew
  .next (s.vrun (s.vvInstr (vv 0x26#6 d a b p sc fn) d a b p sc false false) (fun s h =>
    if s.vlen = 0 then .done s
    else
      let l := s.actives p
      match s.redStop h w a b (decide (sc = 0)) l with
      | some t => s.stopZero t
      | none =>
        let r := scanVals f (fun i => h.elem w a.toNat i) l (s.operandB h b sc w 0) 0
        .done ({ s with hart := r.1.foldl (fun (h : Hart) (iv : Nat × Nat) => h.setElem w d.toNat iv.1 iv.2) s.hart }.raise r.2)))

/-- A reduction by VFMIN or VFMAX without an init (R103). -/
def State.vfreduce (s : State) (fn : BitVec 7) (d a : BitVec 5) (p : BitVec 3) (wantMax : Bool) : Out :=
  let w := s.sew
  let v := s.vvInstr (vv 0x26#6 d a 0#5 p 0#1 fn) d a a p 1 false false
  .next (s.vrun { v with reads := [], xb := 0 } (fun s h =>
    if s.vlen = 0 then .done s
    else
      let l := s.actives p
      match s.anyStop (h.poisIn w [a.toNat]) l with
      | some t => s.stopZero t
      | none =>
        let r := l.foldl (fun (acc : Nat × FFlags) i => withFlags (s.fmt.minmax wantMax acc.1 (h.elem w a.toNat i)) acc.2)
          (s.fmt.nanBits, 0)
        .done ({ s with hart := s.hart.setElem w d.toNat 0 r.1 }.raise r.2)))

/-- VFREDO (R102). -/
def execVfredo (d a b : BitVec 5) (p : BitVec 3) (sc : BitVec 1) (s : State) : Out :=
  s.vreduce 5#7 d a b p sc (s.fmt.add s.rdir)
/-- VFRMAX. -/
def execVfrmax (d a : BitVec 5) (p : BitVec 3) (s : State) : Out := s.vfreduce 6#7 d a p true
/-- VFRMIN. -/
def execVfrmin (d a : BitVec 5) (p : BitVec 3) (s : State) : Out := s.vfreduce 7#7 d a p false
/-- VHASH (R222): SEW 64 alone. -/
def execVhash (d a b : BitVec 5) (p : BitVec 3) (sc : BitVec 1) (s : State) : Out :=
  .next (s.vvBin (vv 0x26#6 d a b p sc 8#7) d a b p sc (s.sew != 64) (fun x y =>
    noFlags (mix64 (BitVec.ofNat 64 (x ^^^ y))).toNat))

/-- The integer operations of a reduction or scan (R220). -/
def redAdd (w a b : Nat) : Nat × FFlags := noFlags ((a + b) % 2 ^ w)
/-- MIN. -/
def redMin (w a b : Nat) : Nat × FFlags := noFlags (if ltS w a b then a else b)
/-- MAX. -/
def redMax (w a b : Nat) : Nat × FFlags := noFlags (if ltS w a b then b else a)

/-- VRED.ADD. -/
def execVredAdd (d a b : BitVec 5) (p : BitVec 3) (sc : BitVec 1) (s : State) : Out :=
  s.vreduce 0x10#7 d a b p sc (redAdd s.sew)
/-- VRED.AND. -/
def execVredAnd (d a b : BitVec 5) (p : BitVec 3) (sc : BitVec 1) (s : State) : Out :=
  s.vreduce 0x11#7 d a b p sc (fun a b => noFlags (a &&& b))
/-- VRED.OR. -/
def execVredOr (d a b : BitVec 5) (p : BitVec 3) (sc : BitVec 1) (s : State) : Out :=
  s.vreduce 0x12#7 d a b p sc (fun a b => noFlags (a ||| b))
/-- VRED.XOR. -/
def execVredXor (d a b : BitVec 5) (p : BitVec 3) (sc : BitVec 1) (s : State) : Out :=
  s.vreduce 0x13#7 d a b p sc (fun a b => noFlags (a ^^^ b))
/-- VRED.MIN. -/
def execVredMin (d a b : BitVec 5) (p : BitVec 3) (sc : BitVec 1) (s : State) : Out :=
  s.vreduce 0x14#7 d a b p sc (redMin s.sew)
/-- VRED.MAX. -/
def execVredMax (d a b : BitVec 5) (p : BitVec 3) (sc : BitVec 1) (s : State) : Out :=
  s.vreduce 0x15#7 d a b p sc (redMax s.sew)
/-- VRED.MINU. -/
def execVredMinu (d a b : BitVec 5) (p : BitVec 3) (sc : BitVec 1) (s : State) : Out :=
  s.vreduce 0x16#7 d a b p sc (fun a b => noFlags (Nat.min a b))
/-- VRED.MAXU. -/
def execVredMaxu (d a b : BitVec 5) (p : BitVec 3) (sc : BitVec 1) (s : State) : Out :=
  s.vreduce 0x17#7 d a b p sc (fun a b => noFlags (Nat.max a b))
/-- VSCAN.ADD. -/
def execVscanAdd (d a b : BitVec 5) (p : BitVec 3) (sc : BitVec 1) (s : State) : Out :=
  s.vscan 0x18#7 d a b p sc (redAdd s.sew)
/-- VSCAN.AND. -/
def execVscanAnd (d a b : BitVec 5) (p : BitVec 3) (sc : BitVec 1) (s : State) : Out :=
  s.vscan 0x19#7 d a b p sc (fun a b => noFlags (a &&& b))
/-- VSCAN.OR. -/
def execVscanOr (d a b : BitVec 5) (p : BitVec 3) (sc : BitVec 1) (s : State) : Out :=
  s.vscan 0x1A#7 d a b p sc (fun a b => noFlags (a ||| b))
/-- VSCAN.XOR. -/
def execVscanXor (d a b : BitVec 5) (p : BitVec 3) (sc : BitVec 1) (s : State) : Out :=
  s.vscan 0x1B#7 d a b p sc (fun a b => noFlags (a ^^^ b))
/-- VSCAN.MIN. -/
def execVscanMin (d a b : BitVec 5) (p : BitVec 3) (sc : BitVec 1) (s : State) : Out :=
  s.vscan 0x1C#7 d a b p sc (redMin s.sew)
/-- VSCAN.MAX. -/
def execVscanMax (d a b : BitVec 5) (p : BitVec 3) (sc : BitVec 1) (s : State) : Out :=
  s.vscan 0x1D#7 d a b p sc (redMax s.sew)
/-- VSCAN.MINU. -/
def execVscanMinu (d a b : BitVec 5) (p : BitVec 3) (sc : BitVec 1) (s : State) : Out :=
  s.vscan 0x1E#7 d a b p sc (fun a b => noFlags (Nat.min a b))
/-- VSCAN.MAXU. -/
def execVscanMaxu (d a b : BitVec 5) (p : BitVec 3) (sc : BitVec 1) (s : State) : Out :=
  s.vscan 0x1F#7 d a b p sc (fun a b => noFlags (Nat.max a b))
/-- VSCAN.FADD (R102). -/
def execVscanFadd (d a b : BitVec 5) (p : BitVec 3) (sc : BitVec 1) (s : State) : Out :=
  s.vscan 0x20#7 d a b p sc (s.fmt.add s.rdir)

end Sys2Proof.Machine
end

