-- ==== Sys2Proof/Machine/Dispatch.lean ====
section
/-! DEFINITION. The dispatch: one arm per constructor of Instr, each one direct call of its meaning. -/

namespace Sys2Proof.Machine

/-- The effect of one step of the part. -/
def exec (i : Instr) (s : State) : Host.Outcome State Fault Refusal :=
  match i with
  | .add d a b => Sys2Proof.Machine.execAdd d a b s
  | .sub d a b => Sys2Proof.Machine.execSub d a b s
  | .and d a b => Sys2Proof.Machine.execAnd d a b s
  | .or d a b => Sys2Proof.Machine.execOr d a b s
  | .xor d a b => Sys2Proof.Machine.execXor d a b s
  | .andn d a b => Sys2Proof.Machine.execAndn d a b s
  | .orn d a b => Sys2Proof.Machine.execOrn d a b s
  | .sll d a b => Sys2Proof.Machine.execSll d a b s
  | .srl d a b => Sys2Proof.Machine.execSrl d a b s
  | .sra d a b => Sys2Proof.Machine.execSra d a b s
  | .rol d a b => Sys2Proof.Machine.execRol d a b s
  | .ror d a b => Sys2Proof.Machine.execRor d a b s
  | .slt d a b => Sys2Proof.Machine.execSlt d a b s
  | .sltu d a b => Sys2Proof.Machine.execSltu d a b s
  | .min d a b => Sys2Proof.Machine.execMin d a b s
  | .max d a b => Sys2Proof.Machine.execMax d a b s
  | .minu d a b => Sys2Proof.Machine.execMinu d a b s
  | .maxu d a b => Sys2Proof.Machine.execMaxu d a b s
  | .clz d a => Sys2Proof.Machine.execClz d a s
  | .ctz d a => Sys2Proof.Machine.execCtz d a s
  | .popc d a => Sys2Proof.Machine.execPopc d a s
  | .sextb d a => Sys2Proof.Machine.execSextb d a s
  | .sexth d a => Sys2Proof.Machine.execSexth d a s
  | .sextw d a => Sys2Proof.Machine.execSextw d a s
  | .zextw d a => Sys2Proof.Machine.execZextw d a s
  | .addi d a imm => Sys2Proof.Machine.execAddi d a imm s
  | .andi d a imm => Sys2Proof.Machine.execAndi d a imm s
  | .ori d a imm => Sys2Proof.Machine.execOri d a imm s
  | .xori d a imm => Sys2Proof.Machine.execXori d a imm s
  | .slti d a imm => Sys2Proof.Machine.execSlti d a imm s
  | .sltiu d a imm => Sys2Proof.Machine.execSltiu d a imm s
  | .slli d a h => Sys2Proof.Machine.execSlli d a h s
  | .srli d a h => Sys2Proof.Machine.execSrli d a h s
  | .srai d a h => Sys2Proof.Machine.execSrai d a h s
  | .lih d a imm => Sys2Proof.Machine.execLih d a imm s
  | .addpc d a imm => Sys2Proof.Machine.execAddpc d a imm s
  | .mul d a b => Sys2Proof.Machine.execMul d a b s
  | .mulh d a b => Sys2Proof.Machine.execMulh d a b s
  | .mulhu d a b => Sys2Proof.Machine.execMulhu d a b s
  | .mulhsu d a b => Sys2Proof.Machine.execMulhsu d a b s
  | .div d a b => Sys2Proof.Machine.execDiv d a b s
  | .divu d a b => Sys2Proof.Machine.execDivu d a b s
  | .rem d a b => Sys2Proof.Machine.execRem d a b s
  | .remu d a b => Sys2Proof.Machine.execRemu d a b s
  | .ldb d a imm => Sys2Proof.Machine.execLdb d a imm s
  | .ldbu d a imm => Sys2Proof.Machine.execLdbu d a imm s
  | .ldh d a imm => Sys2Proof.Machine.execLdh d a imm s
  | .ldhu d a imm => Sys2Proof.Machine.execLdhu d a imm s
  | .ldw d a imm => Sys2Proof.Machine.execLdw d a imm s
  | .ldwu d a imm => Sys2Proof.Machine.execLdwu d a imm s
  | .ldd d a imm => Sys2Proof.Machine.execLdd d a imm s
  | .stb d a imm => Sys2Proof.Machine.execStb d a imm s
  | .sth d a imm => Sys2Proof.Machine.execSth d a imm s
  | .stw d a imm => Sys2Proof.Machine.execStw d a imm s
  | .std d a imm => Sys2Proof.Machine.execStd d a imm s
  | .ldg d a z u => Sys2Proof.Machine.execLdg d a z u s
  | .stg a b z => Sys2Proof.Machine.execStg a b z s
  | .ldsync d a z => Sys2Proof.Machine.execLdsync d a z s
  | .ldsyncE d a z => Sys2Proof.Machine.execLdsyncE d a z s
  | .setf a => Sys2Proof.Machine.execSetf a s
  | .sete a => Sys2Proof.Machine.execSete a s
  | .fence => Sys2Proof.Machine.execFence s
  | .amoAdd d a b z q r => Sys2Proof.Machine.execAmoAdd d a b z q r s
  | .amoAnd d a b z q r => Sys2Proof.Machine.execAmoAnd d a b z q r s
  | .amoOr d a b z q r => Sys2Proof.Machine.execAmoOr d a b z q r s
  | .amoXor d a b z q r => Sys2Proof.Machine.execAmoXor d a b z q r s
  | .amoMin d a b z q r => Sys2Proof.Machine.execAmoMin d a b z q r s
  | .amoMax d a b z q r => Sys2Proof.Machine.execAmoMax d a b z q r s
  | .amoMinu d a b z q r => Sys2Proof.Machine.execAmoMinu d a b z q r s
  | .amoMaxu d a b z q r => Sys2Proof.Machine.execAmoMaxu d a b z q r s
  | .amoSwap d a b z q r => Sys2Proof.Machine.execAmoSwap d a b z q r s
  | .amoCas d a b z q r => Sys2Proof.Machine.execAmoCas d a b z q r s
  | .beq a b imm => Sys2Proof.Machine.execBeq a b imm s
  | .bne a b imm => Sys2Proof.Machine.execBne a b imm s
  | .blt a b imm => Sys2Proof.Machine.execBlt a b imm s
  | .bge a b imm => Sys2Proof.Machine.execBge a b imm s
  | .bltu a b imm => Sys2Proof.Machine.execBltu a b imm s
  | .bgeu a b imm => Sys2Proof.Machine.execBgeu a b imm s
  | .j imm => Sys2Proof.Machine.execJ imm s
  | .jal imm => Sys2Proof.Machine.execJal imm s
  | .jalr d a imm => Sys2Proof.Machine.execJalr d a imm s
  | .setvl d a => Sys2Proof.Machine.execSetvl d a s
  | .vsett d a => Sys2Proof.Machine.execVsett d a s
  | .vlmaxq d a => Sys2Proof.Machine.execVlmaxq d a s
  | .setvli d imm => Sys2Proof.Machine.execSetvli d imm s
  | .vadd d a b p sc => Sys2Proof.Machine.execVadd d a b p sc s
  | .vsub d a b p sc => Sys2Proof.Machine.execVsub d a b p sc s
  | .vrsub d a b p sc => Sys2Proof.Machine.execVrsub d a b p sc s
  | .vmul d a b p sc => Sys2Proof.Machine.execVmul d a b p sc s
  | .vmulh d a b p sc => Sys2Proof.Machine.execVmulh d a b p sc s
  | .vmulhu d a b p sc => Sys2Proof.Machine.execVmulhu d a b p sc s
  | .vdiv d a b p sc => Sys2Proof.Machine.execVdiv d a b p sc s
  | .vdivu d a b p sc => Sys2Proof.Machine.execVdivu d a b p sc s
  | .vrem d a b p sc => Sys2Proof.Machine.execVrem d a b p sc s
  | .vand d a b p sc => Sys2Proof.Machine.execVand d a b p sc s
  | .vor d a b p sc => Sys2Proof.Machine.execVor d a b p sc s
  | .vxor d a b p sc => Sys2Proof.Machine.execVxor d a b p sc s
  | .vsll d a b p sc => Sys2Proof.Machine.execVsll d a b p sc s
  | .vsrl d a b p sc => Sys2Proof.Machine.execVsrl d a b p sc s
  | .vsra d a b p sc => Sys2Proof.Machine.execVsra d a b p sc s
  | .vmin d a b p sc => Sys2Proof.Machine.execVmin d a b p sc s
  | .vmax d a b p sc => Sys2Proof.Machine.execVmax d a b p sc s
  | .vminu d a b p sc => Sys2Proof.Machine.execVminu d a b p sc s
  | .vmaxu d a b p sc => Sys2Proof.Machine.execVmaxu d a b p sc s
  | .vsadd d a b p sc => Sys2Proof.Machine.execVsadd d a b p sc s
  | .vsaddu d a b p sc => Sys2Proof.Machine.execVsaddu d a b p sc s
  | .vssub d a b p sc => Sys2Proof.Machine.execVssub d a b p sc s
  | .vssubu d a b p sc => Sys2Proof.Machine.execVssubu d a b p sc s
  | .vcmpEq d a b p sc => Sys2Proof.Machine.execVcmpEq d a b p sc s
  | .vcmpNe d a b p sc => Sys2Proof.Machine.execVcmpNe d a b p sc s
  | .vcmpLt d a b p sc => Sys2Proof.Machine.execVcmpLt d a b p sc s
  | .vcmpLtu d a b p sc => Sys2Proof.Machine.execVcmpLtu d a b p sc s
  | .vcmpLe d a b p sc => Sys2Proof.Machine.execVcmpLe d a b p sc s
  | .vcmpLeu d a b p sc => Sys2Proof.Machine.execVcmpLeu d a b p sc s
  | .vcmpGt d a b p sc => Sys2Proof.Machine.execVcmpGt d a b p sc s
  | .vcmpGtu d a b p sc => Sys2Proof.Machine.execVcmpGtu d a b p sc s
  | .vmerge d a b p sc => Sys2Proof.Machine.execVmerge d a b p sc s
  | .vmvV d a p => Sys2Proof.Machine.execVmvV d a p s
  | .vmvX d b p => Sys2Proof.Machine.execVmvX d b p s
  | .vxtr d a b => Sys2Proof.Machine.execVxtr d a b s
  | .vins d a b => Sys2Proof.Machine.execVins d a b s
  | .vfadd d a b p sc => Sys2Proof.Machine.execVfadd d a b p sc s
  | .vfsub d a b p sc => Sys2Proof.Machine.execVfsub d a b p sc s
  | .vfmul d a b p sc => Sys2Proof.Machine.execVfmul d a b p sc s
  | .vfdiv d a b p sc => Sys2Proof.Machine.execVfdiv d a b p sc s
  | .vfsqrt d a p => Sys2Proof.Machine.execVfsqrt d a p s
  | .vfmin d a b p sc => Sys2Proof.Machine.execVfmin d a b p sc s
  | .vfmax d a b p sc => Sys2Proof.Machine.execVfmax d a b p sc s
  | .vfcmpEq d a b p sc => Sys2Proof.Machine.execVfcmpEq d a b p sc s
  | .vfcmpNe d a b p sc => Sys2Proof.Machine.execVfcmpNe d a b p sc s
  | .vfcmpLt d a b p sc => Sys2Proof.Machine.execVfcmpLt d a b p sc s
  | .vfcmpLe d a b p sc => Sys2Proof.Machine.execVfcmpLe d a b p sc s
  | .vfcmpGt d a b p sc => Sys2Proof.Machine.execVfcmpGt d a b p sc s
  | .vfcmpGe d a b p sc => Sys2Proof.Machine.execVfcmpGe d a b p sc s
  | .vfcmpUn d a b p sc => Sys2Proof.Machine.execVfcmpUn d a b p sc s
  | .vfsgnJ d a b p sc => Sys2Proof.Machine.execVfsgnJ d a b p sc s
  | .vfsgnJn d a b p sc => Sys2Proof.Machine.execVfsgnJn d a b p sc s
  | .vfsgnJx d a b p sc => Sys2Proof.Machine.execVfsgnJx d a b p sc s
  | .vfclass d a p => Sys2Proof.Machine.execVfclass d a p s
  | .vfcvtFf d a src p => Sys2Proof.Machine.execVfcvtFf d a src p s
  | .vfcvtFs d a src p => Sys2Proof.Machine.execVfcvtFs d a src p s
  | .vfcvtFu d a src p => Sys2Proof.Machine.execVfcvtFu d a src p s
  | .vfcvtIf d a u wd p => Sys2Proof.Machine.execVfcvtIf d a u wd p s
  | .vfrcpe d a p => Sys2Proof.Machine.execVfrcpe d a p s
  | .vfrcps d a b p sc => Sys2Proof.Machine.execVfrcps d a b p sc s
  | .vfrsqe d a p => Sys2Proof.Machine.execVfrsqe d a p s
  | .vfrsqs d a b p sc => Sys2Proof.Machine.execVfrsqs d a b p sc s
  | .vfexp2 d a p => Sys2Proof.Machine.execVfexp2 d a p s
  | .vflog2 d a p => Sys2Proof.Machine.execVflog2 d a p s
  | .vfma d a b p sc => Sys2Proof.Machine.execVfma d a b p sc s
  | .vfms d a b p sc => Sys2Proof.Machine.execVfms d a b p sc s
  | .vfnma d a b p sc => Sys2Proof.Machine.execVfnma d a b p sc s
  | .vfnms d a b p sc => Sys2Proof.Machine.execVfnms d a b p sc s
  | .vslup d a b p => Sys2Proof.Machine.execVslup d a b p s
  | .vsldn d a b p => Sys2Proof.Machine.execVsldn d a b p s
  | .vgath d a b p sc => Sys2Proof.Machine.execVgath d a b p sc s
  | .vcomp d a p => Sys2Proof.Machine.execVcomp d a p s
  | .viota d p => Sys2Proof.Machine.execViota d p s
  | .vfredo d a b p sc => Sys2Proof.Machine.execVfredo d a b p sc s
  | .vfrmax d a p => Sys2Proof.Machine.execVfrmax d a p s
  | .vfrmin d a p => Sys2Proof.Machine.execVfrmin d a p s
  | .vhash d a b p sc => Sys2Proof.Machine.execVhash d a b p sc s
  | .vredAdd d a b p sc => Sys2Proof.Machine.execVredAdd d a b p sc s
  | .vredAnd d a b p sc => Sys2Proof.Machine.execVredAnd d a b p sc s
  | .vredOr d a b p sc => Sys2Proof.Machine.execVredOr d a b p sc s
  | .vredXor d a b p sc => Sys2Proof.Machine.execVredXor d a b p sc s
  | .vredMin d a b p sc => Sys2Proof.Machine.execVredMin d a b p sc s
  | .vredMax d a b p sc => Sys2Proof.Machine.execVredMax d a b p sc s
  | .vredMinu d a b p sc => Sys2Proof.Machine.execVredMinu d a b p sc s
  | .vredMaxu d a b p sc => Sys2Proof.Machine.execVredMaxu d a b p sc s
  | .vscanAdd d a b p sc => Sys2Proof.Machine.execVscanAdd d a b p sc s
  | .vscanAnd d a b p sc => Sys2Proof.Machine.execVscanAnd d a b p sc s
  | .vscanOr d a b p sc => Sys2Proof.Machine.execVscanOr d a b p sc s
  | .vscanXor d a b p sc => Sys2Proof.Machine.execVscanXor d a b p sc s
  | .vscanMin d a b p sc => Sys2Proof.Machine.execVscanMin d a b p sc s
  | .vscanMax d a b p sc => Sys2Proof.Machine.execVscanMax d a b p sc s
  | .vscanMinu d a b p sc => Sys2Proof.Machine.execVscanMinu d a b p sc s
  | .vscanMaxu d a b p sc => Sys2Proof.Machine.execVscanMaxu d a b p sc s
  | .vscanFadd d a b p sc => Sys2Proof.Machine.execVscanFadd d a b p sc s
  | .pand d a b p => Sys2Proof.Machine.execPand d a b p s
  | .por d a b p => Sys2Proof.Machine.execPor d a b p s
  | .pxor d a b p => Sys2Proof.Machine.execPxor d a b p s
  | .pandn d a b p => Sys2Proof.Machine.execPandn d a b p s
  | .pset d p => Sys2Proof.Machine.execPset d p s
  | .pfirst d a p => Sys2Proof.Machine.execPfirst d a p s
  | .pcnt d a p => Sys2Proof.Machine.execPcnt d a p s
  | .pmov d a p => Sys2Proof.Machine.execPmov d a p s
  | .eaclr d => Sys2Proof.Machine.execEaclr d s
  | .eaadd d a p => Sys2Proof.Machine.execEaadd d a p s
  | .eadot d a b p sc => Sys2Proof.Machine.execEadot d a b p sc s
  | .eaaddx d a => Sys2Proof.Machine.execEaaddx d a s
  | .earnd d a m f => Sys2Proof.Machine.execEarnd d a m f s
  | .eamov d a => Sys2Proof.Machine.execEamov d a s
  | .vld d a p => Sys2Proof.Machine.execVld d a p s
  | .vlds d a b p => Sys2Proof.Machine.execVlds d a b p s
  | .vldx d a b p => Sys2Proof.Machine.execVldx d a b p s
  | .vlseg d a p wc fm => Sys2Proof.Machine.execVlseg d a p wc fm s
  | .vst d a p => Sys2Proof.Machine.execVst d a p s
  | .vsts d a b p => Sys2Proof.Machine.execVsts d a b p s
  | .vstx d a b p => Sys2Proof.Machine.execVstx d a b p s
  | .vsseg d a p wc fm => Sys2Proof.Machine.execVsseg d a p wc fm s
  | .vldg d a p => Sys2Proof.Machine.execVldg d a p s
  | .vldgs d a b p => Sys2Proof.Machine.execVldgs d a b p s
  | .vldgx d a b p => Sys2Proof.Machine.execVldgx d a b p s
  | .vstg d a p => Sys2Proof.Machine.execVstg d a p s
  | .vstgs d a b p => Sys2Proof.Machine.execVstgs d a b p s
  | .vstgx d a b p => Sys2Proof.Machine.execVstgx d a b p s
  | .vldsync d a p => Sys2Proof.Machine.execVldsync d a p s
  | .vldsyncE d a p => Sys2Proof.Machine.execVldsyncE d a p s
  | .vspill d a p => Sys2Proof.Machine.execVspill d a p s
  | .vfill d a p => Sys2Proof.Machine.execVfill d a p s
  | .easpill d a => Sys2Proof.Machine.execEaspill d a s
  | .eafill d a => Sys2Proof.Machine.execEafill d a s
  | .vstm d a b p => Sys2Proof.Machine.execVstm d a b p s
  | .vamoAdd d a b p => Sys2Proof.Machine.execVamoAdd d a b p s
  | .vamoAnd d a b p => Sys2Proof.Machine.execVamoAnd d a b p s
  | .vamoOr d a b p => Sys2Proof.Machine.execVamoOr d a b p s
  | .vamoXor d a b p => Sys2Proof.Machine.execVamoXor d a b p s
  | .vamoMin d a b p => Sys2Proof.Machine.execVamoMin d a b p s
  | .vamoMax d a b p => Sys2Proof.Machine.execVamoMax d a b p s
  | .vamoMinu d a b p => Sys2Proof.Machine.execVamoMinu d a b p s
  | .vamoMaxu d a b p => Sys2Proof.Machine.execVamoMaxu d a b p s
  | .vamoSwap d a b p => Sys2Proof.Machine.execVamoSwap d a b p s
  | .crd d pe port => Sys2Proof.Machine.execCrd d pe port s
  | .crdm d pe port k => Sys2Proof.Machine.execCrdm d pe port k s
  | .cwr a port => Sys2Proof.Machine.execCwr a port s
  | .cwrm a port k => Sys2Proof.Machine.execCwrm a port k s
  | .vcrd d pe port => Sys2Proof.Machine.execVcrd d pe port s
  | .vcwr a port => Sys2Proof.Machine.execVcwr a port s
  | .cclose port => Sys2Proof.Machine.execCclose port s
  | .sbind d a => Sys2Proof.Machine.execSbind d a s
  | .sunb d => Sys2Proof.Machine.execSunb d s
  | .forkl imm => Sys2Proof.Machine.execForkl imm s
  | .joinl => Sys2Proof.Machine.execJoinl s
  | .mshape d a b => Sys2Proof.Machine.execMshape d a b s
  | .mpack d a q p => Sys2Proof.Machine.execMpack d a q p s
  | .munpk d a q p => Sys2Proof.Machine.execMunpk d a q p s
  | .mzero k => Sys2Proof.Machine.execMzero k s
  | .mma a b k => Sys2Proof.Machine.execMma a b k s
  | .mdrain c a b p k m g => Sys2Proof.Machine.execMdrain c a b p k m g s
  | .txin d a b => Sys2Proof.Machine.execTxin d a b s
  | .txout d a b => Sys2Proof.Machine.execTxout d a b s
  | .tx2d a => Sys2Proof.Machine.execTx2d a s
  | .dpost a => Sys2Proof.Machine.execDpost a s
  | .dgrant d a b => Sys2Proof.Machine.execDgrant d a b s
  | .dsend d a b => Sys2Proof.Machine.execDsend d a b s
  | .dclose a => Sys2Proof.Machine.execDclose a s
  | .barrier a => Sys2Proof.Machine.execBarrier a s
  | .barrierReduce a b => Sys2Proof.Machine.execBarrierReduce a b s
  | .barcnt d a => Sys2Proof.Machine.execBarcnt d a s
  | .rdtime d => Sys2Proof.Machine.execRdtime d s
  | .waitt a => Sys2Proof.Machine.execWaitt a s
  | .safe imm => Sys2Proof.Machine.execSafe imm s
  | .brk imm => Sys2Proof.Machine.execBrk imm s
  | .tcapStart => Sys2Proof.Machine.execTcapStart s
  | .tcapStop => Sys2Proof.Machine.execTcapStop s
  | .csrr d c => Sys2Proof.Machine.execCsrr d c s
  | .csrw a c => Sys2Proof.Machine.execCsrw a c s
  | .csrs a c => Sys2Proof.Machine.execCsrs a c s
  | .csrc a c => Sys2Proof.Machine.execCsrc a c s
  | .sysc c => Sys2Proof.Machine.execSysc c s
  | .eret => Sys2Proof.Machine.execEret s
  | .iinv => Sys2Proof.Machine.execIinv s
  | .tlbinv a => Sys2Proof.Machine.execTlbinv a s
  | .halt => Sys2Proof.Machine.execHalt s
  | .steepFault => Sys2Proof.Machine.execSteepFault s
  | .channelWriteUnblock => Sys2Proof.Machine.execChannelWriteUnblock s
  | .channelReadUnblock => Sys2Proof.Machine.execChannelReadUnblock s
  | .granuleWaitComplete => Sys2Proof.Machine.execGranuleWaitComplete s
  | .joinlComplete => Sys2Proof.Machine.execJoinlComplete s
  | .waittWake => Sys2Proof.Machine.execWaittWake s
  | .globalLoadReply elem => Sys2Proof.Machine.execGlobalLoadReply elem s
  | .sunbComplete => Sys2Proof.Machine.execSunbComplete s
  | .granuleMarking pick => Sys2Proof.Machine.execGranuleMarking pick s
  | .vstmAck failed => Sys2Proof.Machine.execVstmAck failed s
  | .leaveGrant => Sys2Proof.Machine.execLeaveGrant s
  | .leaveLapse => Sys2Proof.Machine.execLeaveLapse s
  | .hartDispatch => Sys2Proof.Machine.execHartDispatch s
  | .stallSample => Sys2Proof.Machine.execStallSample s
  | .hangWatchdogExpiry span => Sys2Proof.Machine.execHangWatchdogExpiry span s
  | .laneFailure tile part => Sys2Proof.Machine.execLaneFailure tile part s
  | .tmScrubPass found => Sys2Proof.Machine.execTmScrubPass found s
  | .dramScrubPass found => Sys2Proof.Machine.execDramScrubPass found s
  | .logEntryWrite => Sys2Proof.Machine.execLogEntryWrite s
  | .wearSample tile activityPpm milliVolt deciCelsius => Sys2Proof.Machine.execWearSample tile activityPpm milliVolt deciCelsius s
  | .lifetimeRecordWrite => Sys2Proof.Machine.execLifetimeRecordWrite s
  | .marginAlarmStop tile => Sys2Proof.Machine.execMarginAlarmStop tile s
  | .quarantineSelfTest tile pass => Sys2Proof.Machine.execQuarantineSelfTest tile pass s
  | .spareSubstitution tile => Sys2Proof.Machine.execSpareSubstitution tile s
  | .temperatureSample island deciCelsius => Sys2Proof.Machine.execTemperatureSample island deciCelsius s
  | .powerSample milliWatt island => Sys2Proof.Machine.execPowerSample milliWatt island s
  | .pwrgoodRise found => Sys2Proof.Machine.execPwrgoodRise found s
  | .ptpSync master => Sys2Proof.Machine.execPtpSync master s
  | .ptpHoldover => Sys2Proof.Machine.execPtpHoldover s
  | .launchStage head msg => Sys2Proof.Machine.execLaunchStage head msg s
  | .launchGo head msg => Sys2Proof.Machine.execLaunchGo head msg s
  | .launchStageAndStart head msg => Sys2Proof.Machine.execLaunchStageAndStart head msg s
  | .launchWaitResume => Sys2Proof.Machine.execLaunchWaitResume s
  | .launchChannelClose netid chan => Sys2Proof.Machine.execLaunchChannelClose netid chan s
  | .rankEntryExchange x => Sys2Proof.Machine.execRankEntryExchange x s
  | .processStart netid rank => Sys2Proof.Machine.execProcessStart netid rank s
  | .sentinelCheck netid => Sys2Proof.Machine.execSentinelCheck netid s
  | .networkCompletion netid => Sys2Proof.Machine.execNetworkCompletion netid s
  | .phaseCalendarCompute netid group => Sys2Proof.Machine.execPhaseCalendarCompute netid group s
  | .calendarArrival netid group member => Sys2Proof.Machine.execCalendarArrival netid group member s
  | .arbiterHeartbeat netid group => Sys2Proof.Machine.execArbiterHeartbeat netid group s
  | .standbyTakeover netid group => Sys2Proof.Machine.execStandbyTakeover netid group s
  | .phaseStart netid group sender run => Sys2Proof.Machine.execPhaseStart netid group sender run s
  | .exchangeBytesLand netid group sender receiver => Sys2Proof.Machine.execExchangeBytesLand netid group sender receiver s
  | .closingFlit netid group sender receiver => Sys2Proof.Machine.execClosingFlit netid group sender receiver s
  | .barrierCompletion netid group => Sys2Proof.Machine.execBarrierCompletion netid group s
  | .flitRetry die plane flits => Sys2Proof.Machine.execFlitRetry die plane flits s
  | .linkTimeout die plane => Sys2Proof.Machine.execLinkTimeout die plane s
  | .switchTimeout endpoint plane => Sys2Proof.Machine.execSwitchTimeout endpoint plane s
  | .groupTimeout endpoint => Sys2Proof.Machine.execGroupTimeout endpoint s
  | .requestPacket p => Sys2Proof.Machine.execRequestPacket p s
  | .ghtAck conn ack => Sys2Proof.Machine.execGhtAck conn ack s
  | .ghtRetransmit conn => Sys2Proof.Machine.execGhtRetransmit conn s
  | .ghtConnectionReset conn => Sys2Proof.Machine.execGhtConnectionReset conn s
  | .hostChannelSlot m => Sys2Proof.Machine.execHostChannelSlot m s
  | .hostChannelClose m => Sys2Proof.Machine.execHostChannelClose m s
  | .hostMemoryWrite m => Sys2Proof.Machine.execHostMemoryWrite m s
  | .hostMemoryRead m => Sys2Proof.Machine.execHostMemoryRead m s
  | .shootdown r => Sys2Proof.Machine.execShootdown r s
  | .migrate r => Sys2Proof.Machine.execMigrate r s
  | .migrationQuiesced vdid => Sys2Proof.Machine.execMigrationQuiesced vdid s
  | .migrationAbort vdid stoplim => Sys2Proof.Machine.execMigrationAbort vdid stoplim s
  | .peersUpdated r => Sys2Proof.Machine.execPeersUpdated r s
  | .multicastGroup r => Sys2Proof.Machine.execMulticastGroup r s
  | .checkpoint r => Sys2Proof.Machine.execCheckpoint r s
  | .checkpointQuiesced job => Sys2Proof.Machine.execCheckpointQuiesced job s
  | .checkpointAbandon job => Sys2Proof.Machine.execCheckpointAbandon job s
  | .copy r => Sys2Proof.Machine.execCopy r s
  | .buddySeal job => Sys2Proof.Machine.execBuddySeal job s
  | .restore r => Sys2Proof.Machine.execRestore r s
  | .deviceAttestation r => Sys2Proof.Machine.execDeviceAttestation r s
  | .endNetwork r => Sys2Proof.Machine.execEndNetwork r s
  | .endProcess r => Sys2Proof.Machine.execEndProcess r s
  | .partition r => Sys2Proof.Machine.execPartition r s
  | .readRankEntries r => Sys2Proof.Machine.execReadRankEntries r s
  | .readHealth r => Sys2Proof.Machine.execReadHealth r s
  | .readCharge r => Sys2Proof.Machine.execReadCharge r s
  | .create r => Sys2Proof.Machine.execCreate r s
  | .destroy r => Sys2Proof.Machine.execDestroy r s
  | .keyLoad r => Sys2Proof.Machine.execKeyLoad r s
  | .keyErase r => Sys2Proof.Machine.execKeyErase r s
  | .packageAttestation r => Sys2Proof.Machine.execPackageAttestation r s
  | .logRead r => Sys2Proof.Machine.execLogRead r s
  | .archive r => Sys2Proof.Machine.execArchive r s
  | .islandLimits r => Sys2Proof.Machine.execIslandLimits r s
  | .setOkek r => Sys2Proof.Machine.execSetOkek r s
  | .configuration r => Sys2Proof.Machine.execConfiguration r s
  | .firmwareUpdate r => Sys2Proof.Machine.execFirmwareUpdate r s
  | .illegalInstruction w => Sys2Proof.Machine.execIllegalInstruction w s
  | .fetchProt => Sys2Proof.Machine.execFetchProt s
  | .ghtFrameDropped frame => Sys2Proof.Machine.execGhtFrameDropped frame s
  | .unknownRequest r => Sys2Proof.Machine.execUnknownRequest r s
  | .powerLoss => Sys2Proof.Machine.execPowerLoss s
  | .orderlyShutdown => Sys2Proof.Machine.execOrderlyShutdown s
  | .laneRebuildComplete tile => Sys2Proof.Machine.execLaneRebuildComplete tile s
  | .hartRestart tile front => Sys2Proof.Machine.execHartRestart tile front s

end Sys2Proof.Machine
end

