-- ==== Sys2Proof/Machine/Chain.lean ====
section
/-! DEFINITION. Chains: the vector instructions that a hart has started behind one that traps, with the scalar
instructions between them (R342 to R344). -/

namespace Sys2Proof.Machine

/-- Whether a word is a vector instruction of the chains that the model lets arise: it computes each element of a vector
register from the elements of its operands at the same place, or moves elements between a register and memory in modes 0
to 2. R343 lets other instructions chain, too. -/
def chains (w : IWord) : Bool :=
  let m := (fMaj w).toNat
  let fn := (w.extractLsb' 0 7).toNat
  if m = 0x23 then decide (fn < 0x17) || fn == 0x20 || (fn == 0x21 && w.extractLsb' 7 1 == 0)
  else if m = 0x24 then decide (fn < 7) || (decide (0x10 ≤ fn) && decide (fn < 0x1E) && fn != 0x14)
  else if m = 0x25 then true
  else decide (0x29 ≤ m) && decide (m ≤ 0x2C) && decide ((fMode w).toNat < 3)

/-- Whether a word is a scalar instruction that only computes registers: it may complete between two of a chain. -/
def scalarWord (w : IWord) : Bool := let m := (fMaj w).toNat; decide (1 ≤ m) && decide (m ≤ 0x0B)

/-- The groups that an instruction of a chain reads or writes, by their first registers. -/
def chainRegs (w : IWord) : List Nat :=
  if (fMaj w).toNat < 0x29 then [(fD w).toNat, (fA w).toNat, (fB w).toNat]
  else (fD w).toNat :: (if fMode w = 2 then [(fB w).toNat] else [])

/-- The element below which a younger instruction may commit its elements: where an older one that has not completed
shares a group with it, that one's PROG (R343). -/
def chainBound (older : List TProg) (w : IWord) (k : Nat) : Nat :=
  (older.filter (fun r => (chainRegs r.word).any (fun x => (chainRegs w).contains x))).foldl (fun n r => Nat.min n r.prog.toNat) k

/-- An access of a chain, as the order of a hart's accesses sees it (R125, R126): the space and the bytes, whether it
stays on the hart's die, and whether it loads. -/
structure ChainAccess where
  inTm : Bool
  key : Nat
  len : Nat
  near : Bool
  load : Bool
deriving DecidableEq, Repr

/-- Whether a younger access may be performed before an older one: they share no byte (R117, R124), and where both stay on
the die, a load may pass a store and nothing else (R125, R126). -/
def ChainAccess.mayPass (y o : ChainAccess) : Bool :=
  !(y.inTm == o.inTm && overlaps y.key y.len o.key o.len) && (!(y.near && o.near) || (y.load && !o.load))

/-- Whether the kettle that serves a key of global memory is on the die of the selected hart (R114, R115). -/
def State.onDie (s : State) (k : Nat) : Bool :=
  decide (k / Config.localBytes / 4 = s.pkg) && decide (kettleOf (k % Config.localBytes) / 16 = s.tileNo / Config.tilesPerDie)

/-- Whether a word is a vector load or one that accesses no memory. -/
def chainLoads (w : IWord) : Bool := !(fMaj w == 0x2A || fMaj w == 0x2C)

/-- The accesses of the elements below k that an instruction has still to do; nothing where some address does not
translate. -/
def State.chainAccesses (s : State) (w : IWord) (k : Nat) : Option (List ChainAccess) :=
  let m := (fMaj w).toNat
  let n := s.sew / 8
  let ea := s.vmAddr s.hart (fMode w).toNat (fA w) (fB w)
  let es := (s.actives (fPred w)).filter (· < k)
  if m < 0x29 then some []
  else if m < 0x2B then some (es.map (fun i => ⟨true, tmKey s.tileNo (ea i).toNat, n, true, chainLoads w⟩))
  else es.mapM (fun i => match s.laneXlate (s.elemLane (fMode w).toNat i) (if m = 0x2B then .r else .w) (ea i).toNat with
    | .ok r => some ⟨false, r.2.addr, n, s.onDie r.2.addr, chainLoads w⟩
    | .error _ => none)

/-- Whether the accesses of an instruction's elements below k may be performed before those that an older one, by its record
and the elements it is to skip, has still to make. -/
def State.chainKeeps (s : State) (w : IWord) (k : Nat) (older : TProg) (skip : BitVec 256) : Bool :=
  match s.chainAccesses w k,
      ({ s with hart := { s.hart with current := some ⟨older, skip⟩ } } : State).chainAccesses older.word (2 ^ 17) with
  | some a, some b => a.all (fun y => b.all (fun o => y.mayPass o))
  | _, _ => false

/-- The records of a trapped hart, oldest first. -/
def Hart.records (h : Hart) : List TProg := h.tprog.toList.filterMap (fun o => o)

/-- A hart that has run ahead, still in the trap of an older instruction, with another resume address and records. -/
def Hart.stillIn (v t : Hart) (pc : Word) (rs : List TProg) : Hart :=
  { v with
    status := t.status, priv := t.priv, pc := t.pc, pchild := t.pchild, pfork := t.pfork
    tpc := pc, tcause := t.tcause, tval := t.tval, telem := t.telem, tdone := t.tdone, tmap := t.tmap
    tprog := Vector.ofFn (fun n : Fin 4 => rs[n.val]?)
    chanWait := t.chanWait, replay := t.replay, current := t.current, noMatch := t.noMatch, expireAt := t.expireAt }

/-- The hart of a trap as it ran on before it, at the oldest instruction that had not started: that one is to stop at an
element k. -/
def State.resumedAt (t : State) (k : Nat) : State :=
  { t with hart := { t.hart with
      status := .running, priv := .p, pc := t.hart.tpc, replay := [], current := none, noMatch := none
      expireAt := some k } }

/-- An instruction that may start behind a trapping one, and the element that it is to stop at. -/
def State.chainNext (t : State) (n : Nat) : Option (IWord × Nat) :=
  let u := t.resumedAt 0
  let w := u.fetchWord
  let rs := t.hart.records
  let k := chainBound rs w (Config.aheadElem t.ticks n)
  if !u.fetchOk || (u.breakAt u.hart.pc).isSome then none
  else if scalarWord w then some (w, 0)
  else if chains w && !t.hart.anyBinding &&
      rs.all (fun r => u.chainKeeps w k r (r.kept.done ||| (if r.f then t.hart.marked r.prog.toNat else 0))) then some (w, k)
  else none

/-- What a hart has done ahead of a trap (R342): instruction after instruction from TPC on, as far as free values say,
each completed, or stopped at an element and recorded. One that would do anything else had not started. -/
noncomputable def State.ahead : Nat → State → State
  | 0, t => t
  | n + 1, t =>
    if !Config.runsAhead t.ticks n then t
    else match t.chainNext n with
      | none => t
      | some (w, k) => match decode w with
        | none => t
        | some i => match exec i (t.resumedAt k) with
          | .next v =>
            if v.hart.priv = .p ∧ v.hart.status = .running then
              let v := match t.hart.pid with
                | some p => if (v.proc? p).any (fun (q : Proc) => q.capture.active) then v.mapProc p Proc.countInstr else v
                | none => v
              State.ahead n { v with hart := v.hart.stillIn t.hart v.hart.pc t.hart.records }
            else match v.hart.records with
              | r :: _ =>
                if v.hart.priv = .s ∧ v.hart.tdone = 0 ∧ t.hart.records.length < 4 then
                  State.ahead n { v with hart := v.hart.stillIn t.hart (t.hart.tpc + 4) (t.hart.records ++ [{ r with f := false }]) }
                else t
              | [] => t
          | _ => t

/-- The state after the selected hart of s has trapped on the way to t, where an instruction of a chain stopped: with
what it had done ahead. -/
noncomputable def State.runAhead (s t : State) : State :=
  match t.hart.records with
  | [r] =>
    if s.hart.priv = .p ∧ t.hart.priv = .s ∧ t.hart.id = s.hart.id ∧ s.hart.current = none ∧ s.hart.replay = [] ∧
        t.hart.tpc = s.hart.pc + 4 ∧ r.f = true ∧ chains r.word = true ∧ t.hart.anyBinding = false then t.ahead 16
    else t
  | _ => t

end Sys2Proof.Machine
end

