-- ==== Sys2Proof/Machine/Step.lean ====
section
/-! DEFINITION. One step of the package, and an instruction placed where the step fetches it. -/

namespace Sys2Proof.Machine

/-- One step: an input that is due, an engine's act, or the selected hart's next instruction or wait; then what a hart
that trapped had done ahead, and what follows every step. It stops only where `events` holds something that no outside agent can bring. -/
noncomputable def step (s : State) : Host.Outcome State Fault Refusal :=
  let d := s.todo
  match d.instr with
  | none => .next (s.finish d.on none d.own)
  | some i =>
    if s.badEvent then .fault .badInput
    else match exec i d.on with
      | .next t => .next (s.finish (d.on.runAhead t) (some i) d.own)
      | .fault r => .fault r
      | .refused r => .refused r

/-- The state with an instruction placed as the very next thing that step runs: the part powered and ready, no input and
no engine's act ahead of it, and a process of network 1 on the selected hart at P, at TM address 0 of a kernel block that
is its tile's whole memory, with the word there and SAFE 0 in the safe-point table. -/
def State.withFetchWord (s : State) (nbits w : Nat) : State := s.placeWord (w % 2 ^ nbits)

end Sys2Proof.Machine
end

