-- ==== Sys2Proof/Safety.lean ====
section
/-! DEFINITION. What the claims call sound and ready: the canonical form of both memories, when an instruction of the
selected hart meets no trap, what an instruction of each shape writes, and the frame of each shape: all that it leaves
as it was. -/

namespace Sys2Proof.Machine

/-- Both memories in their canonical form. -/
def State.MemOk (s : State) : Prop := s.tm.wf = true ∧ s.gm.wf = true

/-- A step that goes on: nothing in the model stops a run but an input that no outside agent can bring. -/
def State.Safe (s : State) : Prop := s.badEvent = false

/-- An outcome is a next state, of which P holds. -/
def Answers (o : Out) (P : State → Prop) : Prop := ∃ t, o = .next t ∧ P t

/-! ### When an instruction is not stopped -/

/-- The STEEP test lets u units be counted (R196), and no scalar register that the instruction reads is poisoned
(R412). -/
def State.Fit (s : State) (u : Nat) (reads : List (BitVec 5)) : Prop :=
  s.steepOver u = false ∧ ∀ r ∈ reads, s.xPoisoned r = false

/-- No entry of the debug table acts on the hart, and no expiry of its hang watchdog is to stop what it executes next. -/
def Hart.Unwatched (h : Hart) : Prop := h.dbg = [] ∧ h.expireAt = none

/-- Nothing but the instruction's own conditions can stop an element: no stream is bound, nothing watches the hart, and
nothing that the hart or its tile holds is poisoned; and the hart's registers are what the instruction reads: it is not one
re-issued that has overwritten its own sources before it stopped (`State.source`, R201). -/
def State.Quiet (s : State) : Prop :=
  s.hart.anyBinding = false ∧ s.hart.Unwatched ∧ s.hart.vPois = [] ∧ s.hart.xPois = 0 ∧ s.tmPois = [] ∧ s.gmPois = [] ∧
  s.hart.current.all (fun r => r.entry.kept.shadow.isEmpty) = true

/-- A quiet hart on which an instruction of u units whose vector operands are these groups passes its early tests. -/
def State.VReady (s : State) (u : Nat) (groups : List (BitVec 5)) : Prop :=
  s.Quiet ∧ s.steepOver u = false ∧ ∀ r ∈ groups, s.badGroup r = false

/-- The groups that a binary vector instruction names: v[d], v[a], and v[b] where operand B is no scalar. -/
def vvGroups (d a b : BitVec 5) (sc : BitVec 1) : List (BitVec 5) := [d, a] ++ if sc = 1 then [] else [b]

/-! ### Frames -/

/-- Where the selected hart goes on after an instruction that is no branch: at the next word; an instruction that ERET
re-issues leaves the program counter (R345). -/
def State.nextPc (s : State) : Word :=
  match s.hart.current with
  | none => s.hart.pc + 4
  | some _ => s.hart.pc

/-- The hart g with the program counter of h, and the model's two records of what the hart is about. -/
def Hart.pcOf (g h : Hart) : Hart := { g with pc := h.pc, current := h.current, chanWait := h.chanWait }

/-- The hart g with the program counter, the scalar registers and their poison marks of h. -/
def Hart.xOf (g h : Hart) : Hart := { g.pcOf h with x := h.x, xPois := h.xPois }

/-- The hart g with the program counter, the vector registers with their poison marks and FFLAGS of h, and what a vector
instruction moves beside them: the rotor of the check lane (R409) and leave (R229). -/
def Hart.vOf (g h : Hart) : Hart :=
  { g.pcOf h with v := h.v, vPois := h.vPois, fflags := h.fflags, rotor := h.rotor, leave := h.leave }

/-- The same with the predicate registers in the place of the vector registers. -/
def Hart.predOf (g h : Hart) : Hart :=
  { g.pcOf h with p := h.p, fflags := h.fflags, rotor := h.rotor, leave := h.leave }

/-- The same with the long accumulators. -/
def Hart.accOf (g h : Hart) : Hart :=
  { g.pcOf h with e := h.e, fflags := h.fflags, rotor := h.rotor, leave := h.leave }

/-- The hart g with the program counter, the scalar registers and FFLAGS of h, and what a vector instruction moves
beside them. -/
def Hart.xvOf (g h : Hart) : Hart := { g.xOf h with fflags := h.fflags, rotor := h.rotor, leave := h.leave }

/-- Every byte of both memories reads as before. -/
def State.MemSame (s t : State) : Prop := (∀ k, t.tm.read k = s.tm.read k) ∧ (∀ k, t.gm.read k = s.gm.read k)

/-! ### What an instruction writes -/

/-- t is s after an instruction of one unit that writes x[d] and nothing else; a write to x0 is discarded. Beside x[d],
its poison mark, the program counter and the counted unit, all of the state is as before. -/
def State.WritesX (s : State) (d : BitVec 5) (v : Word) (t : State) : Prop :=
  t.hart.pc = s.nextPc ∧
  (∀ r, t.x r = if r = d ∧ d ≠ 0 then v else s.x r) ∧
  (∀ r, t.xPoisoned r = (decide (r ≠ d) && s.xPoisoned r)) ∧
  s.MemSame t ∧
  t = { s.count 1 with hart := (s.count 1).hart.xOf t.hart }

/-- t is s after an instruction of one unit that jumps to an address and writes nothing else. -/
def State.JumpsTo (s : State) (pc : Word) (t : State) : Prop :=
  t.hart.pc = pc ∧ s.MemSame t ∧ t = { s.count 1 with hart := (s.count 1).hart.pcOf t.hart }

/-- t is s after a store of bytes at a key of tile memory: the bytes stand there, every other byte of both memories
reads as before, eight aligned bytes end the poison of their word (R180), and beside that only the program counter and
the counted unit change. -/
def State.StoresTm (s : State) (k : Nat) (bs : List Byte) (t : State) : Prop :=
  t.hart.pc = s.nextPc ∧
  t.tm.bytes k bs.length = bs ∧
  (∀ c, c < k ∨ k + bs.length ≤ c → t.tm.read c = s.tm.read c) ∧
  (∀ c, t.gm.read c = s.gm.read c) ∧
  t.tmPois = (if bs.length < 8 then s.tmPois else setClear (k / 8) (bs.length / 8) s.tmPois) ∧
  t = { s.count 1 with hart := (s.count 1).hart.pcOf t.hart, tm := t.tm, tmPois := t.tmPois }

/-- The hart with values written to some elements, w bits wide, of the group at register r. -/
def Hart.writeElems (h : Hart) (w r : Nat) (f : Nat → Nat) (l : List Nat) : Hart :=
  l.foldl (fun (g : Hart) i => g.setElem w r i (f i)) h

/-- t is s after an instruction of u units that writes the listed elements of the group at register r and ORs their
flags into FFLAGS once; every other element, register and byte of memory is as before. -/
def State.WritesV (s : State) (u w : Nat) (r : BitVec 5) (l : List Nat) (f : Nat → Nat × FFlags) (t : State) : Prop :=
  t.hart.pc = s.nextPc ∧
  t.hart.v = (s.hart.writeElems w r.toNat (fun i => (f i).1) l).v ∧
  t.hart.vPois = [] ∧
  t.hart.fflags = l.foldl (fun fl i => fl ||| (f i).2) s.hart.fflags ∧
  s.MemSame t ∧
  t = { s.count u with hart := (s.count u).hart.vOf t.hart }

/-- t is s after an instruction of u units that writes the listed bits of predicate register d; p0 ignores the write,
and every other bit, register and byte of memory is as before. -/
def State.WritesP (s : State) (u : Nat) (d : BitVec 3) (l : List Nat) (f : Nat → Bool × FFlags) (t : State) : Prop :=
  t.hart.pc = s.nextPc ∧
  (∀ i < 65536, t.hart.pbit d i = if d ≠ 0 ∧ i ∈ l then (f i).1 else s.hart.pbit d i) ∧
  (∀ n i, n ≠ d → t.hart.pbit n i = s.hart.pbit n i) ∧
  t.hart.fflags = l.foldl (fun fl i => fl ||| (f i).2) s.hart.fflags ∧
  s.MemSame t ∧
  t = { s.count u with hart := (s.count u).hart.predOf t.hart }

/-- t is s after an instruction of u units that writes x[d] and ORs flags into FFLAGS, and changes nothing else but the
program counter and what a vector instruction moves. -/
def State.WritesXV (s : State) (u : Nat) (d : BitVec 5) (v : Word) (fl : FFlags) (t : State) : Prop :=
  t.hart.pc = s.nextPc ∧
  (∀ r, t.x r = if r = d ∧ d ≠ 0 then v else s.x r) ∧
  (∀ r, t.xPoisoned r = (decide (r ≠ d) && s.xPoisoned r)) ∧
  t.hart.fflags = s.hart.fflags ||| fl ∧
  s.MemSame t ∧
  t = { s.count u with hart := (s.count u).hart.xvOf t.hart }

/-- t is s after an instruction of u units that writes long accumulator n and ORs flags into FFLAGS; every other
accumulator, register and byte of memory is as before. -/
def State.WritesE (s : State) (u : Nat) (n : BitVec 2) (a : LongAcc) (fl : FFlags) (t : State) : Prop :=
  t.hart.pc = s.nextPc ∧
  (∀ k, t.hart.acc k = if k = n then a else s.hart.acc k) ∧
  t.hart.fflags = s.hart.fflags ||| fl ∧
  s.MemSame t ∧
  t = { s.count u with hart := (s.count u).hart.accOf t.hart }

/-- t is s after a vector store of u units: access j, of the listed ones in order, puts the low n bytes of a value at
a key of tile memory. An access that no later one overlaps reads back, every byte outside all of them is as before, and
beside tile memory only the program counter and the counted units change. -/
def State.StoresV (s : State) (u n : Nat) (l : List Nat) (key val : Nat → Nat) (t : State) : Prop :=
  t.hart.pc = s.nextPc ∧
  (∀ i ∈ l, (∀ j ∈ l, i < j → key j + n ≤ key i ∨ key i + n ≤ key j) → t.tm.bytes (key i) n = leBytes n (val i)) ∧
  (∀ c, (∀ i ∈ l, c < key i ∨ key i + n ≤ c) → t.tm.read c = s.tm.read c) ∧
  (∀ c, t.gm.read c = s.gm.read c) ∧
  t = { s.count u with hart := (s.count u).hart.pcOf t.hart, tm := t.tm }

/-- t is u after x[d] is written and the program counter moves on; every byte of both memories is as in u. -/
def State.GoesOnX (u : State) (d : BitVec 5) (v : Word) (t : State) : Prop :=
  t.hart.pc = u.nextPc ∧
  (∀ r, t.x r = if r = d ∧ d ≠ 0 then v else u.x r) ∧
  (∀ r, t.xPoisoned r = (decide (r ≠ d) && u.xPoisoned r)) ∧
  u.MemSame t ∧
  t = { u with hart := u.hart.xOf t.hart }

/-- Every byte of global memory outside the pieces that the listed requests store, each under the key of its page, reads
in t as in u: under those keys wherever it lies, and under any key in a granule that no piece touches. -/
def State.GmOutside (u : State) (ws : List (Phys × Nat)) (t : State) : Prop :=
  ∀ key c, (∀ x ∈ ws, c < x.1.addr ∨ x.1.addr + x.2 ≤ c) →
    (∀ x ∈ ws, c / 64 ∈ granulesOf x.1.addr x.2 → u.slotKey x.1.slot = key) → t.gmByte key c = u.gmByte key c

/-- t is u after bytes are stored at a physical address of global memory under the key of their page: they stand there,
every other byte of both memories is as in u, and beside the program counter only the keys and stamps of granules, their
poison and the dirty log of devices that keep one follow the store. -/
def State.StoresGm (u : State) (p : Phys) (bs : List Byte) (t : State) : Prop :=
  t.hart.pc = u.nextPc ∧
  t.gmBytes p bs.length = bs ∧
  u.GmOutside [(p, bs.length)] t ∧
  (∀ c, t.tm.read c = u.tm.read c) ∧
  (∀ g, setHas t.gmPois g = true → setHas u.gmPois g = true) ∧
  (u.vdevs.any (·.logging) = false → t.vdevs = u.vdevs) ∧
  t = { u with
    hart := u.hart.pcOf t.hart, gm := t.gm, gmKey := t.gmKey, gmStamp := t.gmStamp, gmPois := t.gmPois, vdevs := t.vdevs }

/-- t is u after a read of a channel: the registers that have a value take it, the vector storage is vs, predicate
register pe is all one bit (p0
ignores it), the channel stands as given, and beside the program counter only the noted change of the network and the
processes that it lets go on follow. -/
def State.ReadsSlot (u : State) (netid idx : Nat) (pe : BitVec 3) (val : BitVec 5 → Option Word) (vs : Bytes) (bit : Bool)
    (c : Chan) (t : State) : Prop :=
  t.hart.pc = u.nextPc ∧ t.hart.v = vs ∧
  (∀ r, r ≠ 0 → t.x r = (val r).getD (u.x r)) ∧
  (∀ i < 65536, t.hart.pbit pe i = (bit || decide (pe = 0))) ∧
  (∀ n i, n ≠ pe → t.hart.pbit n i = u.hart.pbit n i) ∧
  t.chan? netid idx = some c ∧
  (∀ m j, (m, j) ≠ (netid, idx) → t.chan? m j = u.chan? m j) ∧
  u.MemSame t ∧
  t = { u with hart := { u.hart.xOf t.hart with p := t.hart.p, v := t.hart.v }, nets := t.nets, procs := t.procs, tiles := t.tiles }

/-- t is u after bytes, filled up with zeros, are written to the next slot of a channel: discarded where its consumer has
ended (R30), else the slot is written and the write index moves on. -/
def State.WritesSlot (u : State) (n : Network) (idx : Nat) (c : Chan) (bs : List Byte) (t : State) : Prop :=
  let m := u.slotWrite n idx c c.wr (bs ++ List.replicate (c.slotBytes - bs.length) 0)
  t.hart.pc = u.nextPc ∧
  (n.consumerEnded c = true → t = { u with hart := u.hart.pcOf t.hart }) ∧
  (n.consumerEnded c = false →
    t.chan? n.netid idx = (m.chan? n.netid idx).map (fun e => { e with wr := c.wr + 1 }) ∧
    (∀ k j, (k, j) ≠ (n.netid, idx) → t.chan? k j = u.chan? k j) ∧
    (∀ k, t.tm.read k = m.tm.read k) ∧ (∀ k, t.gm.read k = m.gm.read k) ∧
    t = { m with hart := m.hart.pcOf t.hart, nets := t.nets, procs := t.procs, tiles := t.tiles })

/-! ### Traps -/

/-- t is s after a trap of the selected hart at P (R339): S at the handler's address, the record written, and no
register, no memory and no other part of the state changed. -/
def State.TrapsAtP (s : State) (cause : BitVec 8) (val pc : Word) (t : State) : Prop :=
  t.hart.priv = .s ∧ t.hart.pc = s.myTile.tvec.setWidth 64 ∧ t.hart.tcause = cause ∧ t.hart.tval = val ∧
  t.hart.tpc = pc ∧ s.MemSame t ∧
  t = { s with hart := { s.hart with
    status := .running, priv := .s, pc := t.hart.pc, pchild := t.hart.pchild, pfork := t.hart.pfork, tpc := t.hart.tpc
    tcause := t.hart.tcause, tval := t.hart.tval, telem := t.hart.telem, tdone := t.hart.tdone, tprog := t.hart.tprog
    tmap := t.hart.tmap, chanWait := none, replay := [], current := none } }

end Sys2Proof.Machine
end

