-- ==== Sys2Proof/Certificates/Slice0/Obligations.lean ====
section
/-! DEFINITION. The statements for the provers. -/

open Sys2Proof Sys2Proof.Machine

/-! ### Words, decoding, a step -/

/-- R149, R152 to R154: words written out from the encodings decode to their instructions. -/
def Obligations.DecodedWords : Prop :=
  decode 0x056B3800#32 = some (.add 11 11 7) ∧ decode 0x212900BF#32 = some (.srai 9 9 63) ∧
  decode 0x24A579B9#32 = some (.lih 5 5 0x79B9) ∧ decode 0x2CA63804#32 = some (.div 5 6 7) ∧
  decode 0x88C00004#32 = some (.setvli 6 4) ∧ decode 0x5C093C34#32 = some (.amoAdd 0 9 7 1 0 1) ∧
  decode 0x5CA93E70#32 = some (.amoCas 5 9 7 1 0 0) ∧ decode 0xB46A5806#32 = some (.vstm 3 10 11 0) ∧
  decode 0xD4AB6001#32 = some (.dgrant 5 11 12) ∧ decode 0xD80E0000#32 = some (.barrier 14) ∧
  decode 0xCCA63800#32 = some (.mshape 5 6 7) ∧ decode 0xFC005000#32 = some .eret ∧
  decode 0xF8010001#32 = some .tcapStart ∧ decode 0x00000000#32 = none

/-- R149 to R154: every instruction word is decoded from its own encoding, with every operand at every value that the
encoding admits. R153, R154: a word that decodes is the encoding of its instruction, which is well formed; no two
words are the same instruction, and a word with a reserved field not zero is none. -/
def Obligations.CodingRoundTrip : Prop :=
  (∀ i : Instr, i.wellFormed = true → i.isWord = true → decode (encode i) = some i) ∧
  (∀ (w : IWord) (i : Instr), decode w = some i → i.wellFormed = true ∧ i.isWord = true ∧ encode i = w)

/-- R155 to R157: where no input is due and no engine moves, and the selected hart runs with nothing to re-issue and no
breakpoint, a step does the instruction that the word at the program counter decodes to, then what the hart had done
ahead of a trap that it took, and all that follows every step. That one selected hart issues one instruction a step
is the model's own (log entry 2). -/
def Obligations.StepRunsDecoded : Prop :=
  ∀ (s : State) (i : Instr), s.power = .ready → s.events = [] → s.internal = [] → s.hart.status = .running →
    s.hart.replay = [] → s.breakAt s.hart.pc = none → s.fetchOk = true → decode s.fetchWord = some i →
    step s = (match exec i s with
      | .next t => .next (s.finish (s.runAhead t) (some i) true)
      | .fault f => .fault f
      | .refused r => .refused r)

/-- R155, R157: under the same conditions a word that is no instruction traps ILLEGAL with the word in TVAL, and a fetch
outside the granted tile memory traps PROT with the address in TVAL. The model's own rule (assumption log, 99):
nothing is refused, and a step stops exactly where an input that is due is none that an outside agent can bring.
That an input which no outside agent can bring stops the model is the model's own choice (log entry 99). -/
def Obligations.StepStops : Prop :=
  (∀ s : State, s.power = .ready → s.events = [] → s.internal = [] → s.hart.status = .running →
    s.hart.replay = [] → s.breakAt s.hart.pc = none →
    (s.fetchOk = true → decode s.fetchWord = none →
      step s = .next (s.finish (s.trap causeIllegal (s.fetchWord.setWidth 64)) (some (.illegalInstruction s.fetchWord)) true)) ∧
    (s.fetchOk = false → step s = .next (s.finish (s.trap causeProt s.hart.pc) (some .fetchProt) true))) ∧
  (∀ s : State, (∀ r, step s ≠ .refused r) ∧ ((∃ f, step s = .fault f) ↔ s.badEvent = true))

/-! ### Reset, memory, registers -/

/-- R362, R438, R481: what power-on leaves, in the values that the spec gives. At reset both memories are in their
canonical form. The canonical form of the memories is the model's own (log entries 7 and 8). -/
def Obligations.ResetState : Prop :=
  (State.reset.tm = [] ∧ State.reset.gm = [] ∧ State.reset.tmFull = [] ∧ State.reset.gmFull = [] ∧
  State.reset.hart.status = .idle ∧ State.reset.hart.tpc = 0 ∧ State.reset.hart.tcause = 0 ∧ State.reset.hart.tval = 0 ∧
  State.reset.hart.tdone = 0 ∧ State.reset.procs = [] ∧ State.reset.nets = [] ∧ State.reset.vdevs = [] ∧
  (∀ t, State.reset.tile t = Tile.powerOn) ∧ Tile.powerOn.lpart = 0 ∧ Tile.powerOn.hwdog = 10000 ∧ Tile.powerOn.tvec = 0) ∧
  (State.reset.MemOk ∧ State.reset.shards = [])

/-- R8, R119: the memory form of the model (assumption log, 7 and 8): every step keeps both memories canonical, and the
memory that checkpoints hold. This form of memory is the model's own (log entries 7 and 8), and no rule of the spec. -/
def Obligations.StepKeepsCanonical : Prop :=
  let kept := fun (s : State) => s.MemOk ∧ ∀ x ∈ s.shards, ∀ k ∈ x.chunks, k.cells.wf = true
  ∀ s t : State, kept s → step s = .next t → kept t

/-- R8: a byte just written reads back, every other byte reads as before, the canonical form is kept, and canonical
memories that read alike are equal; R119: a granule's bit written to the sorted set of full granules is that bit,
and every other granule's is as before. R54, R52: x0 reads as zero after any write to it, and a write to another
register leaves every other as it was. R55, R203: an element just written reads back cut to its width, every other
element of that width reads as before, and the storage stays sorted. The canonical form of memory and the address
keys are the model's own (log entries 7 and 8). -/
def Obligations.StateLaws : Prop :=
  ((∀ (m : Memory) (a : Nat) (v : Byte), m.wf = true →
    (m.write a v).wf = true ∧ (m.write a v).read a = v ∧ ∀ c, c ≠ a → (m.write a v).read c = m.read c) ∧
  (∀ m n : Memory, m.wf = true → n.wf = true → (∀ a, m.read a = n.read a) → m = n) ∧
  (∀ (l : List Nat) (a c : Nat) (b : Bool), setWf l = true →
    setWf (setPut l a b) = true ∧ setHas (setPut l a b) c = if c = a then b else setHas l c)) ∧
  (∀ (s : State) (d r : BitVec 5) (v : Word),
    (s.setX d v).x 0 = 0 ∧ s.setX 0 v = s ∧ (d ≠ 0 → (s.setX d v).x d = v) ∧ (r ≠ d → (s.setX d v).x r = s.x r)) ∧
  (∀ (h : Hart) (k r q i j v : Nat), k ≤ 3 → 0 < h.lanes → h.lane0 + h.lanes ≤ 32 → vtRc h.vtype ≤ 32 →
    h.v.cells.Pairwise (fun a b => a.1 < b.1) → (h.v.epoch = none → Memory.wf h.v.cells = true) →
    let w := 8 * 2 ^ k
    let per := vlenOf h.lanes (vtRc h.vtype) / w
    r + i / per < vtRc h.vtype → q + j / per < vtRc h.vtype →
    (h.setElem w r i v).elem w r i = v % 2 ^ w ∧
    ((q + j / per, j % per) ≠ (r + i / per, i % per) → (h.setElem w r i v).elem w q j = h.elem w q j) ∧
    (h.setElem w r i v).v.cells.Pairwise (fun a b => a.1 < b.1) ∧ (h.setElem w r i v).v.epoch = h.v.epoch)

/-! ### The scalar front end -/

/-- R173: the binary operations of the register–register ALU family, where no condition stops them. R173: the unary
operations. R174 to R177: the immediate operations, the immediate shifts, LIH and ADDPC. R178: the multiply and
divide family, with its results for a zero divisor and for −2^63 by −1. R173 to R178: the words of the scalar
arithmetic, and the words of its majors that are none. -/
def Obligations.ScalarArithmetic : Prop :=
  (∀ (s : State) (d a b : BitVec 5), s.Fit 1 [a, b] →
    let x := (s.x a).toNat; let y := (s.x b).toNat; let sx := (s.x a).toInt; let sy := (s.x b).toInt; let sh := y % 64
    Answers (exec (.add d a b) s) (s.WritesX d (BitVec.ofNat 64 (x + y))) ∧
    Answers (exec (.sub d a b) s) (s.WritesX d (BitVec.ofInt 64 ((x : Int) - y))) ∧
    Answers (exec (.and d a b) s) (s.WritesX d (s.x a &&& s.x b)) ∧
    Answers (exec (.or d a b) s) (s.WritesX d (s.x a ||| s.x b)) ∧
    Answers (exec (.xor d a b) s) (s.WritesX d (s.x a ^^^ s.x b)) ∧
    Answers (exec (.andn d a b) s) (s.WritesX d (s.x a &&& ~~~s.x b)) ∧
    Answers (exec (.orn d a b) s) (s.WritesX d (s.x a ||| ~~~s.x b)) ∧
    Answers (exec (.sll d a b) s) (s.WritesX d (BitVec.ofNat 64 (x * 2 ^ sh))) ∧
    Answers (exec (.srl d a b) s) (s.WritesX d (BitVec.ofNat 64 (x / 2 ^ sh))) ∧
    Answers (exec (.sra d a b) s) (s.WritesX d (BitVec.ofInt 64 (sx / 2 ^ sh))) ∧
    Answers (exec (.rol d a b) s) (s.WritesX d (BitVec.ofNat 64 (x * 2 ^ sh) ||| BitVec.ofNat 64 (x / 2 ^ (64 - sh)))) ∧
    Answers (exec (.ror d a b) s) (s.WritesX d (BitVec.ofNat 64 (x / 2 ^ sh) ||| BitVec.ofNat 64 (x * 2 ^ (64 - sh)))) ∧
    Answers (exec (.slt d a b) s) (s.WritesX d (if sx < sy then 1 else 0)) ∧
    Answers (exec (.sltu d a b) s) (s.WritesX d (if x < y then 1 else 0)) ∧
    Answers (exec (.min d a b) s) (s.WritesX d (BitVec.ofInt 64 (Min.min sx sy))) ∧
    Answers (exec (.max d a b) s) (s.WritesX d (BitVec.ofInt 64 (Max.max sx sy))) ∧
    Answers (exec (.minu d a b) s) (s.WritesX d (BitVec.ofNat 64 (Nat.min x y))) ∧
    Answers (exec (.maxu d a b) s) (s.WritesX d (BitVec.ofNat 64 (Nat.max x y)))) ∧
  (∀ (s : State) (d a : BitVec 5), s.Fit 1 [a] →
    let x := (s.x a).toNat
    (∃ n, Answers (exec (.clz d a) s) (s.WritesX d (BitVec.ofNat 64 n)) ∧
      (x = 0 → n = 64) ∧ (x ≠ 0 → n ≤ 63 ∧ 2 ^ (63 - n) ≤ x ∧ x < 2 ^ (64 - n))) ∧
    (∃ n, Answers (exec (.ctz d a) s) (s.WritesX d (BitVec.ofNat 64 n)) ∧
      (x = 0 → n = 64) ∧ (x ≠ 0 → 2 ^ n ∣ x ∧ ¬2 ^ (n + 1) ∣ x)) ∧
    Answers (exec (.popc d a) s) (s.WritesX d (BitVec.ofNat 64 ((List.range 64).countP (fun i => (s.x a).getLsbD i)))) ∧
    Answers (exec (.sextb d a) s) (s.WritesX d ((BitVec.ofNat 8 x).signExtend 64)) ∧
    Answers (exec (.sexth d a) s) (s.WritesX d ((BitVec.ofNat 16 x).signExtend 64)) ∧
    Answers (exec (.sextw d a) s) (s.WritesX d ((BitVec.ofNat 32 x).signExtend 64)) ∧
    Answers (exec (.zextw d a) s) (s.WritesX d (BitVec.ofNat 64 (x % 2 ^ 32)))) ∧
  (∀ (s : State) (d a : BitVec 5) (i : BitVec 16) (h : BitVec 6), s.Fit 1 [a] →
    let x := (s.x a).toNat; let sx := (s.x a).toInt
    Answers (exec (.addi d a i) s) (s.WritesX d (BitVec.ofInt 64 (x + i.toInt))) ∧
    Answers (exec (.andi d a i) s) (s.WritesX d (BitVec.ofNat 64 (x &&& i.toNat))) ∧
    Answers (exec (.ori d a i) s) (s.WritesX d (BitVec.ofNat 64 (x ||| i.toNat))) ∧
    Answers (exec (.xori d a i) s) (s.WritesX d (BitVec.ofNat 64 (x ^^^ i.toNat))) ∧
    Answers (exec (.slti d a i) s) (s.WritesX d (if sx < i.toInt then 1 else 0)) ∧
    Answers (exec (.sltiu d a i) s) (s.WritesX d (if x < (BitVec.ofInt 64 i.toInt).toNat then 1 else 0)) ∧
    Answers (exec (.slli d a h) s) (s.WritesX d (BitVec.ofNat 64 (x * 2 ^ h.toNat))) ∧
    Answers (exec (.srli d a h) s) (s.WritesX d (BitVec.ofNat 64 (x / 2 ^ h.toNat))) ∧
    Answers (exec (.srai d a h) s) (s.WritesX d (BitVec.ofInt 64 (sx / 2 ^ h.toNat))) ∧
    Answers (exec (.lih d a i) s) (s.WritesX d (BitVec.ofNat 64 (x * 2 ^ 16 + i.toNat))) ∧
    Answers (exec (.addpc d a i) s) (s.WritesX d (BitVec.ofInt 64 (s.hart.pc.toNat + x + i.toInt)))) ∧
  (∀ (s : State) (d a b : BitVec 5), s.Fit 1 [a, b] →
    let x := (s.x a).toNat; let y := (s.x b).toNat; let sx := (s.x a).toInt; let sy := (s.x b).toInt
    Answers (exec (.mul d a b) s) (s.WritesX d (BitVec.ofNat 64 (x * y))) ∧
    Answers (exec (.mulh d a b) s) (s.WritesX d (BitVec.ofInt 64 (sx * sy / 2 ^ 64))) ∧
    Answers (exec (.mulhu d a b) s) (s.WritesX d (BitVec.ofNat 64 (x * y / 2 ^ 64))) ∧
    Answers (exec (.mulhsu d a b) s) (s.WritesX d (BitVec.ofInt 64 (sx * y / 2 ^ 64))) ∧
    Answers (exec (.div d a b) s) (s.WritesX d (if y = 0 then BitVec.allOnes 64 else BitVec.ofInt 64 (sx.tdiv sy))) ∧
    Answers (exec (.divu d a b) s) (s.WritesX d (if y = 0 then BitVec.allOnes 64 else BitVec.ofNat 64 (x / y))) ∧
    Answers (exec (.rem d a b) s) (s.WritesX d (if y = 0 then s.x a else BitVec.ofInt 64 (sx - sy * sx.tdiv sy))) ∧
    Answers (exec (.remu d a b) s) (s.WritesX d (if y = 0 then s.x a else BitVec.ofNat 64 (x - y * (x / y))))) ∧
  (∀ (d a b : BitVec 5) (f : BitVec 11) (i : BitVec 16) (h : BitVec 6) (k : BitVec 10),
    let alu := fun (b : BitVec 5) (f : BitVec 11) => decode (1#6 ++ d ++ a ++ b ++ f)
    let md := fun (f : BitVec 11) => decode (0xB#6 ++ d ++ a ++ b ++ f)
    let ri := fun (m : BitVec 6) (i : BitVec 16) => decode (m ++ d ++ a ++ i)
    alu b 0 = some (.add d a b) ∧ alu b 1 = some (.sub d a b) ∧ alu b 2 = some (.and d a b) ∧
    alu b 3 = some (.or d a b) ∧ alu b 4 = some (.xor d a b) ∧ alu b 5 = some (.andn d a b) ∧
    alu b 6 = some (.orn d a b) ∧ alu b 7 = some (.sll d a b) ∧ alu b 8 = some (.srl d a b) ∧
    alu b 9 = some (.sra d a b) ∧ alu b 10 = some (.rol d a b) ∧ alu b 11 = some (.ror d a b) ∧
    alu b 12 = some (.slt d a b) ∧ alu b 13 = some (.sltu d a b) ∧ alu b 14 = some (.min d a b) ∧
    alu b 15 = some (.max d a b) ∧ alu b 16 = some (.minu d a b) ∧ alu b 17 = some (.maxu d a b) ∧
    alu 0 0x12 = some (.clz d a) ∧ alu 0 0x13 = some (.ctz d a) ∧ alu 0 0x14 = some (.popc d a) ∧
    alu 0 0x15 = some (.sextb d a) ∧ alu 0 0x16 = some (.sexth d a) ∧ alu 0 0x17 = some (.sextw d a) ∧
    alu 0 0x18 = some (.zextw d a) ∧ md 0 = some (.mul d a b) ∧ md 1 = some (.mulh d a b) ∧
    md 2 = some (.mulhu d a b) ∧ md 3 = some (.mulhsu d a b) ∧ md 4 = some (.div d a b) ∧ md 5 = some (.divu d a b) ∧
    md 6 = some (.rem d a b) ∧ md 7 = some (.remu d a b) ∧ ri 2 i = some (.addi d a i) ∧
    ri 3 i = some (.andi d a i) ∧ ri 4 i = some (.ori d a i) ∧ ri 5 i = some (.xori d a i) ∧
    ri 6 i = some (.slti d a i) ∧ ri 7 i = some (.sltiu d a i) ∧ ri 9 i = some (.lih d a i) ∧
    ri 0xA i = some (.addpc d a i) ∧ ri 8 (0#10 ++ h) = some (.slli d a h) ∧ ri 8 (1#10 ++ h) = some (.srli d a h) ∧
    ri 8 (2#10 ++ h) = some (.srai d a h) ∧
    (0x18 < f.toNat ∨ 0x11 < f.toNat ∧ b ≠ 0 → alu b f = none) ∧ (7 < f.toNat → md f = none) ∧
    (2 < k.toNat → ri 8 (k ++ h) = none))

/-- R179: the scalar loads of tile memory at an aligned granted address that is not poisoned, with no watch set. R179,
R180: the scalar stores of tile memory at an aligned granted address, of which a store of fewer than eight bytes
needs an unpoisoned word; the address stored to is the one computed from x[a] and the immediate. -/
def Obligations.TmLoadsStores : Prop :=
  (∀ (s : State) (d a : BitVec 5) (i : BitVec 16), s.Fit 1 [a] → s.hart.dbg = [] →
    let ea := (s.x a + i.signExtend 64).toNat
    let ok := fun (n : Nat) => ea % n = 0 ∧ s.tmOk ea n = true ∧ s.tmPoisoned ea n = false
    let tm := fun (n : Nat) => leNat (s.tm.bytes (tmKey s.hart.id.tile ea) n)
    (ok 1 → Answers (exec (.ldb d a i) s) (s.WritesX d ((BitVec.ofNat 8 (tm 1)).signExtend 64))) ∧
    (ok 1 → Answers (exec (.ldbu d a i) s) (s.WritesX d (BitVec.ofNat 64 (tm 1)))) ∧
    (ok 2 → Answers (exec (.ldh d a i) s) (s.WritesX d ((BitVec.ofNat 16 (tm 2)).signExtend 64))) ∧
    (ok 2 → Answers (exec (.ldhu d a i) s) (s.WritesX d (BitVec.ofNat 64 (tm 2)))) ∧
    (ok 4 → Answers (exec (.ldw d a i) s) (s.WritesX d ((BitVec.ofNat 32 (tm 4)).signExtend 64))) ∧
    (ok 4 → Answers (exec (.ldwu d a i) s) (s.WritesX d (BitVec.ofNat 64 (tm 4)))) ∧
    (ok 8 → Answers (exec (.ldd d a i) s) (s.WritesX d (BitVec.ofNat 64 (tm 8))))) ∧
  (∀ (s : State) (d a : BitVec 5) (i : BitVec 16), s.MemOk → s.Fit 1 [a, d] → s.hart.dbg = [] →
    let ea := (s.x a + i.signExtend 64).toNat
    let ok := fun (n : Nat) => ea % n = 0 ∧ s.tmOk ea n = true ∧ (n < 8 → s.tmPoisoned ea n = false)
    let st := fun (n : Nat) => s.StoresTm (tmKey s.hart.id.tile ea) (leBytes n (s.x d).toNat)
    (ok 1 → Answers (exec (.stb d a i) s) (st 1)) ∧ (ok 2 → Answers (exec (.sth d a i) s) (st 2)) ∧
    (ok 4 → Answers (exec (.stw d a i) s) (st 4)) ∧ (ok 8 → Answers (exec (.std d a i) s) (st 8)))

/-- R180: at P, a scalar access of tile memory that is not aligned traps MISALIGN, else one that reaches ungranted bytes
traps PROT, else a load of a poisoned word traps POISON, each with the address in TVAL and nothing read or written.
R204, R233, R238, R239, R341, R342: a vector access of tile memory at P, of every mode, a segment access, a spill or
a fill, some of whose active elements have an address that is not aligned traps MISALIGN at the lowest of them, else
PROT at the lowest that reaches ungranted bytes, before any element is loaded or stored: with the address, the
element's index and the record from which ERET re-issues the instruction from its first element. A spill or fill
whose base is no multiple of 64 traps MISALIGN with the base. EASPILL and EAFILL trap as scalar accesses do. A load
or store of modes 0 to 2 that meets a poisoned word, a store one that it does not replace, traps POISON at the
lowest such element, with exactly the elements below it loaded or stored. The record's last part, what a load has
overwritten, is the model's (assumption log, 108). That a resumed instruction reads source elements that it had
overwritten as they were is the model's reading (log entry 108). -/
def Obligations.OperandTraps : Prop :=
  (∀ (s : State) (d a : BitVec 5) (i : BitVec 16), s.Fit 1 [a, d] → s.hart.priv = .p → s.hart.current = none →
    s.hart.dbg = [] →
    let ea := s.x a + i.signExtend 64
    let trap := fun (c : BitVec 8) => (s.count 1).TrapsAtP c ea s.hart.pc
    let bad := fun (n : Nat) (store : Bool) => if ea.toNat % n ≠ 0 then some causeMisalign
      else if s.tmOk ea.toNat n = false then some causeProt
      else if s.tmPoisoned ea.toNat n = true ∧ (store = false ∨ n < 8) then some causePoison else none
    (∀ c, bad 1 false = some c → Answers (exec (.ldb d a i) s) (trap c)) ∧
    (∀ c, bad 1 false = some c → Answers (exec (.ldbu d a i) s) (trap c)) ∧
    (∀ c, bad 2 false = some c → Answers (exec (.ldh d a i) s) (trap c)) ∧
    (∀ c, bad 2 false = some c → Answers (exec (.ldhu d a i) s) (trap c)) ∧
    (∀ c, bad 4 false = some c → Answers (exec (.ldw d a i) s) (trap c)) ∧
    (∀ c, bad 4 false = some c → Answers (exec (.ldwu d a i) s) (trap c)) ∧
    (∀ c, bad 8 false = some c → Answers (exec (.ldd d a i) s) (trap c)) ∧
    (∀ c, bad 1 true = some c → Answers (exec (.stb d a i) s) (trap c)) ∧
    (∀ c, bad 2 true = some c → Answers (exec (.sth d a i) s) (trap c)) ∧
    (∀ c, bad 4 true = some c → Answers (exec (.stw d a i) s) (trap c)) ∧
    (∀ c, bad 8 true = some c → Answers (exec (.std d a i) s) (trap c))) ∧
  ((∀ (s : State) (d a b : BitVec 5) (p : BitVec 3) (wc : BitVec 2) (fm : BitVec 3) (j : Nat) (ea : Word), s.Quiet →
    s.hart.priv = .p → s.hart.current = none → j ∈ s.actives p →
    let w := s.sew; let f := fm.toNat + 1
    let traps := fun (i : Instr) (u : Nat) (c : BitVec 8) (val : Word) (xb : Word) (k : Nat) (t : State) =>
      (s.count u).TrapsAtP c val (s.hart.pc + 4) t ∧ t.hart.telem = BitVec.ofNat 17 k ∧ t.hart.tdone = 0 ∧
      t.hart.tprog[0] = some ⟨true, true, s.hart.pc.setWidth 21, s.hart.vl, 0, encode i, s.x a, xb, ⟨0, []⟩⟩ ∧
      ∀ r ∈ t.hart.tprog.toList.drop 1, r = none
    let first := fun (bad : Word → Bool) (at_ : Nat → List Word) =>
      (at_ j).find? bad = some ea ∧ ∀ k ∈ s.actives p, k < j → ∀ x ∈ at_ k, bad x = false
    let odd := fun (n : Nat) (x : Word) => decide (x.toNat % n ≠ 0)
    let out := fun (n : Nat) (x : Word) => !s.tmOk x.toNat n
    let stops := fun (i : Instr) (u n : Nat) (xb : Word) (at_ : Nat → List Word) => s.steepOver u = false →
      (first (odd n) at_ → Answers (exec i s) (traps i u causeMisalign ea xb j)) ∧
      ((∀ k ∈ s.actives p, ∀ x ∈ at_ k, odd n x = false) → first (out n) at_ →
        Answers (exec i s) (traps i u causeProt ea xb j))
    let unit := fun k => [s.x a + BitVec.ofNat 64 (k * (w / 8))]
    let strided := fun k => [s.x a + BitVec.ofNat 64 k * s.x b]
    let indexed := fun k => [s.x a + BitVec.ofNat 64 (s.hart.elem w b.toNat k)]
    let fields := fun (wm k : Nat) => (upTo f).map fun m => s.x a + BitVec.ofNat 64 ((k * f + m) * (wm / 8))
    let wl := if wc = 0 then w else if wc = 1 then w / 2 else w * 2
    let ws := if wc = 0 then w else if wc = 1 then w * 2 else w / 2
    let spills := fun (i : Instr) => s.steepOver (s.rows w) = false →
      ((s.x a).toNat % 64 ≠ 0 → Answers (exec i s) (traps i (s.rows w) causeMisalign (s.x a) 0 0)) ∧
      ((s.x a).toNat % 64 = 0 → first (out (w / 8)) unit → Answers (exec i s) (traps i (s.rows w) causeProt ea 0 j))
    (s.badGroup d = false →
      stops (.vld d a p) (s.rows w) (w / 8) 0 unit ∧ stops (.vst d a p) (s.rows w) (w / 8) 0 unit ∧
      stops (.vlds d a b p) (s.rows w) (w / 8) (s.x b) strided ∧ stops (.vsts d a b p) (s.rows w) (w / 8) (s.x b) strided ∧
      (s.badGroup b = false → stops (.vldx d a b p) (s.rows w) (w / 8) 0 indexed ∧
        stops (.vstx d a b p) (s.rows w) (w / 8) 0 indexed) ∧
      spills (.vspill d a p) ∧ spills (.vfill d a p)) ∧
    (s.segBad d wl f = false → stops (.vlseg d a p wc fm) (f * s.rows (Nat.max w wl)) (wl / 8) 0 (fields wl)) ∧
    (s.segBad d ws f = false → stops (.vsseg d a p wc fm) (f * s.rows (Nat.max w ws)) (ws / 8) 0 (fields ws))) ∧
  (∀ (s : State) (d : BitVec 2) (a : BitVec 5), s.Fit 1 [a] → s.hart.priv = .p → s.hart.current = none → s.hart.dbg = [] →
    let ea := s.x a
    let trap := fun (c : BitVec 8) => (s.count 1).TrapsAtP c ea s.hart.pc
    (ea.toNat % 8 ≠ 0 → Answers (exec (.easpill d a) s) (trap causeMisalign) ∧ Answers (exec (.eafill d a) s) (trap causeMisalign)) ∧
    (ea.toNat % 8 = 0 → s.tmOk ea.toNat 536 = false →
      Answers (exec (.easpill d a) s) (trap causeProt) ∧ Answers (exec (.eafill d a) s) (trap causeProt)) ∧
    (ea.toNat % 8 = 0 → s.tmOk ea.toNat 536 = true → s.tmPoisoned ea.toNat 536 = true →
      Answers (exec (.eafill d a) s) (trap causePoison))) ∧
  (∀ (s : State) (d a b : BitVec 5) (p : BitVec 3) (j : Nat), s.MemOk → s.hart.anyBinding = false → s.hart.Unwatched →
    s.hart.xPois = 0 → s.hart.vPois = [] → s.hart.priv = .p → s.hart.current = none → j ∈ s.actives p →
    s.badGroup d = false → s.steepOver (s.rows s.sew) = false →
    let w := s.sew; let n := w / 8
    let u := s.count (s.rows w)
    let done := (s.actives p).filter (· < j)
    let key := fun (x : Word) => tmKey s.hart.id.tile x.toNat
    let meets := fun (at_ : Nat → Word) => (∀ k ∈ s.actives p, (at_ k).toNat % n = 0 ∧ s.tmOk (at_ k).toNat n = true) ∧
      s.tmPoisoned (at_ j).toNat n = true ∧ ∀ k ∈ done, s.tmPoisoned (at_ k).toNat n = false
    let traps := fun (i : Instr) (xb ea : Word) (v t : State) =>
      v.TrapsAtP causePoison ea (s.hart.pc + 4) t ∧ t.hart.telem = BitVec.ofNat 17 j ∧ t.hart.tdone = 0 ∧
      t.hart.tprog[0] = some ⟨true, true, s.hart.pc.setWidth 21, s.hart.vl, BitVec.ofNat 17 j, encode i, s.x a, xb,
        ⟨0, s.hart.overwritten t.hart⟩⟩ ∧ ∀ r ∈ t.hart.tprog.toList.drop 1, r = none
    let loads := fun (i : Instr) (xb : Word) (at_ : Nat → Word) => meets at_ → Answers (exec i s) (fun t =>
      traps i xb (at_ j) { u with hart := { u.hart with v := t.hart.v } } t ∧
      t.hart.v = (s.hart.writeElems w d.toNat (fun k => leNat (s.tm.bytes (key (at_ k)) n)) done).v)
    let stores := fun (i : Instr) (xb : Word) (at_ : Nat → Word) => w < 64 → meets at_ → Answers (exec i s) (fun t =>
      traps i xb (at_ j) { u with tm := t.tm } t ∧
      (∀ k ∈ done, (∀ m ∈ done, k < m → key (at_ m) + n ≤ key (at_ k) ∨ key (at_ k) + n ≤ key (at_ m)) →
        t.tm.bytes (key (at_ k)) n = leBytes n (s.hart.elem w d.toNat k)) ∧
      ∀ c, (∀ k ∈ done, c < key (at_ k) ∨ key (at_ k) + n ≤ c) → t.tm.read c = s.tm.read c)
    let unit := fun k => s.x a + BitVec.ofNat 64 (k * n)
    let strided := fun k => s.x a + BitVec.ofNat 64 k * s.x b
    let indexed := fun k => s.x a + BitVec.ofNat 64 (s.hart.elem w b.toNat k)
    loads (.vld d a p) 0 unit ∧ stores (.vst d a p) 0 unit ∧
    loads (.vlds d a b p) (s.x b) strided ∧ stores (.vsts d a b p) (s.x b) strided ∧
    (s.badGroup b = false → loads (.vldx d a b p) 0 indexed ∧ stores (.vstx d a b p) 0 indexed)))

/-- R182: a conditional branch goes to PC + 4 × sext(disp16, 16) where its condition holds, else to PC + 4, and changes
nothing else. R183, R184: J, JAL and JALR to an aligned target: the program counter, the link, and nothing else.
R184: JALR to a target that is no multiple of 4 traps MISALIGN with the target in TVAL and writes no link. The words
of these instructions, by their major opcodes. -/
def Obligations.BranchesAndJumps : Prop :=
  (∀ (s : State) (a b : BitVec 5) (i : BitVec 16), s.Fit 1 [a, b] →
    let goesTo := fun (c : Bool) => s.JumpsTo (if c then s.hart.pc + 4 * i.signExtend 64 else s.hart.pc + 4)
    Answers (exec (.beq a b i) s) (goesTo (decide (s.x a = s.x b))) ∧
    Answers (exec (.bne a b i) s) (goesTo (decide (s.x a ≠ s.x b))) ∧
    Answers (exec (.blt a b i) s) (goesTo (decide ((s.x a).toInt < (s.x b).toInt))) ∧
    Answers (exec (.bge a b i) s) (goesTo (decide ((s.x a).toInt ≥ (s.x b).toInt))) ∧
    Answers (exec (.bltu a b i) s) (goesTo (decide ((s.x a).toNat < (s.x b).toNat))) ∧
    Answers (exec (.bgeu a b i) s) (goesTo (decide ((s.x a).toNat ≥ (s.x b).toNat)))) ∧
  (∀ (s : State) (d a : BitVec 5) (i : BitVec 16) (j : BitVec 26),
    let link := fun (r : BitVec 5) (pc : Word) (t : State) =>
      t.hart.pc = pc ∧ (∀ q, t.x q = if q = r ∧ r ≠ 0 then s.hart.pc + 4 else s.x q) ∧ s.MemSame t ∧
      t = { s.count 1 with hart := (s.count 1).hart.xOf t.hart }
    (s.Fit 1 [] → Answers (exec (.j j) s) (s.JumpsTo (s.hart.pc + 4 * j.signExtend 64))) ∧
    (s.Fit 1 [] → Answers (exec (.jal j) s) (link 1 (s.hart.pc + 4 * j.signExtend 64))) ∧
    (s.Fit 1 [a] → (s.x a + i.signExtend 64).toNat % 4 = 0 →
      Answers (exec (.jalr d a i) s) (link d (s.x a + i.signExtend 64)))) ∧
  (∀ (s : State) (d a : BitVec 5) (i : BitVec 16), s.Fit 1 [a] → s.hart.priv = .p → s.hart.current = none →
    (s.x a + i.signExtend 64).toNat % 4 ≠ 0 →
    Answers (exec (.jalr d a i) s) (fun t =>
      (s.count 1).TrapsAtP causeMisalign (s.x a + i.signExtend 64) s.hart.pc t ∧ ∀ r, t.x r = s.x r)) ∧
  (∀ (d a b : BitVec 5) (i : BitVec 16) (j : BitVec 26),
    decode (0x18#6 ++ a ++ b ++ i) = some (.beq a b i) ∧ decode (0x19#6 ++ a ++ b ++ i) = some (.bne a b i) ∧
    decode (0x1A#6 ++ a ++ b ++ i) = some (.blt a b i) ∧ decode (0x1B#6 ++ a ++ b ++ i) = some (.bge a b i) ∧
    decode (0x1C#6 ++ a ++ b ++ i) = some (.bltu a b i) ∧ decode (0x1D#6 ++ a ++ b ++ i) = some (.bgeu a b i) ∧
    decode (0x1E#6 ++ j) = some (.j j) ∧ decode (0x1F#6 ++ j) = some (.jal j) ∧
    decode (0x20#6 ++ d ++ a ++ i) = some (.jalr d a i))

/-! ### The vector unit -/

/-- R205: SETVL, SETVLI, VLMAXQ and VSETT, the last with a legal value, and, where a stream is bound, one that keeps
SEW, G and RC. R208: merges, moves, and single elements. -/
def Obligations.VConfigAndMoves : Prop :=
  (∀ (s : State) (d a : BitVec 5) (i : BitVec 16),
    let grant := fun (n : Nat) (t : State) =>
      t.hart.vl = BitVec.ofNat 17 (Nat.min n s.vlmax) ∧ t.hart.pc = s.nextPc ∧
      (∀ r, t.x r = if r = d ∧ d ≠ 0 then BitVec.ofNat 64 (Nat.min n s.vlmax) else s.x r) ∧ s.MemSame t ∧
      t = { s.count 1 with hart := { (s.count 1).hart.xOf t.hart with vl := t.hart.vl } }
    let v := s.x a
    let vt : BitVec 16 := v.setWidth 16
    let vl := Nat.min s.hart.vl.toNat (vlmaxOf s.hart.lanes vt)
    (s.Fit 1 [a] → Answers (exec (.setvl d a) s) (grant v.toNat)) ∧
    (s.Fit 1 [] → Answers (exec (.setvli d i) s) (grant i.toNat)) ∧
    (s.Fit 1 [a] → Answers (exec (.vlmaxq d a) s)
      (s.WritesX d (if vtLegal v then BitVec.ofNat 64 (vlmaxOf s.hart.lanes vt) else 0))) ∧
    (s.Fit 1 [a] → vtLegal v = true → (s.hart.anyBinding = true → vt.setWidth 7 = s.hart.vtype.setWidth 7) →
      Answers (exec (.vsett d a) s) (fun t =>
        t.hart.vtype = vt ∧ t.hart.vl = BitVec.ofNat 17 vl ∧ t.hart.pc = s.nextPc ∧
        (∀ r, t.x r = if r = d ∧ d ≠ 0 then BitVec.ofNat 64 (vl % 2 ^ 17) else s.x r) ∧
        (vtRc vt = vtRc s.hart.vtype → t.hart.v = s.hart.v ∧ t.hart.vPois = s.hart.vPois) ∧ s.MemSame t ∧
        t = { s.count 1 with hart := { (s.count 1).hart.xOf t.hart with
          vtype := t.hart.vtype, vl := t.hart.vl, v := t.hart.v, vPois := t.hart.vPois } }))) ∧
  (∀ (s : State) (d a b : BitVec 5) (p : BitVec 3) (sc : BitVec 1),
    let w := s.sew
    let A := fun i => s.hart.elem w a.toNat i; let B := fun i => s.operandB s.hart b sc w i
    let k := (s.opB b).toNat
    let wr := fun (l : List Nat) (F : Nat → Nat) => s.WritesV (s.rows w) w d l (fun i => (F i, 0))
    (s.VReady (s.rows w) (vvGroups d a b sc) →
      Answers (exec (.vmerge d a b p sc) s) (wr (s.actives 0) fun i => if s.hart.pbit p i then A i else B i)) ∧
    (s.VReady (s.rows w) [d, a] → Answers (exec (.vmvV d a p) s) (wr (s.actives p) A)) ∧
    (s.VReady (s.rows w) [d] → Answers (exec (.vmvX d b p) s) (wr (s.actives p) fun _ => k % 2 ^ w)) ∧
    (s.VReady (s.rows w) [a] → Answers (exec (.vxtr d a b) s)
      (s.WritesXV (s.rows w) d (if k < s.vlen then BitVec.ofInt 64 (sextNat w (A k)) else 0) 0)) ∧
    (s.VReady (s.rows w) [d] → Answers (exec (.vins d a b) s)
      (wr (if k < s.vlen then [k] else []) fun _ => (s.opA a).toNat % 2 ^ w)))

/-- R206: the integer operations, element by element and cut to SEW bits, where no condition stops an element. -/
def Obligations.VIntArith : Prop :=
  ∀ (s : State) (d a b : BitVec 5) (p : BitVec 3) (sc : BitVec 1), s.VReady (s.rows s.sew) (vvGroups d a b sc) →
    let w := s.sew
    let A := fun i => s.hart.elem w a.toNat i; let B := fun i => s.operandB s.hart b sc w i
    let U := fun i => (A i : Int); let V := fun i => (B i : Int)
    let S := fun i => sextNat w (A i); let T := fun i => sextNat w (B i)
    let low : Int := -2 ^ (w - 1); let high : Int := 2 ^ (w - 1) - 1
    let wr := fun (F : Nat → Int) => s.WritesV (s.rows w) w d (s.actives p) (fun i => ((F i % 2 ^ w).toNat, 0))
    Answers (exec (.vadd d a b p sc) s) (wr fun i => U i + V i) ∧
    Answers (exec (.vsub d a b p sc) s) (wr fun i => U i - V i) ∧
    Answers (exec (.vrsub d a b p sc) s) (wr fun i => V i - U i) ∧
    Answers (exec (.vmul d a b p sc) s) (wr fun i => U i * V i) ∧
    Answers (exec (.vmulh d a b p sc) s) (wr fun i => S i * T i / 2 ^ w) ∧
    Answers (exec (.vmulhu d a b p sc) s) (wr fun i => U i * V i / 2 ^ w) ∧
    Answers (exec (.vdiv d a b p sc) s) (wr fun i => if T i = 0 then -1 else (S i).tdiv (T i)) ∧
    Answers (exec (.vdivu d a b p sc) s) (wr fun i => if V i = 0 then -1 else U i / V i) ∧
    Answers (exec (.vrem d a b p sc) s) (wr fun i => if T i = 0 then S i else S i - T i * (S i).tdiv (T i)) ∧
    Answers (exec (.vand d a b p sc) s) (wr fun i => ((A i &&& B i : Nat) : Int)) ∧
    Answers (exec (.vor d a b p sc) s) (wr fun i => ((A i ||| B i : Nat) : Int)) ∧
    Answers (exec (.vxor d a b p sc) s) (wr fun i => ((A i ^^^ B i : Nat) : Int)) ∧
    Answers (exec (.vsll d a b p sc) s) (wr fun i => U i * 2 ^ (B i % w)) ∧
    Answers (exec (.vsrl d a b p sc) s) (wr fun i => U i / 2 ^ (B i % w)) ∧
    Answers (exec (.vsra d a b p sc) s) (wr fun i => S i / 2 ^ (B i % w)) ∧
    Answers (exec (.vmin d a b p sc) s) (wr fun i => min (S i) (T i)) ∧
    Answers (exec (.vmax d a b p sc) s) (wr fun i => max (S i) (T i)) ∧
    Answers (exec (.vminu d a b p sc) s) (wr fun i => min (U i) (V i)) ∧
    Answers (exec (.vmaxu d a b p sc) s) (wr fun i => max (U i) (V i)) ∧
    Answers (exec (.vsadd d a b p sc) s) (wr fun i => max low (min high (S i + T i))) ∧
    Answers (exec (.vsaddu d a b p sc) s) (wr fun i => min (2 ^ w - 1) (U i + V i)) ∧
    Answers (exec (.vssub d a b p sc) s) (wr fun i => max low (min high (S i - T i))) ∧
    Answers (exec (.vssubu d a b p sc) s) (wr fun i => max 0 (U i - V i))

/-- R207: the integer comparisons write the active bits below VL of a predicate register. R210: the floating-point
comparisons. -/
def Obligations.VCompare : Prop :=
  (∀ (s : State) (d : BitVec 3) (a b : BitVec 5) (p : BitVec 3) (sc : BitVec 1),
    s.VReady (s.rows s.sew) ([a] ++ if sc = 1 then [] else [b]) →
    let w := s.sew
    let A := fun i => s.hart.elem w a.toNat i; let B := fun i => s.operandB s.hart b sc w i
    let S := fun i => sextNat w (A i); let T := fun i => sextNat w (B i)
    let wr := fun (F : Nat → Bool) => s.WritesP (s.rows w) d (s.actives p) (fun i => (F i, 0))
    Answers (exec (.vcmpEq d a b p sc) s) (wr fun i => decide (A i = B i)) ∧
    Answers (exec (.vcmpNe d a b p sc) s) (wr fun i => decide (A i ≠ B i)) ∧
    Answers (exec (.vcmpLt d a b p sc) s) (wr fun i => decide (S i < T i)) ∧
    Answers (exec (.vcmpLtu d a b p sc) s) (wr fun i => decide (A i < B i)) ∧
    Answers (exec (.vcmpLe d a b p sc) s) (wr fun i => decide (S i ≤ T i)) ∧
    Answers (exec (.vcmpLeu d a b p sc) s) (wr fun i => decide (A i ≤ B i)) ∧
    Answers (exec (.vcmpGt d a b p sc) s) (wr fun i => decide (S i > T i)) ∧
    Answers (exec (.vcmpGtu d a b p sc) s) (wr fun i => decide (A i > B i))) ∧
  (∀ (s : State) (d : BitVec 3) (a b : BitVec 5) (p : BitVec 3) (sc : BitVec 1),
    s.VReady (s.rows s.sew) ([a] ++ if sc = 1 then [] else [b]) →
    let w := s.sew
    let wr := fun (c : FCond) => s.WritesP (s.rows w) d (s.actives p)
      (fun i => s.fmt.compare c (s.hart.elem w a.toNat i) (s.operandB s.hart b sc w i))
    Answers (exec (.vfcmpEq d a b p sc) s) (wr .eq) ∧ Answers (exec (.vfcmpNe d a b p sc) s) (wr .ne) ∧
    Answers (exec (.vfcmpLt d a b p sc) s) (wr .lt) ∧ Answers (exec (.vfcmpLe d a b p sc) s) (wr .le) ∧
    Answers (exec (.vfcmpGt d a b p sc) s) (wr .gt) ∧ Answers (exec (.vfcmpGe d a b p sc) s) (wr .ge) ∧
    Answers (exec (.vfcmpUn d a b p sc) s) (wr .un))

/-- R209, R211, R212, R216: floating-point arithmetic in the format that SEW and FMT name, rounded by VTYPE.RM, with the
flags of the elements ORed into FFLAGS; VFRCPE, VFRCPS, VFRSQE and VFRSQS at SEW 16, 32 and 64, VFEXP2 and VFLOG2 at
SEW 16 and 32. -/
def Obligations.VFloatArith : Prop :=
  ∀ (s : State) (d a b : BitVec 5) (p : BitVec 3) (sc : BitVec 1),
    let w := s.sew; let f := s.fmt; let r := s.rdir
    let A := fun i => s.hart.elem w a.toNat i; let B := fun i => s.operandB s.hart b sc w i
    let C := fun i => s.hart.elem w d.toNat i
    let wr := fun (F : Nat → Nat × FFlags) => s.WritesV (s.rows w) w d (s.actives p) F
    (s.VReady (s.rows w) (vvGroups d a b sc) →
      Answers (exec (.vfadd d a b p sc) s) (wr fun i => f.add r (A i) (B i)) ∧
      Answers (exec (.vfsub d a b p sc) s) (wr fun i => f.sub r (A i) (B i)) ∧
      Answers (exec (.vfmul d a b p sc) s) (wr fun i => f.mul r (A i) (B i)) ∧
      Answers (exec (.vfdiv d a b p sc) s) (wr fun i => f.div r (A i) (B i)) ∧
      Answers (exec (.vfmin d a b p sc) s) (wr fun i => f.minmax false (A i) (B i)) ∧
      Answers (exec (.vfmax d a b p sc) s) (wr fun i => f.minmax true (A i) (B i)) ∧
      Answers (exec (.vfsgnJ d a b p sc) s)
        (wr fun i => (A i % f.signBit + (if f.sign (B i) then f.signBit else 0), 0)) ∧
      Answers (exec (.vfsgnJn d a b p sc) s)
        (wr fun i => (A i % f.signBit + (if f.sign (B i) then 0 else f.signBit), 0)) ∧
      Answers (exec (.vfsgnJx d a b p sc) s)
        (wr fun i => (A i % f.signBit + (if f.sign (A i) = f.sign (B i) then 0 else f.signBit), 0)) ∧
      Answers (exec (.vfma d a b p sc) s) (wr fun i => f.fma r false false (A i) (B i) (C i)) ∧
      Answers (exec (.vfms d a b p sc) s) (wr fun i => f.fma r false true (A i) (B i) (C i)) ∧
      Answers (exec (.vfnma d a b p sc) s) (wr fun i => f.fma r true true (A i) (B i) (C i)) ∧
      Answers (exec (.vfnms d a b p sc) s) (wr fun i => f.fma r true false (A i) (B i) (C i)) ∧
      (w ≠ 8 → Answers (exec (.vfrcps d a b p sc) s) (wr fun i => f.step r 2 0 (A i) (B i))) ∧
      (w ≠ 8 → Answers (exec (.vfrsqs d a b p sc) s) (wr fun i => f.step r 3 1 (A i) (B i)))) ∧
    (s.VReady (s.rows w) [d, a] →
      Answers (exec (.vfsqrt d a p) s) (wr fun i => f.sqrt r (A i)) ∧
      Answers (exec (.vfclass d a p) s) (wr fun i => (f.classify (A i), 0)) ∧
      (w ≠ 8 → Answers (exec (.vfrcpe d a p) s) (wr fun i => f.rcpe (A i))) ∧
      (w ≠ 8 → Answers (exec (.vfrsqe d a p) s) (wr fun i => f.rsqe (A i))) ∧
      (w ≠ 8 → w ≠ 64 → Answers (exec (.vfexp2 d a p) s) (wr fun i => f.exp2 r (A i))) ∧
      (w ≠ 8 → w ≠ 64 → Answers (exec (.vflog2 d a p) s) (wr fun i => f.log2 r (A i))))

/-- R213 to R215: the conversions, whose source group is as wide as its elements ask; a conversion of floating point to
a narrower format under VTYPE.SR draws one number for each active element in order and advances SRCOUNT by their
count. R81: what a format decodes rounds back to the same encoding with no flag, in every rounding mode; a NaN goes
to the format's own NaN. -/
def Obligations.VFloatConvert : Prop :=
  (∀ (s : State) (d a : BitVec 5) (src p : BitVec 3) (u : BitVec 1) (wd : BitVec 2), s.Quiet → s.badGroup d = false →
    let w := s.sew
    let l := s.actives p
    let ready := fun (ws : Nat) => s.steepOver (s.rows (Nat.max ws w)) = false ∧ s.grp * ws ≤ 8 * w ∧
      a.toNat % Nat.max 1 (s.grp * ws / w) = 0 ∧ a.toNat + Nat.max 1 (s.grp * ws / w) ≤ vtRc s.hart.vtype
    let wr := fun (ws : Nat) (F : Nat → Nat → Nat × FFlags) =>
      s.WritesV (s.rows (Nat.max ws w)) w d l (fun i => F i (s.hart.elem ws a.toNat i))
    let from_ := fmtCode src.toNat
    let wi := 8 * 2 ^ wd.toNat
    let draw := fun i => drawOf s.hart.srseed (BitVec.ofNat 64 ((s.hart.pid.map (·.rank)).getD 0))
      (s.hart.srcount + BitVec.ofNat 64 (l.countP (· < i)))
    (ready from_.width → (vtSr s.hart.vtype && narrowing from_ s.fmt) = false →
      Answers (exec (.vfcvtFf d a src p) s) (wr from_.width fun _ x => s.fmt.round s.rdir (from_.decode x))) ∧
    (ready from_.width → (vtSr s.hart.vtype && narrowing from_ s.fmt) = true →
      Answers (exec (.vfcvtFf d a src p) s) (fun t => ∃ t', wr from_.width (fun i x =>
        s.fmt.round (.draw (draw i)) (from_.decode x)) t' ∧ t = t'.drew l.length)) ∧
    (ready from_.width →
      Answers (exec (.vfcvtFs d a src p) s) (wr from_.width fun _ x => toInt s.rdir true w (from_.decode x))) ∧
    (ready from_.width →
      Answers (exec (.vfcvtFu d a src p) s) (wr from_.width fun _ x => toInt s.rdir false w (from_.decode x))) ∧
    (ready wi → Answers (exec (.vfcvtIf d a u wd p) s)
      (wr wi fun _ x => s.fmt.ofInt s.rdir (if u = 1 then (x : Int) else sextNat wi x)))) ∧
  (∀ (f : Fmt) (m b : Nat), m ≤ 4 → b < 2 ^ f.width →
    ((f.decode b).isNan = false → f.round (.mode m) (f.decode b) = (b, 0)) ∧
    ((f.decode b).isNan = true → (f.round (.mode m) (f.decode b)).1 = f.nanBits))

/-- R217 to R219, R222: slides, gather, compress, index vector, hash. -/
def Obligations.Permutes : Prop :=
  ∀ (s : State) (d a b : BitVec 5) (p : BitVec 3) (sc : BitVec 1),
    let w := s.sew; let l := s.actives p
    let A := fun i => s.hart.elem w a.toNat i; let B := fun i => s.operandB s.hart b sc w i
    let off := (s.opB b).toNat
    let wr := fun (l : List Nat) (F : Nat → Nat) => s.WritesV (s.rows w) w d l (fun i => (F i, 0))
    (s.VReady (s.rows w) [d, a] →
      Answers (exec (.vslup d a b p) s) (wr (l.filter (off ≤ ·)) fun i => A (i - off)) ∧
      Answers (exec (.vsldn d a b p) s) (wr l fun i => if i + off < s.vlen then A (i + off) else 0) ∧
      Answers (exec (.vcomp d a p) s) (wr (List.range l.length) fun j => A (l.getD j 0))) ∧
    (s.VReady (s.rows w) (vvGroups d a b sc) →
      Answers (exec (.vgath d a b p sc) s) (wr l fun i => if B i < s.vlen then A (B i) else 0) ∧
      (w = 64 → Answers (exec (.vhash d a b p sc) s) (wr l fun i => (mix64 (BitVec.ofNat 64 (A i ^^^ B i))).toNat))) ∧
    (s.VReady (s.rows w) [d] → Answers (exec (.viota d p) s)
      (wr (s.actives 0) fun i => (List.range i).countP (fun j => s.hart.pbit p j) % 2 ^ w))

/-- R102, R103, R220: the reductions put one value, folded over the active elements in order, into element 0; with VL =
0 they write nothing. R102, R221: the inclusive scans put the running value at each active element. -/
def Obligations.ReductionsAndScans : Prop :=
  (∀ (s : State) (d a b : BitVec 5) (p : BitVec 3) (sc : BitVec 1),
    let w := s.sew; let f := s.fmt; let l := s.actives p
    let A := fun i => s.hart.elem w a.toNat i; let b0 := s.operandB s.hart b sc w 0
    let lt := fun x y => decide (sextNat w x < sextNat w y)
    let wr := fun (r : Nat × FFlags) => s.WritesV (s.rows w) w d (if s.vlen = 0 then [] else [0]) (fun _ => r)
    let red := fun (op : Nat → Nat → Nat) => wr ((l.map A).foldl op b0, 0)
    let redF := fun (op : Nat → Nat → Nat × FFlags) (x : Nat) =>
      wr ((l.map A).foldl (fun (r : Nat × FFlags) y => ((op r.1 y).1, r.2 ||| (op r.1 y).2)) (x, 0))
    (s.VReady (s.rows w) (vvGroups d a b sc) →
      Answers (exec (.vredAdd d a b p sc) s) (wr ((b0 + (l.map A).sum) % 2 ^ w, 0)) ∧
      Answers (exec (.vredAnd d a b p sc) s) (red (· &&& ·)) ∧ Answers (exec (.vredOr d a b p sc) s) (red (· ||| ·)) ∧
      Answers (exec (.vredXor d a b p sc) s) (red (· ^^^ ·)) ∧
      Answers (exec (.vredMin d a b p sc) s) (red fun x y => if lt x y then x else y) ∧
      Answers (exec (.vredMax d a b p sc) s) (red fun x y => if lt x y then y else x) ∧
      Answers (exec (.vredMinu d a b p sc) s) (red min) ∧ Answers (exec (.vredMaxu d a b p sc) s) (red max) ∧
      Answers (exec (.vfredo d a b p sc) s) (redF (f.add s.rdir) b0)) ∧
    (s.VReady (s.rows w) [d, a] →
      Answers (exec (.vfrmax d a p) s) (redF (f.minmax true) f.nanBits) ∧
      Answers (exec (.vfrmin d a p) s) (redF (f.minmax false) f.nanBits))) ∧
  (∀ (s : State) (d a b : BitVec 5) (p : BitVec 3) (sc : BitVec 1), s.VReady (s.rows s.sew) (vvGroups d a b sc) →
    let w := s.sew
    let A := fun i => s.hart.elem w a.toNat i; let b0 := s.operandB s.hart b sc w 0
    let lt := fun x y => decide (sextNat w x < sextNat w y)
    let upTo := fun i => ((s.actives p).filter (· ≤ i)).map A
    let wr := fun (F : Nat → Nat × FFlags) => s.WritesV (s.rows w) w d (s.actives p) F
    let scan := fun (op : Nat → Nat → Nat) => wr fun i => ((upTo i).foldl op b0, 0)
    Answers (exec (.vscanAdd d a b p sc) s) (wr fun i => ((b0 + (upTo i).sum) % 2 ^ w, 0)) ∧
    Answers (exec (.vscanAnd d a b p sc) s) (scan (· &&& ·)) ∧ Answers (exec (.vscanOr d a b p sc) s) (scan (· ||| ·)) ∧
    Answers (exec (.vscanXor d a b p sc) s) (scan (· ^^^ ·)) ∧
    Answers (exec (.vscanMin d a b p sc) s) (scan fun x y => if lt x y then x else y) ∧
    Answers (exec (.vscanMax d a b p sc) s) (scan fun x y => if lt x y then y else x) ∧
    Answers (exec (.vscanMinu d a b p sc) s) (scan min) ∧ Answers (exec (.vscanMaxu d a b p sc) s) (scan max) ∧
    Answers (exec (.vscanFadd d a b p sc) s) (wr fun i =>
      s.fmt.add s.rdir ((((s.actives p).filter (· < i)).map A).foldl (fun x y => (s.fmt.add s.rdir x y).1) b0) (A i)))

/-- R223, R224: the predicate operations; PSET takes every bit below VLMAX and PCNT counts them. -/
def Obligations.Predicates : Prop :=
  ∀ (s : State) (d a b p : BitVec 3) (x : BitVec 5), s.VReady (s.rows s.sew) [] →
    let A := fun i => s.hart.pbit a i; let B := fun i => s.hart.pbit b i; let P := fun i => s.hart.pbit p i
    let wr := fun (l : List Nat) (F : Nat → Bool) => s.WritesP (s.rows s.sew) d l (fun i => (F i, 0))
    let l := s.actives p
    Answers (exec (.pand d a b p) s) (wr l fun i => A i && B i) ∧
    Answers (exec (.por d a b p) s) (wr l fun i => A i || B i) ∧
    Answers (exec (.pxor d a b p) s) (wr l fun i => A i != B i) ∧
    Answers (exec (.pandn d a b p) s) (wr l fun i => A i && !B i) ∧
    Answers (exec (.pmov d a p) s) (wr l A) ∧
    Answers (exec (.pfirst d a p) s) (wr l fun i => P i && A i && (List.range i).all fun j => !(P j && A j)) ∧
    Answers (exec (.pset d p) s) (wr (List.range s.vlmax) fun i => decide (i < s.vlen) && P i) ∧
    Answers (exec (.pcnt x a p) s) (s.WritesXV (s.rows s.sew) x
      (BitVec.ofNat 64 ((List.range s.vlmax).countP fun i => A i && P i)) 0)

/-- R97 to R99, R225, R226: the long accumulators: cleared, copied, summed, rounded once, and given the elements or the
exact products of an instruction as terms. R98: a long accumulator does not depend on the order in which its terms
are added. R98, R239, R412: EASPILL stores the 536 bytes of an accumulator, and EAFILL reads them back into one. -/
def Obligations.LongAccumulators : Prop :=
  (∀ (s : State) (d e : BitVec 2) (x a b : BitVec 5) (p m : BitVec 3) (sc : BitVec 1) (f : BitVec 2),
    let w := s.sew
    let X := fun i => s.fmt.decode (s.hart.elem w a.toNat i)
    let Y := fun i => s.fmt.decode (s.operandB s.hart b sc w i)
    let sum := fun (T : Nat → FVal) => (s.actives p).foldl (fun acc i => acc.addTerm (T i)) (s.hart.acc d)
    let ors := fun (F : Nat → FFlags) => (s.actives p).foldl (fun fl i => fl ||| F i) 0
    let r := (s.hart.acc e).round (earndFmt f.toNat) (if m = 7 then s.rdir else .mode m.toNat)
    (s.Fit 1 [] → Answers (exec (.eaclr d) s) (s.WritesE 1 d LongAcc.zero 0)) ∧
    (s.Fit 1 [] → (s.hart.acc e).pois = false →
      Answers (exec (.eamov d e) s) (s.WritesE 1 d (s.hart.acc e) 0)) ∧
    (s.Fit 1 [] → (s.hart.acc e).pois = false → (Instr.earnd x e m f).wellFormed = true →
      Answers (exec (.earnd x e m f) s) (s.WritesXV 1 x (BitVec.ofNat 64 r.1) r.2)) ∧
    (s.Fit 1 [] → (s.hart.acc e).pois = false → (s.hart.acc d).pois = false →
      Answers (exec (.eaaddx d e) s) (s.WritesE 1 d ((s.hart.acc d).add (s.hart.acc e)) 0)) ∧
    (s.VReady (s.rows w) [a] → (s.hart.acc d).pois = false →
      Answers (exec (.eaadd d a p) s) (s.WritesE (s.rows w) d (sum X) (ors fun i => if (X i).isSig then flagNV else 0))) ∧
    (s.VReady (s.rows w) ([a] ++ if sc = 1 then [] else [b]) → (s.hart.acc d).pois = false →
      Answers (exec (.eadot d a b p sc) s) (s.WritesE (s.rows w) d (sum fun i => ((X i).mul (Y i)).1)
        (ors fun i => ((X i).mul (Y i)).2)))) ∧
  (∀ (a : LongAcc) (l k : List FVal), l.Perm k → l.foldl LongAcc.addTerm a = k.foldl LongAcc.addTerm a) ∧
  (∀ (s : State) (d : BitVec 2) (a : BitVec 5), s.MemOk → s.Fit 1 [a] → s.hart.dbg = [] →
    let ea := (s.x a).toNat; let k := tmKey s.hart.id.tile ea
    ea % 8 = 0 → s.tmOk ea 536 = true →
    ((s.hart.acc d).pois = false →
      Answers (exec (.easpill d a) s) (s.StoresTm k (leBytes 536 (s.hart.acc d).toNat))) ∧
    (s.tmPoisoned ea 536 = false →
      Answers (exec (.eafill d a) s) (s.WritesE 1 d (LongAcc.ofNat (leNat (s.tm.bytes k 536))) 0)) ∧
    (∀ acc : LongAcc, acc.pois = false → LongAcc.ofNat (leNat (leBytes 536 acc.toNat)) = acc))

/-! ### Vector access of memory -/

/-- R231, R232, R236, R238, R239: the vector loads, stores, segment accesses, spills and fills of tile memory, where
every access is aligned and granted; the addresses are those of x[a], a stride in x[b], or the index elements of
v[b]. -/
def Obligations.VectorTmAccess : Prop :=
  ∀ (s : State) (d a b : BitVec 5) (p : BitVec 3) (wc : BitVec 2) (fm : BitVec 3), s.MemOk →
    let w := s.sew; let n := w / 8; let l := s.actives p; let base := s.opA a; let f := fm.toNat + 1
    let unit := fun i => base + BitVec.ofNat 64 (i * n)
    let strided := fun i => base + BitVec.ofNat 64 i * s.opB b
    let indexed := fun i => base + BitVec.ofNat 64 (s.hart.elem w b.toNat i)
    let wl := if wc = 0 then w else if wc = 1 then w / 2 else w * 2
    let ws := if wc = 0 then w else if wc = 1 then w * 2 else w / 2
    let field := fun (wm j : Nat) => base + BitVec.ofNat 64 (j * (wm / 8))
    let fields := l.flatMap fun i => (List.range f).map fun k => i * f + k
    let reg := fun k => d.toNat + k * s.grp
    let ok := fun (n : Nat) (l : List Nat) (ea : Nat → Word) => ∀ i ∈ l, (ea i).toNat % n = 0 ∧ s.tmOk (ea i).toNat n = true
    let key := fun (ea : Nat → Word) i => tmKey s.hart.id.tile (ea i).toNat
    let tm := fun (n : Nat) (ea : Nat → Word) i => leNat (s.tm.bytes (key ea i) n)
    let ld := fun (ea : Nat → Word) => s.WritesV (s.rows w) w d l fun i => (tm n ea i, 0)
    let st := fun (ea : Nat → Word) => s.StoresV (s.rows w) n l (key ea) (s.hart.elem w d.toNat)
    let seg := fun (wm : Nat) => s.VReady (f * s.rows (Nat.max w wm)) [d] ∧ 8 ≤ wm ∧ wm ≤ 64 ∧
      d.toNat + f * s.grp ≤ vtRc s.hart.vtype ∧ ok (wm / 8) fields (field wm)
    (s.VReady (s.rows w) [d] → ok n l unit →
      Answers (exec (.vld d a p) s) (ld unit) ∧ Answers (exec (.vst d a p) s) (st unit)) ∧
    (s.VReady (s.rows w) [d] → ok n l strided →
      Answers (exec (.vlds d a b p) s) (ld strided) ∧ Answers (exec (.vsts d a b p) s) (st strided)) ∧
    (s.VReady (s.rows w) [d, b] → ok n l indexed →
      Answers (exec (.vldx d a b p) s) (ld indexed) ∧ Answers (exec (.vstx d a b p) s) (st indexed)) ∧
    (s.VReady (s.rows w) [d] → base.toNat % 64 = 0 → ok n l unit →
      Answers (exec (.vspill d a p) s) (st unit) ∧
      Answers (exec (.vfill d a p) s) (s.WritesV (s.rows w) w d (l ++ (List.range s.vlmax).filter (s.vlen ≤ ·))
        fun i => (if i < s.vlen then tm n unit i else 0, 0))) ∧
    (seg wl → Answers (exec (.vlseg d a p wc fm) s) (fun t =>
      t.hart.pc = s.nextPc ∧ t.hart.vPois = [] ∧ s.MemSame t ∧
      t.hart.v = (fields.foldl (fun (g : Hart) j => g.setElem w (reg (j % f)) (j / f)
        (wrapNat w (sextNat wl (tm (wl / 8) (field wl) j)))) s.hart).v ∧
      t = { s.count (f * s.rows (Nat.max w wl)) with hart := (s.count (f * s.rows (Nat.max w wl))).hart.vOf t.hart } ∧
      t.hart.fflags = s.hart.fflags)) ∧
    (seg ws → Answers (exec (.vsseg d a p wc fm) s) (s.StoresV (f * s.rows (Nat.max w ws)) (ws / 8) fields
      (key (field ws)) (fun j => wrapNat ws (sextNat w (s.hart.elem w (reg (j % f)) (j / f))))))

/-- R241, R237: LDG and STG at an aligned address that translates; a load of this package's memory takes its bytes at
once, and a store is performed. R389, R390: using a translation sets D in the leaf entry at its address before the
first write through it, caches the translation in its bank of the tile, and changes nothing else; every other byte
of both memories is as before. -/
def Obligations.GlobalScalar : Prop :=
  (∀ (s : State) (d a b : BitVec 5) (z : BitVec 2) (zext : BitVec 1) (r : TlbEntry × Phys), s.MemOk → s.hart.dbg = [] →
    let n := 2 ^ z.toNat; let ea := (s.x a).toNat
    let c := (s.count 1).probe (s.x a) n
    let u := fun (need : Need) => (c.myUse need r.1).gbytes n
    let v := leNat ((u .r).gmBytes r.2 n)
    (s.Fit 1 [a] → ea % n = 0 → c.myXlate .r ea = .ok r → s.remote r.2 = false → (u .r).gmPoisoned r.2 n = false →
      Answers (exec (.ldg d a z zext) s)
        (State.GoesOnX (u .r) d (if zext = 1 then BitVec.ofNat 64 v else BitVec.ofInt 64 (sextNat (8 * n) v)))) ∧
    (s.Fit 1 [a, b] → ea % n = 0 → c.myXlate .w ea = .ok r →
      Answers (exec (.stg a b z) s)
        (State.StoresGm ((u .w).packet s.myNet [(r.2, n)]) r.2 (leBytes n (s.x b).toNat))) ∧
    (s.Fit 1 [] → Answers (exec .fence s) (s.JumpsTo s.nextPc))) ∧
  (∀ (s : State) (need : Need) (r : TlbEntry) (d : VDev), s.MemOk → s.myVdev? = some d →
    let t := s.myUse need r
    let key := s.slotKey (d.keyMap.headD 0)
    let leaf := r.leaf ||| 0x10#64 ||| (if need.writes then 0x20#64 else 0#64)
    (∀ k, t.tm.read k = s.tm.read k) ∧ s.GmOutside [(⟨r.leafAddr, d.keyMap.headD 0, 0⟩, 1)] t ∧
    t.gmByte key r.leafAddr =
      (s.gmByte key r.leafAddr ||| (if need.writes && !pteD r.leaf then 0x20#8 else 0#8)) ∧
    (need.writes = false ∨ pteD r.leaf = true → t.gm = s.gm ∧ t.gmKey = s.gmKey) ∧
    (t.tile s.hart.id.tile).tlb.head? = some { r with leaf := leaf, bank := s.bankOf 0 } ∧
    (∀ n, n ≠ s.hart.id.tile → t.tile n = s.tile n) ∧
    t = { s with gm := t.gm, gmKey := t.gmKey, gmStamp := t.gmStamp, vdevs := t.vdevs, tiles := t.tiles })

/-- R119, R242, R243: SETF and SETE write the full/empty bit of the granule and no byte; LDSYNC and LDSYNC.E of a full
granule load, and the latter empties it; of an empty granule they wait with nothing done. R232, R244: VLDSYNC and
VLDSYNC.E load where every granule of every active element is full, and the latter empties them; else they wait with
no element loaded. -/
def Obligations.FullEmptySync : Prop :=
  (∀ (s : State) (d a : BitVec 5) (z : BitVec 1) (r : TlbEntry × Phys), s.Fit 1 [a] → s.hart.dbg = [] →
    let ea := (s.x a).toNat; let n := 4 * 2 ^ z.toNat
    let k := tmKey s.hart.id.tile ea
    let ext := fun v => BitVec.ofInt 64 (sextNat (8 * n) v)
    let cw := (s.count 1).probe (s.x a) 1; let cr := (s.count 1).probe (s.x a) n
    let uw := cw.myUse .w r.1; let ur := cr.myUse .r r.1
    let empties := fun (e : Bool) (u : State) => if e then u.setGmFull (r.2.addr / 64) false else u
    (ea < Config.tmBytes → s.tmOk ea 1 = true →
      Answers (exec (.setf a) s) (fun t => t.hart.pc = s.nextPc ∧ s.MemSame t ∧
        t = { s.count 1 with hart := (s.count 1).hart.pcOf t.hart, tmFull := setPut s.tmFull (k / 64) true }) ∧
      Answers (exec (.sete a) s) (fun t => t.hart.pc = s.nextPc ∧ s.MemSame t ∧
        t = { s.count 1 with hart := (s.count 1).hart.pcOf t.hart, tmFull := setPut s.tmFull (k / 64) false })) ∧
    (Config.tmBytes ≤ ea → cw.myXlate .w ea = .ok r →
      Answers (exec (.setf a) s) (fun t => t.hart.pc = s.nextPc ∧ uw.MemSame t ∧
        t.gmFull = setPut s.gmFull (r.2.addr / 64) true ∧
        t = { uw with hart := uw.hart.pcOf t.hart, gmFull := t.gmFull, vdevs := t.vdevs }) ∧
      Answers (exec (.sete a) s) (fun t => t.hart.pc = s.nextPc ∧ uw.MemSame t ∧
        t.gmFull = setPut s.gmFull (r.2.addr / 64) false ∧
        t = { uw with hart := uw.hart.pcOf t.hart, gmFull := t.gmFull, vdevs := t.vdevs })) ∧
    (ea < Config.tmBytes → ea % n = 0 → s.tmOk ea n = true →
      (setHas s.tmFull (k / 64) = true → s.tmPoisoned ea n = false →
        Answers (exec (.ldsync d a z) s) (s.WritesX d (ext (leNat (s.tm.bytes k n)))) ∧
        Answers (exec (.ldsyncE d a z) s)
          (State.GoesOnX ((s.count 1).setTmFull (k / 64) false) d (ext (leNat (s.tm.bytes k n))))) ∧
      (setHas s.tmFull (k / 64) = false →
        exec (.ldsync d a z) s = .next ((s.count 1).block (.ldsync false d (s.x a) n none)) ∧
        exec (.ldsyncE d a z) s = .next ((s.count 1).block (.ldsync true d (s.x a) n none)))) ∧
    (Config.tmBytes ≤ ea → ea % n = 0 → cr.myXlate .r ea = .ok r →
      (setHas s.gmFull (r.2.addr / 64) = true → ur.gmPoisoned r.2 n = false →
        Answers (exec (.ldsync d a z) s) (State.GoesOnX (ur.gbytes n) d (ext (leNat (ur.gmBytes r.2 n)))) ∧
        Answers (exec (.ldsyncE d a z) s)
          (State.GoesOnX ((empties true ur).gbytes n) d (ext (leNat (ur.gmBytes r.2 n))))) ∧
      (setHas s.gmFull (r.2.addr / 64) = false →
        exec (.ldsync d a z) s = .next (ur.block (.ldsync false d (s.x a) n (some r.2))) ∧
        exec (.ldsyncE d a z) s = .next (ur.block (.ldsync true d (s.x a) n (some r.2)))))) ∧
  (∀ (s : State) (d a : BitVec 5) (p : BitVec 3) (es : List ElemAccess), s.VReady (s.rows s.sew) [d] →
    let w := s.sew; let n := w / 8; let l := s.actives p
    let ea := fun i => s.opA a + BitVec.ofNat 64 (i * n)
    let key := fun i => tmKey s.hart.id.tile (ea i).toNat
    let gt := (l.map fun i => key i / 64).eraseDups; let gg := (es.map fun e => e.phys.addr / 64).eraseDups
    let v := GmVec.mk n .r true false 1 ea (fun _ => 0) (fun _ => none) (fun _ => none)
    let c := s.count (s.rows w); let cp := c.gmVecProbe v l; let u := cp.gmVecUse v l
    let base := fun (t : State) => t.hart.pc = s.nextPc ∧ t.hart.vPois = [] ∧ t.hart.fflags = s.hart.fflags
    let tm := fun (e : Bool) (t : State) => base t ∧ s.MemSame t ∧
      t.hart.v = (l.foldl (fun (g : Hart) i => g.setElem w d.toNat i (leNat (s.tm.bytes (key i) n))) s.hart).v ∧
      t.tmFull = (if e then gt.foldl (fun f g => setPut f g false) s.tmFull else s.tmFull) ∧
      t = { c with hart := c.hart.vOf t.hart, tmFull := t.tmFull }
    let gm := fun (e : Bool) (t : State) => base t ∧ u.MemSame t ∧
      t.hart.v = (es.foldl (fun (g : Hart) e => g.setElem w d.toNat e.elem (leNat (u.gmBytes e.phys n))) s.hart).v ∧
      t.gmFull = (if e then gg.foldl (fun f g => setPut f g false) s.gmFull else s.gmFull) ∧
      t = { u with hart := u.hart.vOf t.hart, gmFull := t.gmFull, vdevs := t.vdevs }
    ((s.opA a).toNat < Config.tmBytes → (∀ i ∈ l, (ea i).toNat % n = 0 ∧ s.tmOk (ea i).toNat n = true) →
      (gt.all (setHas s.tmFull) = true →
        Answers (exec (.vldsync d a p) s) (tm false) ∧ Answers (exec (.vldsyncE d a p) s) (tm true)) ∧
      (gt.all (setHas s.tmFull) = false →
        exec (.vldsync d a p) s = .next (c.block (.vldsync false d a p [])) ∧
        exec (.vldsyncE d a p) s = .next (c.block (.vldsync true d a p [])))) ∧
    (Config.tmBytes ≤ (s.opA a).toNat → cp.gmVecAddr v l = .ok es →
      (gg.all (setHas s.gmFull) = true →
        Answers (exec (.vldsync d a p) s) (gm false) ∧ Answers (exec (.vldsyncE d a p) s) (gm true)) ∧
      (gg.all (setHas s.gmFull) = false →
        exec (.vldsync d a p) s = .next (u.block (.vldsync false d a p es)) ∧
        exec (.vldsyncE d a p) s = .next (u.block (.vldsync true d a p es)))))

/-- R131, R246: the atomics of this package's memory put the old value, sign-extended, into x[d] and the new one into
memory; AMO.CAS stores only where the old value is that of x[d]. -/
def Obligations.Atomics : Prop :=
  ∀ (s : State) (d a b : BitVec 5) (z q l : BitVec 1) (r : TlbEntry × Phys), s.MemOk → s.Fit 1 [a, b, d] → s.hart.dbg = [] →
    let n := 4 * 2 ^ z.toNat; let w := 8 * n; let ea := (s.x a).toNat
    let c := (s.count 1).probe (s.x a) n
    let u := (c.myUse .rw r.1).gbytes n
    let old := leNat (u.gmBytes r.2 n); let src := (s.x b).toNat % 2 ^ w
    ea % n = 0 → c.myXlate .rw ea = .ok r → s.remote r.2 = false → u.gmPoisoned r.2 n = false →
    let amo := fun (new : Nat) (t : State) => ∃ m, State.StoresGm u r.2 (leBytes n new) m ∧
      (∀ k, t.x k = if k = d ∧ d ≠ 0 then BitVec.ofInt 64 (sextNat w old) else s.x k) ∧ t.hart.pc = s.nextPc ∧
      t = { m with hart := m.hart.xOf t.hart }
    let lt : Prop := sextNat w old < sextNat w src
    Answers (exec (.amoAdd d a b z q l) s) (amo ((old + src) % 2 ^ w)) ∧
    Answers (exec (.amoAnd d a b z q l) s) (amo (old &&& src)) ∧
    Answers (exec (.amoOr d a b z q l) s) (amo (old ||| src)) ∧
    Answers (exec (.amoXor d a b z q l) s) (amo (old ^^^ src)) ∧
    (lt → Answers (exec (.amoMin d a b z q l) s) (amo old) ∧ Answers (exec (.amoMax d a b z q l) s) (amo src)) ∧
    (¬lt → Answers (exec (.amoMin d a b z q l) s) (amo src) ∧ Answers (exec (.amoMax d a b z q l) s) (amo old)) ∧
    Answers (exec (.amoMinu d a b z q l) s) (amo (min old src)) ∧
    Answers (exec (.amoMaxu d a b z q l) s) (amo (max old src)) ∧
    Answers (exec (.amoSwap d a b z q l) s) (amo src) ∧
    (old = (s.x d).toNat % 2 ^ w → Answers (exec (.amoCas d a b z q l) s) (amo src)) ∧
    (old ≠ (s.x d).toNat % 2 ^ w →
      Answers (exec (.amoCas d a b z q l) s) (State.GoesOnX u d (BitVec.ofInt 64 (sextNat w old))))

/-- R231, R233, R236, R247: the vector accesses of global memory whose elements are aligned and translate, the loads and
the atomics within the package, element by element in rising order. R248: VSTM of elements that translate sends
every active element's bytes to the same local address of every member of the group, and the hart waits for the
acknowledgement, at which the instruction is over, or traps MCAST past its end where a member of another package
failed, VAL being the number of members that failed and TDONE their bitmap. -/
def Obligations.VectorGlobal : Prop :=
  (∀ (s : State) (d a b : BitVec 5) (p mode : BitVec 3) (es : List ElemAccess), s.MemOk → s.VReady (s.rows s.sew) [d, b] →
    let w := s.sew; let n := w / 8; let l := s.actives p
    let access := fun (mode : BitVec 3) (load store : Bool) => GmVec.mk n
      (if load && store then .rw else if load then .r else .w) load store (if load && store then 3 else if load then 1 else 2)
      (fun i => if mode = 0 then s.opA a + BitVec.ofNat 64 (i * n) else if mode = 1 then s.opA a + BitVec.ofNat 64 i * s.opB b
        else s.opA a + BitVec.ofNat 64 (s.hart.elem w b.toNat i)) (fun i => if mode = 0 then 0 else i % s.hart.lanes)
      (fun _ => none) (fun _ => none)
    let c := fun m load store => (s.count (s.rows w)).gmVecProbe (access m load store) l
    let u := fun m load store => (c m load store).gmVecUse (access m load store) l
    let sent := fun m => (u m false true).packet s.myNet (es.map fun e => (e.phys, n))
    let loads := fun (m : BitVec 3) (t : State) => t.hart.pc = s.nextPc ∧ t.hart.vPois = [] ∧ (u m true false).MemSame t ∧
      t.hart.v = (es.foldl (fun (g : Hart) e => g.setElem w d.toNat e.elem (leNat ((u m true false).gmBytes e.phys n)))
        s.hart).v ∧
      t = { u m true false with hart := (u m true false).hart.vOf t.hart } ∧ t.hart.fflags = s.hart.fflags
    let stores := fun (m : BitVec 3) (t : State) => t.hart.pc = s.nextPc ∧ (∀ c, t.tm.read c = s.tm.read c) ∧
      (u m false true).GmOutside (es.map fun e => (e.phys, n)) t ∧
      t = (es.foldl (fun (t : State) e => t.gmStore e.phys (leBytes n (s.hart.elem w d.toNat e.elem))) (sent m)).advance
    let amo := fun (f : Nat → Nat → Nat) (t : State) =>
      t = (es.foldl (fun (t : State) e =>
        let old := leNat (t.gmBytes e.phys n)
        let m := t.gmStore e.phys (leBytes n (f old (t.hart.elem w d.toNat e.elem)))
        { m with hart := m.hart.setElem w d.toNat e.elem old }) (u 2 true true)).advance
    let lt := fun x y => decide (sextNat w x < sextNat w y)
    ((mode = 0 → b = 0) → mode.toNat ≤ 2 → (c mode true false).gmVecAddr (access mode true false) l = .ok es →
      (∀ e ∈ es, s.remote e.phys = false) →
      (mode = 0 → Answers (exec (.vldg d a p) s) (loads mode)) ∧ (mode = 1 → Answers (exec (.vldgs d a b p) s) (loads mode)) ∧
      (mode = 2 → Answers (exec (.vldgx d a b p) s) (loads mode))) ∧
    ((mode = 0 → b = 0) → mode.toNat ≤ 2 → (c mode false true).gmVecAddr (access mode false true) l = .ok es →
      (mode = 0 → Answers (exec (.vstg d a p) s) (stores mode)) ∧ (mode = 1 → Answers (exec (.vstgs d a b p) s) (stores mode)) ∧
      (mode = 2 → Answers (exec (.vstgx d a b p) s) (stores mode))) ∧
    (32 ≤ w → (c 2 true true).gmVecAddr (access 2 true true) l = .ok es → (∀ e ∈ es, s.remote e.phys = false) →
      Answers (exec (.vamoAdd d a b p) s) (amo fun x y => (x + y) % 2 ^ w) ∧
      Answers (exec (.vamoAnd d a b p) s) (amo (· &&& ·)) ∧ Answers (exec (.vamoOr d a b p) s) (amo (· ||| ·)) ∧
      Answers (exec (.vamoXor d a b p) s) (amo (· ^^^ ·)) ∧
      Answers (exec (.vamoMin d a b p) s) (amo fun x y => if lt x y then x else y) ∧
      Answers (exec (.vamoMax d a b p) s) (amo fun x y => if lt x y then y else x) ∧
      Answers (exec (.vamoMinu d a b p) s) (amo min) ∧ Answers (exec (.vamoMaxu d a b p) s) (amo max) ∧
      Answers (exec (.vamoSwap d a b p) s) (amo fun _ y => y))) ∧
  (∀ (s : State) (d a b : BitVec 5) (p : BitVec 3) (m : McastGroup) (es : List ElemAccess) (word : IWord) (xa xb : Word)
    (g : Nat) (failed : BitVec 1024), s.VReady (s.rows s.sew) [d] →
    let w := s.sew; let n := w / 8; let l := s.actives p
    let v := GmVec.mk n .w false true 2 (fun i => s.opA a + BitVec.ofNat 64 (i * n)) (fun _ => 0) (fun _ => none)
      (fun _ => none)
    let c := (s.count (s.rows w)).gmVecProbe v l; let u := c.gmVecUse v l
    (s.mcast? (s.opB b).toNat = some m → s.startElem < s.vlen → c.gmVecAddr v l = .ok es →
      exec (.vstm d a b p) s = .next (State.block { u with asyncs := u.asyncs ++ [(⟨.vstm, some s.hart.id, s.hart.pid, s.instrPc.toNat,
        mcastChunks m.members (es.map fun e => (e, leBytes n (s.hart.elem w d.toNat e.elem))), none, 0, none, [], []⟩ : AsyncWrite)] }
          (.vstm (encode (.vstm d a b p)) (s.opA a) (s.opB b) m.group ⟨[], []⟩ es))) ∧
    (s.vlen = 0 → Answers (exec (.vstm d a b p) s) (s.WritesV (s.rows w) w d [] fun _ => (0, 0))) ∧
    (s.hart.status = .blocked (.vstm word xa xb g ⟨[], []⟩ es) → s.hart.dbg = [] →
      (∀ q ∈ s.asyncs, q.mcastOf s.hart = false) →
      let mask := s.memberMask (((s.mcast? g).map (·.members)).getD []) failed
      let silent := ((List.range (((s.mcast? g).map (·.members)).getD []).length).filter fun j => mask.getLsbD j).length
      (mask = 0 → exec (.vstmAck failed) s = .next s.unblock.advance) ∧
      (mask ≠ 0 → exec (.vstmAck failed) s =
        .next (s.unblock.trapAfter causeMcast (BitVec.ofNat 64 silent) s.vlen mask))))

/-! ### Channels, streams, lanes -/

/-- R23, R25, R28, R254 to R256: channel reads and writes of the process on the selected hart. A read takes the next
slot and clears the predicate register, or at the end-of-stream token reads zeros, sets it and takes nothing; of an
empty channel it waits, and the event that ends the wait does the same read. A write fills the next slot, of a full
channel waits, and traps CHAN where the channel is closed or its bytes exceed a slot's; CCLOSE writes the token.
R22, R24: a slot written in a tile's memory holds its bytes until a slot of the same place in the ring is written,
and no other byte of either memory changes. -/
def Obligations.Channels : Prop :=
  (∀ (s : State) (d a : BitVec 5) (pe port : BitVec 3) (k : BitVec 5) (n : Network) (idx : Nat) (c : Chan),
    s.hart.priv = .p → s.hart.dbg = [] → s.myChan port = some (n, idx, c) →
    let w := s.sew; let m := w / 8
    let slot := (s.slotRead n c c.rd).1; let pois := (s.slotRead n c c.rd).2
    let word := fun j => BitVec.ofNat 64 (field slot (8 * j) 8)
    let regs := fun (k : Nat) r => (List.range k).find? (fun j => decide (d + BitVec.ofNat 5 j = r))
    let takes := fun (u : State) (k : Nat) => (u.caddyUse n c c.rd .r).ReadsSlot n.netid idx pe (fun r => (regs k r).map word) s.hart.v false
      { c with rd := c.rd + 1 }
    let ends := fun (u : State) (k : Nat) => u.ReadsSlot n.netid idx pe (fun r => (regs k r).map fun _ => 0) s.hart.v true c
    let puts := fun (u : State) (k : Nat) =>
      u.WritesSlot n idx c ((List.range k).flatMap fun j => leBytes 8 (s.x (a + BitVec.ofNat 5 j)).toNat)
    let closes := fun (u t : State) => t.hart.pc = u.nextPc ∧ u.MemSame t ∧
      t.chan? n.netid idx = some (if n.consumerEnded c then { c with closed := true } else c.close) ∧
      (∀ l j, (l, j) ≠ (n.netid, idx) → t.chan? l j = u.chan? l j) ∧
      t = { u with hart := u.hart.pcOf t.hart, nets := t.nets, procs := t.procs, tiles := t.tiles, unsent := t.unsent }
    let u := s.count 1; let v := s.unblock; let k' := k.toNat
    let clean := fun k => ∀ j < k, pois.contains j = false
    let room := fun k => c.closed = false ∧ 8 * k ≤ c.slotBytes ∧ ∀ j < k, s.xPoisoned (a + BitVec.ofNat 5 j) = false
    let blocked := fun (x : Wait) => s.hart.status = .blocked x
    (s.Fit 1 [] → s.chanBad port false = false →
      (c.readable = true → c.atToken = false → clean 1 → Answers (exec (.crd d pe port) s) (takes u 1)) ∧
      (c.readable = true → c.atToken = false → clean k' → Answers (exec (.crdm d pe port k) s) (takes u k')) ∧
      (c.readable = true → c.atToken = true →
        Answers (exec (.crd d pe port) s) (ends u 1) ∧ Answers (exec (.crdm d pe port k) s) (ends u k')) ∧
      (c.readable = false → exec (.crd d pe port) s = .next (u.block (.crd d pe port)) ∧
        exec (.crdm d pe port k) s = .next (u.block (.crdm d pe port k)))) ∧
    (c.readable = true → c.atToken = false →
      (clean 1 → blocked (.crd d pe port) → Answers (exec .channelReadUnblock s) (takes v 1)) ∧
      (clean k' → blocked (.crdm d pe port k) → Answers (exec .channelReadUnblock s) (takes v k'))) ∧
    (s.Fit 1 [] → s.chanBad port true = false →
      (room 1 → n.writeWaits c = false → Answers (exec (.cwr a port) s) (puts u 1)) ∧
      (room k' → n.writeWaits c = false → Answers (exec (.cwrm a port k) s) (puts u k')) ∧
      (room 1 → n.writeWaits c = true → exec (.cwr a port) s = .next (u.block (.cwr a port))) ∧
      (c.closed = false → n.writeWaits c = false → Answers (exec (.cclose port) s) (closes u)) ∧
      (c.closed = false → n.writeWaits c = true → exec (.cclose port) s = .next (u.block (.cclose port))) ∧
      (c.closed = true → exec (.cwr a port) s = .next (u.trap causeChan (port.setWidth 64)) ∧
        exec (.cclose port) s = .next (u.trap causeChan (port.setWidth 64))) ∧
      (room k' → n.writeWaits c = true → exec (.cwrm a port k) s = .next (u.block (.cwrm a port k))) ∧
      (c.closed = true ∨ c.slotBytes < 8 * k' → exec (.cwrm a port k) s = .next (u.trap causeChan (port.setWidth 64)))) ∧
    (n.writeWaits c = false →
      (room 1 → blocked (.cwr a port) → Answers (exec .channelWriteUnblock s) (puts v 1)) ∧
      (room k' → blocked (.cwrm a port k) → Answers (exec .channelWriteUnblock s) (puts v k')) ∧
      (c.closed = false → blocked (.cclose port) → Answers (exec .channelWriteUnblock s) (closes v))) ∧
    let uv := s.count (s.rows w)
    let taken := fun (u : State) (vals : Nat → Nat) => u.ReadsSlot n.netid idx pe (fun _ => none)
      (s.hart.writeElems w d.toNat vals (List.range s.vlen)).v
    let cleanV := ∀ i < s.vlen, pois.contains (i * m / 8) = false
    let fetched := fun (u : State) =>
      taken (u.caddyUse n c c.rd .r) (fun i => field slot (i * m) m) false { c with rd := c.rd + 1 }
    let ended := fun (u : State) => taken u (fun _ => 0) true c
    let putsV := fun (u : State) =>
      u.WritesSlot n idx c ((List.range s.vlen).flatMap fun i => leBytes m (s.hart.elem w a.toNat i))
    (s.VReady (s.rows w) [d] → s.chanBad port false = false →
      (c.readable = true → c.atToken = false → cleanV → Answers (exec (.vcrd d pe port) s) (fetched uv)) ∧
      (c.readable = true → c.atToken = true → Answers (exec (.vcrd d pe port) s) (ended uv)) ∧
      (c.readable = false → exec (.vcrd d pe port) s = .next (uv.block (.vcrd d pe port)))) ∧
    (s.Quiet → blocked (.vcrd d pe port) → c.readable = true →
      (c.atToken = false → cleanV → Answers (exec .channelReadUnblock s) (fetched v)) ∧
      (c.atToken = true → Answers (exec .channelReadUnblock s) (ended v))) ∧
    (s.VReady (s.rows w) [a] → s.chanBad port true = false →
      (c.closed = false → s.vlen * m ≤ c.slotBytes → n.writeWaits c = false → Answers (exec (.vcwr a port) s) (putsV uv)) ∧
      (c.closed = false → s.vlen * m ≤ c.slotBytes → n.writeWaits c = true →
        exec (.vcwr a port) s = .next (uv.block (.vcwr a port))) ∧
      (c.closed = true ∨ c.slotBytes < s.vlen * m → s.hart.current = none →
        Answers (exec (.vcwr a port) s) (uv.TrapsAtP causeChan (port.setWidth 64) (s.hart.pc + 4)))) ∧
    (s.Quiet → blocked (.vcwr a port) → c.closed = false → s.vlen * m ≤ c.slotBytes → n.writeWaits c = false →
      Answers (exec .channelWriteUnblock s) (putsV v))) ∧
  (∀ (s : State) (n : Network) (idx tile base : Nat) (c : Chan) (i j : BitVec 32) (bs : List Byte),
    s.MemOk → c.ring = .tile tile base → bs.length = c.slotBytes →
    let t := s.slotWrite n idx c i bs
    let k := tmKey tile (base + i.toNat % 2 ^ c.k * c.slotBytes)
    (t.slotRead n c i).1 = bs ∧
    (i.toNat % 2 ^ c.k ≠ j.toNat % 2 ^ c.k → (t.slotRead n c j).1 = (s.slotRead n c j).1) ∧
    (∀ a, a < k ∨ k + c.slotBytes ≤ a → t.tm.read a = s.tm.read a) ∧ (∀ a, t.gm.read a = s.gm.read a))

/-- R139, R237, R258 to R262: SBIND of a legal descriptor binds the group, with the descriptor's fields, to the lowest
free slot; SUNB stores POS in the descriptor and frees the slot, of a store binding once its event says that every
element has been performed; an instruction that reads a load-bound group reads the next VL elements of the stream,
each the bytes of memory at the address that the descriptor gives it, or 0 past the stream's end, which then stand
in the group; one that writes a store-bound group stores the group's first elements at the addresses of the next
ones of the stream; and the position moves on, once the replies for popped elements in other packages have come. -/
def Obligations.Streams : Prop :=
  ∀ (s : State) (d a : BitVec 5) (p : BitVec 3) (i : Fin 4) (b : Binding), s.MemOk → s.hart.Unwatched →
    let w := s.sew; let ea := (s.x a).toNat
    let bs := s.tm.bytes (tmKey s.hart.id.tile ea) 64
    let word := fun o => BitVec.ofNat 64 (field bs o 8)
    let desc : Binding := { reg := d.toNat, grp := s.grp, store := (field bs 0x2C 1).testBit 2, base := word 0
                            stride0 := word 8, stride1 := word 0x10, stride2 := word 0x18
                            count0 := BitVec.ofNat 32 (field bs 0x20 4), count1 := BitVec.ofNat 32 (field bs 0x24 4)
                            count2 := BitVec.ofNat 32 (field bs 0x28 4), width := BitVec.ofNat 2 (field bs 0x2C 1)
                            pos := field bs 0x30 8, descAddr := s.x a, since := s.ticks }
    let pos := tmKey s.hart.id.tile (b.descAddr.toNat + 0x30)
    let frees := fun (u t : State) => t.hart.pc = u.nextPc ∧ t.tm.bytes pos 8 = leBytes 8 b.pos ∧
      (∀ c, c < pos ∨ pos + 8 ≤ c → t.tm.read c = u.tm.read c) ∧ (∀ c, t.gm.read c = u.gm.read c) ∧
      t.hart.streams = u.hart.streams.set i none ∧
      t = { u with hart := { u.hart.pcOf t.hart with streams := t.hart.streams }, tm := t.tm, tmPois := t.tmPois }
    let c0 := b.count0.toNat; let c1 := b.count1.toNat; let total := c0 * c1 * b.count2.toNat
    let addr := fun (k : Nat) => b.base + BitVec.ofNat 64 (k % c0) * b.stride0 +
      BitVec.ofNat 64 (k / c0 % c1) * b.stride1 + BitVec.ofNat 64 (k / (c0 * c1)) * b.stride2
    let moved := s.hart.streams.set i (some { b with pos := Nat.min (b.pos + s.vlen) total })
    (s.Fit 1 [a] → s.hart.priv = .p → s.badGroup d = false → s.hart.parent = none → ea % 64 = 0 → s.tmOk ea 64 = true →
      s.tmPoisoned ea 64 = false → s.descBad desc bs = false →
      Answers (exec (.sbind d a) s) (fun t => t.hart.pc = s.nextPc ∧ s.MemSame t ∧
        (∃ j : Fin 4, t.hart.streams = s.hart.streams.set j (some desc) ∧ s.hart.streams[j] = none ∧
          ∀ l : Fin 4, l < j → s.hart.streams[l] ≠ none) ∧
        t = { s.count 1 with hart := { (s.count 1).hart.pcOf t.hart with streams := t.hart.streams } })) ∧
    (s.hart.boundSlot d = some (i.val, b) →
      (s.Fit 1 [] → s.hart.priv = .p → s.badGroup d = false →
        (b.store = false → Answers (exec (.sunb d) s) (frees (s.count 1))) ∧
        (b.store = true → exec (.sunb d) s = .next ((s.count 1).block (.sunb d)))) ∧
      (s.hart.status = .blocked (.sunb d) → Answers (exec .sunbComplete s) (frees s.unblock))) ∧
    (s.steepOver (s.rows w) = false → s.hart.vPois = [] → s.badGroup d = false → s.badGroup a = false →
      s.hart.current.all (fun r => r.entry.kept.shadow.isEmpty) = true →
      s.hart.bindings true [(a.toNat, s.grp)] = [] → s.hart.bindings false [(d.toNat, s.grp)] = [] →
      let c := (s.count (s.rows w)).touchStrips [(a.toNat, s.grp)] [(d.toNat, s.grp)]
      let u := c.useStrip b
      let same := fun (t : State) => t.hart.pc = s.nextPc ∧ (∀ k, t.tm.read k = s.tm.read k) ∧ t.hart.streams = moved ∧
        t.hart.fflags = s.hart.fflags ∧ (∀ r, t.x r = s.x r) ∧ t.hart.p = s.hart.p ∧ t.hart.e = s.hart.e
      c.stripStop b w = none →
      (s.hart.bindings false [(a.toNat, s.grp)] = [(i.val, b)] → s.hart.bindings true [(d.toNat, s.grp)] = [] →
        b.reg = a.toNat → b.store = false →
        c.awaited ⟨[⟨i.val, b, [], c.stripElems b⟩], []⟩ = [] → ∀ vals : List Nat, vals.length = s.vlen →
        (∀ j < s.vlen, total ≤ b.pos + j → vals[j]? = some 0) →
        (∀ j < s.vlen, b.pos + j < total → ∃ r, c.myXlate .r (addr (b.pos + j)).toNat = .ok r ∧
          (∀ m < w / 8, (numGet c.gmStamp (r.2.addr + m)).all (decide <| · < b.since) = true) ∧
          vals[j]? = some (leNat (c.gmBytes r.2 (w / 8)))) →
        Answers (exec (.vmvV d a p) s) (fun t => same t ∧ (∀ k, t.gm.read k = u.gm.read k) ∧
          t.hart.v = ((s.hart.writeElems w d.toNat ((s.hart.setElems w b.reg vals).elem w a.toNat) (s.actives p)).setElems
            w b.reg vals).v)) ∧
      (s.hart.bindings false [(a.toNat, s.grp)] = [] → s.hart.bindings true [(d.toNat, s.grp)] = [(i.val, b)] →
        b.reg = d.toNat → b.store = true → ∀ es : List ElemAccess,
        es.map (·.elem) = (List.range s.vlen).filter (fun j => b.pos + j < total) →
        (∀ e ∈ es, e.va = addr (b.pos + e.elem) ∧ ∃ r, c.myXlate .w e.va.toNat = .ok r ∧ e.phys = r.2) →
        Answers (exec (.vmvV d a p) s) (fun t => same t ∧
          let h := s.hart.writeElems w d.toNat (s.hart.elem w a.toNat) (s.actives p)
          let m := es.foldl (fun (t : State) e => t.gmStore e.phys (leBytes (w / 8) (h.elem w d.toNat e.elem)))
            (u.packet s.myNet (es.map fun e => (e.phys, w / 8)))
          t.hart.v = h.v ∧ t = { m.gbytes (es.length * (w / 8)) with hart := t.hart })))

/-- R39 to R42, R263: FORKL halves the lanes and starts a child at the target with the parent's scalar registers on the
upper half; JOINL of a child leaves its record with its parent; JOINL of a parent waits for it, and takes the lanes,
the flags, the draws and the greater steep count back. Either leaves no matrix shape granted in any of these harts,
with the matrix formats and anchor kept and, at FORKL, copied; and the child begins with zero accumulators (R70,
R272). The model's own reading (assumption log, 42): the child fetches as its parent does. -/
def Obligations.Lanes : Prop :=
  ∀ (s : State) (i : BitVec 16) (r : JoinRecord), s.hart.priv = .p →
    let u := s.count 1
    let unshaped := fun (h : Hart) => h.msm = 0 ∧ h.msn = 0 ∧ h.msk = 0 ∧ h.msprec = s.hart.msprec ∧ h.msanchor = s.hart.msanchor
    let joins := fun (u t : State) =>
      t.hart.pc = u.nextPc ∧ u.MemSame t ∧ t.hart.lanes = 2 * s.hart.lanes ∧ t.hart.child = none ∧ t.hart.joined = none ∧
      t.hart.fflags = s.hart.fflags ||| r.fflags ∧ t.hart.srcount = s.hart.srcount + r.draws ∧
      t.hart.steepcnt = BitVec.ofNat 32 (Nat.max u.hart.steepcnt.toNat r.steep.toNat) ∧ (∀ q, t.x q = s.x q) ∧
      t.hart.e = s.hart.e ∧ unshaped t.hart ∧ t.others = s.others ∧ t = { u with hart := t.hart }
    (s.Fit 1 [] → 8 ≤ s.hart.lanes → s.hart.child = none → s.hart.anyBinding = false →
      Answers (exec (.forkl i) s) (fun t => ∃ c, t.others = s.others ++ [c] ∧
        t.hart.pc = s.nextPc ∧ t.hart.lanes = s.hart.lanes / 2 ∧ t.hart.child = some c.id.front ∧ (∀ q, t.x q = s.x q) ∧
        t.hart.e = s.hart.e ∧ t.hart.fflags = s.hart.fflags ∧ t.hart.vtype = s.hart.vtype ∧
        c.id = ⟨s.hart.id.tile, (s.hart.lane0 + s.hart.lanes / 2) / 4⟩ ∧ c.status = .running ∧ c.priv = .p ∧
        c.pc = s.hart.pc + 4 * i.signExtend 64 ∧ c.pid = s.hart.pid ∧ c.parent = some s.hart.id.front ∧
        c.lane0 = s.hart.lane0 + s.hart.lanes / 2 ∧ c.lanes = s.hart.lanes / 2 ∧ c.x = s.hart.x ∧ c.fflags = 0 ∧
        c.vtype = s.hart.vtype ∧ c.srseed = s.hart.srseed ∧ c.srcount = s.hart.srcount ∧
        unshaped t.hart ∧ unshaped c ∧ c.e = Vector.replicate 4 LongAcc.zero ∧
        c.steepcnt = u.hart.steepcnt ∧ c.telem = s.hart.telem ∧ c.code = s.hart.code ∧ s.MemSame t ∧
        t.asyncs = s.asyncs.map (AsyncWrite.disown c.id) ∧
        t = { u with hart := t.hart, others := t.others, asyncs := t.asyncs })) ∧
    (s.Fit 1 [] → s.hart.child.isSome = true → s.hart.joined = none →
      exec .joinl s = .next (u.block .joinl)) ∧
    (s.Fit 1 [] → s.hart.child.isSome = true → s.hart.parent = none → s.hart.joined = some r →
      Answers (exec .joinl s) (joins u)) ∧
    (s.hart.status = .blocked .joinl → s.hart.parent = none → s.hart.joined = some r →
      Answers (exec .joinlComplete s) (joins s.unblock)) ∧
    (s.Fit 1 [] → s.hart.child = none → s.hart.joined = none → s.hart.parent.isSome = true →
      ∀ m ∈ s.others, m.id.tile = s.hart.id.tile → m.child = some s.hart.id.front →
      (∀ o ∈ s.others, o.id.tile = s.hart.id.tile → o.child = some s.hart.id.front → o = m) →
      Answers (exec .joinl s) (fun t =>
        t.hart = { m with joined := some ⟨u.hart.fflags, u.hart.draws, u.hart.steepcnt, u.hart.qcount⟩ } ∧
        t.others = s.others.filter (fun o => decide (o ≠ m)) ∧ s.MemSame t ∧
        t = { u with hart := t.hart, others := t.others }))

/-! ### Traps, returns, the system instructions, CSRs -/

/-- R338, R339, R480: a trap at P enters S at TVEC with its record written and nothing else changed; a trap at S or M
writes the M record, the process is ended, and a report says so to its supervisor, of a trap at M to the management
MAC too (R458). R345, R472: ERET at S goes back to P at TPC, with the valid records to be re-issued in their order,
the trapping one with TDONE, and passes the debug-table entry that stopped it once; at M it goes back to the
privilege and address of the M record. R342: what a hart had done ahead of a trap leaves the trap's cause, value and
elements, the privilege and the handler's address as they were; the records of the trap stay first, and the ones
behind them are not marked F. The model's readings: TPC of an instruction without elements (log entry 16), TPC and
MTPC with the low two bits cleared at ERET (log entry 21), the kinds of instruction that chain (log entry 15). -/
def Obligations.TrapEntryAndReturn : Prop :=
  (∀ (s : State) (t : TrapRec) (p : Pid) (q : Proc), s.hart.current = none → s.hart.replay = [] →
    let u := s.takeTrap t
    let monitor := fun (h : Hart) => h ∈ u.harts ∧ h.id = s.hart.id ∧ h.priv = .m ∧ h.pc = s.hart.mtvec.setWidth 64 ∧
      h.mtpc = t.pc ∧ h.mtcause = t.cause ∧ h.mtval = t.val
    (s.hart.priv = .p → s.TrapsAtP t.cause t.val t.pc u ∧ u.hart.telem = BitVec.ofNat 17 t.elem ∧
      u.hart.tdone = t.tdone ∧ u.hart.tmap = t.tmap ∧ u.hart.tprog[0] = t.prog ∧
      (∀ r ∈ u.hart.tprog.toList.drop 1, r = none) ∧ u.hart.pchild = s.hart.parent.isSome ∧
      u.hart.pfork = (s.hart.parent.isSome || s.hart.child.isSome)) ∧
    (s.hart.priv ≠ .p → s.hart.pid = some p → s.proc? p = some q → (∀ r, q.status ≠ .ended r) → s.isBase s.hart = true →
      (∃ h, monitor h ∧ (s.hart.priv = .m → h.status = .parked) ∧ (s.hart.priv = .s → h.mppriv = 1)) ∧
      ((u.proc? p).map (·.status) = some (.ended (if s.hart.priv = .s then .supervisorFault else .monitorFault))) ∧
      (⟨false, q.vdid, 12, 0, p.netid, faultBody p.rank t⟩ : Report) ∈ u.reports ∧
      (s.hart.priv = .m → (⟨true, 0xFFFF, 12, 0, p.netid, faultBody p.rank t⟩ : Report) ∈ u.reports))) ∧
  (∀ s : State, s.steepOver 1 = false →
    (s.hart.priv = .s → Answers (exec .eret s) (fun t =>
      t.hart.priv = .p ∧ t.hart.pc = s.hart.tpc &&& ~~~3 ∧ t.hart.tdone = 0 ∧
      (∀ r ∈ t.hart.tprog.toList, ∀ e, r = some e → e.v = false) ∧
      t.hart.replay.map (·.entry) = (s.hart.tprog.toList.filterMap id).filter (·.v) ∧
      (∀ r ∈ t.hart.replay, (r.entry.f = false → r.skip = r.entry.kept.done) ∧
        (r.entry.f = true → r.entry.prog = s.hart.telem → r.skip = r.entry.kept.done ||| s.hart.tdone)) ∧
      (∀ n, t.hart.noMatch = some n ↔ s.hart.tcause = causeBrk ∧ s.hart.tval.toNat = 0x10000 + n) ∧
      t.hart.telem = s.hart.telem ∧ s.MemSame t ∧
      t = { s with hart := { s.hart with
        priv := .p, pc := t.hart.pc, tdone := 0, tprog := t.hart.tprog, replay := t.hart.replay
        noMatch := t.hart.noMatch, dbg := s.debugTable s.hart.id.tile, traceSeq := t.hart.traceSeq } })) ∧
    (s.hart.priv = .m → Answers (exec .eret s) (fun t =>
      t.hart.priv = (if s.hart.mppriv = 0 then .p else .s) ∧ t.hart.pc = s.hart.mtpc &&& ~~~3 ∧ s.MemSame t ∧
      t = { s with hart := { s.hart with
        priv := t.hart.priv, pc := t.hart.pc, dbg := t.hart.dbg, traceSeq := t.hart.traceSeq } }))) ∧
  (∀ s t : State,
    let u := s.runAhead t
    u.hart.priv = t.hart.priv ∧ u.hart.pc = t.hart.pc ∧ u.hart.tcause = t.hart.tcause ∧ u.hart.tval = t.hart.tval ∧
    u.hart.telem = t.hart.telem ∧ u.hart.tdone = t.hart.tdone ∧ u.hart.tmap = t.hart.tmap ∧
    t.hart.records <+: u.hart.records ∧ (∀ r ∈ u.hart.records.drop t.hart.records.length, r.f = false))

/-- R59, R61, R74, R148, R156, R187, R188, R196, R332, R412: what instructions trap on at P before they have any effect:
a CSR that is none or a write of one that is read-only ILLEGAL, then PRIV, STEEP with nothing counted, VCFG, STREAM,
and a poisoned register POISON. R195, R329, R478: counting u units changes the steep counter, the quantum count and
an active capture of the hart's process at P, and nothing at S and M. That PRIV has the instruction word in TVAL for
ERET and TLBINV too, and that a poisoned scalar register, STEEP, VCFG, STREAM and MATRIX have 0, is the model's
choice (log entry 19). -/
def Obligations.EarlyTraps : Prop :=
  (∀ (s : State) (d a b : BitVec 5) (i : BitVec 16) (p : BitVec 3) (sc : BitVec 1) (c : BitVec 12),
    s.hart.priv = .p → s.hart.current = none →
    let w := s.sew
    let word := fun (i : Instr) => (encode i).setWidth 64
    let traps := fun (i : Instr) (cause : BitVec 8) (val : Word) => Answers (exec i s) (s.TrapsAtP cause val s.hart.pc)
    let counted := fun (i : Instr) (u : Nat) (cause : BitVec 8) =>
      Answers (exec i s) ((s.count u).TrapsAtP cause 0 s.hart.pc)
    (csrKind c.toNat = .none → traps (.csrr d c) causeIllegal (word (.csrr d c))) ∧
    (csrKind c.toNat = .none ∨ csrReadOnly c.toNat = true →
      traps (.csrw a c) causeIllegal (word (.csrw a c)) ∧ traps (.csrs a c) causeIllegal (word (.csrs a c)) ∧
      traps (.csrc a c) causeIllegal (word (.csrc a c))) ∧
    (csrKind c.toNat = .sys ∨ csrKind c.toNat = .mon →
      traps (.csrr d c) causePriv (word (.csrr d c)) ∧
      (csrReadOnly c.toNat = false → traps (.csrw a c) causePriv (word (.csrw a c)) ∧
        traps (.csrs a c) causePriv (word (.csrs a c)) ∧ traps (.csrc a c) causePriv (word (.csrc a c)))) ∧
    traps .eret causePriv (word .eret) ∧ traps (.tlbinv a) causePriv (word (.tlbinv a)) ∧
    (s.steepOver 1 = true →
      traps (.add d a b) causeSteep 0 ∧ traps (.addi d a i) causeSteep 0 ∧ traps (.mul d a b) causeSteep 0 ∧
      traps (.ldd d a i) causeSteep 0 ∧ traps (.std d a i) causeSteep 0 ∧ traps (.beq a b i) causeSteep 0 ∧
      traps (.setvl d a) causeSteep 0 ∧ traps (.csrr d 0x001) causeSteep 0 ∧ traps (.sysc c) causeSteep 0) ∧
    (s.steepOver (s.rows w) = true →
      traps (.vadd d a b p sc) causeSteep 0 ∧ traps (.vfadd d a b p sc) causeSteep 0 ∧ traps (.vld d a p) causeSteep 0) ∧
    (s.steepOver (s.rows w) = false →
      (s.badGroup d = true ∨ s.badGroup a = true ∨ (sc = 0 ∧ s.badGroup b = true) →
        counted (.vadd d a b p sc) (s.rows w) causeVcfg ∧ counted (.vfadd d a b p sc) (s.rows w) causeVcfg) ∧
      (w ≠ 64 → counted (.vhash d a b p sc) (s.rows w) causeVcfg) ∧
      (w = 8 ∨ w = 64 → counted (.vfexp2 d a p) (s.rows w) causeVcfg) ∧
      (w = 8 → counted (.vfrcpe d a p) (s.rows w) causeVcfg) ∧
      (w < 32 → counted (.vamoAdd d a b p) (s.rows w) causeVcfg) ∧
      (s.badGroup d = false → s.badGroup a = false → (s.hart.bindings true [(a.toNat, s.grp)] ≠ [] ∨
        s.hart.bindings false [(d.toNat, s.grp)] ≠ []) → counted (.vmvV d a p) (s.rows w) causeStream)) ∧
    (s.steepOver 1 = false →
      (vtLegal (s.x a) = false → counted (.vsett d a) 1 causeVcfg ∧ counted (.csrw a 0x009) 1 causeVcfg) ∧
      (vtLegal (s.x a) = true → s.hart.anyBinding = true → (s.x a).setWidth 7 ≠ s.hart.vtype.setWidth 7 →
        counted (.vsett d a) 1 causeStream ∧ counted (.csrw a 0x009) 1 causeStream) ∧
      (s.hart.lanes < 8 → counted (.forkl i) 1 causeVcfg) ∧
      (s.forked = true → counted .halt 1 causeVcfg) ∧
      (s.xPoisoned a = true → counted (.add d a b) 1 causePoison ∧ counted (.ldd d a i) 1 causePoison ∧
        counted (.beq a b i) 1 causePoison))) ∧
  (∀ (s : State) (u : Nat),
    (s.hart.priv ≠ .p → s.count u = s) ∧
    (s.hart.priv = .p →
      (s.count u).hart.steepcnt = s.hart.steepcnt + BitVec.ofNat 32 u ∧ (s.count u).hart.qcount = s.hart.qcount + u ∧
      (∀ q ∈ s.procs, q.capture.active = false ∨ some q.pid ≠ s.hart.pid → q ∈ (s.count u).procs) ∧
      s.count u = { s with
        hart := { s.hart with steepcnt := s.hart.steepcnt + BitVec.ofNat 32 u, qcount := s.hart.qcount + u }
        procs := (s.count u).procs }))

/-- R140, R155, R189 to R193, R197, R229, R358 to R360, R477: time, IINV, after which fetch sees tile memory as it is,
SAFE with nothing due, the software traps, captures, invalidations, HALT, a hart restarted, and the governor's
leave. That HART_RESTART lets the hart go on where it stood (log entry 31), and which accesses in flight TLBINV
waits for (log entry 121), are the model's readings. -/
def Obligations.System : Prop :=
  ∀ (s : State) (d a : BitVec 5) (i : BitVec 16) (c : BitVec 12) (at_ : Word) (p : Pid) (q : Proc) (n : Network)
    (e : SafeEntry) (tile front : Nat),
    let u := s.count 1
    let capture := fun (f : Proc → Proc) (t : State) => t.hart.pc = s.nextPc ∧ s.MemSame t ∧ t.proc? p = (u.proc? p).map f ∧
      (∀ r, r ≠ p → t.proc? r = s.proc? r)
    (s.Fit 1 [] → Answers (exec (.rdtime d) s) (s.WritesX d s.time) ∧
      Answers (exec .iinv s) (fun t => t.hart.pc = s.nextPc ∧ s.MemSame t ∧
        t.fetchWord = BitVec.ofNat 32 (s.tmLoad s.nextPc.toNat 4) ∧
        t = { s.count 1 with hart := { (s.count 1).hart.pcOf t.hart with code := s.tm } })) ∧
    (s.Fit 1 [a] → (s.x a).toNat ≤ s.time.toNat → Answers (exec (.waitt a) s) (s.JumpsTo s.nextPc)) ∧
    (s.Fit 1 [a] → s.time.toNat < (s.x a).toNat → exec (.waitt a) s = .next (u.block (.waitt (s.x a)))) ∧
    (s.hart.status = .blocked (.waitt at_) → Answers (exec .waittWake s) (fun t => s.MemSame t ∧
      (at_.toNat ≤ s.time.toNat → t.hart.status = .running ∧ t.hart.pc = s.nextPc) ∧
      (s.time.toNat < at_.toNat → t.hart = s.hart) ∧
      t = { s with hart := { s.hart.pcOf t.hart with status := t.hart.status }, procs := t.procs, tiles := t.tiles })) ∧
    (s.hart.priv = .p → s.forked = false →
      (s.safeEntry i.toNat = some (q, e) → s.due q e = .nothing → Answers (exec (.safe i) s) (fun t =>
        t.hart.pc = s.nextPc ∧ t.hart.steepcnt = 0 ∧ t.hart.chanWait = (if e.chanwait then some i.toNat else none) ∧
        s.MemSame t ∧ t = { s with hart := { s.hart.pcOf t.hart with steepcnt := 0 } })) ∧
      (s.safeEntry i.toNat = none → s.hart.current = none → Answers (exec (.safe i) s)
        (s.TrapsAtP causeIllegal ((encode (.safe i)).setWidth 64) s.hart.pc))) ∧
    (s.Fit 1 [] → s.hart.priv = .p → s.hart.current = none →
      Answers (exec (.brk i) s) (u.TrapsAtP causeBrk (i.setWidth 64) s.hart.pc) ∧
      Answers (exec (.sysc c) s) (u.TrapsAtP causeSysc (c.setWidth 64) (s.hart.pc + 4))) ∧
    (s.Fit 1 [] → s.hart.pid = some p → s.proc? p = some q →
      Answers (exec .tcapStart s)
        (fun t => capture (fun q => { q with capture := { Capture.zero with start := s.time, active := true } }) t ∧
          t = { u with hart := u.hart.pcOf t.hart, procs := t.procs }) ∧
      Answers (exec .tcapStop s) (fun t => capture (fun q => { q with capture := { q.capture with active := false } }) t ∧
        (q.capture.active = false → t.reports = s.reports) ∧
        (q.capture.active = true → ∃ r, t.reports = s.reports ++ [r] ∧ r.kind = 10 ∧ r.vdid = q.vdid ∧ r.netid = p.netid) ∧
        t = { u with hart := u.hart.pcOf t.hart, procs := t.procs, reports := t.reports })) ∧
    (s.Fit 1 [a] → s.hart.priv ≠ .p → Answers (exec (.tlbinv a) s) (fun t =>
      let mine := s.hart.id.tile; let v := (s.tile mine).vdid.getD 0; let page := s.pageOf mine v (s.x a)
      (s.inFlight mine page = false → t.hart.pc = s.nextPc ∧ t.hart.status = s.hart.status) ∧
      (s.inFlight mine page = true → t.hart.pc = s.hart.pc ∧ t.hart.status = .blocked (.tlbinv page)) ∧
      s.MemSame t ∧ (∀ k, k ≠ mine → t.tile k = s.tile k) ∧
      (∀ x, x ∈ (t.tile mine).walks ↔ x ∈ (s.tile mine).walks ∧ x.vdid ≠ v) ∧
      (∀ x, x ∈ (t.tile mine).tlb ↔ x ∈ (s.tile mine).tlb ∧ ¬(x.vdid = v ∧
        (s.x a = BitVec.allOnes 64 ∨ (x.base ≤ (s.x a).toNat ∧ (s.x a).toNat < x.base + x.size)))) ∧
      t = { s with hart := { s.hart.pcOf t.hart with status := t.hart.status }, tiles := t.tiles })) ∧
    (s.Fit 1 [] → s.hart.priv = .p → s.forked = false → s.hart.pid = some p → s.proc? p = some q →
      (∀ r, q.status ≠ .ended r) → s.net? p.netid = some n → p.rank < n.entries.length →
      Answers (exec .halt s) (fun t => (t.proc? p).map (·.status) = some (.ended .halt) ∧ s.MemSame t ∧
        (∀ h ∈ t.harts, h.pid ≠ some p) ∧ (∃ m, t.net? p.netid = some m ∧ entryEnded (m.entry p.rank) = true ∧
          ∀ ch ∈ m.chans, ch.prod = .rank p.rank → ch.closed = true))) ∧
    (s.Fit 1 [] → s.hart.priv = .m → Answers (exec .halt s) (fun t => t.hart.status = .parked ∧
      t.hart.pc = s.nextPc ∧ s.MemSame t ∧ t = { s with hart := { s.hart.pcOf t.hart with status := .parked } })) ∧
    (let go := fun (h : Hart) => if h.id = ⟨tile, front⟩ ∧ h.status = .parked then { h with status := .running } else h;
      exec (.hartRestart tile front) s = .next { s with hart := go s.hart, others := s.others.map go }) ∧
    exec .leaveGrant s = .next { s with hart := { s.hart with leave := true } } ∧
    exec .leaveLapse s = .next { s with hart := { s.hart with leave := false } }

/-- R62, R331, R333 to R337: CSRR of each user CSR at any privilege, of each system CSR at S and M, and of each M CSR at
M, gives the value that the CSR's map shows. -/
def Obligations.CsrReads : Prop :=
  ∀ (s : State) (d : BitVec 5), s.Fit 1 [] →
    let h := s.hart; let t := s.tile h.id.tile
    let reads := fun (c : BitVec 12) (v : Word) => Answers (exec (.csrr d c) s) (s.WritesX d v)
    let id := fun (f : Pid → Nat) => BitVec.ofNat 64 ((h.pid.map f).getD 0)
    let bit := fun (b : Bool) (v : Nat) => if b then v else 0
    reads 0x001 (h.fflags.setWidth 64) ∧ reads 0x008 (h.vl.setWidth 64) ∧ reads 0x009 (h.vtype.setWidth 64) ∧
    reads 0x00A (BitVec.ofNat 64 s.vlmax) ∧ reads 0x010 h.srseed ∧ reads 0x011 h.srcount ∧
    reads 0x018 (h.telem.setWidth 64) ∧ reads 0x020 (h.msprec.setWidth 64) ∧ reads 0x021 (h.msanchor.setWidth 64) ∧
    reads 0x022 (h.msm.setWidth 64) ∧ reads 0x023 (h.msn.setWidth 64) ∧ reads 0x024 (h.msk.setWidth 64) ∧
    reads 0xC00 s.time ∧ reads 0xC01 (id (·.rank)) ∧ reads 0xC02 (id (·.netid)) ∧
    (h.priv ≠ .p →
      reads 0x100 (BitVec.ofNat 64 (bit h.pchild 8 + bit h.pfork 4)) ∧ reads 0x101 (t.tvec.setWidth 64) ∧
      reads 0x102 h.tscratch ∧ reads 0x103 h.tpc ∧ reads 0x104 (h.tcause.setWidth 64) ∧ reads 0x105 h.tval ∧
      (∀ k < 4, reads (0x108 + BitVec.ofNat 12 k) ((h.tdone >>> (64 * k)).setWidth 64) ∧
        (∀ e, h.tprog.toList.getD k none = some e →
          reads (0x10C + BitVec.ofNat 12 k) (BitVec.ofNat 64 (bit e.v (2 ^ 63) + bit e.f (2 ^ 62) + e.pc.toNat * 2 ^ 38 +
            e.vl.toNat * 2 ^ 21 + e.prog.toNat)) ∧
          reads (0x110 + BitVec.ofNat 12 k) e.xa ∧ reads (0x114 + BitVec.ofNat 12 k) e.xb) ∧
        (h.tprog.toList.getD k none = none → reads (0x10C + BitVec.ofNat 12 k) 0 ∧
          reads (0x110 + BitVec.ofNat 12 k) 0 ∧ reads (0x114 + BitVec.ofNat 12 k) 0)) ∧
      reads 0x120 (h.steepcnt.setWidth 64) ∧ reads 0x121 (h.steeplim.setWidth 64) ∧ reads 0x122 (h.quantum.setWidth 64) ∧
      reads 0x123 (BitVec.ofNat 64 (h.prioCeil.toNat * 256 + h.prioLevel.toNat)) ∧ reads 0x124 h.ctxptr ∧
      reads 0x130 (t.lpart.setWidth 64) ∧ reads 0x131 (BitVec.ofNat 64 (t.vdid.getD 0)) ∧
      reads 0x132 (t.hwdog.setWidth 64) ∧
      (∀ k < 16, reads (0x140 + BitVec.ofNat 12 k) ((h.tmap >>> (64 * k)).setWidth 64))) ∧
    (h.priv = .m →
      reads 0x300 (BitVec.ofNat 64 (bit h.mpchild 8 + bit h.mpfork 4 + h.mppriv.toNat)) ∧ reads 0x301 (h.mtvec.setWidth 64) ∧
      reads 0x302 h.mtscratch ∧ reads 0x303 h.mtpc ∧ reads 0x304 (h.mtcause.setWidth 64) ∧ reads 0x305 h.mtval)

/-- R33, R60, R64, R186, R187, R332 to R337: a CSR write that no condition stops puts the writable bits of the value
into the CSR, and changes no other CSR but VL and VLMAX with VTYPE, and MSM, MSN and MSK with MSPREC and MSANCHOR;
CSRS and CSRC write the old value with bits set or cleared; V of a TPROG entry is cleared by writing 1, and at M its
other fields take the value; PRIO's level stays below its ceiling, which M alone writes, and is the level of the
process and of its other harts; LPART, written at M, makes the tile's harts those of the partition, and a tile with
a process, or one whose new partition has no hart on the writer's front end, stays as it is. That a write of LPART
to an occupied tile, or one that would leave the hart without lanes, is ignored is the model's reading (log entry
32). -/
def Obligations.CsrWrites : Prop :=
  ∀ (s : State) (a : BitVec 5), s.Fit 1 [a] →
    let u := s.count 1; let v := s.x a; let mine := s.hart.id.tile
    let forms := fun (c : BitVec 12) (ok : Word → Prop) (Q : Word → State → Prop) =>
      (ok v → Answers (exec (.csrw a c) s) (Q v)) ∧
      (ok (s.csr c.toNat ||| v) → Answers (exec (.csrs a c) s) (Q (s.csr c.toNat ||| v))) ∧
      (ok (s.csr c.toNat &&& ~~~v) → Answers (exec (.csrc a c) s) (Q (s.csr c.toNat &&& ~~~v)))
    (∀ (c : BitVec 12) (mask : Word), csrPriv s.hart.priv c.toNat true = false →
      (c, mask) ∈ ([(0x001, 0x1F), (0x009, 0xFFFF), (0x010, BitVec.allOnes 64), (0x011, BitVec.allOnes 64), (0x020, 0xFF),
        (0x021, 0xFFFF), (0x100, 0xC), (0x101, 0x1FFFFC), (0x102, BitVec.allOnes 64), (0x103, BitVec.allOnes 64), (0x104, 0xFF),
        (0x105, BitVec.allOnes 64), (0x120, 0xFFFFFFFF), (0x121, 0xFFFFFFFF), (0x122, 0xFFFFFFFFFFFF),
        (0x124, 0xFFFFFFFFFFFFC0), (0x131, 0xFF), (0x132, 0xFFFFFFFF), (0x300, 0xD), (0x301, 0x1FFFFC),
        (0x302, BitVec.allOnes 64), (0x303, BitVec.allOnes 64), (0x304, 0xFF), (0x305, BitVec.allOnes 64)] :
        List (BitVec 12 × Word)) →
      forms c (fun v => c = 0x009 → vtLegal v = true ∧
        (s.hart.anyBinding = true → v.setWidth 7 = s.hart.vtype.setWidth 7)) fun v t =>
        t.csr c.toNat = v &&& mask ∧ t.hart.pc = s.nextPc ∧ s.MemSame t ∧
        (∀ k, k ≠ c.toNat → (c = 0x009 → k ≠ 0x008 ∧ k ≠ 0x00A) → (c = 0x020 ∨ c = 0x021 → k < 0x022 ∨ 0x024 < k) →
          t.csr k = u.csr k) ∧
        (c = 0x009 → t.csr 0x008 =
          BitVec.ofNat 64 (Nat.min s.hart.vl.toNat (vlmaxOf s.hart.lanes (v.setWidth 16)) % 2 ^ 17)) ∧
        (c = 0x020 ∨ c = 0x021 → t.csr 0x022 = 0 ∧ t.csr 0x023 = 0 ∧ t.csr 0x024 = 0) ∧
        (∀ r, t.x r = s.x r) ∧ t.hart.p = s.hart.p ∧ t.hart.e = s.hart.e ∧ t.hart.m = s.hart.m ∧
        t.hart.streams = s.hart.streams ∧ (c ≠ 0x009 → t.hart.v = s.hart.v) ∧
        t = { u with hart := t.hart, tiles := t.tiles }) ∧
    (s.hart.priv ≠ .p → ∀ k : Fin 4,
      forms (0x10C + BitVec.ofNat 12 k) (fun _ => True) (fun v t =>
        let cleared := fun (e : TProg) => if v.getLsbD 63 then { e with v := false } else e
        t.hart.pc = s.nextPc ∧
        t.hart.tprog = s.hart.tprog.set k (if s.hart.priv = .s then s.hart.tprog[k].map cleared else
          some { cleared (s.hart.tprog[k].getD ⟨false, false, 0, 0, 0, 0, 0, 0, ⟨0, []⟩⟩) with
            f := v.getLsbD 62, pc := v.extractLsb' 38 21, vl := v.extractLsb' 21 17, prog := v.extractLsb' 0 17 }) ∧
        t = { s with hart := { s.hart.pcOf t.hart with tprog := t.hart.tprog } }) ∧
      forms 0x123 (fun _ => True) (fun v t =>
        t.hart.pc = s.nextPc ∧ t.hart.prioCeil = (if s.hart.priv = .s then s.hart.prioCeil else v.extractLsb' 8 4) ∧
        t.hart.prioLevel.toNat = Nat.min (v.toNat % 16) t.hart.prioCeil.toNat ∧
        t.others = s.others.map (fun g => if g.pid = s.hart.pid ∧ s.hart.pid.isSome = true then
          { g with prioLevel := t.hart.prioLevel } else g) ∧
        t.procs = s.procs.map (fun q => if s.hart.pid = some q.pid then { q with level := t.hart.prioLevel } else q) ∧
        t = { s with hart := { s.hart.pcOf t.hart with prioLevel := t.hart.prioLevel, prioCeil := t.hart.prioCeil }
                     others := t.others, procs := t.procs })) ∧
    (s.hart.priv = .m → s.hart.status = .running →
      forms 0x130 (fun _ => True) (fun v t =>
        let lanes := 32 / 2 ^ (v.toNat % 4); let lane := 4 * s.hart.id.front
        t.hart.pc = s.nextPc ∧ s.MemSame t ∧
        (s.tileOccupied mine = true ∨ lane % lanes ≠ 0 ∨ 32 ≤ lane → t = { s with hart := s.hart.pcOf t.hart }) ∧
        (s.tileOccupied mine = false → lane % lanes = 0 → lane < 32 →
          t.csr 0x130 = v &&& 3 ∧ t.hart = { s.hart.pcOf t.hart with lane0 := lane, lanes := lanes } ∧
          (∀ h ∈ t.harts, h.id.tile = mine → h.lanes = lanes ∧ h.lane0 = 4 * h.id.front ∧ h.lane0 < 32 ∧ h.lane0 % lanes = 0) ∧
          (∀ l < 32, l % lanes = 0 → ∃ h ∈ t.harts, h.id = ⟨mine, l / 4⟩) ∧
          (∀ h, h.id.tile ≠ mine → (h ∈ t.harts ↔ h ∈ s.harts)) ∧ (∀ n, n ≠ mine → t.tile n = s.tile n) ∧
          t = { s with hart := t.hart, others := t.others, tiles := t.tiles })))

/-! ### Matrices and transfers -/

/-- R267 to R278, R100: MSHAPE grants a shape that fits the lanes, or traps MATRIX at a reserved bit; MZERO clears the
bank over the granted shape; MMA adds to each element of the bank the sum of its products, each rounded alone, and
an instruction that needs a shape traps MATRIX where none is granted. -/
def Obligations.MatrixShapes : Prop :=
  ∀ (s : State) (d a b : BitVec 5) (k : BitVec 1), s.hart.dbg = [] →
    let q := s.x a; let L := s.hart.lanes
    let mr := (q.extractLsb' 0 13).toNat; let nr := (q.extractLsb' 16 13).toNat; let kr := (q.extractLsb' 32 13).toNat
    let none? := mr = 0 ∨ nr = 0 ∨ kr = 0
    let N := if none? then 0 else if nr ≤ 32 then 32 else 64
    let M := if none? then 0 else min (L * ((mr + L - 1) / L)) (64 * L / N)
    let K := if none? then 0 else min (32 * ((kr + 31) / 32)) 4096
    let u := s.count 1
    let m := s.hart.msm.toNat; let n := s.hart.msn.toNat; let kb := s.hart.msk.toNat / 32
    let pa := s.hart.msprec.toNat % 16 + 1; let pb := s.hart.msprec.toNat / 16 + 1
    let units := fun c => max 1 (m / L * (n / 32) * c)
    let byte := fun (i : Nat) => (s.tm.read (tmKey s.hart.id.tile i))
    let block := fun (base p i k : Nat) => base + (i / 32 * kb + k / 32) * (128 * p + 32)
    let bits : Nat → Nat → Nat → Nat → Nat := fun base p i k => ((List.range p).map fun j =>
      if (byte (block base p i k + 128 * j + 4 * (i % 32) + k % 32 / 8)).getLsbD (k % 8) then 2 ^ j else 0).sum
    let elem : Nat → Nat → Nat → Nat → Int := fun base p i k => if p = 1 then 1 - 2 * (bits base p i k : Int) else sextNat p (bits base p i k)
    let scale := fun (base p i k : Nat) => (byte (block base p i k + 128 * p + i % 32)).toNat
    let good := fun (base p rows : Nat) => base % 32 = 0 ∧
      s.tmOk base ((rows + 31) / 32 * kb * (128 * p + 32)) = true ∧ ∀ i < rows, ∀ c < kb, scale base p i (32 * c) ≠ 255
    let xa := (s.opA a).toNat; let xb := (s.opB b).toNat
    let term := fun (i j k : Nat) =>
      let g := elem xa pa i k * elem xb pb j k
      (roundInt (.mode 0) (decide (g < 0)) g.natAbs ((scale xa pa i k : Int) + scale xb pb j k - 254 - s.hart.msanchor.toInt)).1
    let bankOnly := fun (U : Nat) (t : State) => t.hart.pc = s.nextPc ∧ s.MemSame t ∧ (∀ j, j ≠ k → t.hart.bank j = s.hart.bank j) ∧
      t = { s.count U with hart := { (s.count U).hart.pcOf t.hart with m := t.hart.m, leave := t.hart.leave } }
    (s.Fit 1 [a, b] → q &&& 0xFF00E000E000E000 = 0 → Answers (exec (.mshape d a b) s) (fun t =>
      t.hart.pc = s.nextPc ∧ s.MemSame t ∧
      (∀ r, t.x r = if r = d ∧ d ≠ 0 then (q &&& 0x00FF000000000000) ||| BitVec.ofNat 64 (M + N * 2 ^ 16 + K * 2 ^ 32) else s.x r) ∧
      (∀ r, t.xPoisoned r = (decide (r ≠ d) && s.xPoisoned r)) ∧
      t.hart.msprec = q.extractLsb' 48 8 ∧ t.hart.msanchor = (s.x b).setWidth 16 ∧
      (L ≤ 64 → t.hart.msm.toNat = M ∧ t.hart.msn.toNat = N ∧ t.hart.msk.toNat = K) ∧
      t = { u with hart := { u.hart.xOf t.hart with
        msprec := t.hart.msprec, msanchor := t.hart.msanchor, msm := t.hart.msm, msn := t.hart.msn, msk := t.hart.msk } })) ∧
    (s.Fit 1 [a, b] → s.hart.priv = .p → s.hart.current = none → q &&& 0xFF00E000E000E000 ≠ 0 →
      Answers (exec (.mshape d a b) s) (u.TrapsAtP causeMatrix q s.hart.pc)) ∧
    (L ∈ [4, 8, 16, 32] → L ∣ M ∧ 32 ∣ N ∧ 32 ∣ K ∧ K ≤ 4096 ∧ M * N ≤ 64 * L) ∧
    (s.hart.msm ≠ 0 → s.Fit (units 1) [] → Answers (exec (.mzero k) s) (fun t => bankOnly (units 1) t ∧
      ∀ i, (t.hart.bank k).get i = if i < m * n then 0 else (s.hart.bank k).get i)) ∧
    (s.hart.msm = 0 → s.Fit 1 [] → s.hart.priv = .p → s.hart.current = none →
      Answers (exec (.mzero k) s) (u.TrapsAtP causeMatrix 0 s.hart.pc) ∧
      Answers (exec (.mma a b k) s) (u.TrapsAtP causeMatrix 0 s.hart.pc)) ∧
    (let U := units ((kb - s.startElem) * ((pa + 7) / 8) * pb)
     s.hart.msm ≠ 0 → s.VReady U [] → good xa pa m → good xb pb n → Answers (exec (.mma a b k) s) (fun t => bankOnly U t ∧
      t.hart.leave = true ∧
      (∀ i < m, ∀ j < n, (t.hart.bank k).get (i * n + j) = (s.hart.bank k).get (i * n + j) +
        BitVec.ofInt 128 (((List.range (32 * kb)).filter (32 * s.startElem ≤ ·)).map (term i j)).sum) ∧
      (∀ e, m * n ≤ e → (t.hart.bank k).get e = (s.hart.bank k).get e)))

/-- R92 to R94, R268, R273, R274: MPACK writes the rows of VL elements of a group as one plane block, each row with the
scale that its largest element asks for, and MUNPK reads such a block into a group; under stochastic rounding MPACK
draws once for each active element. -/
def Obligations.PlaneBlocks : Prop :=
  ∀ (s : State) (d a : BitVec 5) (q : BitVec 4) (p : BitVec 3), s.MemOk → s.VReady (s.rows s.sew) [d] →
    let w := s.sew; let bp := q.toNat + 1; let l := s.actives p; let rows := (s.vlen + 31) / 32
    let base := tmKey s.hart.id.tile (s.opA a).toNat
    let sr := vtSr s.hart.vtype
    let val := fun e => s.fmt.decode (s.hart.elem w d.toNat e)
    let scale := fun r => blockScale bp ((l.filter (· / 32 = r)).foldl (fun m e => maxMag m (val e).mag) none)
    let dir := fun e => if sr then RDir.draw (s.drawAt (rankIn l e)) else s.rdir
    let enc := fun e => if e ∈ l then toBlockInt (dir e) bp (scale (e / 32)) (val e) else (0, 0)
    let bit := fun (t : State) (j e : Nat) => (t.tm.read (base + 128 * j + e / 8)).getLsbD (e % 8)
    let touched := fun c => (∃ j < bp, base + 128 * j ≤ c ∧ c < base + 128 * j + 4 * rows) ∨
      (base + 128 * bp ≤ c ∧ c < base + 128 * bp + rows)
    let bits : Nat → Nat := fun e => ((List.range bp).map fun j => if bit s j e then 2 ^ j else 0).sum
    let int : Nat → Int := fun e => if bp = 1 then 1 - 2 * (bits e : Int) else sextNat bp (bits e)
    let u := s.count (s.rows w)
    s.vlen ≤ 1024 → (s.opA a).toNat % 32 = 0 → s.tmOk (s.opA a).toNat (128 * bp + rows) = true →
    Answers (exec (.mpack d a q p) s) (fun t =>
      t.hart.pc = s.nextPc ∧ (∀ c, t.gm.read c = s.gm.read c) ∧
      (∀ e < 32 * rows, ∀ j < bp, bit t j e = (enc e).1.testBit j) ∧
      (∀ r < rows, (t.tm.read (base + 128 * bp + r)).toNat = scale r) ∧
      (∀ c, ¬touched c → t.tm.read c = s.tm.read c) ∧
      t.hart.fflags = l.foldl (fun f e => f ||| (enc e).2) s.hart.fflags ∧
      t.hart.srcount = s.hart.srcount + (if sr then BitVec.ofNat 64 l.length else 0) ∧
      t = { u with
        hart := { u.hart.pcOf t.hart with fflags := t.hart.fflags, srcount := t.hart.srcount, draws := t.hart.draws }
        tm := t.tm }) ∧
    Answers (exec (.munpk d a q p) s) (s.WritesV (s.rows w) w d l fun e =>
      let sc := (s.tm.read (base + 128 * bp + e / 32)).toNat
      if sc = 255 then (s.fmt.nanBits, flagNV) else s.fmt.round s.rdir (.fin (decide (int e < 0)) (int e).natAbs ((sc : Int) - 127)))

/-- R101, R280 to R282: MDRAIN converts the active elements of a bank and stores them in tile memory, or hands them to
an asynchronous writer that stores them in global memory; the bank is unchanged. -/
def Obligations.Drains : Prop :=
  ∀ (s : State) (c a b : BitVec 5) (p : BitVec 3) (k : BitVec 1) (m : BitVec 2), s.MemOk →
    s.VReady (s.rows 128) (if m = 2 then [b] else []) →
    let l := s.actives p; let n := s.hart.msn.toNat
    let wd := if c = 0 then 4 else if c = 1 ∨ c = 2 then 2 else if c = 3 ∨ c = 4 then 1 else if c.toNat < 24 then 1 else 2
    let cvt := fun (e : Nat) (r : RDir) =>
      let Q := ((s.hart.bank k).get e).toInt; let neg := decide (Q < 0)
      let big := Q < -2 ^ 119 ∨ 2 ^ 119 ≤ Q
      let fp := fun (f : Fmt) => if big then (f.signed neg (f.overflow r neg), flagOF ||| flagNX)
        else if Q = 0 then (0, 0) else f.round r (.fin neg Q.natAbs s.hart.msanchor.toInt)
      let bi := fun (bp : Nat) =>
        let v := if big then ((toBlockInt r bp 127 (.inf neg)).1, flagOF ||| flagNX)
          else toBlockInt r bp (max 0 (min 254 (s.hart.msanchor.toInt + 127))).toNat (.fin neg Q.natAbs s.hart.msanchor.toInt)
        (if bp = 1 then v.1 else wrapNat (8 * wd) (sextNat bp v.1), v.2)
      if c = 0 then fp .fp32 else if c = 1 then fp .bf16 else if c = 2 then fp .fp16 else if c = 3 then fp .e4m3
      else if c = 4 then fp .e5m2 else bi (c.toNat - 15)
    let sr := vtSr s.hart.vtype
    let conv := fun e => cvt e (if sr then .draw (s.drawAt (rankIn l e)) else s.rdir)
    let addr := fun e => if m = 0 then s.opA a + BitVec.ofNat 64 (e * wd)
      else if m = 1 then s.opA a + BitVec.ofNat 64 (e / n) * s.opB b + BitVec.ofNat 64 (e % n * wd)
      else s.opA a + BitVec.ofNat 64 (s.hart.elem s.sew b.toNat e)
    let key := fun e => tmKey s.hart.id.tile (addr e).toNat
    let u := s.count (s.rows 128)
    let flags := fun (t : State) => t.hart.pc = s.nextPc ∧
      t.hart.fflags = l.foldl (fun f e => f ||| (conv e).2) s.hart.fflags ∧
      t.hart.srcount = s.hart.srcount + (if sr then BitVec.ofNat 64 l.length else 0)
    let hart := fun (t : State) => { u.hart.pcOf t.hart with
      fflags := t.hart.fflags, srcount := t.hart.srcount, draws := t.hart.draws }
    let lane := fun e => if m = 0 then 0 else e % s.hart.lanes
    let gv := GmVec.mk wd .w false false 2 addr lane (fun _ => none) (fun _ => none)
    let v := u.gmVecProbe gv l; let g := v.gmVecUse gv l
    m ≠ 3 → (c.toNat ≤ 4 ∨ 16 ≤ c.toNat) → 0 < n → s.vlen ≤ s.hart.msm.toNat * n → s.hart.msm ≠ 0 →
    (∀ e ∈ l, setHas (s.hart.bank k).pois e = false) →
    ((∀ e ∈ l, (addr e).toNat % wd = 0 ∧ s.tmOk (addr e).toNat wd = true) →
      Answers (exec (.mdrain c a b p k m 0) s) (fun t => flags t ∧
        (∀ i ∈ l, (∀ j ∈ l, i < j → key j + wd ≤ key i ∨ key i + wd ≤ key j) → t.tm.bytes (key i) wd = leBytes wd (conv i).1) ∧
        (∀ x, (∀ i ∈ l, x < key i ∨ key i + wd ≤ x) → t.tm.read x = s.tm.read x) ∧ (∀ x, t.gm.read x = s.gm.read x) ∧
        t = { u with hart := hart t, tm := t.tm })) ∧
    ((∀ e ∈ l, (addr e).toNat % wd = 0) → (∀ e ∈ l, ∃ r, v.laneXlate (lane e) .w (addr e).toNat = .ok r) →
      Answers (exec (.mdrain c a b p k m 1) s) (fun t => flags t ∧ (∀ x, t.tm.read x = s.tm.read x) ∧
        (∀ x, t.gm.read x = g.gm.read x) ∧
        (∃ cmd : AsyncWrite, t.asyncs = s.asyncs ++ [cmd] ∧ cmd.writer = .drain ∧ cmd.owner = some s.hart.id ∧
          cmd.pid = s.hart.pid ∧ cmd.stopped = false ∧
          (∀ x ∈ cmd.chunks, x.toTm = false ∧ ∀ y ∈ x.bytes, y.key / 64 = x.granule) ∧
          (∀ y, (∃ x ∈ cmd.chunks, y ∈ x.bytes) ↔ ∃ e ∈ l, ∃ j < wd, ∃ r,
            v.laneXlate (lane e) .w (addr e).toNat = .ok r ∧
            y = ⟨r.2.addr + j, .lit (BitVec.ofNat 8 ((conv e).1 / 256 ^ j)), addr e + BitVec.ofNat 64 j, e, j⟩)) ∧
        t = { g with hart := hart t, asyncs := t.asyncs }))

/-- R249 to R252: TXIN, TXOUT and TX2D, where their rows are aligned, granted and translate, hand one command to the
engine that holds every byte of the rows once, and go on; the hart waits where the engine has no free entry for it.
R119, R252, R253, R447: GRANULE_MARKING performs one pending granule of some writer, the oldest that the writer has
for it: its bytes take the values of their sources, every other byte is as before, and the granule is marked full;
at a member of a multicast that takes no write, nothing changes. Where nothing is pending, commands with nothing
left to write leave the queue. The order in which pending granules are performed is free (log entries 12 and 13). -/
def Obligations.TransferCommands : Prop :=
  (∀ (s : State) (d a b : BitVec 5) (pages : List (Nat × TlbEntry × Phys)) (plist : List (List (Nat × TlbEntry × Phys))),
    s.hart.dbg = [] →
    let xd := s.x d; let xa := s.x a; let n := (s.x b).toNat
    let u := s.count 1; let tile := s.hart.id.tile
    let word := fun (i : Instr) => encode i
    let walked := fun (l : List (Nat × Nat)) => u.myTouch (l.flatMap fun x => pagesOf x.1 x.2)
    let command := fun (v : State) (need : Need) (use : List (Nat × TlbEntry × Phys)) (toTm : Bool) (is : PendByte → Prop)
        (t : State) =>
      let g := use.foldl (fun (t : State) e => t.myUse need e.2.1) v
      t.hart.pc = s.nextPc ∧ g.MemSame t ∧
      (∃ cmd : AsyncWrite, t.asyncs = s.asyncs ++ [cmd] ∧ cmd.writer = .engine ∧ cmd.owner = some s.hart.id ∧
        cmd.pid = s.hart.pid ∧ cmd.stopped = false ∧ cmd.done = none ∧
        (∀ c ∈ cmd.chunks, c.toTm = toTm ∧ ∀ y ∈ c.bytes, y.key / 64 = c.granule) ∧
        (∀ y, (∃ c ∈ cmd.chunks, y ∈ c.bytes) ↔ is y)) ∧
      t = { g with hart := g.hart.pcOf t.hart, asyncs := t.asyncs }
    let desc := s.tm.bytes (tmKey tile xa.toNat) 32
    let ga := field desc 0 8; let ta := field desc 8 4; let rb := field desc 12 4; let gp := field desc 16 8
    let tp := sextNat 32 (field desc 24 4); let rows := field desc 28 2; let dir := field desc 30 1
    let tmRow := fun (r : Nat) => (ta : Int) + r * tp; let gmRow := fun (r : Nat) => (ga + r * gp) % 2 ^ 64
    (s.Fit 1 [d, a, b] → 0 < n → xd.toNat % 8 = 0 → xa.toNat % 8 = 0 → n % 8 = 0 →
      (let v := walked [(xa.toNat, n)]
       s.tmOk xd.toNat n = true → v.xlateRange (fun s x => s.myXlate .r x) xa.toNat n = .ok pages →
        (s.txFree = true → Answers (exec (.txin d a b) s) (command v .r pages true fun y => ∃ j < n,
          y = ⟨tmKey tile (xd.toNat + j), .gm (physIn pages (xa.toNat + j)), xa + BitVec.ofNat 64 j, 0, j⟩)) ∧
        (s.txFree = false → exec (.txin d a b) s = .next (v.block (.txEntry (word (.txin d a b)))))) ∧
      (let v := walked [(xd.toNat, n)]
       s.tmOk xa.toNat n = true → v.xlateRange (fun s x => s.myXlate .w x) xd.toNat n = .ok pages →
        (s.txFree = true → Answers (exec (.txout d a b) s) (command v .w pages false fun y => ∃ j < n,
          y = ⟨(physIn pages (xd.toNat + j)).addr, .tm (tmKey tile (xa.toNat + j)), xd + BitVec.ofNat 64 j, 0, j⟩)) ∧
        (s.txFree = false → exec (.txout d a b) s = .next (v.block (.txEntry (word (.txout d a b))))))) ∧
    (s.Fit 1 [d, a, b] → n = 0 → exec (.txin d a b) s = .next u.advance ∧ exec (.txout d a b) s = .next u.advance) ∧
    (s.Fit 1 [a] → xa.toNat % 8 = 0 → s.tmOk xa.toNat 32 = true → ga % 8 = 0 → ta % 8 = 0 → rb % 8 = 0 → gp % 8 = 0 →
      tp % 8 = 0 → 8 ≤ rb → rb ≤ 65536 → 0 < rows → dir ≤ 1 → field desc 31 1 = 0 →
      (∀ r < rows, 0 ≤ tmRow r ∧ s.tmOk (tmRow r).toNat rb = true) →
      let v := walked ((List.range rows).map fun r => (gmRow r, rb))
      (List.range rows).map (fun r => v.xlateRange (fun s x => s.myXlate (if dir = 0 then .r else .w) x) (gmRow r) rb) =
        plist.map .ok →
      (s.txFree = true → Answers (exec (.tx2d a) s) (command v (if dir = 0 then .r else .w) plist.flatten (dir == 0) fun y =>
        ∃ r < rows, ∃ j < rb,
          let p := physIn (plist.getD r []) (gmRow r + j)
          let k := tmKey tile ((tmRow r).toNat + j)
          let va := BitVec.ofNat 64 (gmRow r + j)
          y = if dir = 0 then ⟨k, .gm p, va, 0, r * rb + j⟩ else ⟨p.addr, .tm k, va, 0, r * rb + j⟩)) ∧
      (s.txFree = false → exec (.tx2d a) s = .next (v.block (.txEntry (word (.tx2d a))))))) ∧
  (∀ (s : State) (pick : Nat), s.MemOk → (s.harts.map (·.id)).Nodup →
    (∀ h ∈ s.harts, ∀ w, h.status ≠ .blocked (.txEntry w)) →
    let left := fun (as : List AsyncWrite) => as.filter (fun a => !(a.chunks.isEmpty && !s.harts.any fun h => a.mcastOf h))
    let frame := fun (t : State) => (∀ h, h ∈ t.harts ↔ h ∈ s.harts) ∧ t.hart = s.hart ∧
      t = { s with others := t.others, tm := t.tm, gm := t.gm, tmFull := t.tmFull, gmFull := t.gmFull, tmPois := t.tmPois,
                   gmPois := t.gmPois, gmKey := t.gmKey, gmStamp := t.gmStamp, vdevs := t.vdevs, asyncs := t.asyncs, reports := t.reports
                   logEvents := t.logEvents }
    ((∃ a ∈ s.asyncs, a.stopped = false ∧ a.chunks ≠ []) →
      (∀ a ∈ s.asyncs, ∀ c ∈ a.chunks, (c.bytes.map (·.key)).Nodup) →
      Answers (exec (.granuleMarking pick) s) (fun t => frame t ∧ ∃ i a c, s.asyncs[i]? = some a ∧ c ∈ a.ready ∧
        (∀ j < i, ∀ o, s.asyncs[j]? = some o → o.writer = a.writer → o.owner = a.owner → o.pid = a.pid →
          ∀ e ∈ o.ready, ¬(e.toTm = c.toTm ∧ e.granule = c.granule)) ∧
        let skips := a.writer = .vstm ∧ s.memberTakes a c = false
        (skips → s.MemSame t ∧ t.tmFull = s.tmFull ∧ t.gmFull = s.gmFull) ∧
        (¬skips → ∀ b ∈ c.bytes, (if c.toTm then t.tm.read b.key else t.gmByte (s.slotKey c.slot) b.key) = s.sourceByte b.src) ∧
        (∀ k, (c.toTm = true → ∀ b ∈ c.bytes, b.key ≠ k) → t.tm.read k = s.tm.read k) ∧
        s.GmOutside (if c.toTm then [] else c.bytes.map fun b => (⟨b.key, c.slot, 0⟩, 1)) t ∧
        (¬skips → t.tmFull = (if c.toTm then setAdd s.tmFull c.granule else s.tmFull) ∧
        t.gmFull = (if c.toTm then s.gmFull else setAdd s.gmFull c.granule)) ∧
        t.asyncs = left (s.asyncs.modify i (AsyncWrite.after s c)) ∧ (AsyncWrite.after s c a).chunks = a.chunks.erase c)) ∧
    ((∀ a ∈ s.asyncs, a.stopped = false → a.chunks = []) → Answers (exec (.granuleMarking pick) s) (fun t =>
      frame t ∧ s.MemSame t ∧ t.tmFull = s.tmFull ∧ t.gmFull = s.gmFull ∧ t.asyncs = left s.asyncs)))

/-! ### Exchanges and barriers -/

/-- R284, R285, R289 to R291, R294: DPOST opens an exchange with the demand of its record, DGRANT writes the calendar or
waits for it and goes on when it comes, DSEND queues what the grant still allows of its bytes and gives back how
many it did not, DCLOSE sends every member a closing flit. -/
def Obligations.ExchangeInstructions : Prop :=
  ∀ (s : State) (d a b : BitVec 5) (n : Network) (q : Group) (i g : Nat) (m : Member) (x : Exchange) (c : Calendar) (is : Issue)
    (pages : List (Nat × TlbEntry × Phys)),
    s.MemOk → s.hart.dbg = [] → s.hart.priv = .p → s.myGroup g = some (n, q, i) → q.members[i]? = some m →
    q.members.length ≤ 4096 →
    let u := s.count 1; let tile := s.hart.id.tile
    let walked := fun (lo len : Nat) => u.myTouch (pagesOf lo len)
    let at_ := fun (t : State) (k h j : Nat) => (t.group? k h).bind (fun nq => nq.2.members[j]?)
    let becomes := fun (m' : Member) (t : State) => at_ t n.netid g i = some m' ∧
      ∀ k h j, (k, h, j) ≠ (n.netid, g, i) → at_ t k h j = at_ s k h j
    let ea := s.x a; let k := q.members.length
    let post := s.tm.bytes (tmKey tile ea.toNat) (32 + 8 * k)
    let demand := (List.range k).map fun r => field post (32 + 8 * r) 8
    let use := fun (v : State) (need : Need) => pages.foldl (fun (t : State) e => t.myUse need e.2.1) v
    let grants := fun (v t : State) =>
      let bs := c.bytes g i
      bs.length = 64 + 16 * c.recv.length + 16 * c.send.length + 16 * c.runs.length ∧
      field bs 0 4 = g % 2 ^ 32 ∧ field bs 8 4 = i % 2 ^ 32 ∧ field bs 16 8 = c.seq % 2 ^ 64 ∧
      t.hart.pc = v.nextPc ∧ becomes { m with exch := some { x with calendar := some c, granted := true } } t ∧
      (∀ r, t.x r = if r = d ∧ d ≠ 0 then BitVec.ofNat 64 bs.length else s.x r) ∧
      t.tm.bytes (tmKey tile ea.toNat) bs.length = bs ∧
      (∀ y, y < tmKey tile ea.toNat ∨ tmKey tile ea.toNat + bs.length ≤ y → t.tm.read y = s.tm.read y) ∧
      (∀ y, t.gm.read y = s.gm.read y) ∧
      t = { v with hart := v.hart.xOf t.hart, nets := t.nets, tm := t.tm, tmPois := t.tmPois }
    let room := (c.bytes g i).length ≤ (s.x b).toNat ∧ s.tmOk ea.toNat (c.bytes g i).length = true
    let ca := tmKey tile ea.toNat; let ra := tmKey tile (s.x b).toNat
    let src := BitVec.ofNat 64 (leNat (s.tm.bytes ra 8)); let len := leNat (s.tm.bytes (ra + 8) 4)
    let dest := leNat (s.tm.bytes (ra + 12) 4)
    let sent := x.sent.getD dest 0; let amt := min len ((c.send.getD dest (0, 0)).1 - sent)
    let sends := fun (v : State) (sources : List Source) (t : State) =>
      t.hart.pc = s.nextPc ∧ v.MemSame t ∧ (∀ r, t.x r = if r = d ∧ d ≠ 0 then BitVec.ofNat 64 (len - amt) else s.x r) ∧
      becomes { m with exch := some { x with
        sent := x.sent.set dest (sent + amt)
        flights := x.flights ++ (if amt = 0 then [] else [⟨dest, c.offs.getD dest 0 + sent, src, sources, s.instrPc.toNat⟩]) } } t ∧
      t = { v with hart := v.hart.xOf t.hart, nets := t.nets }
    let open_ := m.exch = some x ∧ x.calendar = some c ∧ x.granted = true ∧ x.closed = false ∧
      leNat (s.tm.bytes ca 4) = g ∧ leNat (s.tm.bytes (ca + 16) 8) = x.seq
    (s.Fit 1 [a] → m.exch = none → ea.toNat % 32 = 0 → s.tmOk ea.toNat (32 + 8 * k) = true →
      s.tmPoisoned ea.toNat (32 + 8 * k) = false →
      field post 0 4 = g → field post 4 4 = k → field post 8 8 % 64 = 0 → field post 16 8 % 64 = 0 → field post 24 8 = 0 →
      (∀ y ∈ demand, y % 8 = 0) →
      let v := walked (field post 8 8) (field post 16 8)
      v.xlateRange (fun s a => s.myXlate .w a) (field post 8 8) (field post 16 8) = .ok pages →
      Answers (exec (.dpost a) s) (fun t => t.hart.pc = s.nextPc ∧ (use v .w).MemSame t ∧
        becomes { m with posts := m.posts + 1, exch := some (Exchange.opened m.posts (BitVec.ofNat 64 (field post 8 8))
          (field post 16 8) (pages.map (·.2.2)) demand) } t ∧
        t = { use v .w with hart := (use v .w).hart.pcOf t.hart, nets := t.nets })) ∧
    (s.Fit 1 [a, b] → m.exch = some x → ea.toNat % 64 = 0 → s.tmOk ea.toNat 64 = true → s.tmPoisoned ea.toNat 4 = false →
      leNat (s.tm.bytes ca 4) = g →
      (x.calendar = some c → room → Answers (exec (.dgrant d a b) s) (grants u)) ∧
      (x.calendar = none → s.epLive q.primary = true →
        exec (.dgrant d a b) s = .next (u.block (.dgrant d a b g)))) ∧
    (s.hart.status = .blocked (.dgrant d a b g) → m.exch = some x → x.calendar = none → q.issued = some is → is.seq = x.seq →
      s.hart.pid = some ⟨n.netid, m.rank⟩ → n.abroad m.rank = false → q.calendar is i = c → room →
      Answers (exec (.calendarArrival n.netid g i) s) (grants s.unblock)) ∧
    (s.Fit 1 [a, b] → open_ → ea.toNat % 64 = 0 → (s.x b).toNat % 8 = 0 → s.tmOk ea.toNat 64 = true →
      s.tmOk (s.x b).toNat 16 = true → s.tmPoisoned ea.toNat 4 = false → s.tmPoisoned (ea.toNat + 16) 8 = false →
      s.tmPoisoned (s.x b).toNat 16 = false → src.toNat % 8 = 0 → len % 8 = 0 → dest < k →
      (amt = 0 → Answers (exec (.dsend d a b) s) (sends u [])) ∧
      (0 < amt → src.toNat < Config.tmBytes → s.tmOk src.toNat amt = true → Answers (exec (.dsend d a b) s)
        (sends u ((List.range amt).map fun j => .tm (tmKey tile (src.toNat + j))))) ∧
      (0 < amt → Config.tmBytes ≤ src.toNat →
        let v := walked src.toNat amt
        v.xlateRange (fun s a => s.myXlate .r a) src.toNat amt = .ok pages →
        Answers (exec (.dsend d a b) s)
          (sends (use v .r) ((List.range amt).map fun j => .gm (physIn pages (src.toNat + j)))))) ∧
    (s.Fit 1 [a] → open_ → ea.toNat % 64 = 0 → s.tmOk ea.toNat 64 = true → s.tmPoisoned ea.toNat 4 = false →
      s.tmPoisoned (ea.toNat + 16) 8 = false →
      Answers (exec (.dclose a) s) (fun t => t.hart.pc = s.nextPc ∧ s.MemSame t ∧
        becomes { m with exch := some { x with closed := true, flits := List.range k } } t ∧
        t = { u with hart := u.hart.pcOf t.hart, nets := t.nets }))

/-- R296 to R298: BARRIER and the reducing BARRIER record the arrival and wait, or trap TIMEOUT where a member has
ended; BARCNT reads the closing count that the last barrier kept; once every member has arrived and every exchange
is settled the completion reaches one member after the other: its exchange is closed and its waiting hart goes on,
with the result of a reduction stored at its DST, or traps EXCHG where the records disagree. R286: the grants of a
receiver lie apart in its receive region, each at a multiple of 64 and within its demand, and no granted byte lies
at or beyond the capacity; R298: the result of a reducing barrier over integers or an exact sum does not depend on
the order of the contributions. That a completion reaches exactly one member at each act is the model's reading (log
entry 134). -/
def Obligations.Barriers : Prop :=
  (∀ (s : State) (d a b : BitVec 5) (n : Network) (q : Group) (i g : Nat) (m : Member),
    s.MemOk → s.hart.dbg = [] →
    let u := s.count 1; let tile := s.hart.id.tile
    let at_ := fun (t : State) (k h j : Nat) => (t.group? k h).bind (fun nq => nq.2.members[j]?)
    let arrives := fun (v : Arrival) (t : State) =>
      at_ t n.netid g i = some { m with arrival := some v } ∧
      (∀ k h j, (k, h, j) ≠ (n.netid, g, i) → at_ t k h j = at_ s k h j) ∧
      t = { u with hart := { u.hart with status := .blocked (.barrier g) }, nets := t.nets }
    let ea := (s.x b).toNat
    let r := redOf (s.tm.bytes (tmKey tile ea) 32)
    let bytes := r.red.count * 2 ^ r.red.width
    let gone := q.members.any fun m => s.rankGone n m.rank
    let waits := fun (h : Hart) => h.status = .blocked (.barrier g)
    (s.hart.priv = .p → s.myGroup g = some (n, q, i) → q.members[i]? = some m → (s.x a).toNat = g →
      (s.Fit 1 [a] → Answers (exec (.barcnt d a) s) (s.WritesX d m.barcnt)) ∧
      ((∀ x, m.exch = some x → x.closed = true) →
        (s.Fit 1 [a] → gone = false → Answers (exec (.barrier a) s) (arrives ⟨none, [], 0⟩)) ∧
        (s.Fit 1 [a] → gone = true → s.hart.current = none → ∃ k m', q.members[k]? = some m' ∧ s.rankGone n m'.rank = true ∧
          Answers (exec (.barrier a) s) (u.TrapsAtP causeTimeout (BitVec.ofNat 64 k) s.hart.pc)) ∧
        (s.Fit 1 [a, b] → gone = false → ea % 32 = 0 → s.tmOk ea 32 = true → s.tmPoisoned ea 32 = false →
          redBad (s.tm.bytes (tmKey tile ea) 32) = none → r.src.toNat % 2 ^ r.red.width = 0 → r.dst.toNat % 2 ^ r.red.width = 0 →
          s.tmOk r.src.toNat bytes = true → s.tmOk r.dst.toNat bytes = true → s.tmPoisoned r.src.toNat bytes = false →
          Answers (exec (.barrierReduce a b) s)
            (arrives ⟨some r.red, s.tm.bytes (tmKey tile r.src.toNat) bytes, r.dst.toNat⟩)))) ∧
    (s.group? n.netid g = some (n, q) → (s.harts.map (·.id)).Nodup → (q.members.map (·.rank)).Nodup →
      (∀ h ∈ s.harts, ∀ k ∈ s.harts, h.pid = k.pid → waits h → waits k → h = k) →
      let group := fun (t : State) => (t.group? n.netid g).map (·.2)
      let nets := fun (t : State) => ∀ k h, (k, h) ≠ (n.netid, g) → (t.group? k h).map (·.2) = (s.group? k h).map (·.2)
      let leaves := fun (p : Group) (k : Nat) (w : Member) (out : BarResult) (t : State) =>
        group t = some { p with members := p.members.set k { w with
          exch := none, arrival := none, leaving := none, barriers := w.barriers + 1
          barcnt := BitVec.ofNat 64 ((w.exch.map (·.closeSum)).getD 0) } } ∧ nets t ∧
        (∀ h ∈ s.harts, (¬waits h ∨ h.pid ≠ some ⟨n.netid, w.rank⟩) → h ∈ t.harts) ∧
        (∀ y, t.gm.read y = s.gm.read y) ∧ ((∀ bs fl, out ≠ .result bs fl) → s.MemSame t) ∧
        (∀ h ∈ s.harts, waits h → h.priv = .p → h.pid = some ⟨n.netid, w.rank⟩ →
          let next := if h.current = none then h.pc + 4 else h.pc
          ∃ k ∈ t.harts, k.id = h.id ∧ k.status = .running ∧ k.x = h.x ∧
            (out = .plain → k.pc = next ∧ k.fflags = h.fflags ∧ k.priv = .p) ∧
            (out = .disagree → k.priv = .s ∧ k.tcause = causeExchg ∧ k.tpc = next ∧
              k.tval = BitVec.ofNat 64 (12 + g % 2 ^ 32 * 2 ^ 32)) ∧
            (∀ bs fl, out = .result bs fl → k.pc = next ∧ k.fflags = h.fflags ||| fl ∧
              ∀ e, w.arrival = some e → e.dst + bs.length ≤ Config.tmBytes →
                let key := tmKey h.id.tile e.dst
                t.tm.bytes key bs.length = bs ∧ ∀ y, y < key ∨ key + bs.length ≤ y → t.tm.read y = s.tm.read y)) ∧
        t = { s with hart := t.hart, others := t.others, nets := t.nets, tm := t.tm, tmPois := t.tmPois }
      ((q.members.all fun m => (m.arrival.isSome || n.abroad m.rank) && m.leaving.isNone &&
          m.exch.all fun x => x.closings == q.members.length && x.pending == 0) = true → gone = false → q.members ≠ [] →
        let p := q.withArrivals n s.ticks
        (∀ (k : Nat) (w : Member), q.members[k]? = some w → w.arrival ≠ none → p.members[k]? = some w) ∧
        Answers (exec (.barrierCompletion n.netid g) s) (fun t => ∃ k w,
          p.members[k]? = some w ∧ leaves { p with members := p.members.map fun w => { w with leaving := some p.outcome }
                                                   issued := none } k w p.outcome t)) ∧
      ((∃ w ∈ q.members, w.leaving ≠ none) → Answers (exec (.barrierCompletion n.netid g) s) (fun t => ∃ k w out,
        q.members[k]? = some w ∧ w.leaving = some out ∧ leaves q k w out t)) ∧
      ((∃ w ∈ q.members, w.arrival = none ∧ n.abroad w.rank = false) → (∀ w ∈ q.members, w.leaving = none) →
        exec (.barrierCompletion n.netid g) s = .next s))) ∧
  ((∀ (cap : Nat) (demand : List Nat),
    let g := grantsFrom cap 0 demand
    g.length = demand.length ∧
    (∀ (i : Nat) (e : Nat × Nat), g[i]? = some e → e.1 % 64 = 0 ∧ e.2 ≤ demand.getD i 0 ∧ (0 < e.2 → e.1 + e.2 ≤ cap) ∧
      (e.2 < demand.getD i 0 → cap ≤ e.1 + e.2)) ∧
    (∀ (i j : Nat) (e f : Nat × Nat), i < j → g[i]? = some e → g[j]? = some f →
      e.1 + e.2 ≤ f.1 ∧ (0 < e.2 → f.1 / 64 ≠ (e.1 + e.2 - 1) / 64))) ∧
  (∀ (r : Reduction) (cs ds : List (List Byte)), r.op ≤ 7 ∨ r.op = 10 → cs.Perm ds → redResult r cs = redResult r ds))

/-- R288, R291, R292, R448, R449: the arbiters' and the fabric's part of an exchange: the calendar computed once all
have posted and no member has still to be told that the last barrier is over, heartbeats and the standby's takeover
with the next generation, send runs, bytes that land where the grant put them and mark their granule, and closing
flits that come behind them. -/
def Obligations.ExchangeEvents : Prop :=
  ∀ (s : State) (net g i j : Nat) (n : Network) (q : Group) (xs xr : Exchange) (c : Calendar) (run : Nat × Nat × Nat),
    s.MemOk → s.group? net g = some (n, q) →
    let at_ := fun (t : State) => (t.group? net g).map (·.2)
    let rest := fun (t : State) => ∀ k h, (k, h) ≠ (net, g) → (t.group? k h).map (·.2) = (s.group? k h).map (·.2)
    let netsOnly := fun (t : State) => rest t ∧ t = { s with nets := t.nets }
    let exch := fun (t : State) (k : Nat) => ((at_ t).bind (fun q => q.members[k]?)).bind (·.exch)
    let others := fun (t : State) => ∀ k, k ≠ i → k ≠ j → exch t k = q.exch? k
    let bytesTo := fun (r : Nat) (l : List Flight) => (l.filter (·.receiver = r)).flatMap fun f =>
      f.sources.mapIdx fun k b => (f.offset + k, b)
    let all := fun (x : Exchange) => x.wire ++ x.flights
    let sent := xs.sent.getD j 0
    Answers (exec (.arbiterHeartbeat net g) s) (fun t => at_ t = some { q with lastBeat := s.time } ∧ netsOnly t) ∧
    (∀ seq, (∀ m ∈ q.members, (∃ x, m.exch = some x ∧ x.seq = seq) ∨ m.exch = none ∧ n.abroad m.rank = true) →
      (∃ m ∈ q.members, n.abroad m.rank = false) → (∀ m ∈ q.members, m.leaving = none) →
      (∀ e, q.issued = some e → e.seq ≠ seq) →
      (∀ k : Nat, (∀ m : Member, q.members[k]? = some m → m.exch ≠ none) → (q.withPosts n s.ticks seq).members[k]? = q.members[k]?) ∧
      Answers (exec (.phaseCalendarCompute net g) s) (fun t => netsOnly t ∧
        ∃ e, at_ t = some { q.withPosts n s.ticks seq with issued := some e } ∧ e.seq = seq ∧ e.gen = 0)) ∧
    ((∃ m ∈ q.members, m.leaving ≠ none ∨ m.exch = none ∧ n.abroad m.rank = false) → exec (.phaseCalendarCompute net g) s = .next s) ∧
    (s.time.toNat < q.lastBeat.toNat + 400000 → exec (.standbyTakeover net g) s = .next s) ∧
    (q.lastBeat.toNat + 400000 ≤ s.time.toNat → Answers (exec (.standbyTakeover net g) s) (fun t => rest t ∧
      (∃ p, at_ t = some p ∧ p.primary = q.standby ∧ p.lastBeat = s.time ∧
        (q.openSeq n = none → p.members = q.members ∧ p.issued = q.issued) ∧
        (∀ seq, q.openSeq n = some seq → p.members = (q.withPosts n s.ticks seq).members ∧ ∃ e, p.issued = some e ∧ e.seq = seq ∧
          ∀ o, q.issued = some o → o.seq = seq → e.gen = o.gen + 1 ∧ e.slotNs = o.slotNs)) ∧
      (∃ r, t.records = s.records ++ [r] ∧ r.kind = 4 ∧ r.endpoint = q.primary ∧ r.vdid = n.vdid ∧ r.netid = net) ∧
      t = { s with nets := t.nets, records := t.records, reports := t.reports })) ∧
    (q.exch? i = some xs → xs.calendar = some c → c.runs[xs.runsDone]? = some run →
      Answers (exec (.phaseStart net g i xs.runsDone) s) (fun t => netsOnly t ∧ (∀ k, k ≠ i → exch t k = q.exch? k) ∧
        ∃ x, exch t i = some x ∧ x.runsDone = xs.runsDone + 1 ∧ xs.wire <+: x.wire ∧
          (∀ f ∈ x.wire.drop xs.wire.length, f.receiver = run.2.2) ∧ (∀ r, bytesTo r (all x) = bytesTo r (all xs)) ∧
          x = { xs with runsDone := x.runsDone, wire := x.wire, flights := x.flights })) ∧
    (q.exch? i = some xs → q.exch? j = some xr → xs.seq = xr.seq → (all xs).Nodup → (∀ f ∈ all xs, f.sources ≠ []) →
      ((∃ f ∈ xs.wire, f.receiver = j) ∨ (∃ f ∈ xs.flights, f.receiver = j) ∧ ∀ c, xs.calendar = some c → c.runs.length ≤ xs.runsDone) →
      Answers (exec (.exchangeBytesLand net g i j) s) (fun t => rest t ∧ others t ∧ ∃ f x y p,
        exch t i = some x ∧ exch t j = some y ∧ f.receiver = j ∧ f.sources ≠ [] ∧
        bytesTo j (all xs) = bytesTo j [f] ++ bytesTo j (all x) ∧ (∀ r, r ≠ j → bytesTo r (all x) = bytesTo r (all xs)) ∧
        f.offset / 64 = (f.offset + f.sources.length - 1) / 64 ∧
        y.pending = xr.pending - BitVec.ofNat 64 f.sources.length ∧
        p = xr.phys f.offset ∧ t.gmBytes p f.sources.length = f.sources.map s.sourceByte ∧
        s.GmOutside ((List.range f.sources.length).map fun k => (⟨p.addr + k, p.slot, 0⟩, 1)) t ∧
        (∀ k, t.tm.read k = s.tm.read k) ∧
        t.gmFull = setAdd s.gmFull (p.addr / 64) ∧
        t = { s with nets := t.nets, gm := t.gm, gmKey := t.gmKey, gmStamp := t.gmStamp, gmPois := t.gmPois, gmFull := t.gmFull
                     vdevs := t.vdevs, logEvents := t.logEvents })) ∧
    (q.exch? i = some xs → q.exch? j = some xr → xs.seq = xr.seq → j ∈ xs.flits → (∀ f ∈ all xs, f.receiver ≠ j) →
      Answers (exec (.closingFlit net g i j) s) (fun t => netsOnly t ∧ others t ∧
        (∃ x, exch t i = some x ∧ x.flits = xs.flits.erase j) ∧
        (∃ y, exch t j = some y ∧ y.closings = xr.closings + 1 ∧ y.closeSum = xr.closeSum + sent ∧
          y.pending = xr.pending + BitVec.ofNat 64 sent))) ∧
    (q.exch? i = some xs → (∃ f ∈ all xs, f.receiver = j) → exec (.closingFlit net g i j) s = .next s)

/-! ### What happens to a hart from outside its instructions -/

/-- R120, R132, R233, R234, R244, R246, R395: a wait for replies or granules ends as its instruction would have: a reply
gives a scalar access its value, or TIMEOUT where its endpoint has failed, or PROT where the other package refuses
it, or POISON, and a vector load the value of its element; a vector atomic is performed for all of its elements at
one location, in increasing index; the instruction goes on at the last element; an LDSYNC or VLDSYNC tried again
completes once its granules are full, and else waits on. That an element's reply is one act, an atomic's elements at
one location together, is the model's reading (log entry 34); what a refused access traps is log entry 153's. -/
def Obligations.RepliesAndGranules : Prop :=
  ∀ (s : State) (word : IWord) (d a : BitVec 5) (p : BitVec 3) (op : AmoOp) (src cmp xa xb : Word) (sg emp : Bool)
    (e y : ElemAccess) (todo done es : List ElemAccess) (n vd g : Nat) (r : Phys) (held : Option Phys),
    s.MemOk → s.hart.dbg = [] → s.hart.priv = .p →
    let v0 := s.unblock; let u := (s.gotReply e.phys).unblock; let w := 8 * n
    let old := leNat (u.gmBytes e.phys n)
    let result := fun (op : AmoOp) (x y c : Nat) => match op with
      | .add => (x + y) % 2 ^ w | .and => x &&& y | .or => x ||| y | .xor => x ^^^ y
      | .min => if sextNat w x < sextNat w y then x else y | .max => if sextNat w x < sextNat w y then y else x
      | .minu => min x y | .maxu => max x y | .swap => y | .cas => if x = c then y else x
    let stores := fun (new : Nat) (v : State) => State.gmStore v e.phys (leBytes n new)
    let new := result op old (src.toNat % 2 ^ w) (cmp.toNat % 2 ^ w)
    let live := s.epLive (e.phys.addr / Config.localBytes)
    let step := fun (new : Nat → Nat → Option Nat) (v : State) (x : ElemAccess) =>
      let old := leNat (v.gmBytes x.phys n)
      let m := v.gotReply x.phys
      let m := match new old (v.hart.elem w vd x.elem % 2 ^ w) with
        | some y => m.gmStore x.phys (leBytes n y)
        | none => m
      { m with hart := m.hart.setElem w vd x.elem old }
    let steps := fun (l : List ElemAccess) (use : ReplyUse) (new : Nat → Nat → Option Nat) (t : State) =>
      let v := l.foldl (step new) s
      let rest := todo.filter fun x => l.all fun y => y.elem != x.elem
      t.hart.v = v.hart.v ∧ v.MemSame t ∧ t.hart.vPois = [] ∧
      (rest = [] → t.hart.status = .running ∧ t.hart.pc = s.nextPc) ∧
      (rest ≠ [] → t.hart.status = .blocked (.reply word use n rest (l.reverse ++ done) xa xb ⟨[], []⟩) ∧
        t.hart.pc = s.hart.pc) ∧
      t = { v with hart := { s.hart.pcOf t.hart with v := t.hart.v, status := t.hart.status } }
    let at_ := todo.filter fun x => x.phys.addr == e.phys.addr
    let ea := src; let k := tmKey s.hart.id.tile ea.toNat
    let ext := fun (v : Nat) => BitVec.ofInt 64 (sextNat w v)
    (∀ x ∈ [1, 2, 4, 8], x = n →
      (s.hart.status = .blocked (.reply word (.loadX d sg) n (e :: todo) done xa xb ⟨[], []⟩) →
        (live = true → s.refused e.phys = false → s.gmPoisoned e.phys n = false → Answers (exec (.globalLoadReply 0) s)
          (u.GoesOnX d (if sg then ext old else BitVec.ofNat 64 old))) ∧
        (s.hart.current = none →
          (live = false → Answers (exec (.globalLoadReply 0) s) (u.TrapsAtP causeTimeout e.va s.hart.pc)) ∧
          (live = true → s.refused e.phys = true →
            Answers (exec (.globalLoadReply 0) s) (u.TrapsAtP causeProt e.va s.hart.pc)) ∧
          (live = true → s.refused e.phys = false → s.gmPoisoned e.phys n = true →
            Answers (exec (.globalLoadReply 0) s) (u.TrapsAtP causePoison e.va s.hart.pc)))) ∧
      (s.hart.status = .blocked (.reply word (.amoX op d src cmp) n (e :: todo) done xa xb ⟨[], []⟩) → live = true →
        s.refused e.phys = false → s.gmPoisoned e.phys n = false → Answers (exec (.globalLoadReply 0) s) (fun t =>
          let m := if op = .cas ∧ old ≠ cmp.toNat % 2 ^ w then u else stores new u
          t.hart.pc = s.nextPc ∧ s.GmOutside [(e.phys, n)] t ∧
          (∀ q, t.x q = if q = d ∧ d ≠ 0 then ext old else s.x q) ∧ m.MemSame t ∧
          t = { m with hart := m.hart.xOf t.hart })) ∧
      (s.Quiet → y ∈ at_ → (todo.map (·.elem)).Nodup → (∀ x ∈ at_, s.refused x.phys = false) → live = true →
        (s.hart.status = .blocked (.reply word (.loadV vd g) n todo done xa xb ⟨[], []⟩) → fMaj word = 0x2B →
          inWindow todo (at_.take 1) = true →
          Answers (exec (.globalLoadReply y.elem) s) (steps (at_.take 1) (.loadV vd g) fun _ _ => none)) ∧
        (s.hart.status = .blocked (.reply word (.amoV op vd g) n todo done xa xb ⟨[], []⟩) → fMaj word = 0x2E → op ≠ .cas →
          inWindow todo at_ = true →
          Answers (exec (.globalLoadReply y.elem) s) (steps at_ (.amoV op vd g) fun x z => some (result op x z 0))))) ∧
    (∀ x ∈ [4, 8], x = n → s.hart.status = .blocked (.ldsync emp d ea n held) → ea.toNat % n = 0 →
      (ea.toNat < Config.tmBytes → s.tmOk ea.toNat n = true →
        (setHas s.tmFull (k / 64) = true → s.tmPoisoned ea.toNat n = false → Answers (exec .granuleWaitComplete s)
          (State.GoesOnX (if emp then v0.setTmFull (k / 64) false else v0) d (ext (leNat (s.tm.bytes k n))))) ∧
        (setHas s.tmFull (k / 64) = false → held = none → exec .granuleWaitComplete s = .next s)) ∧
      (Config.tmBytes ≤ ea.toNat → held = some r →
        (setHas s.gmFull (r.addr / 64) = true → s.gmPoisoned r n = false → Answers (exec .granuleWaitComplete s)
          (State.GoesOnX ((if emp then v0.setGmFull (r.addr / 64) false else v0).gbytes n) d (ext (leNat (s.gmBytes r n))))) ∧
        (setHas s.gmFull (r.addr / 64) = false → exec .granuleWaitComplete s = .next s))) ∧
    (s.Quiet → s.hart.status = .blocked (.vldsync emp d a p es) → Config.tmBytes ≤ (s.opA a).toNat → es ≠ [] →
      let m := s.sew / 8; let gg := (es.map fun x => x.phys.addr / 64).eraseDups
      let v := if emp then gg.foldl (fun (t : State) g => t.setGmFull g false) v0 else v0
      (gg.all (setHas s.gmFull) = true → Answers (exec .granuleWaitComplete s) (fun t =>
        t.hart.pc = s.nextPc ∧ t.hart.status = .running ∧ s.MemSame t ∧ t.hart.fflags = s.hart.fflags ∧
        t.hart.v = (es.foldl (fun (g : Hart) x => g.setElem s.sew d.toNat x.elem (leNat (s.gmBytes x.phys m))) s.hart).v ∧
        t = { v with hart := v.hart.vOf t.hart })) ∧
      (gg.all (setHas s.gmFull) = false → exec .granuleWaitComplete s = .next s)) ∧
    (s.Quiet → s.hart.status = .blocked (.vldsync emp d a p []) → (s.opA a).toNat < Config.tmBytes →
      let m := s.sew / 8; let l := s.actives p
      let va := fun i => s.opA a + BitVec.ofNat 64 (i * m); let key := fun i => tmKey s.hart.id.tile (va i).toNat
      let gt := (l.map fun i => key i / 64).eraseDups
      (∀ i ∈ l, (va i).toNat % m = 0 ∧ s.tmOk (va i).toNat m = true) →
      (gt.all (setHas s.tmFull) = true → Answers (exec .granuleWaitComplete s) (fun t =>
        t.hart.pc = s.nextPc ∧ t.hart.status = .running ∧ s.MemSame t ∧ t.hart.fflags = s.hart.fflags ∧
        t.hart.v = (l.foldl (fun (g : Hart) i => g.setElem s.sew d.toNat i (leNat (s.tm.bytes (key i) m))) s.hart).v ∧
        t.tmFull = (if emp then gt.foldl (fun f g => setPut f g false) s.tmFull else s.tmFull) ∧
        t = { v0 with hart := v0.hart.vOf t.hart, tmFull := t.tmFull })) ∧
      (gt.all (setHas s.tmFull) = false → exec .granuleWaitComplete s = .next s))

/-- R196, R356, R357, R476: STEEP raised on a hart; the hang watchdog by the span that has lasted too long, which never
is a wait on another party; and the stall sample, a record that says what the hart waits for: of a running hart,
what it waits for within the core is free. The model's own: cause 10 of SUNB and 0 of TLBINV in a sample (log entry
136), MTPC of a watchdog on a save or a restore (log entry 135), the stop at a free element (log entry 97). -/
def Obligations.WatchdogAndSample : Prop :=
  ∀ (s : State) (d : DbgEntry) (l : List (Nat × TlbEntry × Phys)) (dev : VDev) (q : Proc) (w : Wait), s.MemOk →
    let expires := fun (x : Span) => exec (.hangWatchdogExpiry x) s
    let off := s.traceNext d % d.len.toNat; let mine := s.hart.id.tile
    let cause := match s.hart.status with
      | .blocked (.crd _ _ _) | .blocked (.crdm _ _ _ _) | .blocked (.vcrd _ _ _) => 3
      | .blocked (.cwr _ _) | .blocked (.cwrm _ _ _) | .blocked (.vcwr _ _) | .blocked (.cclose _) => 4
      | .blocked (.ldsync _ _ _ _ _) | .blocked (.vldsync _ _ _ _ _) => 5
      | .blocked (.reply _ _ _ _ _ _ _ _) | .blocked (.vstm _ _ _ _ _ _) | .blocked (.pops _ _ _ _ _) => 6
      | .blocked (.txEntry _) => 7
      | .blocked (.barrier _) | .blocked (.dgrant _ _ _ _) | .blocked .joinl => 8
      | .blocked (.waitt _) => 9
      | .blocked (.sunb _) => 10
      | _ => 0
    let tells := fun (c : Nat) => if s.hart.status = .running then
        c = 0 ∨ ∃ k, s.nextWord = some k ∧ (c = 10 ∨ (c = 1 ∧ needsLeave k s.sew = true ∧ s.hart.leave = false) ∨
          (c = 2 ∧ elemWord k = true))
      else c = cause
    let cut := s.hart.replay.isEmpty && s.fetchOk && elemWord s.fetchWord
    (s.hart.status = .running → s.hart.priv = .p → s.hart.current = none →
      Answers (exec .steepFault s) (s.TrapsAtP causeSteep 0 s.hart.pc) ∧
      (cut = false → Answers (expires .instrAtP) (s.TrapsAtP causeWatchdog 0 s.hart.pc)) ∧
      (cut = true → ∃ k, expires .instrAtP = .next { s with hart := { s.hart with expireAt := some k } })) ∧
    (s.hart.status ≠ .running ∨ s.hart.priv ≠ .p → exec .steepFault s = .next s) ∧
    (s.hart.status = .blocked w → (w.yields = true ∨ (∃ a b c e f, w = .ldsync a b c e f) ∨ (∃ a b c e f, w = .vldsync a b c e f) ∨
        w = .joinl ∨ (∃ a b c e, w = .dgrant a b c e) ∨ (∃ a, w = .barrier a)) → expires .instrAtP = .next s) ∧
    (s.hart.status = .running → s.hart.priv = .s → expires .codeAtS = .next (s.trap causeWatchdog 0)) ∧
    (s.hart.status = .blocked w → s.hart.priv = .s → expires .codeAtS = .next (s.unblock.trap causeWatchdog 0)) ∧
    (s.hart.priv ≠ .s → expires .codeAtS = .next s) ∧
    (s.saving = some q → s.isBase s.hart = true → (∃ x, s.proc? q.pid = some x ∧ ∀ r, x.status ≠ .ended r) → Answers (expires .save) (fun t =>
      (t.tile s.hart.id.tile).quarantined = true ∧ (t.proc? q.pid).map (·.status) = some (.ended .watchdogSave) ∧
      t.hart.id = s.hart.id ∧ t.hart.priv = .m ∧ t.hart.mtcause = causeWatchdog ∧ t.hart.mtpc = s.hart.pc ∧
      (s.asyncs = [] → t.gm.bytes (q.ctxphys + 0x38) 8 = List.replicate 8 0))) ∧
    (s.saving = none → expires .save = .next s) ∧
    (s.hart.status = .idle → (s.nextReady s.hart.id.tile).bind s.proc? = some q → q.status = .ready true →
      Answers (expires .restore) (fun t => t.hart.priv = .m ∧ t.hart.mtcause = causeWatchdog ∧ t.hart.mtpc = s.hart.pc ∧
        t = ({ s with hart := t.hart }.dequeue q.tile q.pid).enqueue q.tile q.pid q.level false)) ∧
    (s.traceEntry = none → exec .stallSample s = .next s) ∧
    (s.traceEntry = some d → d.sample = true → s.hart.status ≠ .idle → s.myVdev? = some dev → 0 < d.len.toNat →
      off + 32 ≤ d.len.toNat → s.xlateRange (fun s a => s.xlateEngine dev .w a) (d.addr.toNat + off) 32 = .ok l →
      Answers (exec .stallSample s) (fun t => ∃ bs, bs.length = 32 ∧ field bs 0 2 = 32 ∧ field bs 2 1 = 6 ∧ tells (field bs 3 1) ∧
        field bs 4 4 = s.hart.traceSeq.toNat ∧ field bs 8 4 = s.instrPc.toNat % 2 ^ 21 ∧
        t = { s.setTile mine { s.tile mine with traceAt := some (d, (off + 32) % d.len.toNat) } with
          asyncs := s.asyncs ++ [⟨.trace, some s.hart.id, none, 0,
            chunksBySlot false (pendLits l (d.addr.toNat + off) bs), none, 0, none, [], []⟩]
          hart := { s.hart with traceSeq := s.hart.traceSeq + 1 } }))

/-- R48, R165, R192, R353, R354, R362, R378: a free hart takes the process at the head of the highest level that is not
empty, as process start leaves it or restored from its sealed area; a process that waits where it may be switched
out leaves its hart when that is wanted. The model's own reading (assumption log, 42): the hart's fetch then sees
tile memory as it is. A save and a restore as one step is the model's own (log entries 26 and 27). -/
def Obligations.HartDispatch : Prop :=
  ∀ (s : State) (q : Proc) (e : SafeEntry) (w : Wait) (n : Nat), s.MemOk →
    let t0 := s.hart.id.tile
    let a := s.readArea q
    let taken := fun (t : State) => (t.proc? q.pid).map (·.status) = some (.onHart s.hart.id) ∧
      (∀ l < 16, q.pid ∉ (t.tile q.tile).queue.toList.getD l []) ∧ (∀ p, p ≠ q.pid → t.proc? p = s.proc? p) ∧ s.MemSame t
    (s.hart.status = .idle → (s.tile t0).leaving = false →
      (s.nextReady t0 = none → exec .hartDispatch s = .next s) ∧
      ((s.nextReady t0).bind s.proc? = some q →
        (q.status = .ready false → Answers (exec .hartDispatch s) (fun t => taken t ∧
          t.hart.id = s.hart.id ∧ t.hart.status = .running ∧ t.hart.priv = .p ∧ t.hart.pid = some q.pid ∧
          t.hart.pc = BitVec.ofNat 64 (q.kbase + q.entry) ∧ t.hart.lanes = s.hart.lanes ∧
          (∀ r, t.x r = if r = 2 then BitVec.ofNat 64 (q.kbase + q.klen)
            else if 20 ≤ r.toNat ∧ r.toNat ≤ 27 then q.args.getD (r.toNat - 20) 0 else 0) ∧
          t.hart.vl = 0 ∧ t.hart.fflags = 0 ∧ t.hart.srseed = q.seed ∧ t.hart.srcount = 0 ∧ t.hart.steeplim = q.steeplim ∧
          t.hart.steepcnt = 0 ∧ t.hart.code = s.tm ∧ t.hart.quantum = q.quantum ∧ t.hart.prioLevel = q.level ∧ t.hart.ctxptr = q.ctxptr ∧
          t = { s with hart := t.hart, procs := t.procs, tiles := t.tiles })) ∧
        (q.status = .ready true →
          (a.ok q = false → Answers (exec .hartDispatch s) (fun t =>
            (t.proc? q.pid).map (·.status) = some (.ended .unsealed))) ∧
          (a.ok q = true → q.safeTab[field a.pay 0 2]? = some e →
            field a.hdr 6 1 = s.hart.lanes ∨ (field a.hdr 7 1).testBit 0 = true →
            (s.time.toNat ≤ field a.hdr 0x30 8 → exec .hartDispatch s = .next s) ∧
            (field a.hdr 0x30 8 < s.time.toNat → Answers (exec .hartDispatch s) (fun t => taken t ∧
              t.hart = { (s.hart.begin q (s.ceilOf q) (s.debugTable t0)).load s q a e with
                pc := BitVec.ofNat 64 (q.kbase + e.stub), code := s.tm } ∧
              t = { s with hart := t.hart, procs := t.procs, tiles := t.tiles, nets := (s.arrived q.pid).nets
                           logEvents := t.logEvents })))))) ∧
    (s.hart.status = .blocked w → s.hart.chanWait = some n → s.myProc? = some q → q.safeTab[n]? = some e →
      w.yields = false ∨ s.wanted q e = false → exec .hartDispatch s = .next s) ∧
    (s.hart.status = .blocked w → s.hart.chanWait = some n → s.myProc? = some q → q.safeTab[n]? = some e →
      w.yields = true → s.wanted q e = true → (s.tile q.tile).leaving = false → (∀ h ∈ s.others, h.pid ≠ s.hart.pid) →
      s.isBase s.hart = true → Answers (exec .hartDispatch s) (fun t =>
        ((t.proc? q.pid).map (·.status) = some (.switchedOut w) ∨ (t.proc? q.pid).map (·.status) = some (.ready true)) ∧
        t.hart.id = s.hart.id ∧ t.hart.status = .idle ∧ t.hart.pid = none ∧ t.others = s.others ∧
        (let u := s.saveContext s.hart q n e
         u.MemSame t ∧ t = { u with hart := t.hart, procs := t.procs, tiles := t.tiles })))

/-- R75 to R77, R311, R312, R352 to R354: what a save at a safe point writes is a sealed area, and loading it onto a
hart of the same tile shape brings back every live register: the scalar registers, the elements of the vector
registers and the bits of the predicate registers below VL, the accumulators, the banks, the streams, and the
registers of the fixed block. -/
def Obligations.ContextRoundTrip : Prop :=
  ∀ (s : State) (q : Proc) (e : SafeEntry) (n : Nat) (g : Hart), s.MemOk → s.gmPois = [] →
    let h := s.hart; let pay := layPieces (h.pieces n e)
    h.vPois = [] → h.xPois = 0 → (∀ k : Fin 4, h.e[k].pois = false) → (∀ k : Fin 2, h.m[k].pois = []) →
    s.proc? q.pid = some q → n < 65536 → q.pid.netid < 2 ^ 32 → q.pid.rank < 2 ^ 32 → h.lanes < 256 → g.lanes = h.lanes →
    h.vl.toNat ≤ vlmaxOf h.lanes h.vtype → vtLegal (h.vtype.setWidth 64) = true → pay.bytes.length < 2 ^ 32 →
    pay.bytes.length ≤ Config.ctxAreaBytes → (∀ k : Fin 4, ∀ b, h.streams[k] = some b → b.pos < 2 ^ 64) →
    let t := s.saveContext h q n e
    ∃ q', t.proc? q.pid = some q' ∧ q'.gen ≠ 0 ∧ (q.gen ≠ BitVec.allOnes 32 → q'.gen = q.gen + 1) ∧
      (let a := t.readArea q'; let r := g.load t q' a e
       a.ok q' = true ∧ field a.pay 0 2 = n ∧ field a.hdr 0x30 8 = s.time.toNat ∧
       r.vtype = h.vtype ∧ r.vl = h.vl ∧ r.srseed = h.srseed ∧ r.srcount = h.srcount ∧ r.fflags = h.fflags ∧
       r.msprec = h.msprec ∧ r.msanchor = h.msanchor ∧ r.steeplim = h.steeplim ∧ r.quantum = h.quantum ∧
       r.prioLevel = h.prioLevel ∧
       (∀ i : Fin 32, i ≠ 0 → e.xlive.getLsbD i = true → r.x[i] = h.x[i]) ∧
       (∀ i < 32, e.vlive.getLsbD i = true → ∀ k < h.liveCount i, r.elem (vtSew h.vtype) i k = h.elem (vtSew h.vtype) i k) ∧
       (∀ i : Fin 8, e.plive.getLsbD i = true → ∀ k < h.vl.toNat, r.p[i].getLsbD k = h.p[i].getLsbD k) ∧
       (∀ i : Fin 4, e.emlive.getLsbD i = true → r.e[i] = h.e[i]) ∧
       (∀ i : Fin 2, e.emlive.getLsbD (4 + i) = true → r.msm = h.msm ∧ r.msn = h.msn ∧ r.msk = h.msk ∧
         ∀ k < 64 * h.lanes, r.m[i].get k = h.m[i].get k) ∧
       (∀ i : Fin 4, r.streams[i] = if e.slive.getLsbD i then h.streams[i] else none))

/-! ### The part's own silicon, its log, power and clock -/

/-- R413 to R416, R419, R427 to R432: lane failures, scrubs, wear, margin alarms, self-tests and spares: what becomes of
the tile, which never moves back towards HEALTHY, and what its processes are charged for the cycles that they have
held. That a third failure of a lane starts the 100 ms instead of stopping the tile at once is the model's reading
(log entry 30); the stress at which cycles are charged, and the rounding, are log entry 90's. -/
def Obligations.TileHealth : Prop :=
  ∀ (s : State) (k n : Nat) (found : List EccFinding) (a mv dc : Nat) (pass : Bool), s.MemOk → s.power = .ready →
    let T := s.tile k
    let held := fun (p : Pid) => ∃ h ∈ s.harts, h.id.tile = k ∧ h.pid = some p
    let stopped := fun (t : State) => (t.tile k).retiring = true ∧
      ∀ p q, held p → s.proc? p = some q → ∃ r, (t.proc? p).map (·.status) = some (.ended r) ∧
        ((∀ x, q.status ≠ .ended x) → r = .tileStopped)
    let never := fun (t : State) => T.health.code ≤ (t.tile k).health.code
    let hits := fun (corrects : EccFinding → Bool) (unit : Nat) => ∃ f ∈ found, corrects f = false ∧ f.unit = unit
    let empty := ∀ q ∈ s.procs, q.live = true → q.tile ≠ k
    let unit := 2 ^ 20 * Config.wearBudget
    Answers (exec (.laneFailure k (.lane n)) s) (fun t => never t ∧ (t.tile k).failures = T.failures + 1 ∧
      (T.failures = 0 → (t.tile k).laneA = some n ∧ (t.tile k).rebuilding = true ∧ s.MemSame t ∧ t.hart = s.hart ∧ t.others = s.others ∧
        (T.health = .healthy → (t.tile k).health = .derated ∧
          (t.logEvents.drop s.logEvents.length).map (·.cls) = [8, 12])) ∧
      (T.failures = 1 → (t.tile k).laneB = some n ∧ (t.tile k).rebuilding = false ∧ 2 ≤ (t.tile k).health.code ∧
        (T.rebuilding = true → (∀ h ∈ s.harts, ∀ q, h.pid.bind s.proc? = some q → ∃ x, q.status = .onHart x) →
          ∀ h ∈ s.harts, h.id.tile = k → ∀ r < 256, Config.rowUnbuilt s.ticks r = true →
          ∀ l, l = n ∨ T.laneA = some l → h.lane0 ≤ l → l < h.lane0 + h.lanes → l < 32 →
          ∃ g ∈ t.harts, g.id = h.id ∧ (g.pid = h.pid → ∀ b < 8, setHas g.vPois (8 * (r * 32 + l) + b) = true))) ∧
      (2 ≤ T.failures → (t.tile k).retiring = true ∧ (t.tile k).alarmAt = some (T.alarmAt.getD s.time))) ∧
    Answers (exec (.laneFailure k (.frontEnd n)) s) (fun t => never t ∧ stopped t) ∧
    exec (.laneRebuildComplete k) s = .next (s.setTile k { T with rebuilding := false }) ∧
    Answers (exec (.tmScrubPass found) s) (fun t => s.MemSame t ∧
      (∀ w, setHas t.tmPois w = true ↔ setHas s.tmPois w = true ∨ hits tmCorrects w) ∧
      t = { s with tmPois := t.tmPois, logEvents := t.logEvents }) ∧
    Answers (exec (.dramScrubPass found) s) (fun t => s.MemSame t ∧
      (∀ g, setHas t.gmPois g = true ↔ setHas s.gmPois g = true ∨ hits gmCorrects g) ∧
      t = { s with gmPois := t.gmPois, logEvents := t.logEvents }) ∧
    Answers (exec (.wearSample k a mv dc) s) (fun t => never t ∧
      (let w := T.wear + wearOfSample s.ticks a mv dc
       (t.tile k).wear = w ∧ (8 * unit ≤ 10 * w → 1 ≤ (t.tile k).health.code) ∧
       (95 * unit ≤ 100 * w → 2 ≤ (t.tile k).health.code) ∧ (unit ≤ w → (t.tile k).retiring = true)) ∧
      (let f := 50000000 * pointClock (s.island (Config.islandOf k)).point
       (s.procs.map (·.pid)).Nodup → ∀ (i : Nat) (q : Proc), s.procs[i]? = some q → (t.procs[i]?).map (·.charge) =
         some (if q.tile = k ∧ q.held ≠ 0 then
           q.charge + chargeOf s.ticks (q.pid.rank + 1) q.held f (2 ^ T.lpart.toNat) mv dc else q.charge))) ∧
    (T.alarmAt = none ∨ T.alarmAt.any (fun w => decide (s.time.toNat < w.toNat + 100000000)) = true →
      exec (.marginAlarmStop k) s = .next s) ∧
    (T.alarmAt.any (fun w => decide (w.toNat + 100000000 ≤ s.time.toNat)) = true →
      Answers (exec (.marginAlarmStop k) s) (fun t => never t ∧ stopped t)) ∧
    (T.quarantined = false ∨ ¬empty → exec (.quarantineSelfTest k pass) s = .next s) ∧
    (T.quarantined = true → empty →
      exec (.quarantineSelfTest k true) s = .next (s.setTile k { T with quarantined := false }) ∧
      Answers (exec (.quarantineSelfTest k false) s) (fun t => (t.tile k).health = .retired)) ∧
    (T.health ≠ .retired → T.retiring = false → exec (.spareSubstitution k) s = .next s) ∧
    (T.health = .retired → s.tmBusy k = true → exec (.spareSubstitution k) s = .next s) ∧
    (T.health = .retired → s.tmBusy k = false → T.outOfService = false →
      (s.spareLeft (Config.islandOf k) = true → Answers (exec (.spareSubstitution k) s) (fun t =>
        let U := t.tile k
        U.vdid = T.vdid ∧ U.hwdog = T.hwdog ∧ U.tvec = T.tvec ∧ U.handlerBase = T.handlerBase ∧ U.handlerLen = T.handlerLen ∧
        let line := lifeOf s.lifetime (Config.physTile k U.subst)
        U.subst = s.sparesUsed (Config.islandOf k) + 1 ∧ U.health = line.health ∧ U.wear = line.wear ∧ U.laneA = line.laneA ∧
        U.laneB = line.laneB ∧ U.quarantined = line.quarantined ∧ U.lpart = T.lpart ∧ U.outOfService = false ∧
        (T.handlerBase + T.handlerLen ≤ Config.tmBytes → ∀ x < Config.tmBytes, t.tm.read (tmKey k x) =
          if T.handlerBase ≤ x ∧ x < T.handlerBase + T.handlerLen then s.tm.read (tmKey k x) else 0) ∧
        (∀ j, j ≠ k → t.tile j = s.tile j) ∧ (∀ x, t.gm.read x = s.gm.read x) ∧ t.procs = s.procs ∧
        t.lifetime = s.lifetime)) ∧
      (s.spareLeft (Config.islandOf k) = false → Answers (exec (.spareSubstitution k) s) (fun t =>
        (t.tile k).outOfService = true ∧ s.MemSame t ∧ (∀ j, j ≠ k → t.tile j = s.tile j) ∧
        t = { s with tiles := t.tiles, reports := t.reports })))

/-- R421 to R426: the log as a chain: SEQ without gaps, each entry's PREV the digest of the one before, its HASH the
digest of its body, and the head the digest of the newest; writing the next event keeps the chain, forgets no entry
and records an event that no older one of its source waits before, but once the log is nearly full only the classes
that R426 names. -/
def Obligations.LogChain : Prop :=
  let chain := fun (s : State) => (∀ e ∈ s.log, e.hash = sha256 e.body) ∧
    (∀ i a b, s.log[i]? = some a → s.log[i + 1]? = some b → b.prev = a.hash ∧ b.seq = a.seq + 1) ∧
    (∀ e, s.log.getLast? = some e → s.logHead = e.hash ∧ s.logNext = e.seq + 1)
  ∀ s : State, chain s →
    (Answers (exec .logEntryWrite s) (fun t => chain t ∧ s.log <+: t.log ∧ s.MemSame t ∧
      t = { s with log := t.log, seals := t.seals, logEvents := t.logEvents, logNext := t.logNext, logHead := t.logHead
                   logUsed := t.logUsed, logNearFull := t.logNearFull, dieNext := t.dieNext })) ∧
    (s.logEvents = [] → exec .logEntryWrite s = .next s) ∧
    (s.logEvents ≠ [] → Answers (exec .logEntryWrite s) (fun t => ∃ i ev, s.logEvents[i]? = some ev ∧
      (∀ (j : Nat) (o : LogEvent), j < i → s.logEvents[j]? = some o → o.unit ≠ ev.unit) ∧
      t.logEvents = s.logEvents.eraseIdx i ∧
      (s.logNearFull = true → ev.cls ∉ [8, 12, 13, 14, 15] → t = { s with logEvents := t.logEvents }) ∧
      (s.logNearFull = false ∨ ev.cls ∈ [8, 12, 13, 14, 15] →
        ∃ e, e.event = ev ∧ e.seq = s.logNext ∧ e.prev = s.logHead ∧ e.bytes.length = 96 + e.prev.length ∧
          (t.log = s.log ++ [e] ∧ ((s.logNext + 1) % 256 = 0 ↔ t.seals ≠ s.seals) ∨
            ∃ x, t.log = s.log ++ [e, x] ∧ x.event.cls = 18 ∧ t.logNearFull = true ∧ s.logNearFull = false))))

/-- R427 to R438, R460, R481: the heat and the power of islands, the lifetime record, power lost and orderly shutdown,
boot, and the clock, which never runs back. The kind 0 of the report of ready at the end of boot is the model's
choice (log entry 52). -/
def Obligations.PowerAndClock : Prop :=
  ∀ (s : State) (i dc mw : Nat) (found : BootFindings) (m : Word), s.MemOk →
    let x := s.island i
    let derated := s.tiles.any (fun t => Config.islandOf t.1 == i && decide (t.2.health = .derated))
    let point := fun (low heat : Nat) => min (x.cap - (if derated then 1 else 0) - low) heat
    let islands := fun (t : State) => (∀ j, j ≠ i → t.island j = s.island j) ∧
      t = { s with islands := t.islands, logEvents := t.logEvents, powerLowered := t.powerLowered, powerCool := t.powerCool }
    let dark := fun (t : State) => t.power = .off ∧ t.tm = [] ∧ t.thermtripN = false ∧ t.procs = [] ∧ t.nets = [] ∧ t.vdevs = [] ∧
      t.keySlots = [] ∧ (∀ a, a / Config.localBytes / 4 = s.pkg → t.gm.read a = 0) ∧
      (∀ a, a / Config.localBytes / 4 ≠ s.pkg → t.gm.read a = s.gm.read a) ∧ t.okek = s.okek ∧ t.firmware = s.firmware ∧
      s.log <+: t.log
    let stage1 := if found.copyAOk then found.copyA else found.copyB
    let on := s.power = .ready
    (on → dc < 1150 → Answers (exec (.temperatureSample i dc) s) (fun t => islands t ∧
      (t.island i).point = point x.lowered (t.island i).heat ∧
      (10 * x.tgov ≤ dc → (t.island i).heat = x.point - 1 ∧
        (x.episode = false → (t.logEvents.drop s.logEvents.length).head?.map (·.cls) = some 14)) ∧
      (dc < 10 * x.tgov →
        (10 * (x.tgov - 5) ≤ dc ∨ x.coolSince.all (fun c => decide (s.time.toNat < c.toNat + 10000000)) = true →
          (t.island i).heat = x.heat) ∧
        (∀ c, dc < 10 * (x.tgov - 5) → x.coolSince = some c → c.toNat + 10000000 ≤ s.time.toNat →
          (t.island i).heat = min 3 (x.heat + 1))) ∧
      (1050 ≤ dc → (t.island i).pulsing = true) ∧ (dc < 1000 → (t.island i).pulsing = false))) ∧
    (on → 1150 ≤ dc → Answers (exec (.temperatureSample i dc) s) (fun t => dark t ∧ t.orderly = false ∧
      ∃ e, s.log ++ [e] <+: t.log ∧ e.event.cls = 14)) ∧
    (on → 3000000 < mw → Answers (exec (.powerSample mw i) s) (fun t => islands t ∧ t.powerCool = none ∧
      (0 < x.point → (t.island i).lowered = x.lowered + 1 ∧ (t.island i).point = point (x.lowered + 1) x.heat ∧
        t.powerLowered = s.powerLowered ++ [i]) ∧ (x.point = 0 → t.islands = s.islands))) ∧
    (on → 2850000 ≤ mw → mw ≤ 3000000 → exec (.powerSample mw i) s = .next { s with powerCool := none }) ∧
    (on → mw < 2850000 → s.powerCool = none → exec (.powerSample mw i) s = .next { s with powerCool := some s.time }) ∧
    (∀ c rest, on → mw < 2850000 → s.powerCool = some c → s.powerLowered = i :: rest →
      (s.time.toNat < c.toNat + 10000000 → exec (.powerSample mw i) s = .next s) ∧
      (c.toNat + 10000000 ≤ s.time.toNat → Answers (exec (.powerSample mw i) s) (fun t => islands t ∧
        (t.island i).lowered = x.lowered - 1 ∧ t.powerLowered = rest ∧ t.powerCool = some s.time))) ∧
    (on → Answers (exec .lifetimeRecordWrite s) (fun t => t = { s with lifetime := t.lifetime, retired := [] } ∧
      ∀ k tl, (k, tl) ∈ s.tiles → (∀ l tl', (l, tl') ∈ s.tiles → (l, tl') ≠ (k, tl) →
        Config.physTile l tl'.subst ≠ Config.physTile k tl.subst) →
      ∃ y ∈ t.lifetime, y.tile = Config.physTile k tl.subst ∧ y.wear = tl.wear ∧ y.health = tl.health ∧ y.quarantined = tl.quarantined)) ∧
    (¬on → exec (.temperatureSample i dc) s = .next s ∧ exec (.powerSample mw i) s = .next s ∧
      exec .lifetimeRecordWrite s = .next s ∧ (∀ k a v, exec (.wearSample k a v dc) s = .next s) ∧
      exec .orderlyShutdown s = .next s ∧ (s.power = .off → exec .powerLoss s = .next s)) ∧
    (s.power ≠ .off → Answers (exec .powerLoss s) (fun t =>
      dark t ∧ t.orderly = false ∧ t.log = s.log ∧ t.lifetime = s.lifetime)) ∧
    (on → Answers (exec .orderlyShutdown s) (fun t => dark t ∧ t.orderly = true)) ∧
    (s.power ≠ .off → exec (.pwrgoodRise found) s = .next s) ∧
    (s.power = .off →
      (found.copyAOk = false → found.copyBOk = false → Answers (exec (.pwrgoodRise found) s) (·.power = .recovery)) ∧
      (found.copyAOk = true ∨ found.copyBOk = true → found.monitorOk = false →
        Answers (exec (.pwrgoodRise found) s) (fun t => t.power = .recovery ∧ t.m0 = sha256 stage1)) ∧
      (found.copyAOk = true ∨ found.copyBOk = true → found.monitorOk = true → Answers (exec (.pwrgoodRise found) s) (fun t =>
        t.power = .ready ∧ t.thermtripN = true ∧ t.m0 = sha256 stage1 ∧ t.m1 = sha256 found.monitor ∧ t.pkg = s.nextPkg ∧ t.orderly = false ∧
        t.tm = [] ∧ t.procs = [] ∧ t.vdevs = [] ∧ t.harts.length = 2048 ∧ (∀ h ∈ t.harts, h.status = .idle ∧ h.pid = none) ∧
        (∀ j < 4, t.epLive (4 * s.nextPkg + j) = true) ∧ t.reports.map (·.management) = [true] ∧
        (∃ e, s.log ++ [e] <+: t.log ∧ e.event.cls = 15 ∧ e.event.detail = if s.orderly then 1 else 0) ∧
        (s.orderly = true → t.lifetime = s.lifetime) ∧
        (s.orderly = false → ∀ p < 2176, (lifeOf t.lifetime p).wear = (lifeOf s.lifetime p).wear + 240 * 2 ^ 20)))) ∧
    Answers (exec (.ptpSync m) s) (fun t => s.time.toNat ≤ t.time.toNat ∧
      (s.power = .ready → s.ptp = .free → t.ptp = .acquiring ∧ t.time.toNat = max s.time.toNat m.toNat) ∧
      (s.ptp ≠ .free → t.time = s.time) ∧ (s.power = .ready → s.ptp = .holdover → t.ptp = .acquiring) ∧
      (t.ptp = .locked → s.ptp = .locked ∨ s.ptp = .acquiring ∧ 15 ≤ s.ptpGood ∧ timeGap m s.time ≤ 18) ∧
      (s.power = .ready → s.ptp = .acquiring → 15 ≤ s.ptpGood → timeGap m s.time ≤ 18 → t.ptp = .locked) ∧
      t = { s with ptp := t.ptp, ptpGood := t.ptpGood, time := t.time }) ∧
    exec .ptpHoldover s = .next { s with ptp := if s.ptp = .locked then .holdover else s.ptp }

/-! ### Launch, the sentinel and the end of a network -/

/-- R364 to R372, R375, R389, R404: a launch message is held untested while a migration stops its device; one that fails
a test changes nothing but its status record, and the A and D bits in the leaf entries of the pages it names; one
that finds no room waits, with the image and the arguments that it was accepted with; else every rank is staged on
an eligible tile of the device, its block loaded and its entry written, and on a start each process joins the tail
of its level, at once or when TIME has reached START. That a refused message sets A bits in the leaves of the pages
it names is the model's reading (log entry 104). -/
def Obligations.LaunchMessages : Prop :=
  ∀ (o : State) (m : LaunchHead) (msg : List Byte) (x : Conn) (d : VDev) (f : Nat × Nat) (n : Network),
    o.MemOk → o.power = .ready → o.vdev? m.vdid = some d → (∀ p ∈ d.doomed, p.netid ≠ field msg 8 4) →
    d.forwarding = false → o.holdsPeers m.vdid = false → (o.openConn m.conn m.vdid).conn? m.conn = some x →
    x.vdid = m.vdid → m.seq = x.rxSeq + 1 → x.held = [] →
    let s := o.counted m.conn m.vdid; let v := m.vdid
    let netid := field msg 8 4; let stg := (field msg 0x0C 2).testBit 1; let go := (field msg 0x0C 2).testBit 2
    let timed := (field msg 0x0C 2).testBit 0; let start : Word := BitVec.ofNat 64 (field msg 0x10 8)
    let w := s.launchWalks d msg
    let i := w.imageAt d (field msg 0 8); let lo := field msg 0x38 4; let nproc := field i 0x10 4
    let cnt := if field msg 0x3C 4 = 0 then nproc - lo else field msg 0x3C 4
    let told := fun (code detail : Nat) (t : State) =>
      t.reports = s.reports ++ [⟨false, d.vdid, 2, 0, netid, leBytes 4 netid ++ leBytes 4 code ++ leBytes 8 detail⟩]
    let key := s.slotKey (d.keyMap.headD 0); let at_ := field msg 0x20 8
    let record := leBytes 4 netid ++ leBytes 4 f.1 ++ leBytes 8 f.2
    let refused := fun (t : State) => told f.1 f.2 t ∧
      (∀ a, t.gmByte key a = s.gmByte key a ∨ t.gmByte key a = s.gmByte key a ||| 0x10#8 ∨
        t.gmByte key a = s.gmByte key a ||| 0x30#8) ∧
      (at_ = 0 ∨ at_ % 64 ≠ 0 ∨ (∃ e, w.engineRange d .w at_ 16 = .error e) → t = { w with reports := t.reports }) ∧
      (∀ l, at_ ≠ 0 → at_ % 64 = 0 → w.engineRange d .w at_ 16 = .ok l →
        t = { w.engineUse d .w l with reports := t.reports, asyncs := t.asyncs } ∧ ∃ a : AsyncWrite,
          t.asyncs = s.asyncs ++ [a] ∧ a.writer = .status ∧ a.done = none ∧ a.stopped = false ∧
          ∀ y, (∃ c ∈ a.chunks, y ∈ c.bytes) ↔ ∃ j < 16,
            y = ⟨(physIn l (at_ + j)).addr, .lit (record.getD j 0), BitVec.ofNat 64 (at_ + j), 0, j⟩) ∧
      (∀ a, t.tm.read a = s.tm.read a) ∧ t.procs = s.procs ∧ t.nets = s.nets ∧ t.hart = s.hart ∧ t.others = s.others
    let waits := { w with nets := s.nets ++ [newNet w d msg i] }.placeRanks d (w.accepted d msg) cnt = none
    let held := s.launchHeld v
    let kept := fun (u : State) (x : Waiting) => u.mapVdev v fun d => { d with waiting := d.waiting ++ [x] }
    let full : Waiting := ⟨msg, true, i, (List.range nproc).map (w.argsOf d (field msg 0x18 8))⟩
    let queued := fun (t : State) (q : Proc) => q.pid ∈ (t.tile q.tile).queue.toList.getD q.level.toNat []
    let soon := !timed || decide (start.toNat ≤ s.time.toNat)
    let placed := fun (begun : Bool) (t : State) => ∃ net, t.net? netid = some net ∧ net.vdid = d.vdid ∧ net.nproc = nproc ∧
      net.rankLo = lo ∧ net.rankCnt = cnt ∧ net.started = begun ∧ ∀ k < cnt, ∃ q ∈ t.procs, q.pid = ⟨netid, lo + k⟩ ∧
        q.vdid = d.vdid ∧ q.tile ∈ d.tiles ∧ (s.tile q.tile).open? = true ∧
        (let ke := field i 0x38 8 + 32 * field i (field i 0x20 8 + 32 * (lo + k) + 4) 2
         q.kbase % 4096 = 0 ∧ q.kbase + q.klen ≤ Config.tmBytes ∧ q.klen = field i (ke + 0x0C) 4 ∧ q.entry = field i (ke + 0x10) 4 ∧
         (∀ j < q.klen, t.tm.read (tmKey q.tile (q.kbase + j)) =
           if j < field i (ke + 8) 4 then (List.drop (field i ke 8 + j) i).headD 0 else 0)) ∧
        q.level = BitVec.ofNat 4 (min (field i (field i 0x20 8 + 32 * (lo + k) + 6) 1) d.ceil) ∧
        q.args = w.argsOf d (field msg 0x18 8) (lo + k) ∧ net.entries[lo + k]? = some (s.placedEntry q.tile) ∧
        q.status = (if begun && soon then .ready false else .staged) ∧ (begun && soon → queued t q)
    (held = true → (stg = true → exec (.launchStage m msg) o = .next (kept s ⟨msg, false, [], []⟩)) ∧
      (stg = false → go = false → exec (.launchStageAndStart m msg) o = .next (kept s ⟨msg, false, [], []⟩)) ∧
      (stg = false → go = true → exec (.launchGo m msg) o = .next (kept s ⟨msg, false, [], []⟩))) ∧
    (held = false → stg = true → s.stageFault d msg = some f → Answers (exec (.launchStage m msg) o) refused) ∧
    (held = false → stg = true → s.stageFault d msg = none →
      (waits → exec (.launchStage m msg) o = .next (kept w full)) ∧
      (¬waits → Answers (exec (.launchStage m msg) o) (fun t => told 0 cnt t ∧ placed false t))) ∧
    (held = false → stg = false → go = false → s.stageFault d msg = some f → Answers (exec (.launchStageAndStart m msg) o) refused) ∧
    (held = false → stg = false → go = false → s.stageFault d msg = none →
      (waits → exec (.launchStageAndStart m msg) o = .next (kept w full)) ∧
      (¬waits → (∀ q ∈ s.procs, q.pid.netid ≠ netid) → Answers (exec (.launchStageAndStart m msg) o) (placed true))) ∧
    (held = false → stg = false → go = true →
      (s.goFault d msg = some f → Answers (exec (.launchGo m msg) o) refused) ∧
      (s.goFault d msg = none → s.net? netid = some n → Answers (exec (.launchGo m msg) o) (fun t =>
        (∃ net, t.net? netid = some net ∧ net.started = true ∧ net.startAt = (if timed then some start else none) ∧
          net.statusDue = true) ∧
        (∀ k < n.rankCnt, ∀ q, s.proc? ⟨netid, n.rankLo + k⟩ = some q → q.status = .staged →
          let q' := { q with args := w.argsOf d (field msg 0x18 8) (n.rankLo + k)
                             status := if soon then .ready false else .staged }
          t.proc? ⟨netid, n.rankLo + k⟩ = some q' ∧ (soon → queued t q')) ∧
        t = { w with nets := t.nets, procs := t.procs, tiles := t.tiles })))

/-- R365, R368, R369, R375, R377, R404: a waiting message goes on where it need no longer wait: an accepted one finds
room for the image it was accepted with, one that was held is taken up as on its arrival; a started network's staged
process joins the tail of its level; the launch channel's token is taken; and rank entries of another package are
taken over, unless they contradict this package's, which ends the network's processes here. -/
def Obligations.LaunchEvents : Prop :=
  ∀ (s : State) (netid rank c : Nat) (d : VDev) (m : Waiting) (pre rest : List VDev) (ms : List Waiting) (n : Network)
    (ch : Chan) (x : RankExchange), s.MemOk →
    let begun := n.started = true ∧ ∀ w, n.startAt = some w → w.toNat ≤ s.time.toNat
    let p : Pid := ⟨netid, rank⟩
    let mine := fun (r : Nat) => n.rankLo ≤ r ∧ r < n.rankLo + n.rankCnt
    let conflict := x.digest ≠ n.digest ∨ x.nproc ≠ n.nproc ∨
      ∃ k < x.entries.length, mine (x.rankLo + k) ∧ entryPlaced (x.entries.getD k 0) = true
    ((∀ d ∈ s.vdevs, ∀ i < d.waiting.length, s.resumeAt d i = none) → exec .launchWaitResume s = .next s) ∧
    (s.vdevs = pre ++ d :: rest → (∀ d ∈ pre, d.waiting = []) → s.vdev? d.vdid = some d → d.waiting = m :: ms →
      let u := s.mapVdev d.vdid fun d => { d with waiting := ms }
      (m.accepted = true → ∀ t, u.stage { d with waiting := ms } m = some t → exec .launchWaitResume s = .next t) ∧
      (m.accepted = false → s.launchHeld d.vdid = false → exec .launchWaitResume s = .next (u.launch d.vdid m.msg)) ∧
      (s.launchHeld d.vdid = true → s.resumeAt d 0 = none)) ∧
    (s.net? netid = some n →
      (begun → ∀ q, s.proc? p = some q → q.status = .staged → Answers (exec (.processStart netid rank) s) (fun t =>
        t.proc? p = some { q with status := .ready false } ∧ (∀ y, y ≠ p → t.proc? y = s.proc? y) ∧
        (∀ k l, (t.tile k).queue.toList[l]? = if k = q.tile ∧ l = q.level.toNat
          then ((s.tile k).queue.toList[l]?).map (· ++ [p]) else (s.tile k).queue.toList[l]?) ∧
        t = { s with procs := t.procs, tiles := t.tiles })) ∧
      (¬begun → exec (.processStart netid rank) s = .next s)) ∧
    ((∀ q, s.proc? p = some q → q.status ≠ .staged) → exec (.processStart netid rank) s = .next s) ∧
    (s.net? netid = some n → s.chan? netid c = some ch → ch.cons = .host 0xFFFF →
      (ch.token = some ch.rd → ch.wr ≠ ch.rd → Answers (exec (.launchChannelClose netid c) s) (fun t =>
        t.chan? netid c = some { ch with rd := ch.rd + 1 } ∧
        (∀ m j, (m, j) ≠ (netid, c) → t.chan? m j = s.chan? m j) ∧
        t = { s with nets := t.nets, procs := t.procs, tiles := t.tiles })) ∧
      (ch.token ≠ some ch.rd → exec (.launchChannelClose netid c) s = .next s)) ∧
    (s.net? x.netid = none → exec (.rankEntryExchange x) s = .next s) ∧
    (s.net? x.netid = some n →
      (conflict → Answers (exec (.rankEntryExchange x) s) (fun t => ∀ p q, p.netid = x.netid → s.proc? p = some q →
        q.live = true → (t.proc? p).map (·.status) = some (.ended .launchConflict))) ∧
      (¬conflict → n.entries.length = n.nproc → Answers (exec (.rankEntryExchange x) s) (fun t =>
        (∃ n', t.net? x.netid = some n' ∧ n'.entries.length = n.nproc ∧ ∀ r < n.nproc, n'.entry r =
          if x.rankLo ≤ r ∧ r < x.rankLo + x.entries.length ∧ ¬mine r then x.entries.getD (r - x.rankLo) 0 else n.entry r) ∧
        (∀ m, m ≠ x.netid → t.net? m = s.net? m) ∧ s.MemSame t)))

/-- R306, R380 to R382, R458: the sentinel acts only when every process that has not ended is blocked, nothing is
pending and nothing has changed for its time; then it grows the smallest ring that blocks a writer, or reports. A
network whose ranks have all ended is reported by its home and taken away. What another package's ranks report to
the sentinel is free (log entry 71). -/
def Obligations.SentinelAndCompletion : Prop :=
  ∀ (s : State) (netid c : Nat) (n : Network) (ch : Chan) (d : VDev) (l : List (Nat × TlbEntry × Phys)), s.MemOk →
    s.net? netid = some n →
    let st := s.standings n
    let writes := st.filterMap fun x => match x.2 with | .write c => some c | _ => none
    let blocked := st.filter fun x => x.2.blocked
    let acts := (n.rankLo = 0 ∧ 0 < n.rankCnt) ∧ n.deadlockTold = false ∧
      (∀ x ∈ st, x.2 = .ended ∨ x.2.blocked = true) ∧ blocked ≠ [] ∧ s.netPending n = false ∧ n.owed = false ∧
      s.hostInvolved n = false ∧ n.changedAt.toNat + (if n.rankCnt = n.nproc then 50000 else 500000) ≤ s.time.toNat
    let size := fun (i : Nat) => ((n.chans[i]?).map Chan.ringBytes).getD 0
    let smallest := c ∈ writes ∧ ∀ e ∈ writes, size c < size e ∨ size c = size e ∧ c ≤ e
    let tag := fun (x : Nat × Standing) => match x.2 with | .write c => (1, c) | .read w => (2, w) | _ => (3, 0)
    let reports := fun (sub : Nat) (t : State) => ∃ body, t.reports = s.reports ++ [⟨false, n.vdid, 4, 0, netid, body⟩] ∧
      field body 0 1 = sub ∧ field body 4 4 = blocked.length % 2 ^ 32 ∧ body.length = 8 + 16 * blocked.length ∧
      (∀ x ∈ blocked, ∃ j < blocked.length, field body (8 + 16 * j) 4 = x.1 % 2 ^ 32 ∧
        field body (12 + 16 * j) 1 = (tag x).1 ∧ field body (16 + 16 * j) 8 = (tag x).2 % 2 ^ 64) ∧
      (t.net? netid).map (·.deadlockTold) = some true ∧ t = { s with reports := t.reports, nets := t.nets }
    let len := 2 * 2 ^ (ch.k + ch.slotLog); let off := n.caddyPlace len
    let va := n.caddyVa.toNat + off
    let done_ := (∀ r < n.nproc, entryEnded (n.entry r) = true) ∧ s.netPending n = false
    (¬acts → exec (.sentinelCheck netid) s = .next s) ∧
    (acts → writes = [] → Answers (exec (.sentinelCheck netid) s) (reports 1)) ∧
    (acts → smallest → n.chans[c]? = some ch →
      (n.caddyLen < off + len ∨ 30 ≤ ch.k → Answers (exec (.sentinelCheck netid) s) (fun t => reports 2 t ∧
        ∃ r ∈ t.reports.getLast?, field r.body 12 1 = 1 ∧ field r.body 16 8 = c % 2 ^ 64)) ∧
      (∀ r ∈ n.caddyRings, off + len ≤ r.1 ∨ r.1 + r.2 ≤ off) ∧
      (∀ o < off, o % 64 = 0 → ∃ r ∈ n.caddyRings, r.1 < o + len ∧ o < r.1 + r.2) ∧
      (off + len ≤ n.caddyLen → n.caddyVa.toNat % 65536 = 0 → ch.k < 30 → s.vdev? n.vdid = some d → s.engineRange d .rw va len = .ok l →
        Answers (exec (.sentinelCheck netid) s) (fun t =>
          (∃ ph, t.chan? netid c = some { ch with k := ch.k + 1, ring := .caddy (n.caddyVa + BitVec.ofNat 64 off) ph }) ∧
          (∀ m j, (m, j) ≠ (netid, c) → t.chan? m j = s.chan? m j) ∧ (∀ a, t.tm.read a = s.tm.read a) ∧
          t.reports = s.reports ∧
          (∀ k b, ch.ring = .tile k b → ((physRange l va len).map (·.addr)).Nodup → (ch.wr - ch.rd).toNat ≤ 2 ^ ch.k →
            ∀ j < (ch.wr - ch.rd).toNat, ch.token ≠ some (ch.rd + BitVec.ofNat 32 j) →
              let at_ := (ch.rd + BitVec.ofNat 32 j).toNat
              t.gmGather (physRange l (va + at_ % 2 ^ (ch.k + 1) * 2 ^ ch.slotLog) (2 ^ ch.slotLog)) =
                s.tm.bytes (tmKey k (b + at_ % 2 ^ ch.k * 2 ^ ch.slotLog)) (2 ^ ch.slotLog))))) ∧
    (¬done_ → exec (.networkCompletion netid) s = .next s) ∧
    (done_ → (∀ d, s.vdev? n.vdid = some d → d.destroyTag = none) → Answers (exec (.networkCompletion netid) s) (fun t =>
      t = { s with nets := t.nets, procs := t.procs, reports := t.reports } ∧ t.net? netid = none ∧
      (∀ m, m ≠ netid → t.net? m = s.net? m) ∧ (∀ p, t.proc? p = if p.netid = netid then none else s.proc? p) ∧
      (n.rankLo ≠ 0 ∨ n.rankCnt = 0 → t.reports = s.reports) ∧
      (n.rankLo = 0 → 0 < n.rankCnt → ∃ body, t.reports = s.reports ++ [⟨false, n.vdid, 3, 0, netid, body⟩] ∧
        body.length = 8 + 16 * n.nproc ∧ field body 0 4 = n.nproc % 2 ^ 32 ∧
        ∀ r < n.nproc, ∀ q, s.proc? ⟨netid, r⟩ = some q → field body (8 + 16 * r) 8 = q.charge % 2 ^ 64 ∧
          ∀ e, q.status = .ended e → ((field body (16 + 16 * r) 1).testBit 0 = e.lost))))

/-! ### The fabric and the host port -/

/-- R438, R441, R444, R445: link retries are logged; silence at a link, a switch or an endpoint takes it out of service
with a record for every device that it affects, and the requests under way there take another plane that is in
service; requests that wait for a failed endpoint end in TIMEOUT, and what the engine or a store still had for it is
given up with a record; nothing of this happens on a part that is not powered and booted. The model's readings:
which devices are affected (log entry 55), TIMEOUT of a waiting LDSYNC (log entry 56), the kinds of record and ADDR
0 of abandoned commands (log entry 57), the plane that takes over (log entry 152). -/
def Obligations.FabricFailures : Prop :=
  ∀ (s : State) (die plane flits ep n : Nat) (e : Bool) (d : BitVec 5) (ea : Word) (r : Phys), s.MemOk →
    let affects := fun (ep v : Nat) => ∃ x ∈ s.vdevs, x.vdid = v ∧ ((∃ g ∈ x.regions, g.endpoint = ep) ∨
      ep / 4 = s.pkg ∧ ∃ k ∈ x.tiles, k / Config.tilesPerDie = ep % 4)
    let recorded := fun (kind plane ep : Nat) (l : List FailureRecord) => l ≠ [] ∧
      (∀ x ∈ l, x.kind = kind ∧ x.plane = plane ∧ x.endpoint = ep ∧ x.time = s.time ∧
        (affects ep x.vdid ∨ x.vdid = 0xFFFF ∧ ∀ y ∈ s.vdevs, ¬affects ep y.vdid)) ∧
      ∀ y ∈ s.vdevs, affects ep y.vdid → ∃ x ∈ l, x.vdid = y.vdid
    let lost := fun (t : State) => t.records.drop s.records.length
    let idle := fun (i : Instr) => s.power ≠ .ready → exec i s = .next s
    let moves := fun (hit : Outbound → Prop) (t : State) => t.outbound.length = s.outbound.length ∧
      ∀ (i : Nat) (o : Outbound), s.outbound[i]? = some o → ∃ p, t.outbound[i]? = some { o with plane := p } ∧ (¬hit o → p = o.plane) ∧
        (hit o → (∃ q < 18, t.planeUp o.src (o.addr / Config.localBytes) q = true) →
          p < 18 ∧ t.planeUp o.src (o.addr / Config.localBytes) p = true)
    idle (.flitRetry die plane flits) ∧ idle (.linkTimeout die plane) ∧ idle (.switchTimeout ep plane) ∧ idle (.groupTimeout ep) ∧
    (s.power = .ready → exec (.flitRetry die plane flits) s = .next { s with
      logEvents := s.logEvents ++ [⟨s.time, die, 11, BitVec.ofNat 32 plane, 0, BitVec.ofNat 64 flits, 0, 0xFFFF⟩] }) ∧
    (s.power = .ready → Answers (exec (.linkTimeout die plane) s) (fun t => recorded 1 plane (4 * s.pkg + die) (lost t) ∧ s.records <+: t.records ∧
      (∀ x, x ∈ t.linksDown ↔ x = (die, plane) ∨ x ∈ s.linksDown) ∧ moves (fun o => o.src = 4 * s.pkg + die ∧ o.plane = plane) t ∧
      t = { s with linksDown := t.linksDown, outbound := t.outbound, records := t.records, reports := t.reports })) ∧
    (s.power = .ready → Answers (exec (.switchTimeout ep plane) s) (fun t => recorded 2 plane ep (lost t) ∧ s.records <+: t.records ∧
      (∀ x, x ∈ t.switchesDown ↔ x = (ep, plane) ∨ x ∈ s.switchesDown) ∧
      moves (fun o => o.addr / Config.localBytes = ep ∧ o.plane = plane) t ∧
      t = { s with switchesDown := t.switchesDown, outbound := t.outbound, records := t.records, reports := t.reports })) ∧
    (s.epLive ep = false → exec (.groupTimeout ep) s = .next s) ∧
    (s.power = .ready → s.epLive ep = true → Answers (exec (.groupTimeout ep) s) (fun t =>
      (∀ x, t.epLive x = (decide (x ≠ ep) && s.epLive x)) ∧ s.records <+: t.records ∧
      (∃ k, recorded 3 0xFF ep ((lost t).take k)) ∧
      ((∀ h ∈ s.harts, ∀ w, h.status = .blocked w → h.priv = .p ∧ ∀ x, w ≠ .txEntry x) →
        let given := fun (a : AsyncWrite) (c : Chunk) => ∃ x ∈ lost t, x.kind = 5 ∧ x.endpoint = ep ∧
          x.addr.toNat = (if c.toTm then 0 else 64 * c.granule % Config.localBytes) ∧ x.vdid = s.asyncVdid a ∧
          ∀ b ∈ c.bytes, x.mask.getLsbD (b.key % 64) = true
        (∀ a ∈ s.asyncs, a.writer = .engine → s.lostWriter a = false → (∃ c ∈ a.chunks, c.touches ep = true) →
          a ∉ t.asyncs ∧ ∃ x ∈ lost t, x.kind = 3 ∧ x.endpoint = ep) ∧
        (∀ a ∈ s.asyncs, (a.writer = .engine → s.lostWriter a = true) → a.writer ≠ .vstm →
          ∀ c ∈ a.chunks, c.touches ep = true → given a c) ∧
        (∀ o ∈ t.outbound, o ∈ s.outbound ∧ o.addr / Config.localBytes ≠ ep) ∧
        (s.hart.status = .blocked (.ldsync e d ea n (some r)) → s.hart.current = none → r.addr / Config.localBytes = ep →
          t.hart.status = .running ∧ t.hart.priv = .s ∧ t.hart.tcause = causeTimeout ∧ t.hart.tval = ea ∧ t.hart.tpc = s.hart.pc))))

/-- R116, R374, R395, R397, R406, R443: a request packet is performed at most once, under the key that its page's KSEL
selects; a duplicate is answered as the first was, once that has been; one outside the issuer's regions is refused,
one for a region that is about to move waits, and one for a region that has moved goes on to where it is now; a slot
that another package's channel unit may not write yet is held there. The model's own: the layout of an answer (log
entry 58), where a forwarded request lands (log entry 59), the form of a channel unit's packets (log entry 154). -/
def Obligations.RequestPackets : Prop :=
  ∀ (s : State) (p : Packet) (d : VDev) (r : Region) (n k : Nat) (bs : List Byte) (x y : Word) (nw : Network) (i rk : Nat) (ch : Chan),
    s.MemOk →
    let step := exec (.requestPacket p) s
    let first := s.served.find? fun x => x.src == p.src && x.dst == p.dst && x.seq == p.seq
    let ans := fun (code : Nat) (data : List Byte) => leBytes 8 p.seq ++ leBytes 1 code ++ data
    let answer := fun (code : Nat) (data : List Byte) => s.packets ++ [(p.src, ans code data)]
    let known := fun (o : Option (List Byte)) => (⟨p.src, p.dst, p.seq, o⟩ : Served) :: s.served
    let given := fun (code : Nat) (data : List Byte) (t : State) => t.packets = answer code data ∧ t.served = known (some (ans code data))
    let only := fun (code : Nat) (data : List Byte) => { s with packets := answer code data, served := known (some (ans code data)) }
    let a := p.dst * Config.localBytes + p.addr
    let ph : Phys := ⟨a, k, 0⟩
    let len := match p.op with | .read n => n | .write l => l.length | .mark l => l.length | .atomic _ n _ _ => n | _ => 1
    let inside := fun (r : Region) => r.endpoint = p.dst ∧ r.base ≤ p.addr ∧ p.addr + len ≤ r.base + r.size
    let toMemory := match p.op with | .slot _ _ => False | .token _ => False | .slotFree _ => False | _ => True
    let frame := fun (t : State) => t = { s with
      gm := t.gm, gmKey := t.gmKey, gmStamp := t.gmStamp, gmPois := t.gmPois, gmFull := t.gmFull, vdevs := t.vdevs
      packets := t.packets, outbound := t.outbound, nextSeq := t.nextSeq, logEvents := t.logEvents, served := t.served }
    let stored := fun (bs : List Byte) (t : State) => t.gmBytes ph bs.length = bs ∧ s.GmOutside [(ph, bs.length)] t ∧
      (∀ c, t.tm.read c = s.tm.read c) ∧ frame t
    let moving := ∃ m ∈ s.migrations, m.vdid = p.vdid ∧ m.phase = .final
    let marks := fun (l : List Nat) (b : Bool) (t : State) => ∀ g, setHas t.gmFull g = if g ∈ l then b else setHas s.gmFull g
    let old := leNat (s.gmBytes ph n); let w := 8 * n
    let X := x.toNat % 2 ^ w; let Y := y.toNat % 2 ^ w
    let atomic := fun (c : Nat) => match c with
      | 0x10 => some ((old + X) % 2 ^ w) | 0x11 => some (old &&& X) | 0x12 => some (old ||| X) | 0x13 => some (old ^^^ X)
      | 0x14 => some (if sextNat w old < sextNat w X then old else X) | 0x15 => some (if sextNat w old < sextNat w X then X else old)
      | 0x16 => some (min old X) | 0x17 => some (max old X) | 0x18 => some X
      | 0x19 => some (if old = Y then X else old) | _ => none
    let ends := fun (nw : Network) (ch : Chan) (i rk : Nat) (e : ChanEnd) => s.net? p.netid = some nw ∧ nw.vdid = p.vdid ∧
      nw.chans[i]? = some ch ∧ e = .rank rk ∧ nw.mine rk = false
    let wakes := fun (t : State) => t = { s with
      tm := t.tm, tmPois := t.tmPois, nets := t.nets, procs := t.procs, tiles := t.tiles, packets := t.packets, served := t.served }
    (p.dst / 4 ≠ s.pkg ∨ s.power ≠ .ready → step = .next s) ∧
    (p.dst / 4 = s.pkg → s.power = .ready →
      (∀ z, first = some z → step = .next { s with packets := s.packets ++ (z.answer.map fun a => (p.src, a)).toList }) ∧
      (first = none → toMemory →
        (s.vdev? p.vdid = none → step = .next (only 1 [])) ∧
        (s.vdev? p.vdid = some d →
          ((∀ r ∈ d.regions, ¬inside r) → step = .next (only 1 [])) ∧
          (d.forwarding = true → d.regions.find? (fun r => decide (inside r)) = some r →
            let b := movedBase (s.movedTo p.vdid) r.id + (p.addr - r.base)
            let moved := fun (t : State) => (∀ c, t.tm.read c = s.tm.read c) ∧
              (∀ k, k < 4096 → numGet t.keySlots k = numGet s.keySlots k) ∧
              t = { s with
                gm := t.gm, gmKey := t.gmKey, gmStamp := t.gmStamp, gmPois := t.gmPois, gmFull := t.gmFull, vdevs := t.vdevs
                packets := t.packets, outbound := t.outbound, nextSeq := t.nextSeq, logEvents := t.logEvents, served := t.served
                keySlots := t.keySlots }
            (p.op = .write bs → Answers step (fun t => moved t ∧ given 0 [] t ∧ t.gm.bytes b bs.length = bs ∧
              ∀ c, c / 64 < b / 64 ∨ (b + bs.length + 63) / 64 ≤ c / 64 → t.gm.read c = s.gm.read c)) ∧
            (p.op = .read n → Answers step (fun t => moved t ∧ t.gm = s.gm ∧
              (if s.gmPoisoned ⟨b, 0, 0⟩ n then given 2 [] t
              else ∃ data, given 0 data t ∧ data.length = n)))) ∧
          (d.forwarding = false → moving → (∃ r ∈ d.regions, inside r) →
            step = .next ({ s with served := known none }.mapVdev d.vdid fun d => { d with peers := d.peers ++ [p] })) ∧
          (d.forwarding = false → ¬moving → (∃ r ∈ d.regions, inside r) → d.keyMap[p.ksel]? = none → step = .next (only 1 [])) ∧
          (d.forwarding = false → ¬moving → (∃ r ∈ d.regions, inside r) → d.keyMap[p.ksel]? = some k →
            (p.op = .read n →
              (s.gmPoisoned ph n = true → step = .next (only 2 [])) ∧
              (s.gmPoisoned ph n = false → step = .next (only 0 (s.gmBytes ph n)))) ∧
            (p.op = .write bs → Answers step (fun t => stored bs t ∧ given 0 [] t ∧ t.gmFull = s.gmFull)) ∧
            (p.op = .mark bs → bs ≠ [] → Answers step (fun t => stored bs t ∧ given 0 [] t ∧
              marks ((List.range bs.length).map fun j => (a + j) / 64) true t)) ∧
            (p.op = .setFull → Answers step (fun t => stored [] t ∧ given 0 [] t ∧ marks [a / 64] true t)) ∧
            (p.op = .setEmpty → Answers step (fun t => stored [] t ∧ given 0 [] t ∧ marks [a / 64] false t)) ∧
            (∀ c, p.op = .atomic c n x y →
              (atomic c = none → step = .next (only 1 [])) ∧
              (∀ v, atomic c = some v →
                (s.gmPoisoned ph n = true → step = .next (only 2 [])) ∧
                (s.gmPoisoned ph n = false → n ≤ 8 → Answers step (fun t => given 0 (leBytes n old) t ∧
                  (if c = 0x19 ∧ old ≠ Y then stored [] t else stored (leBytes n v) t)))))))) ∧
      (first = none → ∀ len token, (p.op = .slot i bs ∧ len = bs.length ∧ token = false ∨ p.op = .token i ∧ len = 0 ∧ token = true) →
        ((∀ nw ch rk, ¬ends nw ch i rk ch.prod) → step = .next (only 1 [])) ∧
        (ends nw ch i rk ch.prod →
          (ch.closed = true ∨ 2 ^ ch.slotLog < len → step = .next (only 1 [])) ∧
          (ch.closed = false → len ≤ 2 ^ ch.slotLog → nw.writeWaits ch = true → step = .next s) ∧
          (ch.closed = false → len ≤ 2 ^ ch.slotLog → nw.writeWaits ch = false → nw.consumerEnded ch = false →
            (∀ c b, token = false → ch.ring = .tile c b → Answers step (fun t =>
              let at_ := tmKey c (b + ch.wr.toNat % 2 ^ ch.k * 2 ^ ch.slotLog)
              given 0 [] t ∧ t.chan? p.netid i = some { ch with wr := ch.wr + 1 } ∧
              t.tm.bytes at_ (2 ^ ch.slotLog) = bs ++ List.replicate (2 ^ ch.slotLog - bs.length) 0 ∧
              (∀ c, c < at_ ∨ at_ + 2 ^ ch.slotLog ≤ c → t.tm.read c = s.tm.read c) ∧ wakes t)) ∧
            (∀ r, token = true → ch.cons = .rank r → Answers step (fun t =>
              given 0 [] t ∧ t.chan? p.netid i = some { ch with closed := true, token := some ch.wr, wr := ch.wr + 1 } ∧
              s.MemSame t ∧ wakes t))))) ∧
      (first = none → p.op = .slotFree i →
        ((∀ nw ch rk, ends nw ch i rk ch.cons → ∀ b l, ch.ring ≠ .host (b :: l)) → step = .next (only 1 [])) ∧
        (∀ b l, ends nw ch i rk ch.cons → ch.ring = .host (b :: l) → Answers step (fun t =>
          given 0 [] t ∧ t.chan? p.netid i = some { ch with ring := .host l, rd := ch.rd + 1 } ∧ s.MemSame t ∧ wakes t))))

/-- R451, R452, R454: an acknowledgement frees what it covers, and the slots of host channels with it; what is not
acknowledged is sent again, in frames whose headers say what they carry, or resets the connection in the end; a
frame with a wrong header is dropped and counted, and any other acknowledges, and brings its message once every
fragment of it has come. The model's own: the connection that a frame comes on, fragments of 8,192 bytes behind the
header, what waits after a reset (log entry 137), the report of a reset (log entry 73). -/
def Obligations.HostTransport : Prop :=
  ∀ (s : State) (c ack : Nat) (x y : Conn) (frame : List Byte) (parts : List (List Byte)), s.MemOk →
    let at_ := fun (o n : Nat) => field frame o n
    let bad := at_ 0 2 ≠ 0x4748 ∨ at_ 2 1 ≠ 1 ∨ 10 < at_ 3 1 ∨ at_ 0x1E 2 ≠ 0
    let covered := fun (m : OutMsg) => m.seq ≤ ack
    let freed := fun (n i : Nat) => (x.unacked.filter fun m => decide (covered m ∧ m.chan = some (n, i))).length
    let vdid := at_ 4 2; let seq := at_ 8 8; let fack := at_ 0x10 8; let frag := at_ 0x1C 2
    let bytes := (frame.drop 32).take (at_ 0x18 4)
    let drop := exec (.ghtFrameDropped frame) s
    let next := s.conns.find? (fun y => y.vdid == vdid) = some y ∧ s.conns.find? (fun z => z.id == y.id) = some y ∧
      seq ≠ 0 ∧ seq = y.rxSeq + y.held.length + 1
    let frags := fun (l : List (Nat × Bool × List Byte)) (u : State) => { u with
      conns := u.conns.map fun z => if z.id = y.id then { z with frags := l } else z }
    (s.conns.find? (fun x => x.id == c) = none → exec (.ghtAck c ack) s = .next s ∧ exec (.ghtRetransmit c) s = .next s ∧
      exec (.ghtConnectionReset c) s = .next s) ∧
    (s.conns.find? (fun x => x.id == c) = some x →
      Answers (exec (.ghtAck c ack) s) (fun t =>
        t.conns = s.conns.map (fun y => if y.id = c then
          { y with unacked := y.unacked.filter (fun m => decide (¬covered m)), resends := 0 } else y) ∧
        (∀ n i ch, s.chan? n i = some ch → (t.chan? n i).map (·.rd) = some (ch.rd + BitVec.ofNat 32 (freed n i)) ∧
          (t.chan? n i).map (fun q => (q.wr, q.k, q.token, q.closed)) = some (ch.wr, ch.k, ch.token, ch.closed)) ∧
        s.MemSame t ∧ t = { s with conns := t.conns, nets := t.nets, procs := t.procs, tiles := t.tiles }) ∧
      (x.unacked = [] → exec (.ghtRetransmit c) s = .next s ∧ exec (.ghtConnectionReset c) s = .next s) ∧
      (x.unacked ≠ [] →
        exec (.ghtRetransmit c) s = .next { s with
          conns := s.conns.map (fun y => if y.id = c then { y with resends := y.resends + 1, acked := y.ack } else y)
          sent := s.sent ++ x.unacked.flatMap (fun m => (m.frames x.vdid x.ack).map fun f => (c, f)) } ∧
        Answers (exec (.ghtConnectionReset c) s) (fun t => (∀ y, y ∈ t.conns ↔ y ∈ s.conns ∧ y.id ≠ c) ∧
          t.unsent = (x.unacked.filter fun m => decide (m.cls = 3 ∨ m.cls = 9 ∨ m.cls = 10)).map (fun m => (x.vdid, m)) ++ s.unsent ∧
          (∃ q, t.reports = s.reports ++ [q] ∧ q.management = true) ∧
          t = { s with conns := t.conns, reports := t.reports, unsent := t.unsent }))) ∧
    (∀ (m : OutMsg) (v a : Nat), let fs := m.frames v a
      fs.length = max 1 ((m.payload.length + 8191) / 8192) ∧ fs.flatMap (·.drop 32) = m.payload ∧
      ∀ (j : Nat) (f : List Byte), fs[j]? = some f → j < 32768 → f.length ≤ 32 + 8192 ∧
        field f 0 2 = 0x4748 ∧ field f 2 1 = 1 ∧ field f 3 1 = m.cls % 256 ∧ field f 4 2 = v % 65536 ∧ field f 6 2 = m.endpoint % 65536 ∧
        field f 8 8 = m.seq % 2 ^ 64 ∧ field f 0x10 8 = a % 2 ^ 64 ∧ field f 0x18 4 = f.length - 32 ∧
        field f 0x1C 2 = j + (if j + 1 = fs.length then 32768 else 0) ∧ field f 0x1E 2 = 0) ∧
    (bad → drop = .next { s with framesDropped := s.framesDropped + 1 }) ∧
    (¬bad → s.power ≠ .off → 32 + at_ 0x18 4 ≤ frame.length →
      (s.conns.find? (fun y => y.vdid == vdid) = some y → seq = 0 → drop = exec (.ghtAck y.id fack) s) ∧
      (s.conns.find? (fun y => y.vdid == vdid) = some y → s.conns.find? (fun z => z.id == y.id) = some y →
        seq ≠ y.rxSeq + y.held.length + 1 → drop = exec (.ghtAck y.id fack) s) ∧
      (next → y.frags.any (fun g => g.1 == frag % 32768) = true → drop = exec (.ghtAck y.id fack) s) ∧
      (next → (∀ g ∈ y.frags, g.2.1 = false ∧ g.1 ≠ frag) → frag < 32768 → Answers (exec (.ghtAck y.id fack) s) (fun u =>
        drop = .next (frags (y.frags ++ [(frag, false, bytes)]) u))) ∧
      (next → y.frags = parts.mapIdx (fun j b => (j, false, b)) → frag = 32768 + parts.length →
        Answers (exec (.ghtAck y.id fack) s) (fun u =>
          let m : HostMsg := ⟨y.id, vdid, at_ 6 2, seq, parts.flatten ++ bytes⟩
          (at_ 3 1 = 2 → drop = exec (.hostChannelSlot m) (frags [] u)) ∧
          (at_ 3 1 = 4 → drop = exec (.hostMemoryWrite m) (frags [] u)) ∧
          (at_ 3 1 = 5 → drop = exec (.hostMemoryRead m) (frags [] u)) ∧
          (at_ 3 1 = 1 → at_ 6 2 = 65535 → (field m.payload 0x0C 2).testBit 1 = true →
            drop = exec (.launchStage ⟨y.id, vdid, seq⟩ m.payload) (frags [] u)) ∧
          (at_ 3 1 = 8 → field m.payload 0 2 = 9 → drop = exec (.endNetwork ⟨y.id, false, vdid, m.payload⟩) (frags [] u)))))

/-- R24, R30, R374, R388, R453, R454, R483, R484: the messages of a host are performed once and in their order: a launch
message is taken, a slot goes into the ring, or is discarded with a report; a close writes the token; a write or a
read is checked over its whole range, and then performed and answered; a slot that must wait holds back every later
message of its connection. The model's own: the order of reasons 3, 1 and 2 (log entry 75), that every class waits
during the last steps of a migration (log entry 76), a close that finds nothing to close (log entry 144), the form
of the bitmap (log entry 145). -/
def Obligations.HostMessages : Prop :=
  ∀ (s : State) (m : HostMsg) (x : Conn) (n : Network) (i : Nat) (ch : Chan) (d : VDev) (f : XFault) (bad : Nat)
    (l : List (Nat × TlbEntry × Phys)), s.MemOk → s.power = .ready → s.vdev? m.vdid = some d → d.forwarding = false →
    let stepOf := fun (cls : Nat) => match cls with
      | 1 => exec (.launchStage ⟨m.conn, m.vdid, m.seq⟩ m.payload) s | 2 => exec (.hostChannelSlot m) s | 3 => exec (.hostChannelClose m) s
      | 4 => exec (.hostMemoryWrite m) s | _ => exec (.hostMemoryRead m) s
    let conn := s.conns.find? (fun x => x.id == m.conn)
    let conns := fun (f : Conn → Conn) => if conn = none then s.conns ++ [f ⟨m.conn, m.vdid, 0, 0, [], 0, [], [], 0⟩]
      else s.conns.map fun y => if y.id = m.conn then f y else y
    let counts := fun (y : Conn) => if y.vdid = m.vdid then { y with rxSeq := y.rxSeq + 1 } else y
    let number := (conn.map (·.txSeq)).getD 0 + 1
    let held := fun (cls : Nat) (y : Conn) => { y with held := y.held ++ [(cls, m)] }
    let reply := fun (cls : Nat) (bs : List Byte) => (⟨number, cls, m.endpoint, none, bs⟩ : OutMsg)
    let sends := fun (cls : Nat) (bs : List Byte) (y : Conn) => { counts y with
      txSeq := y.txSeq + 1, unacked := y.unacked ++ [reply cls bs], acked := (counts y).ack }
    let answered := fun (cls : Nat) (bs : List Byte) (t : State) => t.conns = conns (sends cls bs) ∧
      t.sent = s.sent ++ ((reply cls bs).frames m.vdid m.seq).map fun f => (m.conn, f)
    let due := (conn = none ∧ s.mayOpen m.conn m.vdid = true ∧ m.seq = 1) ∨ conn = some x ∧ x.vdid = m.vdid ∧ m.seq = x.rxSeq + 1 ∧ x.held = []
    let leaves := l.map fun e => (⟨e.2.1.leafAddr, d.keyMap.headD 0, 0⟩, 1)
    let refuse := f; let va := field m.payload 0 8; let bs := m.payload.drop 8; let cnt := field m.payload 8 8
    let result := leBytes 4 (match refuse with | .xlate => 1 | .prot => 2) ++ leBytes 4 0 ++ leBytes 8 bad
    let discards := fun (reason : Nat) => exec (.hostChannelSlot m) s = .next { s with
      conns := conns counts
      reports := s.reports ++ [⟨false, m.vdid, 15, 0, 0, leBytes 2 m.endpoint ++ leBytes 1 reason ++ leBytes 5 0 ++ leBytes 8 m.seq⟩] }
    let moving := ∃ g ∈ s.migrations, g.vdid = m.vdid ∧ g.phase = .final
    (∀ cls ∈ [1, 2, 3, 4, 5], (cls = 1 → m.endpoint = 65535 ∧ (field m.payload 0x0C 2).testBit 1 = true) → (cls = 2 → m.payload ≠ []) →
      (conn = none → s.mayOpen m.conn m.vdid = false → stepOf cls = .next s) ∧
      (conn = some x → x.vdid ≠ m.vdid ∨ m.seq ≠ x.rxSeq + x.held.length + 1 → stepOf cls = .next s) ∧
      (conn = some x → x.vdid = m.vdid → m.seq = x.rxSeq + x.held.length + 1 → x.held ≠ [] →
        stepOf cls = .next { s with conns := conns (held cls) }) ∧
      (due → moving → stepOf cls = .next { s with conns := conns (held cls) })) ∧
    (due → ¬moving →
      (m.payload ≠ [] →
        (s.hostChan m.vdid m.endpoint = none → discards 3) ∧
        (s.hostChan m.vdid m.endpoint = some (n, i, ch) →
          (ch.closed = true → discards 1) ∧
          (ch.closed = false → 2 ^ ch.slotLog < m.payload.length → discards 2) ∧
          (ch.closed = false → m.payload.length ≤ 2 ^ ch.slotLog →
            (n.writeWaits ch = true → exec (.hostChannelSlot m) s = .next { s with conns := conns (held 2) }) ∧
            (∀ k b, n.writeWaits ch = false → n.consumerEnded ch = false → s.net? n.netid = some n → n.chans[i]? = some ch →
              ch.ring = .tile k b → Answers (exec (.hostChannelSlot m) s) (fun t =>
                let at_ := tmKey k (b + ch.wr.toNat % 2 ^ ch.k * 2 ^ ch.slotLog)
                t.conns = conns counts ∧ t.chan? n.netid i = some { ch with wr := ch.wr + 1 } ∧
                t.tm.bytes at_ (2 ^ ch.slotLog) = m.payload ++ List.replicate (2 ^ ch.slotLog - m.payload.length) 0 ∧
                (∀ c, c < at_ ∨ at_ + 2 ^ ch.slotLog ≤ c → t.tm.read c = s.tm.read c) ∧ (∀ c, t.gm.read c = s.gm.read c) ∧
                t = { s with conns := t.conns, tm := t.tm, tmPois := t.tmPois, nets := t.nets, procs := t.procs, tiles := t.tiles }))))) ∧
      (s.hostChan m.vdid m.endpoint = none → exec (.hostChannelClose m) s = .next { s with conns := conns counts }) ∧
      (s.hostChan m.vdid m.endpoint = some (n, i, ch) →
        (ch.closed = true → exec (.hostChannelClose m) s = .next { s with conns := conns counts }) ∧
        (ch.closed = false → n.writeWaits ch = true → exec (.hostChannelClose m) s = .next { s with conns := conns (held 3) }) ∧
        (∀ r, ch.closed = false → n.writeWaits ch = false → n.consumerEnded ch = false → ch.cons = .rank r →
          s.net? n.netid = some n → n.chans[i]? = some ch → Answers (exec (.hostChannelClose m) s) (fun t =>
            t.conns = conns counts ∧ t.chan? n.netid i = some { ch with closed := true, token := some ch.wr, wr := ch.wr + 1 } ∧
            t = { s with conns := t.conns, nets := t.nets, procs := t.procs, tiles := t.tiles }))) ∧
      (s.engineRange d .w va bs.length = .error (f, bad) → Answers (exec (.hostMemoryWrite m) s) (fun t => answered 7 result t ∧
        t = { s with conns := t.conns, sent := t.sent })) ∧
      (s.engineRange d .w va bs.length = .ok l → Answers (exec (.hostMemoryWrite m) s) (fun t =>
        answered 7 (leBytes 8 0) t ∧ (∀ c, t.tm.read c = s.tm.read c) ∧
        (let ps := physRange l va bs.length
         ((ps.map (·.addr)).Nodup → (∀ x ∈ ps, ∀ y ∈ ps, x.addr / 64 = y.addr / 64 → x.slot = y.slot) →
           ∀ j < bs.length, (t.gmBytes (physIn l (va + j)) 1).headD 0 = bs.getD j 0) ∧
         s.GmOutside (ps.map (fun p => (p, 1)) ++ leaves) t) ∧
        t = { s with conns := t.conns, sent := t.sent, gm := t.gm, gmKey := t.gmKey, gmStamp := t.gmStamp, gmPois := t.gmPois
                     vdevs := t.vdevs })) ∧
      (cnt ≤ 8192 → s.engineRange d .r va cnt = .error (f, bad) → Answers (exec (.hostMemoryRead m) s) (fun t => answered 6 result t ∧
        t = { s with conns := t.conns, sent := t.sent })) ∧
      (cnt ≤ 8192 → s.engineRange d .r va cnt = .ok l → Answers (exec (.hostMemoryRead m) s) (fun t => ∃ data map,
        data.length = cnt ∧ answered 6 (leBytes 8 0 ++ data ++ map) t ∧
        (∀ j < cnt, let p := physIn l (va + j)
          data.getD j 0 = if setHas s.gmPois (p.addr / 64) then 0 else (s.gmBytes p 1).headD 0) ∧
        (∀ g < (va + cnt + 63) / 64 - va / 64, (leNat map).testBit g = true ↔
          ∃ j < cnt, (va + j) / 64 = va / 64 + g ∧ setHas s.gmPois ((physIn l (va + j)).addr / 64) = true) ∧
        s.GmOutside leaves t ∧
        t = { s with conns := t.conns, sent := t.sent, gm := t.gm, gmKey := t.gmKey, gmStamp := t.gmStamp, gmPois := t.gmPois
                     vdevs := t.vdevs })))

/-! ### Requests -/

/-- R455 to R457: every request is answered by one report of kind 1 that carries its TAG; one whose code is unknown or
not allowed on its connection, whose reserved fields are not zero or whose BODYLEN is wrong is answered with RESULT
3 or 2 and has no other effect. The model's readings: the connection is tested before the fields (log entry 77), an
unknown code gets RESULT 3 (log entry 78), request 13 on the management MAC (log entry 83). -/
def Obligations.RefusedRequests : Prop :=
  ∀ (s : State) (r : HostRequest), s.MemOk → s.power = .ready → s.hears r = true →
    let code := field r.payload 0 2; let u := s.countRequest r
    let only := fun (res detail : Nat) => { u with reports := s.reports ++ [⟨r.management, if r.management then 0xFFFF else r.vdid, 1,
      field r.payload 4 4, 0, leBytes 4 res ++ leBytes 4 0 ++ leBytes 8 detail⟩] }
    let own : List (Nat × Out) := [(1, exec (.shootdown r) s), (2, exec (.migrate r) s), (3, exec (.peersUpdated r)
      s), (4, exec (.multicastGroup r) s), (5, exec (.checkpoint r) s), (6, exec (.copy r) s), (7, exec (.restore r)
      s), (8, exec (.deviceAttestation r) s), (9, exec (.endNetwork r) s), (10, exec (.endProcess r) s), (11, exec
      (.partition r) s), (12, exec (.readRankEntries r) s), (13, exec (.readHealth r) s), (14, exec (.readCharge r)
      s)]
    let monitors : List (Nat × Out) := [(32, exec (.create r) s), (33, exec (.destroy r) s), (34, exec (.keyLoad r)
      s), (35, exec (.keyErase r) s), (36, exec (.packageAttestation r) s), (37, exec (.logRead r) s), (38, exec
      (.archive r) s), (39, exec (.islandLimits r) s), (40, exec (.setOkek r) s), (41, exec (.configuration r) s),
      (42, exec (.firmwareUpdate r) s)]
    u = { s with conns := u.conns } ∧
    (∀ x ∈ own ++ monitors, code = x.1 →
      (r.management = true ∧ x.1 < 32 ∧ x.1 ≠ 13 ∨ r.management = false ∧ (32 ≤ x.1 ∨ s.vdev? r.vdid = none) →
        x.2 = .next (only 3 code) ∧ exec (.unknownRequest r) s = .next (only 3 code)) ∧
      (r.management = decide (32 ≤ x.1) ∨ r.management = true ∧ x.1 = 13 → (r.management = false → (s.vdev? r.vdid).isSome ∧
          ∀ c ∈ s.conns, c.id = r.conn → c.vdid = r.vdid) →
        field r.payload 2 2 ≠ 0 ∨ field r.payload 12 4 ≠ 0 ∨ field r.payload 8 4 ≠ (r.payload.drop 16).length →
        ∃ detail, x.2 = .next (only 2 detail) ∧ exec (.unknownRequest r) s = .next (only 2 detail)) ∧
      (u.reqFault r = none → exec (.unknownRequest r) s = .next u)) ∧
    ((∀ x ∈ own ++ monitors, code ≠ x.1) → exec (.unknownRequest r) s = .next (only 3 code))

/-- R337, R373, R384, R392, R400, R429, R430, R446: what the supervisor's own requests do: a shootdown, a multicast
group, ending a network or a process, a partition, the reads, and attestation of its device. The model's own: what a
message that still waits for room answers for and what becomes of its ranks (log entry 69), RESULT 0 for a rank that
no message has placed (log entry 139), what a shootdown waits for (log entry 121). -/
def Obligations.SupervisorRequests : Prop :=
  ∀ (s : State) (r : HostRequest) (d : VDev) (n : Network) (k : Nat), s.MemOk → s.power = .ready → r.management = false →
    s.vdev? r.vdid = some d → s.hears r = true →
    let u := s.countRequest r; let b := r.payload.drop 16
    let report := fun (res detail : Nat) (data : List Byte) => (⟨false, r.vdid, 1, field r.payload 4 4, 0,
      leBytes 4 res ++ leBytes 4 0 ++ leBytes 8 detail ++ data⟩ : Report)
    let only := fun (res detail : Nat) (data : List Byte) => { u with reports := s.reports ++ [report res detail data] }
    let is := fun (code : Nat) => field r.payload 0 2 = code ∧ u.reqFault r = none
    let netid := field b 0 4; let rank := field b 4 4; let known := s.net? netid = some n ∧ n.vdid = r.vdid
    let away := ∀ n, s.net? netid = some n → n.vdid ≠ r.vdid
    let held := d.waiting.find? (fun w => w.accepted && field w.msg 8 4 == netid)
    let unknown := away ∧ held = none
    let ended := fun (t : State) (p : Pid) => ∀ q, s.proc? p = some q → q.live = true →
      (t.proc? p).map (·.status) = some (.ended .endRequest)
    let hits := fun (e : TlbEntry) => e.vdid = r.vdid ∧ (field b 0 8 = 2 ^ 64 - 1 ∨ e.base ≤ field b 0 8 ∧ field b 0 8 < e.base + e.size)
    let page := u.shootPage d (BitVec.ofNat 64 (field b 0 8))
    let inUse := d.tiles.any fun k => u.inFlight k page
    (is 1 → Answers (exec (.shootdown r) s) (fun t =>
      (∀ k, t.tile k = if k ∈ d.tiles then { s.tile k with
        tlb := (s.tile k).tlb.filter fun e => decide (¬hits e)
        walks := (s.tile k).walks.filter fun w => decide (w.vdid ≠ r.vdid) } else s.tile k) ∧
      (inUse = false → t = { only 0 0 [] with tiles := t.tiles }) ∧
      (inUse = true → t = { u with tiles := t.tiles, shoots := s.shoots ++ [⟨page, r⟩] }))) ∧
    (is 4 →
      (s.mcasts.any (fun m => decide (m.group = field b 0 2)) = true →
        exec (.multicastGroup r) s = .next (only 1 (6 + field b 0 2 * 256) [])) ∧
      (let ms := (List.range (field b 2 2)).map fun i => field b (8 + 2 * i) 2
       s.mcasts.any (fun m => decide (m.group = field b 0 2)) = false → exec (.multicastGroup r) s = .next { only 0 0 [] with
        mcasts := s.mcasts ++ [⟨r.vdid, field b 0 2, field b 4 2, ms, ms.all (· == s.pkg)⟩] })) ∧
    (is 9 → (unknown → exec (.endNetwork r) s = .next (only 4 netid [])) ∧
      (known → Answers (exec (.endNetwork r) s) (fun t => t.reports.getLast? = some (report 0 0 []) ∧
        (∀ p : Pid, p.netid = netid → ended t p) ∧
        ∃ n', t.net? netid = some n' ∧ n'.entries.length = n.entries.length ∧ ∀ e ∈ n'.entries, entryEnded e = true)) ∧
      (∀ w, s.net? netid = none → (∀ q ∈ s.procs, q.pid.netid ≠ netid) → held = some w → Answers (exec (.endNetwork r) s) (fun t =>
        t.reports.getLast? = some (report 0 0 []) ∧
        (t.vdev? r.vdid).map (·.waiting) = some (d.waiting.filter fun x => !(x.accepted && field x.msg 8 4 == netid)) ∧
        (⟨false, d.vdid, 2, 0, netid, leBytes 4 netid ++ leBytes 12 0⟩ : Report) ∈ t.reports ∧
        ∀ k < lmRankCnt w.msg (field w.image 0x10 4), (t.proc? ⟨netid, field w.msg 0x38 4 + k⟩).map (·.status) =
          some (.ended .endRequest)))) ∧
    (is 10 → (unknown → exec (.endProcess r) s = .next (only 4 netid [])) ∧
      (known → n.nproc ≤ rank → exec (.endProcess r) s = .next (only 4 rank [])) ∧
      (known → rank < n.nproc → Answers (exec (.endProcess r) s) (fun t => t.reports.getLast? = some (report 0 0 []) ∧
        ended t ⟨netid, rank⟩)) ∧
      (∀ m, away → held = some m →
        let np := field m.image 0x10 4
        (np ≤ rank → exec (.endProcess r) s = .next (only 4 rank [])) ∧
        (rank < np → exec (.endProcess r) s = .next { only 0 0 [] with
          vdevs := s.vdevs.map fun x => if x.vdid = r.vdid then { x with doomed := ⟨netid, rank⟩ :: x.doomed } else x }))) ∧
    (is 11 → (d.tiles[field b 0 2]? = none → exec (.partition r) s = .next (only 4 (field b 0 2) [])) ∧
      (d.tiles[field b 0 2]? = some k →
        ((∃ q ∈ s.procs, q.live = true ∧ q.tile = k) → exec (.partition r) s = .next (only 5 0 [])) ∧
        ((∀ q ∈ s.procs, q.live = true → q.tile ≠ k) → Answers (exec (.partition r) s) (fun t =>
          (∀ j, t.tile j = if j = k then { s.tile k with lpart := BitVec.ofNat 2 (field b 2 1) } else s.tile j) ∧
          (∀ h, h.id.tile ≠ k → (h ∈ t.harts ↔ h ∈ s.harts)) ∧
          (t.harts.filter fun h => h.id.tile == k).length = 2 ^ field b 2 1 ∧
          (∀ h ∈ t.harts, h.id.tile = k → h.lanes = 32 / 2 ^ field b 2 1 ∧ h.lane0 = 4 * h.id.front) ∧
          t.reports = s.reports ++ [report 0 0 []] ∧
          t = { u with hart := t.hart, others := t.others, tiles := t.tiles, reports := t.reports })))) ∧
    (is 12 → (away → exec (.readRankEntries r) s = .next (only 4 netid [])) ∧
      (known → exec (.readRankEntries r) s = .next
        (let cnt := min (rank + field b 8 4) n.nproc - rank
         only 0 cnt ((List.range cnt).flatMap fun k => leBytes 8 (n.entry (rank + k)).toNat)))) ∧
    (is 13 → (d.tiles.length < field b 0 2 + field b 2 2 →
        ∃ bad, field b 0 2 ≤ bad ∧ d.tiles.length ≤ bad ∧ exec (.readHealth r) s = .next (only 4 bad [])) ∧
      (field b 0 2 + field b 2 2 ≤ d.tiles.length → Answers (exec (.readHealth r) s) (fun t => ∃ data,
        t = only 0 (field b 2 2) data ∧ data.length = 8 * field b 2 2 ∧ ∀ i < field b 2 2, ∀ k, d.tiles[field b 0 2 + i]? = some k →
          let w := leNat ((data.drop (8 * i)).take 8); let T := s.tile k
          w % 4 = T.health.code ∧ w.testBit 3 = T.quarantined ∧ w.testBit 4 = T.laneA.isSome ∧ w.testBit 10 = T.laneB.isSome ∧
          (∀ l, T.laneA = some l → w / 2 ^ 5 % 32 = l % 32) ∧ (∀ l, T.laneB = some l → w / 2 ^ 11 % 32 = l % 32) ∧
          w / 2 ^ 28 = T.wear / 2 ^ 20 % 2 ^ 36))) ∧
    (is 14 → (away → exec (.readCharge r) s = .next (only 4 netid [])) ∧
      (known → n.nproc ≤ rank → exec (.readCharge r) s = .next (only 4 rank [])) ∧
      (known → rank < n.nproc → ∀ q, s.proc? ⟨netid, rank⟩ = some q →
        exec (.readCharge r) s = .next (only 0 1 (leBytes 8 q.charge)))) ∧
    (is 8 → Answers (exec (.deviceAttestation r) s) (fun t => ∃ a, a.length = 256 ∧ t = only 0 1 (a ++ signature a) ∧
      (signature a).length = 7856 ∧ field a 0 4 = 0x41545331 ∧ field a 6 2 = 2 ∧ ((a.drop 8).take 32) = b.take 32 ∧ field a 56 4 = d.vdid % 2 ^ 32 ∧
      field a 192 8 = s.time.toNat ∧ field a 200 8 = s.logNext % 2 ^ 64))

/-- R393 to R400, R425, R426, R434, R456, R481: what the requests on the management MAC do: a device is created from
free resources with its tiles and regions cleared, and destroyed once its networks have ended; keys are loaded and
erased; the log is read with a seal and archived; limits, configuration and firmware are taken. The model's own:
permission before the unwrap (log entry 81), the refusal of slot 0 (log entries 81 and 142), ARCHIVE refused with
RESULT 3 and request 13 on the management MAC (log entry 83), RESULT 1 for a key slot that cannot be taken (log
entry 80). -/
def Obligations.ManagementRequests : Prop :=
  ∀ (s : State) (r : HostRequest) (v : Nat) (f : Nat × Nat) (d : VDev) (key : List Byte), s.MemOk →
    s.power = .ready ∨ s.power = .recovery ∧ field r.payload 0 2 = 42 → r.management = true → s.hears r = true →
    let b := r.payload.drop 16; let u := s.countRequest r
    let report := fun (res detail : Nat) (data : List Byte) => (⟨true, 0xFFFF, 1, field r.payload 4 4, 0,
      leBytes 4 res ++ leBytes 4 0 ++ leBytes 8 detail ++ data⟩ : Report)
    let only := fun (res detail : Nat) (data : List Byte) => { u with reports := s.reports ++ [report res detail data] }
    let is := fun (code : Nat) => field r.payload 0 2 = code ∧ s.reqFault r = none
    let id := field b 0 4; let slot := field b 0 2; let kek := s.okek.getD (List.replicate 32 0)
    let free := fun (t : State) (k : Nat) => (t.tile k).vdid = none ∧ ∀ x < Config.tmBytes, t.tm.read (tmKey k x) = 0
    let hbase := field b 0x18 4; let hlen := field b 0x14 4
    let inLog := s.log.filter fun e => decide (field b 0 8 ≤ e.seq) && decide (e.seq ≤ field b 8 8)
    (is 32 → (Config.monitorCeiling < field b 5 1 → exec (.create r) s = .next (only 3 32 [])) ∧
      (field b 5 1 ≤ Config.monitorCeiling → field b 6 2 / 4 ≠ s.pkg → exec (.create r) s = .next (only 2 6 [])) ∧
      (field b 5 1 ≤ Config.monitorCeiling → field b 6 2 / 4 = s.pkg →
        (s.notFree b = some f → exec (.create r) s = .next (only 1 (f.1 + f.2 * 256) [])) ∧
        (s.notFree b = none → s.freeVdid = some v → s.vdev? v = none ∧
          (∀ k ∈ createTiles b, ∀ x ∈ s.vdevs, k ∉ x.tiles) ∧
          (∀ g ∈ createRegions b, s.epLive g.endpoint = true ∧ ∀ x ∈ s.vdevs, x.forwarding = false → ∀ h ∈ x.regions, h.id ≠ g.id) ∧
          Answers (exec (.create r) s) (fun t => ∃ x, t.vdevs = s.vdevs ++ [x] ∧ x.vdid = v ∧ x.tiles = createTiles b ∧
            x.regions = createRegions b ∧ x.keyMap = createKeys b ∧ x.ceil = field b 5 1 ∧ x.rootEp = field b 6 2 ∧
            x.rootAddr = field b 8 8 ∧ x.vdcfg = sha256 r.payload ∧
            t.reports = s.reports ++ [report 0 (v + x.homeDie * 256) []] ∧
            (∀ k ∈ createTiles b, (t.tile k).vdid = some v ∧ (t.tile k).tvec = BitVec.ofNat 21 (hbase + field b 0x1C 4) ∧
              (t.tile k).hwdog = BitVec.ofNat 32 (field b 0x10 4) ∧
              ∀ j < Config.tmBytes, t.tm.read (tmKey k j) = if hbase ≤ j ∧ j < hbase + hlen then
                (b.drop (crHandler b + (j - hbase))).headD 0 else 0) ∧
            (∀ g ∈ createRegions b, ∀ key, ∀ j < g.size, t.gmByte key (g.endpoint * Config.localBytes + g.base + j) = 0) ∧
            (∀ k, k ∉ createTiles b → t.tile k = s.tile k) ∧ t.procs = s.procs ∧ t.nets = s.nets)))) ∧
    (is 33 → (s.vdev? id = none → exec (.destroy r) s = .next (only 4 id [])) ∧
      (s.vdev? id = some d →
        (s.migrations.any (fun g => g.vdid == id) = true → exec (.destroy r) s = .next (only 5 0 [])) ∧
        (s.migrations.any (fun g => g.vdid == id) = false →
          ((∃ n ∈ s.nets, n.vdid = id) → exec (.destroy r) s =
            .next (u.mapVdev id fun d => { d with destroyTag := some (field r.payload 4 4) })) ∧
          ((∀ n ∈ s.nets, n.vdid ≠ id) → Answers (exec (.destroy r) s) (fun t => t.vdev? id = none ∧
            t.reports = s.reports ++ [report 0 0 []] ∧ (∀ k ∈ d.tiles, free t k) ∧ (∀ k, k ∉ d.tiles → t.tile k = s.tile k) ∧
            (∀ k ∈ d.keyMap, k ≠ 0 → numGet t.keySlots k = none) ∧ (∀ c ∈ t.conns, c.vdid ≠ id)))))) ∧
    (is 34 →
      (slot = 0 ∨ (∃ x ∈ s.vdevs, slot ∈ x.keyMap) → exec (.keyLoad r) s = .next (only 3 34 [])) ∧
      (slot ≠ 0 → (∀ x ∈ s.vdevs, slot ∉ x.keyMap) →
        (keyUnwrap kek (b.drop 8) = none → exec (.keyLoad r) s = .next (only 6 0 [])) ∧
        (keyUnwrap kek (b.drop 8) = some key →
          (key.take 32 = (key.drop 32).take 32 → exec (.keyLoad r) s = .next (only 6 0 [])) ∧
          (key.take 32 ≠ (key.drop 32).take 32 → Answers (exec (.keyLoad r) s) (fun t => numGet t.keySlots slot = some key ∧
            (∀ j, j ≠ slot → numGet t.keySlots j = numGet s.keySlots j) ∧ t = { only 0 0 [] with keySlots := t.keySlots }))))) ∧
    (is 35 → (slot = 0 → exec (.keyErase r) s = .next (only 3 35 [])) ∧
      (slot ≠ 0 → Answers (exec (.keyErase r) s) (fun t => numGet t.keySlots slot = none ∧
        (∀ j, j ≠ slot → numGet t.keySlots j = numGet s.keySlots j) ∧ t = { only 0 0 [] with keySlots := t.keySlots }))) ∧
    (is 36 → Answers (exec (.packageAttestation r) s) (fun t => ∃ a, a.length = 256 ∧ t = only 0 1 (a ++ signature a) ∧
      (signature a).length = 7856 ∧ field a 0 4 = 0x41545331 ∧ field a 6 2 = 1 ∧ ((a.drop 8).take 32) = b.take 32 ∧ field a 56 4 = 2 ^ 32 - 1 ∧
      field a 192 8 = s.time.toNat ∧ field a 200 8 = s.logNext % 2 ^ 64)) ∧
    (is 13 → (2048 < slot + field b 2 2 →
        ∃ bad, slot ≤ bad ∧ 2048 ≤ bad ∧ exec (.readHealth r) s = .next (only 4 bad [])) ∧
      (slot + field b 2 2 ≤ 2048 → exec (.readHealth r) s = .next
        (only 0 (field b 2 2) ((List.range (field b 2 2)).flatMap fun i => leBytes 8 (healthWord (slot + i) (s.tile (slot + i))))))) ∧
    (is 37 → Answers (exec (.logRead r) s) (fun t => ∃ x, s.seals ++ [x] <+: t.seals ∧ x.kind = 2 ∧ x.head = s.logHead ∧
      x.time = s.time ∧ x.sig = signature x.body ∧ x.bytes.length = 7856 + x.body.length ∧ s.log <+: t.log ∧
      (s.seals = [] → t.log = s.log → t.reports = s.reports ++ [report 0 (inLog.length + 1) (inLog.flatMap LogEntry.bytes ++ x.bytes)]) ∧
      ((∀ e ∈ t.log.head?, field b 0 8 ≤ e.seq) → t.log ≠ [] → t.logNext ≤ field b 8 8 + 1 → t.lastRead = t.logNext) ∧
      (2 ^ 20 ≤ Config.logBytes - (s.logUsed + 7920) → t.log = s.log) ∧
      t = { u with log := t.log, seals := t.seals, logUsed := t.logUsed, logNearFull := t.logNearFull, logNext := t.logNext
                   logHead := t.logHead, dieNext := t.dieNext, lastRead := t.lastRead, reports := t.reports })) ∧
    (is 38 → (s.lastRead ≠ s.logNext → exec (.archive r) s = .next (only 3 38 [])) ∧
      (s.lastRead = s.logNext → Answers (exec (.archive r) s) (fun t => (∃ e, t.log = [e] ∧ e.seq = s.logNext ∧
          e.prev = s.logHead ∧ e.event.cls = 16 ∧ e.event.detail = BitVec.ofNat 64 (s.logNext - 1) ∧ t.logHead = e.hash) ∧
        t.logNext = s.logNext + 1 ∧ t.logNearFull = false ∧ t.reports = s.reports ++ [report 0 0 []] ∧
        t = { u with log := t.log, seals := t.seals, logUsed := t.logUsed, logNearFull := t.logNearFull, logNext := t.logNext
                     logHead := t.logHead, dieNext := t.dieNext, reports := t.reports }))) ∧
    (is 39 → Answers (exec (.islandLimits r) s) (fun t =>
      (let i := field b 0 1; let x := s.island i
       t.island i = { x with
         cap := field b 8 1, tgov := field b 9 1
         point := min (field b 8 1 - (if s.tiles.any (fun k => Config.islandOf k.1 == i && decide (k.2.health = .derated)) then 1 else 0) -
           x.lowered) x.heat }) ∧
      (∀ j, j ≠ field b 0 1 → t.island j = s.island j) ∧ t = { only 0 0 [] with islands := t.islands })) ∧
    (is 40 → (keyUnwrap kek b = none → exec (.setOkek r) s = .next (only 6 0 [])) ∧
      (keyUnwrap kek b = some key → exec (.setOkek r) s = .next { only 0 0 [] with okek := some key })) ∧
    (is 41 → exec (.configuration r) s = .next { only 0 0 [] with nextPkg := field b 0 2, nextPtpDomain := field b 2 1 }) ∧
    (is 42 → (Config.firmwareOk b = true → exec (.firmwareUpdate r) s = .next { only 0 0 [] with firmware := b }) ∧
      (Config.firmwareOk b = false → exec (.firmwareUpdate r) s = .next (only 6 0 [])))

/-! ### Moving a device, checkpoints and restore -/

/-- R402 to R407: a migration needs a shell at its destination and logs the device's writes; a swap reads and clears one
bitmap word and its marked units are copied as they stand; once every process is off its hart at a point that serves
and its stores are done, the transfer commands stop and every entry is in transit; then the device leaves, its keys
and the memory of its tiles with it, and its requests are forwarded until the peers are updated; a stop that takes
too long, or a destination that fails, leaves everything as it was. The model's own: the last steps of a migration
as one act (log entry 70), RESULT 2 at once where no shell is held (log entry 131), the places at the destination
(log entry 59). -/
def Obligations.DeviceMigration : Prop :=
  ∀ (s : State) (r : HostRequest) (v : Nat) (stoplim : Bool) (d : VDev) (g : Migration) (reg : Region) (id n y : Nat)
    (rest : List (Nat × Nat × Nat)), s.MemOk → s.vdev? v = some d →
    let u := s.countRequest r; let b := r.payload.drop 16
    let answer := fun (v tag : Nat) (res : Nat) => (⟨false, v, 1, tag, 0, leBytes 4 res ++ leBytes 4 0 ++ leBytes 8 0⟩ : Report)
    let told := fun (v tag res : Nat) => (⟨false, v, 14, tag, 0, leBytes 4 res ++ leBytes 4 0⟩ : Report)
    let asks := fun (code : Nat) => s.power = .ready ∧ s.hears r = true ∧ r.management = false ∧ r.vdid = v ∧ field r.payload 0 2 = code ∧
      u.reqFault r = none
    let tag := field r.payload 4 4
    let busy := (∃ m ∈ s.migrations, m.vdid = v) ∨ d.forwarding = true ∨ ∃ c ∈ s.ckpts, c.vdid = v
    let runs := d.regions.map fun r => (r.id, 0, r.size / 4096)
    let words := d.regions.map fun r => (r.id, 0, (r.size / 4096 + 63) / 64)
    let ends := fun (t : State) (res : Nat) => t.reports = s.reports ++ [told g.vdid g.tag res, answer g.vdid g.tag 0] ∧
      ∀ m, m ∈ t.migrations ↔ m ∈ s.migrations ∧ m.vdid ≠ g.vdid
    let marks := fun (t : State) (b : Bool) => t.procs = s.procs.map fun q =>
      if q.vdid = v ∧ q.live = true then { q with stopDue := b } else q
    let found := s.migrations.find? (fun m => m.vdid == v)
    let becomes := fun (t : State) (f : Migration → Migration) =>
      t.migrations = s.migrations.map fun m => if m.vdid = v then f m else m
    let still := (∀ q ∈ s.procs, q.vdid = v → q.live = true → (∀ h, q.status ≠ .onHart h) ∧ s.stopHolds q = true) ∧
      ∀ a ∈ s.asyncs, a.writer = .drain ∨ a.writer = .vstm → ∀ p q, a.pid = some p → s.proc? p = some q → q.vdid ≠ v
    let transit := fun (x : Network) (k : Nat) (e : Word) =>
      if x.mine k = true ∧ entryPlaced e = true ∧ entryEnded e = false then e ||| 0x200000000#64 else e
    let unit := fun (r : Region) (u : Nat) => r.endpoint * Config.localBytes + r.base + 4096 * u
    (asks 2 →
      (busy → exec (.migrate r) s = .next { u with reports := s.reports ++ [answer v tag 5] }) ∧
      (¬busy → Config.shellHeld s.ticks (field b 0 2) = false →
        exec (.migrate r) s = .next { u with reports := s.reports ++ [told v tag 2, answer v tag 0] }) ∧
      (¬busy → Config.shellHeld s.ticks (field b 0 2) = true → Answers (exec (.migrate r) s) (fun t =>
        t.vdev? v = some { d with logging := true, dirty := [] } ∧ (∀ w, w ≠ v → t.vdev? w = s.vdev? w) ∧
        t = { u with
          migrations := s.migrations ++ [⟨v, tag, field b 0 2, field b 2 1, field b 4 4, .rounds, 1, 0, runs, []⟩]
          vdevs := t.vdevs }))) ∧
    (found = none → exec (.migrationQuiesced v) s = .next s ∧ exec (.migrationAbort v stoplim) s = .next s) ∧
    (found = some g →
      (g.copy = (id, n, y) :: rest → d.regions.find? (fun r => r.id == id) = some reg →
        let t := s.copyOn d g; let at_ := movedBase g.destPkg id + 4096 * n
        (∀ x < 4096, t.gm.read (at_ + x) = s.gm.read (unit reg n + x)) ∧
        (∀ c, c < at_ ∨ at_ + 4096 ≤ c → t.gm.read c = s.gm.read c) ∧
        becomes t (fun m => { m with copy := if y ≤ 1 then rest else (id, n + 1, y - 1) :: rest }) ∧
        t = { s with
          gm := t.gm, gmKey := t.gmKey, gmFull := t.gmFull, gmPois := t.gmPois, migrations := t.migrations
          logEvents := t.logEvents }) ∧
      (g.copy = [] → g.words = (id, n, y) :: rest →
        let t := s.copyOn d g
        (∀ d', t.vdev? v = some d' → (∀ x, x ∈ d'.dirty ↔ x ∈ d.dirty ∧ ¬(x.1 = id ∧ x.2 / 64 = n)) ∧
          d' = { d with dirty := d'.dirty }) ∧
        (∀ m ∈ t.migrations, m.vdid = v → m.words = (if y ≤ 1 then rest else (id, n + 1, y - 1) :: rest) ∧
          ∀ x, x ∈ m.copy ↔ x.1 = id ∧ x.2.1 / 64 = n ∧ x.2.2 = 1 ∧ (id, x.2.1) ∈ d.dirty) ∧
        t = { s with vdevs := t.vdevs, migrations := t.migrations }) ∧
      (g.copy = [] → g.words = [] → g.phase = .rounds →
        let t := s.copyOn d g
        (g.round < 2 + g.rounds → becomes t (fun m => { m with round := m.round + 1, words := words }) ∧
          t = { s with migrations := t.migrations }) ∧
        (2 + g.rounds ≤ g.round → becomes t (fun m => { m with phase := .stopping, stopAt := s.time }) ∧ marks t true ∧
          t = { s with migrations := t.migrations, procs := t.procs })) ∧
      (¬(g.phase = .stopping ∧ still) → exec (.migrationQuiesced v) s = .next s) ∧
      (g.phase = .stopping → still → Answers (exec (.migrationQuiesced v) s) (fun t =>
        becomes t (fun m => { m with phase := .final, words := words }) ∧
        (∀ a ∈ t.asyncs, a.writer = .engine → s.asyncOf v a = true → a.stopped = true) ∧
        (t.nets = s.nets.map fun x => if x.vdid = v then { x with entries := x.entries.mapIdx (transit x) } else x) ∧
        t = { s with
          asyncs := t.asyncs, nets := t.nets, migrations := t.migrations, tm := t.tm, tmFull := t.tmFull, tmPois := t.tmPois
          gm := t.gm, gmKey := t.gmKey, gmStamp := t.gmStamp, gmPois := t.gmPois, gmFull := t.gmFull, vdevs := t.vdevs
          logEvents := t.logEvents })) ∧
      (d.peers = [] →
        let t := s.handOver d g
        ends t 0 ∧ (∀ q, q ∈ t.procs ↔ q ∈ s.procs ∧ q.vdid ≠ v) ∧ (∀ n, n ∈ t.nets ↔ n ∈ s.nets ∧ n.vdid ≠ v) ∧
        (∀ k ∈ d.keyMap, k ≠ 0 → numGet t.keySlots k = none) ∧
        (∀ k ∈ d.tiles, (t.tile k).vdid = none ∧ ∀ x < Config.tmBytes, t.tm.read (tmKey k x) = 0) ∧
        (∀ k, k ∉ d.tiles → t.tile k = s.tile k) ∧
        (∃ x, t.departed = s.departed ++ [x] ∧ x.vdid = v ∧ x.destPkg = g.destPkg ∧
          (∀ q, q ∈ x.procs ↔ q ∈ s.procs ∧ q.vdid = v) ∧ x.tms.length = d.tiles.length ∧ x.waiting = d.waiting) ∧
        t.vdev? v = some { d with
          tiles := [], keyMap := [], waiting := [], doomed := [], logging := false, dirty := [], forwarding := true } ∧
        t.harts = s.harts) ∧
      (stoplim = true → ¬(g.phase = .stopping ∧ g.stopAt.toNat + 1000 * g.stoplim ≤ s.time.toNat) →
        exec (.migrationAbort v stoplim) s = .next s) ∧
      (stoplim = false ∨ g.phase = .stopping ∧ g.stopAt.toNat + 1000 * g.stoplim ≤ s.time.toNat → d.peers = [] →
        Answers (exec (.migrationAbort v stoplim) s) (fun t => ends t (if stoplim then 1 else 2) ∧ marks t false ∧
          t.vdev? v = some { d with logging := false, dirty := [] } ∧ (g.phase ≠ .final → t.nets = s.nets) ∧
          (∀ a, a ∈ t.asyncs → s.asyncOf v a = true → a.stopped = false) ∧
          ((∀ a ∈ s.asyncs, s.asyncOf v a = true → a.stopped = false) → s.MemSame t) ∧ (∀ c, t.tm.read c = s.tm.read c) ∧
          t = { s with
            migrations := t.migrations, vdevs := t.vdevs, procs := t.procs, reports := t.reports, asyncs := t.asyncs
            nets := t.nets, gm := t.gm, gmKey := t.gmKey, gmStamp := t.gmStamp, gmPois := t.gmPois }))) ∧
    (asks 3 →
      (d.forwarding = true → Answers (exec (.peersUpdated r) s) (fun t => t.vdev? v = none ∧
        (∀ w, w ≠ v → t.vdev? w = s.vdev? w) ∧ (∀ x, x ∈ t.departed ↔ x ∈ s.departed ∧ x.vdid ≠ v) ∧
        t = { u with vdevs := t.vdevs, departed := t.departed, reports := s.reports ++ [answer v tag 0] })) ∧
      (d.forwarding = false → exec (.peersUpdated r) s = .next { u with reports := s.reports ++ [answer v tag 0] }))

/-- R461 to R467: a checkpoint makes the stop fall due for every process of the job; once they are still it is
quiescent, or it is abandoned when QBOUND has passed; the copy seals a shard of the job's state and lets the
processes go on, and the buddy's seal completes the step. The model's own: RESULT 2 for a step that is not greater
(log entry 146), what a copy waits for (log entry 85), the size of the reserve (log entry 150), the bytes of a shard
that its seal covers (log entry 149). -/
def Obligations.Checkpoints : Prop :=
  ∀ (s : State) (r : HostRequest) (d : VDev) (job : Word) (c : Ckpt), s.MemOk →
    let u := s.countRequest r; let b := r.payload.drop 16; let tag := field r.payload 4 4
    let answer := fun (v tag res detail : Nat) => (⟨false, v, 1, tag, 0, leBytes 4 res ++ leBytes 4 0 ++ leBytes 8 detail⟩ : Report)
    let told := fun (c : Ckpt) (st : Nat) => (⟨false, c.vdid, 8, c.tag, 0,
      leBytes 8 c.job.toNat ++ leBytes 8 c.step.toNat ++ leBytes 4 st ++ leBytes 4 0⟩ : Report)
    let asks := fun (code : Nat) => s.power = .ready ∧ s.hears r = true ∧ r.management = false ∧ s.vdev? r.vdid = some d ∧
      field r.payload 0 2 = code ∧ u.reqFault r = none
    let J : Word := BitVec.ofNat 64 (field b 0 8); let S : Word := BitVec.ofNat 64 (field b 8 8)
    let nets := (List.range (field b 19 1)).map fun i => field b (40 + 4 * i) 4
    let known := fun (n : Nat) => ∃ x, s.net? n = some x ∧ x.vdid = r.vdid
    let busy := (∃ m ∈ s.migrations, m.vdid = d.vdid) ∨ ∃ x ∈ s.ckpts, x.job = J
    let newer := (∀ x ∈ s.shards, x.job = J → x.step.toNat < S.toNat) ∧ ∀ x ∈ s.lastSteps, x.1 = J → x.2.toNat < S.toNat
    let marks := fun (t : State) (nets : List Nat) (b : Bool) => t.procs = s.procs.map fun q =>
      if q.pid.netid ∈ nets ∧ q.live = true then { q with stopDue := b } else q
    let still := (∀ q ∈ s.procs, q.pid.netid ∈ c.nets → q.live = true → (∀ h, q.status ≠ .onHart h) ∧ s.stopHolds q = true) ∧
      ∀ a ∈ s.asyncs, a.writer ∈ [Writer.engine, .drain, .vstm] → ∀ p q, a.pid = some p → s.proc? p = some q →
        q.pid.netid ∉ c.nets
    let drops := fun (t : State) => ∀ x, x ∈ t.ckpts ↔ x ∈ s.ckpts ∧ x.job ≠ c.job
    let found := s.ckpts.find? (fun x => decide (x.job = job)) = some c
    let copies := asks 6 ∧ s.ckpts.find? (fun x => decide (x.job = J)) = some c ∧ c.vdid = d.vdid ∧ c.phase = .quiesced ∧ c.step = S
    let c' := { c with tag := tag }; let X := u.shardOf c'; let fits := (u.storeChunks X).shardFits X
    (asks 5 →
      (∀ n, nets.find? (fun n => decide (¬known n)) = some n →
        exec (.checkpoint r) s = .next { u with reports := s.reports ++ [answer r.vdid tag 4 n] }) ∧
      ((∀ n ∈ nets, known n) →
        (busy → exec (.checkpoint r) s = .next { u with reports := s.reports ++ [answer r.vdid tag 5 0] }) ∧
        (¬busy → ¬newer → exec (.checkpoint r) s = .next { u with reports := s.reports ++ [answer r.vdid tag 2 8] }) ∧
        (¬busy → newer → Answers (exec (.checkpoint r) s) (fun t => marks t nets true ∧ ∃ x, t.ckpts = s.ckpts ++ [x] ∧
          x.job = J ∧ x.step = S ∧ x.vdid = d.vdid ∧ x.tag = tag ∧ x.buddy = field b 16 2 ∧ x.mode = field b 18 1 ∧ x.nets = nets ∧
          x.qbound = field b 24 4 ∧ x.startedAt = s.time ∧ x.phase = .stopping ∧ x.regions.length = field b 20 1 ∧
          (∀ y, y ∈ t.lastSteps ↔ y = (J, S) ∨ y ∈ s.lastSteps ∧ y.1 ≠ J) ∧
          t = { u with ckpts := t.ckpts, procs := t.procs, lastSteps := t.lastSteps })))) ∧
    ((∀ x ∈ s.ckpts, x.job ≠ job) → exec (.checkpointQuiesced job) s = .next s ∧ exec (.checkpointAbandon job) s = .next s ∧
      exec (.buddySeal job) s = .next s) ∧
    (found →
      (c.phase ≠ .stopping → exec (.checkpointQuiesced job) s = .next s ∧ exec (.checkpointAbandon job) s = .next s) ∧
      (¬still → exec (.checkpointQuiesced job) s = .next s) ∧
      (c.phase = .stopping → still → exec (.checkpointQuiesced job) s = .next { s with
        ckpts := s.ckpts.map fun x => if x.job = job then { x with phase := .quiesced } else x
        reports := s.reports ++ [told c 1, answer c.vdid c.tag 0 0] }) ∧
      (s.time.toNat < c.startedAt.toNat + 1000 * c.qbound → exec (.checkpointAbandon job) s = .next s) ∧
      (c.phase = .stopping → c.startedAt.toNat + 1000 * c.qbound ≤ s.time.toNat →
        Answers (exec (.checkpointAbandon job) s) (fun t => drops t ∧ marks t c.nets false ∧
          t = { s with ckpts := t.ckpts, procs := t.procs, reports := s.reports ++ [told c 4, answer c.vdid c.tag 0 0] })) ∧
      (c.phase ≠ .copied → exec (.buddySeal job) s = .next s) ∧
      (c.phase = .copied → Answers (exec (.buddySeal job) s) (fun t => drops t ∧
        t = { s with ckpts := t.ckpts, reports := s.reports ++ [told c 3] }))) ∧
    (asks 6 → (∀ x ∈ s.ckpts, x.job = J → x.vdid ≠ d.vdid ∨ x.phase ≠ .quiesced ∨ x.step ≠ S) →
      exec (.copy r) s = .next { u with reports := s.reports ++ [answer r.vdid tag 4 J.toNat] }) ∧
    (copies →
      (fits = false ∨ Config.copyWorks s.ticks = false → Answers (exec (.copy r) s) (fun t => drops t ∧
        marks t c.nets false ∧ t.shards = s.shards ∧
        t.reports = s.reports ++ [told c' (if fits then 6 else 5), answer r.vdid tag 0 0] ∧
        t = { u with ckpts := t.ckpts, procs := t.procs, reports := t.reports })) ∧
      (fits = true → Config.copyWorks s.ticks = true → Answers (exec (.copy r) s) (fun t =>
        marks t c.nets false ∧
        t.reports = s.reports ++ [told c' 2] ++ (if c.mode = 1 then [told c' 3] else []) ++ [answer r.vdid tag 0 0] ∧
        (c.mode = 1 → drops t) ∧
        (c.mode ≠ 1 → t.ckpts = s.ckpts.map fun x => if x.job = J then { c' with phase := .copied } else x) ∧
        (∃ x, t.shards.getLast? = some x ∧ x.job = J ∧ x.step = S ∧ x.sealed t.stored = true ∧
          x.store = (if c.mode = 1 then some c.store else none) ∧ field x.sealBytes 0 8 = S.toNat ∧
          (x.sealBytes.drop 8).take 32 = sha256 (x.body t.stored) ∧
          (c.mode = 1 → ∀ k ∈ x.chunks, ∃ z ∈ t.stored, z.1 = c.store ∧ z.2.key = k.key) ∧
          (∀ n, n ∈ x.nets ↔ n ∈ s.nets ∧ n.netid ∈ c.nets) ∧
          (∀ q, q ∈ x.procs ↔ q ∈ s.procs ∧ q.pid.netid ∈ c.nets) ∧
          (∀ q ∈ x.procs, q.live = true →
            (∀ y < Config.tmBytes, ∃ k ∈ x.chunks, k.kind = 0 ∧ k.base ≤ tmKey q.tile y ∧ tmKey q.tile y < k.base + k.len ∧
              k.cells.read (tmKey q.tile y) = s.tm.read (tmKey q.tile y)) ∧
            (∃ k ∈ x.chunks, k.kind = 1 ∧ k.base = q.ctxphys ∧ k.len = Config.ctxAreaBytes ∧
              ∀ y < Config.ctxAreaBytes, k.cells.read (q.ctxphys + y) = s.gm.read (q.ctxphys + y)))) ∧
        (t.shards.filter fun x => decide (x.job = J)).length ≤ 2 ∧ (∀ x ∈ s.shards, x.job ≠ J → x ∈ t.shards) ∧
        (c.mode ≠ 1 → t.stored = s.stored) ∧ (∃ l, t.stored = s.stored ++ l ∧ ∀ z ∈ l, ∀ y ∈ s.stored, y.1 = z.1 → y.2.key ≠ z.2.key) ∧
        t = { u with ckpts := t.ckpts, procs := t.procs, shards := t.shards, stored := t.stored, reports := t.reports })))

/-- R467, R468: a restore reports the steps held; it fails with its code and changes nothing else, or the job's live
state gives way to that of the newest step that every package holds sealed, with the failed package's entries and
regions moved to the spare. The model's own: error 1 is given before 3, 4 and 2 (log entry 85), the steps of peers
and the places on the spare are free values (log entry 86), the report of the steps held (log entry 151). -/
def Obligations.Restores : Prop :=
  ∀ (s : State) (r : HostRequest) (d : VDev) (e : Nat) (x : Shard), s.MemOk → s.power = .ready → r.management = false →
    s.vdev? r.vdid = some d → s.hears r = true → field r.payload 0 2 = 7 →
    let u := s.countRequest r; let b := r.payload.drop 16; let tag := field r.payload 4 4
    let answer := fun (res : Nat) => (⟨false, r.vdid, 1, tag, 0, leBytes 4 res ++ leBytes 4 0 ++ leBytes 8 0⟩ : Report)
    let told := fun (step res : Nat) => (⟨false, r.vdid, 9, tag, 0,
      leBytes 8 (field b 0 8) ++ leBytes 8 step ++ leBytes 4 res ++ leBytes 4 0⟩ : Report)
    let J : Word := BitVec.ofNat 64 (field b 0 8); let spare := field b 8 2; let failed := field b 10 2
    let common := fun (y : Shard) => y ∈ s.shards ∧ y.job = J ∧ y.sealed s.stored = true ∧
      Config.peersHold J.toNat y.step.toNat = true
    let job := fun (n : Nat) => ∃ m ∈ x.nets, m.netid = n
    let steps : Report := ⟨false, r.vdid, 0, tag, 0, leBytes 8 (field b 0 8) ++
      (s.shards.filter fun y => decide (y.job = J ∧ y.sealed s.stored = true)).flatMap fun y => leBytes 8 y.step.toNat⟩
    let others := fun (k : Nat) (a : Nat) => ∀ p ∈ s.othersOn k (x.nets.map (·.netid)), a < p.1 ∨ p.1 + p.2 ≤ a
    u.reqFault r = none →
    ((∃ m ∈ s.migrations, m.vdid = d.vdid) → exec (.restore r) s = .next { u with reports := s.reports ++ [answer 5] }) ∧
    ((∀ m ∈ s.migrations, m.vdid ≠ d.vdid) →
      (u.restoreTest J spare failed = .error e →
        exec (.restore r) s = .next { u with reports := s.reports ++ [steps, told 0 e, answer 0] }) ∧
      ((∀ y, ¬common y) → u.restoreTest J spare failed = .error 1) ∧
      (u.restoreTest J spare failed = .ok x → common x ∧ (∀ y, common y → y.step.toNat ≤ x.step.toNat) ∧
        Answers (exec (.restore r) s) (fun t =>
          t.reports = s.reports ++ [steps, told x.step.toNat 0, answer 0] ∧
          (∀ n, n ∈ t.nets → job n.netid ∨ n ∈ s.nets) ∧
          (∀ q ∈ x.procs, job q.pid.netid → ∃ q' ∈ t.procs, q' = { q with stopDue := false, status := q'.status } ∧
            (∀ y, q.status = .ready y → ∃ z, q'.status = .ready z)) ∧
          (∀ q ∈ t.procs, job q.pid.netid → ∃ p ∈ x.procs, p.pid = q.pid) ∧
          (∀ m ∈ x.nets, ∃ n ∈ t.nets, n.netid = m.netid ∧ n.chans = m.chans ∧ n.entries.length = m.entries.length ∧
            ∀ (k : Nat) (w : Word), m.entries[k]? = some w → (entryPlaced w = false ∨ w.toNat % 2 ^ 13 / 4 ≠ failed → n.entries[k]? = some w) ∧
              (entryPlaced w = true → w.toNat % 2 ^ 13 / 4 = failed → spare < 2 ^ 11 →
                n.entries[k]?.any (fun (z : Word) => decide (z.toNat / 2 ^ 13 = w.toNat / 2 ^ 13 ∧
                  z.toNat % 2 ^ 13 = 4 * spare + w.toNat % 4)) = true)) ∧
          ((∀ k ∈ x.chunks, k.cells.wf = true) → x.chunks.Pairwise (fun a b => (a.kind = 0 ↔ b.kind ≠ 0) ∨
              a.base + a.len ≤ b.base ∨ b.base + b.len ≤ a.base) →
            (∀ k ∈ x.chunks, k.kind = 0 → ∀ y < k.len, others k.tile (k.base + y) →
              t.tm.read (k.base + y) = k.cells.read (k.base + y)) ∧
            ((∀ g ∈ d.regions, g.endpoint / 4 ≠ failed) →
              ∀ k ∈ x.chunks, k.kind ≠ 0 → ∀ y < k.len, t.gm.read (k.base + y) = k.cells.read (k.base + y))) ∧
          (t.vdev? r.vdid).map (·.regions) = some (d.regions.map fun g => if g.endpoint / 4 = failed then
            { g with endpoint := movedBase spare g.id / Config.localBytes, base := movedBase spare g.id % Config.localBytes }
            else g))))
end

