-- ==== Sys2Proof/Laws/Memory.lean ====
section
/-! SUPPORT. The laws of byte memory: the canonical form is kept by every operation, and what a read gives after a
write. -/

namespace Sys2Proof.Machine

/-! ### The canonical form -/

theorem Memory.wfFrom_cons (lo k : Nat) (b : Byte) (m : Memory) :
    Memory.wfFrom lo ((k, b) :: m) = true ↔ lo ≤ k ∧ b ≠ Memory.blank ∧ Memory.wfFrom (k + 1) m = true := by
  simp [Memory.wfFrom, and_assoc]

theorem Memory.wfFrom_le {lo hi : Nat} (h : lo ≤ hi) : ∀ {m : Memory}, m.wfFrom hi = true → m.wfFrom lo = true
  | [], _ => rfl
  | (k, b) :: m, hm => by
    rw [Memory.wfFrom_cons] at *
    exact ⟨Nat.le_trans h hm.1, hm.2⟩

/-- Below the bound of a canonical memory every byte is blank. -/
theorem Memory.read_below {lo a : Nat} (h : a < lo) : ∀ {m : Memory}, m.wfFrom lo = true → m.read a = Memory.blank
  | [], _ => rfl
  | (k, b) :: m, hm => by
    rw [Memory.wfFrom_cons] at hm
    have : a < k := by omega
    simp [Memory.read, Nat.ne_of_lt this, this]

theorem Memory.wfFrom_write {a : Nat} {v : Byte} : ∀ {m : Memory} {lo : Nat}, lo ≤ a → m.wfFrom lo = true →
    (m.write a v).wfFrom lo = true
  | [], lo, h, _ => by
    by_cases hv : v = Memory.blank <;> simp [Memory.write, hv, Memory.wfFrom, h]
  | (k, b) :: m, lo, h, hm => by
    rw [Memory.wfFrom_cons] at hm
    obtain ⟨hk, hb, hm⟩ := hm
    unfold Memory.write
    split
    · split
      · exact (Memory.wfFrom_cons ..).2 ⟨hk, hb, hm⟩
      · rename_i hlt hv
        exact (Memory.wfFrom_cons ..).2 ⟨h, hv, (Memory.wfFrom_cons ..).2 ⟨hlt, hb, hm⟩⟩
    · split
      · rename_i he
        split
        · exact Memory.wfFrom_le (by omega) hm
        · rename_i hv
          exact (Memory.wfFrom_cons ..).2 ⟨h, hv, he ▸ hm⟩
      · exact (Memory.wfFrom_cons ..).2 ⟨hk, hb, Memory.wfFrom_write (by omega) hm⟩

/-- A write keeps the canonical form. -/
theorem Memory.wf_write {m : Memory} (a : Nat) (v : Byte) (h : m.wf = true) : (m.write a v).wf = true :=
  Memory.wfFrom_write (Nat.zero_le a) h

/-- A run of writes keeps the canonical form. -/
theorem Memory.wf_store : ∀ (bs : List Byte) {m : Memory} (a : Nat), m.wf = true → (m.store a bs).wf = true
  | [], _, _, h => h
  | b :: bs, _, a, h => Memory.wf_store bs (a + 1) (Memory.wf_write a b h)

/-- Separate writes keep the canonical form. -/
theorem Memory.wf_storeAll : ∀ (cs : List Host.Cell) {m : Memory}, m.wf = true → (m.storeAll cs).wf = true
  | [], _, h => h
  | (a, b) :: cs, _, h => Memory.wf_storeAll cs (Memory.wf_write a b h)

theorem Memory.wfFrom_filter (p : Host.Cell → Bool) : ∀ {m : Memory} {lo : Nat}, m.wfFrom lo = true →
    Memory.wfFrom lo (List.filter p m) = true
  | [], _, _ => rfl
  | (k, b) :: m, lo, h => by
    rw [Memory.wfFrom_cons] at h
    rw [List.filter_cons]
    split
    · exact (Memory.wfFrom_cons ..).2 ⟨h.1, h.2.1, Memory.wfFrom_filter p h.2.2⟩
    · exact Memory.wfFrom_le (by omega) (Memory.wfFrom_filter p h.2.2)

/-- A part of a canonical memory is canonical. -/
theorem Memory.wf_filter {m : Memory} (p : Host.Cell → Bool) (h : m.wf = true) : Memory.wf (List.filter p m) = true :=
  Memory.wfFrom_filter p h

/-- Clearing a range keeps the canonical form. -/
theorem Memory.wf_clear {m : Memory} (lo n : Nat) (h : m.wf = true) : (Memory.clear lo n m).wf = true :=
  Memory.wf_filter _ h

/-! ### Reading -/

theorem Memory.readFrom_write_same {a : Nat} {v : Byte} : ∀ {m : Memory} {lo : Nat}, m.wfFrom lo = true →
    (m.write a v).read a = v
  | [], _, _ => by by_cases hv : v = Memory.blank <;> simp [Memory.write, hv, Memory.read]
  | (k, b) :: m, lo, hm => by
    rw [Memory.wfFrom_cons] at hm
    obtain ⟨-, -, hm⟩ := hm
    unfold Memory.write
    split
    · rename_i hlt
      split
      · rename_i hv; simp [Memory.read, Nat.ne_of_lt hlt, hlt, hv]
      · simp [Memory.read]
    · split
      · rename_i he
        split
        · rename_i hv; rw [Memory.read_below (by omega) hm, hv]
        · simp [Memory.read]
      · rename_i h1 h2
        simp [Memory.read, h1, h2, Memory.readFrom_write_same hm]

theorem Memory.readFrom_write_ne {a c : Nat} {v : Byte} (hne : c ≠ a) : ∀ {m : Memory} {lo : Nat}, m.wfFrom lo = true →
    (m.write a v).read c = m.read c
  | [], _, _ => by
    unfold Memory.write
    split <;> simp [Memory.read, hne]
  | (k, b) :: m, lo, hm => by
    rw [Memory.wfFrom_cons] at hm
    obtain ⟨-, -, hm⟩ := hm
    unfold Memory.write
    split
    · rename_i hlt
      split
      · rfl
      · by_cases h : c < a
        · simp [Memory.read, hne, h, show c ≠ k by omega, show c < k by omega]
        · simp [Memory.read, hne, h]
    · split
      · rename_i he
        subst he
        split
        · simp only [Memory.read, hne, if_false]
          split
          · exact Memory.read_below (by omega) hm
          · rfl
        · simp [Memory.read, hne]
      · simp only [Memory.read]
        split
        · rfl
        · split
          · rfl
          · exact Memory.readFrom_write_ne hne hm

/-- A read of a byte just written gives it. -/
theorem Memory.read_write_same {m : Memory} (h : m.wf = true) (a : Nat) (v : Byte) : (m.write a v).read a = v :=
  Memory.readFrom_write_same h

/-- A write leaves every other byte alone. -/
theorem Memory.read_write_ne {m : Memory} (h : m.wf = true) {a c : Nat} (v : Byte) (hne : c ≠ a) :
    (m.write a v).read c = m.read c := Memory.readFrom_write_ne hne h

/-- A run of writes leaves the bytes outside it alone. -/
theorem Memory.read_store_outside {c : Nat} : ∀ (bs : List Byte) {m : Memory} (a : Nat), m.wf = true →
    (c < a ∨ a + bs.length ≤ c) → (m.store a bs).read c = m.read c
  | [], _, _, _, _ => rfl
  | b :: bs, m, a, h, hc => by
    simp only [List.length_cons] at hc
    rw [Memory.store, Memory.read_store_outside bs (a + 1) (Memory.wf_write a b h) (by omega),
      Memory.read_write_ne h b (by omega)]

/-- A run of writes gives back its bytes. -/
theorem Memory.bytes_store : ∀ (bs : List Byte) {m : Memory} (a : Nat), m.wf = true →
    (m.store a bs).bytes a bs.length = bs
  | [], _, _, _ => rfl
  | b :: bs, m, a, h => by
    have hw := Memory.wf_write a b h
    simp only [Memory.store, List.length_cons, Memory.bytes]
    rw [Memory.read_store_outside bs (a + 1) hw (by omega), Memory.read_write_same h, Memory.bytes_store bs (a + 1) hw]

theorem Memory.extFrom : ∀ {m n : Memory} {lo : Nat}, m.wfFrom lo = true → n.wfFrom lo = true →
    (∀ a, m.read a = n.read a) → m = n
  | [], [], _, _, _, _ => rfl
  | [], (k, b) :: n, _, _, hn, h => by
    have := h k
    rw [Memory.wfFrom_cons] at hn
    simp [Memory.read] at this
    exact absurd this.symm hn.2.1
  | (k, b) :: m, [], _, hm, _, h => by
    have := h k
    rw [Memory.wfFrom_cons] at hm
    simp [Memory.read] at this
    exact absurd this hm.2.1
  | (k, b) :: m, (j, c) :: n, lo, hm, hn, h => by
    rw [Memory.wfFrom_cons] at hm hn
    have hkj : k = j := by
      rcases Nat.lt_trichotomy k j with hlt | he | hlt
      · have := h k
        simp [Memory.read, Nat.ne_of_lt hlt, hlt] at this
        exact absurd this hm.2.1
      · exact he
      · have := h j
        simp [Memory.read, Nat.ne_of_lt hlt, hlt] at this
        exact absurd this.symm hn.2.1
    subst hkj
    have hbc : b = c := by simpa [Memory.read] using h k
    subst hbc
    congr 1
    refine Memory.extFrom hm.2.2 hn.2.2 (fun a => ?_)
    rcases Nat.lt_or_ge a (k + 1) with ha | ha
    · rw [Memory.read_below ha hm.2.2, Memory.read_below ha hn.2.2]
    · have := h a
      simpa [Memory.read, show a ≠ k by omega, show ¬a < k by omega] using this

/-- Canonical memories that read alike are equal. -/
theorem Memory.ext_read {m n : Memory} (hm : m.wf = true) (hn : n.wf = true) (h : ∀ a, m.read a = n.read a) : m = n :=
  Memory.extFrom hm hn h

end Sys2Proof.Machine
end

