-- ==== Sys2Proof/Laws/State.lean ====
section
/-! SUPPORT. What the updates of State leave as it was: one lemma for each field and update. -/

namespace Sys2Proof.Machine

/-! ### setX -/

@[simp] theorem State.setX_others (s : State) (r : BitVec 5) (v : Word) : (s.setX r v).others = s.others := by unfold State.setX; split <;> rfl
@[simp] theorem State.setX_sched (s : State) (r : BitVec 5) (v : Word) : (s.setX r v).sched = s.sched := by unfold State.setX; split <;> rfl
@[simp] theorem State.setX_tm (s : State) (r : BitVec 5) (v : Word) : (s.setX r v).tm = s.tm := by unfold State.setX; split <;> rfl
@[simp] theorem State.setX_gm (s : State) (r : BitVec 5) (v : Word) : (s.setX r v).gm = s.gm := by unfold State.setX; split <;> rfl
@[simp] theorem State.setX_tmFull (s : State) (r : BitVec 5) (v : Word) : (s.setX r v).tmFull = s.tmFull := by unfold State.setX; split <;> rfl
@[simp] theorem State.setX_gmFull (s : State) (r : BitVec 5) (v : Word) : (s.setX r v).gmFull = s.gmFull := by unfold State.setX; split <;> rfl
@[simp] theorem State.setX_tmPois (s : State) (r : BitVec 5) (v : Word) : (s.setX r v).tmPois = s.tmPois := by unfold State.setX; split <;> rfl
@[simp] theorem State.setX_gmPois (s : State) (r : BitVec 5) (v : Word) : (s.setX r v).gmPois = s.gmPois := by unfold State.setX; split <;> rfl
@[simp] theorem State.setX_gmKey (s : State) (r : BitVec 5) (v : Word) : (s.setX r v).gmKey = s.gmKey := by unfold State.setX; split <;> rfl
@[simp] theorem State.setX_gmStamp (s : State) (r : BitVec 5) (v : Word) : (s.setX r v).gmStamp = s.gmStamp := by unfold State.setX; split <;> rfl
@[simp] theorem State.setX_departed (s : State) (r : BitVec 5) (v : Word) : (s.setX r v).departed = s.departed := by unfold State.setX; split <;> rfl
@[simp] theorem State.setX_shoots (s : State) (r : BitVec 5) (v : Word) : (s.setX r v).shoots = s.shoots := by unfold State.setX; split <;> rfl
@[simp] theorem State.setX_outbound (s : State) (r : BitVec 5) (v : Word) : (s.setX r v).outbound = s.outbound := by unfold State.setX; split <;> rfl
@[simp] theorem State.setX_nextSeq (s : State) (r : BitVec 5) (v : Word) : (s.setX r v).nextSeq = s.nextSeq := by unfold State.setX; split <;> rfl
@[simp] theorem State.setX_asyncs (s : State) (r : BitVec 5) (v : Word) : (s.setX r v).asyncs = s.asyncs := by unfold State.setX; split <;> rfl
@[simp] theorem State.setX_procs (s : State) (r : BitVec 5) (v : Word) : (s.setX r v).procs = s.procs := by unfold State.setX; split <;> rfl
@[simp] theorem State.setX_nets (s : State) (r : BitVec 5) (v : Word) : (s.setX r v).nets = s.nets := by unfold State.setX; split <;> rfl
@[simp] theorem State.setX_tiles (s : State) (r : BitVec 5) (v : Word) : (s.setX r v).tiles = s.tiles := by unfold State.setX; split <;> rfl
@[simp] theorem State.setX_vdevs (s : State) (r : BitVec 5) (v : Word) : (s.setX r v).vdevs = s.vdevs := by unfold State.setX; split <;> rfl
@[simp] theorem State.setX_events (s : State) (r : BitVec 5) (v : Word) : (s.setX r v).events = s.events := by unfold State.setX; split <;> rfl
@[simp] theorem State.setX_ticks (s : State) (r : BitVec 5) (v : Word) : (s.setX r v).ticks = s.ticks := by unfold State.setX; split <;> rfl
@[simp] theorem State.setX_time (s : State) (r : BitVec 5) (v : Word) : (s.setX r v).time = s.time := by unfold State.setX; split <;> rfl
@[simp] theorem State.setX_power (s : State) (r : BitVec 5) (v : Word) : (s.setX r v).power = s.power := by unfold State.setX; split <;> rfl
@[simp] theorem State.setX_mcasts (s : State) (r : BitVec 5) (v : Word) : (s.setX r v).mcasts = s.mcasts := by unfold State.setX; split <;> rfl
@[simp] theorem State.setX_pkg (s : State) (r : BitVec 5) (v : Word) : (s.setX r v).pkg = s.pkg := by unfold State.setX; split <;> rfl
@[simp] theorem State.setX_liveEps (s : State) (r : BitVec 5) (v : Word) : (s.setX r v).liveEps = s.liveEps := by unfold State.setX; split <;> rfl
@[simp] theorem State.setX_keySlots (s : State) (r : BitVec 5) (v : Word) : (s.setX r v).keySlots = s.keySlots := by unfold State.setX; split <;> rfl
@[simp] theorem State.setX_islands (s : State) (r : BitVec 5) (v : Word) : (s.setX r v).islands = s.islands := by unfold State.setX; split <;> rfl
@[simp] theorem State.setX_logEvents (s : State) (r : BitVec 5) (v : Word) : (s.setX r v).logEvents = s.logEvents := by unfold State.setX; split <;> rfl
@[simp] theorem State.setX_conns (s : State) (r : BitVec 5) (v : Word) : (s.setX r v).conns = s.conns := by unfold State.setX; split <;> rfl
@[simp] theorem State.setX_reports (s : State) (r : BitVec 5) (v : Word) : (s.setX r v).reports = s.reports := by unfold State.setX; split <;> rfl
@[simp] theorem State.setX_hart_id (s : State) (r : BitVec 5) (v : Word) : (s.setX r v).hart.id = s.hart.id := by unfold State.setX; split <;> rfl
@[simp] theorem State.setX_hart_status (s : State) (r : BitVec 5) (v : Word) : (s.setX r v).hart.status = s.hart.status := by unfold State.setX; split <;> rfl
@[simp] theorem State.setX_hart_priv (s : State) (r : BitVec 5) (v : Word) : (s.setX r v).hart.priv = s.hart.priv := by unfold State.setX; split <;> rfl
@[simp] theorem State.setX_hart_pc (s : State) (r : BitVec 5) (v : Word) : (s.setX r v).hart.pc = s.hart.pc := by unfold State.setX; split <;> rfl
@[simp] theorem State.setX_hart_pid (s : State) (r : BitVec 5) (v : Word) : (s.setX r v).hart.pid = s.hart.pid := by unfold State.setX; split <;> rfl
@[simp] theorem State.setX_hart_lane0 (s : State) (r : BitVec 5) (v : Word) : (s.setX r v).hart.lane0 = s.hart.lane0 := by unfold State.setX; split <;> rfl
@[simp] theorem State.setX_hart_lanes (s : State) (r : BitVec 5) (v : Word) : (s.setX r v).hart.lanes = s.hart.lanes := by unfold State.setX; split <;> rfl
@[simp] theorem State.setX_hart_parent (s : State) (r : BitVec 5) (v : Word) : (s.setX r v).hart.parent = s.hart.parent := by unfold State.setX; split <;> rfl
@[simp] theorem State.setX_hart_child (s : State) (r : BitVec 5) (v : Word) : (s.setX r v).hart.child = s.hart.child := by unfold State.setX; split <;> rfl
@[simp] theorem State.setX_hart_joined (s : State) (r : BitVec 5) (v : Word) : (s.setX r v).hart.joined = s.hart.joined := by unfold State.setX; split <;> rfl
@[simp] theorem State.setX_hart_draws (s : State) (r : BitVec 5) (v : Word) : (s.setX r v).hart.draws = s.hart.draws := by unfold State.setX; split <;> rfl
@[simp] theorem State.setX_hart_p (s : State) (r : BitVec 5) (v : Word) : (s.setX r v).hart.p = s.hart.p := by unfold State.setX; split <;> rfl
@[simp] theorem State.setX_hart_v (s : State) (r : BitVec 5) (v : Word) : (s.setX r v).hart.v = s.hart.v := by unfold State.setX; split <;> rfl
@[simp] theorem State.setX_hart_vPois (s : State) (r : BitVec 5) (v : Word) : (s.setX r v).hart.vPois = s.hart.vPois := by unfold State.setX; split <;> rfl
@[simp] theorem State.setX_hart_e (s : State) (r : BitVec 5) (v : Word) : (s.setX r v).hart.e = s.hart.e := by unfold State.setX; split <;> rfl
@[simp] theorem State.setX_hart_m (s : State) (r : BitVec 5) (v : Word) : (s.setX r v).hart.m = s.hart.m := by unfold State.setX; split <;> rfl
@[simp] theorem State.setX_hart_streams (s : State) (r : BitVec 5) (v : Word) : (s.setX r v).hart.streams = s.hart.streams := by unfold State.setX; split <;> rfl
@[simp] theorem State.setX_hart_fflags (s : State) (r : BitVec 5) (v : Word) : (s.setX r v).hart.fflags = s.hart.fflags := by unfold State.setX; split <;> rfl
@[simp] theorem State.setX_hart_vl (s : State) (r : BitVec 5) (v : Word) : (s.setX r v).hart.vl = s.hart.vl := by unfold State.setX; split <;> rfl
@[simp] theorem State.setX_hart_vtype (s : State) (r : BitVec 5) (v : Word) : (s.setX r v).hart.vtype = s.hart.vtype := by unfold State.setX; split <;> rfl
@[simp] theorem State.setX_hart_srseed (s : State) (r : BitVec 5) (v : Word) : (s.setX r v).hart.srseed = s.hart.srseed := by unfold State.setX; split <;> rfl
@[simp] theorem State.setX_hart_srcount (s : State) (r : BitVec 5) (v : Word) : (s.setX r v).hart.srcount = s.hart.srcount := by unfold State.setX; split <;> rfl
@[simp] theorem State.setX_hart_msprec (s : State) (r : BitVec 5) (v : Word) : (s.setX r v).hart.msprec = s.hart.msprec := by unfold State.setX; split <;> rfl
@[simp] theorem State.setX_hart_msanchor (s : State) (r : BitVec 5) (v : Word) : (s.setX r v).hart.msanchor = s.hart.msanchor := by unfold State.setX; split <;> rfl
@[simp] theorem State.setX_hart_msm (s : State) (r : BitVec 5) (v : Word) : (s.setX r v).hart.msm = s.hart.msm := by unfold State.setX; split <;> rfl
@[simp] theorem State.setX_hart_msn (s : State) (r : BitVec 5) (v : Word) : (s.setX r v).hart.msn = s.hart.msn := by unfold State.setX; split <;> rfl
@[simp] theorem State.setX_hart_msk (s : State) (r : BitVec 5) (v : Word) : (s.setX r v).hart.msk = s.hart.msk := by unfold State.setX; split <;> rfl
@[simp] theorem State.setX_hart_telem (s : State) (r : BitVec 5) (v : Word) : (s.setX r v).hart.telem = s.hart.telem := by unfold State.setX; split <;> rfl
@[simp] theorem State.setX_hart_tpc (s : State) (r : BitVec 5) (v : Word) : (s.setX r v).hart.tpc = s.hart.tpc := by unfold State.setX; split <;> rfl
@[simp] theorem State.setX_hart_tcause (s : State) (r : BitVec 5) (v : Word) : (s.setX r v).hart.tcause = s.hart.tcause := by unfold State.setX; split <;> rfl
@[simp] theorem State.setX_hart_tval (s : State) (r : BitVec 5) (v : Word) : (s.setX r v).hart.tval = s.hart.tval := by unfold State.setX; split <;> rfl
@[simp] theorem State.setX_hart_tdone (s : State) (r : BitVec 5) (v : Word) : (s.setX r v).hart.tdone = s.hart.tdone := by unfold State.setX; split <;> rfl
@[simp] theorem State.setX_hart_tprog (s : State) (r : BitVec 5) (v : Word) : (s.setX r v).hart.tprog = s.hart.tprog := by unfold State.setX; split <;> rfl
@[simp] theorem State.setX_hart_steepcnt (s : State) (r : BitVec 5) (v : Word) : (s.setX r v).hart.steepcnt = s.hart.steepcnt := by unfold State.setX; split <;> rfl
@[simp] theorem State.setX_hart_steeplim (s : State) (r : BitVec 5) (v : Word) : (s.setX r v).hart.steeplim = s.hart.steeplim := by unfold State.setX; split <;> rfl
@[simp] theorem State.setX_hart_quantum (s : State) (r : BitVec 5) (v : Word) : (s.setX r v).hart.quantum = s.hart.quantum := by unfold State.setX; split <;> rfl
@[simp] theorem State.setX_hart_prioLevel (s : State) (r : BitVec 5) (v : Word) : (s.setX r v).hart.prioLevel = s.hart.prioLevel := by unfold State.setX; split <;> rfl
@[simp] theorem State.setX_hart_prioCeil (s : State) (r : BitVec 5) (v : Word) : (s.setX r v).hart.prioCeil = s.hart.prioCeil := by unfold State.setX; split <;> rfl
@[simp] theorem State.setX_hart_ctxptr (s : State) (r : BitVec 5) (v : Word) : (s.setX r v).hart.ctxptr = s.hart.ctxptr := by unfold State.setX; split <;> rfl
@[simp] theorem State.setX_hart_qcount (s : State) (r : BitVec 5) (v : Word) : (s.setX r v).hart.qcount = s.hart.qcount := by unfold State.setX; split <;> rfl
@[simp] theorem State.setX_hart_chanWait (s : State) (r : BitVec 5) (v : Word) : (s.setX r v).hart.chanWait = s.hart.chanWait := by unfold State.setX; split <;> rfl
@[simp] theorem State.setX_hart_replay (s : State) (r : BitVec 5) (v : Word) : (s.setX r v).hart.replay = s.hart.replay := by unfold State.setX; split <;> rfl
@[simp] theorem State.setX_hart_code (s : State) (r : BitVec 5) (v : Word) : (s.setX r v).hart.code = s.hart.code := by unfold State.setX; split <;> rfl
@[simp] theorem State.setX_hart_current (s : State) (r : BitVec 5) (v : Word) : (s.setX r v).hart.current = s.hart.current := by unfold State.setX; split <;> rfl
@[simp] theorem State.setX_hart_dbg (s : State) (r : BitVec 5) (v : Word) : (s.setX r v).hart.dbg = s.hart.dbg := by unfold State.setX; split <;> rfl
@[simp] theorem State.setX_hart_noMatch (s : State) (r : BitVec 5) (v : Word) : (s.setX r v).hart.noMatch = s.hart.noMatch := by unfold State.setX; split <;> rfl
@[simp] theorem State.setX_hart_expireAt (s : State) (r : BitVec 5) (v : Word) : (s.setX r v).hart.expireAt = s.hart.expireAt := by unfold State.setX; split <;> rfl
@[simp] theorem State.setX_hart_asked (s : State) (r : BitVec 5) (v : Word) : (s.setX r v).hart.asked = s.hart.asked := by unfold State.setX; split <;> rfl
@[simp] theorem State.setX_hart_leave (s : State) (r : BitVec 5) (v : Word) : (s.setX r v).hart.leave = s.hart.leave := by unfold State.setX; split <;> rfl
@[simp] theorem State.setX_hart_rotor (s : State) (r : BitVec 5) (v : Word) : (s.setX r v).hart.rotor = s.hart.rotor := by unfold State.setX; split <;> rfl

/-! ### setPc -/

@[simp] theorem State.setPc_others (s : State) (pc : Word) : (s.setPc pc).others = s.others := rfl
@[simp] theorem State.setPc_sched (s : State) (pc : Word) : (s.setPc pc).sched = s.sched := rfl
@[simp] theorem State.setPc_tm (s : State) (pc : Word) : (s.setPc pc).tm = s.tm := rfl
@[simp] theorem State.setPc_gm (s : State) (pc : Word) : (s.setPc pc).gm = s.gm := rfl
@[simp] theorem State.setPc_tmFull (s : State) (pc : Word) : (s.setPc pc).tmFull = s.tmFull := rfl
@[simp] theorem State.setPc_gmFull (s : State) (pc : Word) : (s.setPc pc).gmFull = s.gmFull := rfl
@[simp] theorem State.setPc_tmPois (s : State) (pc : Word) : (s.setPc pc).tmPois = s.tmPois := rfl
@[simp] theorem State.setPc_gmPois (s : State) (pc : Word) : (s.setPc pc).gmPois = s.gmPois := rfl
@[simp] theorem State.setPc_gmKey (s : State) (pc : Word) : (s.setPc pc).gmKey = s.gmKey := rfl
@[simp] theorem State.setPc_gmStamp (s : State) (pc : Word) : (s.setPc pc).gmStamp = s.gmStamp := rfl
@[simp] theorem State.setPc_departed (s : State) (pc : Word) : (s.setPc pc).departed = s.departed := rfl
@[simp] theorem State.setPc_shoots (s : State) (pc : Word) : (s.setPc pc).shoots = s.shoots := rfl
@[simp] theorem State.setPc_outbound (s : State) (pc : Word) : (s.setPc pc).outbound = s.outbound := rfl
@[simp] theorem State.setPc_nextSeq (s : State) (pc : Word) : (s.setPc pc).nextSeq = s.nextSeq := rfl
@[simp] theorem State.setPc_asyncs (s : State) (pc : Word) : (s.setPc pc).asyncs = s.asyncs := rfl
@[simp] theorem State.setPc_procs (s : State) (pc : Word) : (s.setPc pc).procs = s.procs := rfl
@[simp] theorem State.setPc_nets (s : State) (pc : Word) : (s.setPc pc).nets = s.nets := rfl
@[simp] theorem State.setPc_tiles (s : State) (pc : Word) : (s.setPc pc).tiles = s.tiles := rfl
@[simp] theorem State.setPc_vdevs (s : State) (pc : Word) : (s.setPc pc).vdevs = s.vdevs := rfl
@[simp] theorem State.setPc_events (s : State) (pc : Word) : (s.setPc pc).events = s.events := rfl
@[simp] theorem State.setPc_ticks (s : State) (pc : Word) : (s.setPc pc).ticks = s.ticks := rfl
@[simp] theorem State.setPc_time (s : State) (pc : Word) : (s.setPc pc).time = s.time := rfl
@[simp] theorem State.setPc_power (s : State) (pc : Word) : (s.setPc pc).power = s.power := rfl
@[simp] theorem State.setPc_mcasts (s : State) (pc : Word) : (s.setPc pc).mcasts = s.mcasts := rfl
@[simp] theorem State.setPc_pkg (s : State) (pc : Word) : (s.setPc pc).pkg = s.pkg := rfl
@[simp] theorem State.setPc_liveEps (s : State) (pc : Word) : (s.setPc pc).liveEps = s.liveEps := rfl
@[simp] theorem State.setPc_keySlots (s : State) (pc : Word) : (s.setPc pc).keySlots = s.keySlots := rfl
@[simp] theorem State.setPc_islands (s : State) (pc : Word) : (s.setPc pc).islands = s.islands := rfl
@[simp] theorem State.setPc_logEvents (s : State) (pc : Word) : (s.setPc pc).logEvents = s.logEvents := rfl
@[simp] theorem State.setPc_conns (s : State) (pc : Word) : (s.setPc pc).conns = s.conns := rfl
@[simp] theorem State.setPc_reports (s : State) (pc : Word) : (s.setPc pc).reports = s.reports := rfl
@[simp] theorem State.setPc_hart_id (s : State) (pc : Word) : (s.setPc pc).hart.id = s.hart.id := rfl
@[simp] theorem State.setPc_hart_status (s : State) (pc : Word) : (s.setPc pc).hart.status = s.hart.status := rfl
@[simp] theorem State.setPc_hart_priv (s : State) (pc : Word) : (s.setPc pc).hart.priv = s.hart.priv := rfl
@[simp] theorem State.setPc_hart_pid (s : State) (pc : Word) : (s.setPc pc).hart.pid = s.hart.pid := rfl
@[simp] theorem State.setPc_hart_lane0 (s : State) (pc : Word) : (s.setPc pc).hart.lane0 = s.hart.lane0 := rfl
@[simp] theorem State.setPc_hart_lanes (s : State) (pc : Word) : (s.setPc pc).hart.lanes = s.hart.lanes := rfl
@[simp] theorem State.setPc_hart_parent (s : State) (pc : Word) : (s.setPc pc).hart.parent = s.hart.parent := rfl
@[simp] theorem State.setPc_hart_child (s : State) (pc : Word) : (s.setPc pc).hart.child = s.hart.child := rfl
@[simp] theorem State.setPc_hart_joined (s : State) (pc : Word) : (s.setPc pc).hart.joined = s.hart.joined := rfl
@[simp] theorem State.setPc_hart_draws (s : State) (pc : Word) : (s.setPc pc).hart.draws = s.hart.draws := rfl
@[simp] theorem State.setPc_hart_x (s : State) (pc : Word) : (s.setPc pc).hart.x = s.hart.x := rfl
@[simp] theorem State.setPc_hart_xPois (s : State) (pc : Word) : (s.setPc pc).hart.xPois = s.hart.xPois := rfl
@[simp] theorem State.setPc_hart_p (s : State) (pc : Word) : (s.setPc pc).hart.p = s.hart.p := rfl
@[simp] theorem State.setPc_hart_v (s : State) (pc : Word) : (s.setPc pc).hart.v = s.hart.v := rfl
@[simp] theorem State.setPc_hart_vPois (s : State) (pc : Word) : (s.setPc pc).hart.vPois = s.hart.vPois := rfl
@[simp] theorem State.setPc_hart_e (s : State) (pc : Word) : (s.setPc pc).hart.e = s.hart.e := rfl
@[simp] theorem State.setPc_hart_m (s : State) (pc : Word) : (s.setPc pc).hart.m = s.hart.m := rfl
@[simp] theorem State.setPc_hart_streams (s : State) (pc : Word) : (s.setPc pc).hart.streams = s.hart.streams := rfl
@[simp] theorem State.setPc_hart_fflags (s : State) (pc : Word) : (s.setPc pc).hart.fflags = s.hart.fflags := rfl
@[simp] theorem State.setPc_hart_vl (s : State) (pc : Word) : (s.setPc pc).hart.vl = s.hart.vl := rfl
@[simp] theorem State.setPc_hart_vtype (s : State) (pc : Word) : (s.setPc pc).hart.vtype = s.hart.vtype := rfl
@[simp] theorem State.setPc_hart_srseed (s : State) (pc : Word) : (s.setPc pc).hart.srseed = s.hart.srseed := rfl
@[simp] theorem State.setPc_hart_srcount (s : State) (pc : Word) : (s.setPc pc).hart.srcount = s.hart.srcount := rfl
@[simp] theorem State.setPc_hart_msprec (s : State) (pc : Word) : (s.setPc pc).hart.msprec = s.hart.msprec := rfl
@[simp] theorem State.setPc_hart_msanchor (s : State) (pc : Word) : (s.setPc pc).hart.msanchor = s.hart.msanchor := rfl
@[simp] theorem State.setPc_hart_msm (s : State) (pc : Word) : (s.setPc pc).hart.msm = s.hart.msm := rfl
@[simp] theorem State.setPc_hart_msn (s : State) (pc : Word) : (s.setPc pc).hart.msn = s.hart.msn := rfl
@[simp] theorem State.setPc_hart_msk (s : State) (pc : Word) : (s.setPc pc).hart.msk = s.hart.msk := rfl
@[simp] theorem State.setPc_hart_telem (s : State) (pc : Word) : (s.setPc pc).hart.telem = s.hart.telem := rfl
@[simp] theorem State.setPc_hart_tpc (s : State) (pc : Word) : (s.setPc pc).hart.tpc = s.hart.tpc := rfl
@[simp] theorem State.setPc_hart_tcause (s : State) (pc : Word) : (s.setPc pc).hart.tcause = s.hart.tcause := rfl
@[simp] theorem State.setPc_hart_tval (s : State) (pc : Word) : (s.setPc pc).hart.tval = s.hart.tval := rfl
@[simp] theorem State.setPc_hart_tdone (s : State) (pc : Word) : (s.setPc pc).hart.tdone = s.hart.tdone := rfl
@[simp] theorem State.setPc_hart_tprog (s : State) (pc : Word) : (s.setPc pc).hart.tprog = s.hart.tprog := rfl
@[simp] theorem State.setPc_hart_steepcnt (s : State) (pc : Word) : (s.setPc pc).hart.steepcnt = s.hart.steepcnt := rfl
@[simp] theorem State.setPc_hart_steeplim (s : State) (pc : Word) : (s.setPc pc).hart.steeplim = s.hart.steeplim := rfl
@[simp] theorem State.setPc_hart_quantum (s : State) (pc : Word) : (s.setPc pc).hart.quantum = s.hart.quantum := rfl
@[simp] theorem State.setPc_hart_prioLevel (s : State) (pc : Word) : (s.setPc pc).hart.prioLevel = s.hart.prioLevel := rfl
@[simp] theorem State.setPc_hart_prioCeil (s : State) (pc : Word) : (s.setPc pc).hart.prioCeil = s.hart.prioCeil := rfl
@[simp] theorem State.setPc_hart_ctxptr (s : State) (pc : Word) : (s.setPc pc).hart.ctxptr = s.hart.ctxptr := rfl
@[simp] theorem State.setPc_hart_qcount (s : State) (pc : Word) : (s.setPc pc).hart.qcount = s.hart.qcount := rfl
@[simp] theorem State.setPc_hart_replay (s : State) (pc : Word) : (s.setPc pc).hart.replay = s.hart.replay := rfl
@[simp] theorem State.setPc_hart_code (s : State) (pc : Word) : (s.setPc pc).hart.code = s.hart.code := rfl
@[simp] theorem State.setPc_hart_current (s : State) (pc : Word) : (s.setPc pc).hart.current = s.hart.current := rfl
@[simp] theorem State.setPc_hart_dbg (s : State) (pc : Word) : (s.setPc pc).hart.dbg = s.hart.dbg := rfl
@[simp] theorem State.setPc_hart_noMatch (s : State) (pc : Word) : (s.setPc pc).hart.noMatch = s.hart.noMatch := rfl
@[simp] theorem State.setPc_hart_expireAt (s : State) (pc : Word) : (s.setPc pc).hart.expireAt = s.hart.expireAt := rfl
@[simp] theorem State.setPc_hart_asked (s : State) (pc : Word) : (s.setPc pc).hart.asked = s.hart.asked := rfl
@[simp] theorem State.setPc_hart_leave (s : State) (pc : Word) : (s.setPc pc).hart.leave = s.hart.leave := rfl
@[simp] theorem State.setPc_hart_rotor (s : State) (pc : Word) : (s.setPc pc).hart.rotor = s.hart.rotor := rfl

/-! ### advance -/

@[simp] theorem State.advance_others (s : State) : s.advance.others = s.others := by unfold State.advance; split <;> rfl
@[simp] theorem State.advance_sched (s : State) : s.advance.sched = s.sched := by unfold State.advance; split <;> rfl
@[simp] theorem State.advance_tm (s : State) : s.advance.tm = s.tm := by unfold State.advance; split <;> rfl
@[simp] theorem State.advance_gm (s : State) : s.advance.gm = s.gm := by unfold State.advance; split <;> rfl
@[simp] theorem State.advance_tmFull (s : State) : s.advance.tmFull = s.tmFull := by unfold State.advance; split <;> rfl
@[simp] theorem State.advance_gmFull (s : State) : s.advance.gmFull = s.gmFull := by unfold State.advance; split <;> rfl
@[simp] theorem State.advance_tmPois (s : State) : s.advance.tmPois = s.tmPois := by unfold State.advance; split <;> rfl
@[simp] theorem State.advance_gmPois (s : State) : s.advance.gmPois = s.gmPois := by unfold State.advance; split <;> rfl
@[simp] theorem State.advance_gmKey (s : State) : s.advance.gmKey = s.gmKey := by unfold State.advance; split <;> rfl
@[simp] theorem State.advance_gmStamp (s : State) : s.advance.gmStamp = s.gmStamp := by unfold State.advance; split <;> rfl
@[simp] theorem State.advance_departed (s : State) : s.advance.departed = s.departed := by unfold State.advance; split <;> rfl
@[simp] theorem State.advance_shoots (s : State) : s.advance.shoots = s.shoots := by unfold State.advance; split <;> rfl
@[simp] theorem State.advance_outbound (s : State) : s.advance.outbound = s.outbound := by unfold State.advance; split <;> rfl
@[simp] theorem State.advance_nextSeq (s : State) : s.advance.nextSeq = s.nextSeq := by unfold State.advance; split <;> rfl
@[simp] theorem State.advance_asyncs (s : State) : s.advance.asyncs = s.asyncs := by unfold State.advance; split <;> rfl
@[simp] theorem State.advance_procs (s : State) : s.advance.procs = s.procs := by unfold State.advance; split <;> rfl
@[simp] theorem State.advance_nets (s : State) : s.advance.nets = s.nets := by unfold State.advance; split <;> rfl
@[simp] theorem State.advance_tiles (s : State) : s.advance.tiles = s.tiles := by unfold State.advance; split <;> rfl
@[simp] theorem State.advance_vdevs (s : State) : s.advance.vdevs = s.vdevs := by unfold State.advance; split <;> rfl
@[simp] theorem State.advance_events (s : State) : s.advance.events = s.events := by unfold State.advance; split <;> rfl
@[simp] theorem State.advance_ticks (s : State) : s.advance.ticks = s.ticks := by unfold State.advance; split <;> rfl
@[simp] theorem State.advance_time (s : State) : s.advance.time = s.time := by unfold State.advance; split <;> rfl
@[simp] theorem State.advance_power (s : State) : s.advance.power = s.power := by unfold State.advance; split <;> rfl
@[simp] theorem State.advance_mcasts (s : State) : s.advance.mcasts = s.mcasts := by unfold State.advance; split <;> rfl
@[simp] theorem State.advance_pkg (s : State) : s.advance.pkg = s.pkg := by unfold State.advance; split <;> rfl
@[simp] theorem State.advance_liveEps (s : State) : s.advance.liveEps = s.liveEps := by unfold State.advance; split <;> rfl
@[simp] theorem State.advance_keySlots (s : State) : s.advance.keySlots = s.keySlots := by unfold State.advance; split <;> rfl
@[simp] theorem State.advance_islands (s : State) : s.advance.islands = s.islands := by unfold State.advance; split <;> rfl
@[simp] theorem State.advance_logEvents (s : State) : s.advance.logEvents = s.logEvents := by unfold State.advance; split <;> rfl
@[simp] theorem State.advance_conns (s : State) : s.advance.conns = s.conns := by unfold State.advance; split <;> rfl
@[simp] theorem State.advance_reports (s : State) : s.advance.reports = s.reports := by unfold State.advance; split <;> rfl
@[simp] theorem State.advance_hart_id (s : State) : s.advance.hart.id = s.hart.id := by unfold State.advance; split <;> rfl
@[simp] theorem State.advance_hart_status (s : State) : s.advance.hart.status = s.hart.status := by unfold State.advance; split <;> rfl
@[simp] theorem State.advance_hart_priv (s : State) : s.advance.hart.priv = s.hart.priv := by unfold State.advance; split <;> rfl
@[simp] theorem State.advance_hart_pid (s : State) : s.advance.hart.pid = s.hart.pid := by unfold State.advance; split <;> rfl
@[simp] theorem State.advance_hart_lane0 (s : State) : s.advance.hart.lane0 = s.hart.lane0 := by unfold State.advance; split <;> rfl
@[simp] theorem State.advance_hart_lanes (s : State) : s.advance.hart.lanes = s.hart.lanes := by unfold State.advance; split <;> rfl
@[simp] theorem State.advance_hart_parent (s : State) : s.advance.hart.parent = s.hart.parent := by unfold State.advance; split <;> rfl
@[simp] theorem State.advance_hart_child (s : State) : s.advance.hart.child = s.hart.child := by unfold State.advance; split <;> rfl
@[simp] theorem State.advance_hart_joined (s : State) : s.advance.hart.joined = s.hart.joined := by unfold State.advance; split <;> rfl
@[simp] theorem State.advance_hart_draws (s : State) : s.advance.hart.draws = s.hart.draws := by unfold State.advance; split <;> rfl
@[simp] theorem State.advance_hart_x (s : State) : s.advance.hart.x = s.hart.x := by unfold State.advance; split <;> rfl
@[simp] theorem State.advance_hart_xPois (s : State) : s.advance.hart.xPois = s.hart.xPois := by unfold State.advance; split <;> rfl
@[simp] theorem State.advance_hart_p (s : State) : s.advance.hart.p = s.hart.p := by unfold State.advance; split <;> rfl
@[simp] theorem State.advance_hart_v (s : State) : s.advance.hart.v = s.hart.v := by unfold State.advance; split <;> rfl
@[simp] theorem State.advance_hart_vPois (s : State) : s.advance.hart.vPois = s.hart.vPois := by unfold State.advance; split <;> rfl
@[simp] theorem State.advance_hart_e (s : State) : s.advance.hart.e = s.hart.e := by unfold State.advance; split <;> rfl
@[simp] theorem State.advance_hart_m (s : State) : s.advance.hart.m = s.hart.m := by unfold State.advance; split <;> rfl
@[simp] theorem State.advance_hart_streams (s : State) : s.advance.hart.streams = s.hart.streams := by unfold State.advance; split <;> rfl
@[simp] theorem State.advance_hart_fflags (s : State) : s.advance.hart.fflags = s.hart.fflags := by unfold State.advance; split <;> rfl
@[simp] theorem State.advance_hart_vl (s : State) : s.advance.hart.vl = s.hart.vl := by unfold State.advance; split <;> rfl
@[simp] theorem State.advance_hart_vtype (s : State) : s.advance.hart.vtype = s.hart.vtype := by unfold State.advance; split <;> rfl
@[simp] theorem State.advance_hart_srseed (s : State) : s.advance.hart.srseed = s.hart.srseed := by unfold State.advance; split <;> rfl
@[simp] theorem State.advance_hart_srcount (s : State) : s.advance.hart.srcount = s.hart.srcount := by unfold State.advance; split <;> rfl
@[simp] theorem State.advance_hart_msprec (s : State) : s.advance.hart.msprec = s.hart.msprec := by unfold State.advance; split <;> rfl
@[simp] theorem State.advance_hart_msanchor (s : State) : s.advance.hart.msanchor = s.hart.msanchor := by unfold State.advance; split <;> rfl
@[simp] theorem State.advance_hart_msm (s : State) : s.advance.hart.msm = s.hart.msm := by unfold State.advance; split <;> rfl
@[simp] theorem State.advance_hart_msn (s : State) : s.advance.hart.msn = s.hart.msn := by unfold State.advance; split <;> rfl
@[simp] theorem State.advance_hart_msk (s : State) : s.advance.hart.msk = s.hart.msk := by unfold State.advance; split <;> rfl
@[simp] theorem State.advance_hart_telem (s : State) : s.advance.hart.telem = s.hart.telem := by unfold State.advance; split <;> rfl
@[simp] theorem State.advance_hart_tpc (s : State) : s.advance.hart.tpc = s.hart.tpc := by unfold State.advance; split <;> rfl
@[simp] theorem State.advance_hart_tcause (s : State) : s.advance.hart.tcause = s.hart.tcause := by unfold State.advance; split <;> rfl
@[simp] theorem State.advance_hart_tval (s : State) : s.advance.hart.tval = s.hart.tval := by unfold State.advance; split <;> rfl
@[simp] theorem State.advance_hart_tdone (s : State) : s.advance.hart.tdone = s.hart.tdone := by unfold State.advance; split <;> rfl
@[simp] theorem State.advance_hart_tprog (s : State) : s.advance.hart.tprog = s.hart.tprog := by unfold State.advance; split <;> rfl
@[simp] theorem State.advance_hart_steepcnt (s : State) : s.advance.hart.steepcnt = s.hart.steepcnt := by unfold State.advance; split <;> rfl
@[simp] theorem State.advance_hart_steeplim (s : State) : s.advance.hart.steeplim = s.hart.steeplim := by unfold State.advance; split <;> rfl
@[simp] theorem State.advance_hart_quantum (s : State) : s.advance.hart.quantum = s.hart.quantum := by unfold State.advance; split <;> rfl
@[simp] theorem State.advance_hart_prioLevel (s : State) : s.advance.hart.prioLevel = s.hart.prioLevel := by unfold State.advance; split <;> rfl
@[simp] theorem State.advance_hart_prioCeil (s : State) : s.advance.hart.prioCeil = s.hart.prioCeil := by unfold State.advance; split <;> rfl
@[simp] theorem State.advance_hart_ctxptr (s : State) : s.advance.hart.ctxptr = s.hart.ctxptr := by unfold State.advance; split <;> rfl
@[simp] theorem State.advance_hart_qcount (s : State) : s.advance.hart.qcount = s.hart.qcount := by unfold State.advance; split <;> rfl
@[simp] theorem State.advance_hart_replay (s : State) : s.advance.hart.replay = s.hart.replay := by unfold State.advance; split <;> rfl
@[simp] theorem State.advance_hart_code (s : State) : s.advance.hart.code = s.hart.code := by unfold State.advance; split <;> rfl
@[simp] theorem State.advance_hart_dbg (s : State) : s.advance.hart.dbg = s.hart.dbg := by unfold State.advance; split <;> rfl
@[simp] theorem State.advance_hart_noMatch (s : State) : s.advance.hart.noMatch = s.hart.noMatch := by unfold State.advance; split <;> rfl
@[simp] theorem State.advance_hart_expireAt (s : State) : s.advance.hart.expireAt = s.hart.expireAt := by unfold State.advance; split <;> rfl
@[simp] theorem State.advance_hart_asked (s : State) : s.advance.hart.asked = s.hart.asked := by unfold State.advance; split <;> rfl
@[simp] theorem State.advance_hart_leave (s : State) : s.advance.hart.leave = s.hart.leave := by unfold State.advance; split <;> rfl
@[simp] theorem State.advance_hart_rotor (s : State) : s.advance.hart.rotor = s.hart.rotor := by unfold State.advance; split <;> rfl

/-! ### count -/

@[simp] theorem State.count_others (s : State) (u : Nat) : (s.count u).others = s.others := by unfold State.count; split <;> first | rfl | (dsimp only; split <;> rfl)
@[simp] theorem State.count_sched (s : State) (u : Nat) : (s.count u).sched = s.sched := by unfold State.count; split <;> first | rfl | (dsimp only; split <;> rfl)
@[simp] theorem State.count_tm (s : State) (u : Nat) : (s.count u).tm = s.tm := by unfold State.count; split <;> first | rfl | (dsimp only; split <;> rfl)
@[simp] theorem State.count_gm (s : State) (u : Nat) : (s.count u).gm = s.gm := by unfold State.count; split <;> first | rfl | (dsimp only; split <;> rfl)
@[simp] theorem State.count_tmFull (s : State) (u : Nat) : (s.count u).tmFull = s.tmFull := by unfold State.count; split <;> first | rfl | (dsimp only; split <;> rfl)
@[simp] theorem State.count_gmFull (s : State) (u : Nat) : (s.count u).gmFull = s.gmFull := by unfold State.count; split <;> first | rfl | (dsimp only; split <;> rfl)
@[simp] theorem State.count_tmPois (s : State) (u : Nat) : (s.count u).tmPois = s.tmPois := by unfold State.count; split <;> first | rfl | (dsimp only; split <;> rfl)
@[simp] theorem State.count_gmPois (s : State) (u : Nat) : (s.count u).gmPois = s.gmPois := by unfold State.count; split <;> first | rfl | (dsimp only; split <;> rfl)
@[simp] theorem State.count_gmKey (s : State) (u : Nat) : (s.count u).gmKey = s.gmKey := by unfold State.count; split <;> first | rfl | (dsimp only; split <;> rfl)
@[simp] theorem State.count_gmStamp (s : State) (u : Nat) : (s.count u).gmStamp = s.gmStamp := by unfold State.count; split <;> first | rfl | (dsimp only; split <;> rfl)
@[simp] theorem State.count_departed (s : State) (u : Nat) : (s.count u).departed = s.departed := by unfold State.count; split <;> first | rfl | (dsimp only; split <;> rfl)
@[simp] theorem State.count_shoots (s : State) (u : Nat) : (s.count u).shoots = s.shoots := by unfold State.count; split <;> first | rfl | (dsimp only; split <;> rfl)
@[simp] theorem State.count_outbound (s : State) (u : Nat) : (s.count u).outbound = s.outbound := by unfold State.count; split <;> first | rfl | (dsimp only; split <;> rfl)
@[simp] theorem State.count_nextSeq (s : State) (u : Nat) : (s.count u).nextSeq = s.nextSeq := by unfold State.count; split <;> first | rfl | (dsimp only; split <;> rfl)
@[simp] theorem State.count_asyncs (s : State) (u : Nat) : (s.count u).asyncs = s.asyncs := by unfold State.count; split <;> first | rfl | (dsimp only; split <;> rfl)
@[simp] theorem State.count_nets (s : State) (u : Nat) : (s.count u).nets = s.nets := by unfold State.count; split <;> first | rfl | (dsimp only; split <;> rfl)
@[simp] theorem State.count_tiles (s : State) (u : Nat) : (s.count u).tiles = s.tiles := by unfold State.count; split <;> first | rfl | (dsimp only; split <;> rfl)
@[simp] theorem State.count_vdevs (s : State) (u : Nat) : (s.count u).vdevs = s.vdevs := by unfold State.count; split <;> first | rfl | (dsimp only; split <;> rfl)
@[simp] theorem State.count_events (s : State) (u : Nat) : (s.count u).events = s.events := by unfold State.count; split <;> first | rfl | (dsimp only; split <;> rfl)
@[simp] theorem State.count_ticks (s : State) (u : Nat) : (s.count u).ticks = s.ticks := by unfold State.count; split <;> first | rfl | (dsimp only; split <;> rfl)
@[simp] theorem State.count_time (s : State) (u : Nat) : (s.count u).time = s.time := by unfold State.count; split <;> first | rfl | (dsimp only; split <;> rfl)
@[simp] theorem State.count_power (s : State) (u : Nat) : (s.count u).power = s.power := by unfold State.count; split <;> first | rfl | (dsimp only; split <;> rfl)
@[simp] theorem State.count_mcasts (s : State) (u : Nat) : (s.count u).mcasts = s.mcasts := by unfold State.count; split <;> first | rfl | (dsimp only; split <;> rfl)
@[simp] theorem State.count_pkg (s : State) (u : Nat) : (s.count u).pkg = s.pkg := by unfold State.count; split <;> first | rfl | (dsimp only; split <;> rfl)
@[simp] theorem State.count_liveEps (s : State) (u : Nat) : (s.count u).liveEps = s.liveEps := by unfold State.count; split <;> first | rfl | (dsimp only; split <;> rfl)
@[simp] theorem State.count_keySlots (s : State) (u : Nat) : (s.count u).keySlots = s.keySlots := by unfold State.count; split <;> first | rfl | (dsimp only; split <;> rfl)
@[simp] theorem State.count_islands (s : State) (u : Nat) : (s.count u).islands = s.islands := by unfold State.count; split <;> first | rfl | (dsimp only; split <;> rfl)
@[simp] theorem State.count_logEvents (s : State) (u : Nat) : (s.count u).logEvents = s.logEvents := by unfold State.count; split <;> first | rfl | (dsimp only; split <;> rfl)
@[simp] theorem State.count_conns (s : State) (u : Nat) : (s.count u).conns = s.conns := by unfold State.count; split <;> first | rfl | (dsimp only; split <;> rfl)
@[simp] theorem State.count_reports (s : State) (u : Nat) : (s.count u).reports = s.reports := by unfold State.count; split <;> first | rfl | (dsimp only; split <;> rfl)
@[simp] theorem State.count_hart_id (s : State) (u : Nat) : (s.count u).hart.id = s.hart.id := by unfold State.count; split <;> first | rfl | (dsimp only; split <;> rfl)
@[simp] theorem State.count_hart_status (s : State) (u : Nat) : (s.count u).hart.status = s.hart.status := by unfold State.count; split <;> first | rfl | (dsimp only; split <;> rfl)
@[simp] theorem State.count_hart_priv (s : State) (u : Nat) : (s.count u).hart.priv = s.hart.priv := by unfold State.count; split <;> first | rfl | (dsimp only; split <;> rfl)
@[simp] theorem State.count_hart_pc (s : State) (u : Nat) : (s.count u).hart.pc = s.hart.pc := by unfold State.count; split <;> first | rfl | (dsimp only; split <;> rfl)
@[simp] theorem State.count_hart_pid (s : State) (u : Nat) : (s.count u).hart.pid = s.hart.pid := by unfold State.count; split <;> first | rfl | (dsimp only; split <;> rfl)
@[simp] theorem State.count_hart_lane0 (s : State) (u : Nat) : (s.count u).hart.lane0 = s.hart.lane0 := by unfold State.count; split <;> first | rfl | (dsimp only; split <;> rfl)
@[simp] theorem State.count_hart_lanes (s : State) (u : Nat) : (s.count u).hart.lanes = s.hart.lanes := by unfold State.count; split <;> first | rfl | (dsimp only; split <;> rfl)
@[simp] theorem State.count_hart_parent (s : State) (u : Nat) : (s.count u).hart.parent = s.hart.parent := by unfold State.count; split <;> first | rfl | (dsimp only; split <;> rfl)
@[simp] theorem State.count_hart_child (s : State) (u : Nat) : (s.count u).hart.child = s.hart.child := by unfold State.count; split <;> first | rfl | (dsimp only; split <;> rfl)
@[simp] theorem State.count_hart_joined (s : State) (u : Nat) : (s.count u).hart.joined = s.hart.joined := by unfold State.count; split <;> first | rfl | (dsimp only; split <;> rfl)
@[simp] theorem State.count_hart_draws (s : State) (u : Nat) : (s.count u).hart.draws = s.hart.draws := by unfold State.count; split <;> first | rfl | (dsimp only; split <;> rfl)
@[simp] theorem State.count_hart_x (s : State) (u : Nat) : (s.count u).hart.x = s.hart.x := by unfold State.count; split <;> first | rfl | (dsimp only; split <;> rfl)
@[simp] theorem State.count_hart_xPois (s : State) (u : Nat) : (s.count u).hart.xPois = s.hart.xPois := by unfold State.count; split <;> first | rfl | (dsimp only; split <;> rfl)
@[simp] theorem State.count_hart_p (s : State) (u : Nat) : (s.count u).hart.p = s.hart.p := by unfold State.count; split <;> first | rfl | (dsimp only; split <;> rfl)
@[simp] theorem State.count_hart_v (s : State) (u : Nat) : (s.count u).hart.v = s.hart.v := by unfold State.count; split <;> first | rfl | (dsimp only; split <;> rfl)
@[simp] theorem State.count_hart_vPois (s : State) (u : Nat) : (s.count u).hart.vPois = s.hart.vPois := by unfold State.count; split <;> first | rfl | (dsimp only; split <;> rfl)
@[simp] theorem State.count_hart_e (s : State) (u : Nat) : (s.count u).hart.e = s.hart.e := by unfold State.count; split <;> first | rfl | (dsimp only; split <;> rfl)
@[simp] theorem State.count_hart_m (s : State) (u : Nat) : (s.count u).hart.m = s.hart.m := by unfold State.count; split <;> first | rfl | (dsimp only; split <;> rfl)
@[simp] theorem State.count_hart_streams (s : State) (u : Nat) : (s.count u).hart.streams = s.hart.streams := by unfold State.count; split <;> first | rfl | (dsimp only; split <;> rfl)
@[simp] theorem State.count_hart_fflags (s : State) (u : Nat) : (s.count u).hart.fflags = s.hart.fflags := by unfold State.count; split <;> first | rfl | (dsimp only; split <;> rfl)
@[simp] theorem State.count_hart_vl (s : State) (u : Nat) : (s.count u).hart.vl = s.hart.vl := by unfold State.count; split <;> first | rfl | (dsimp only; split <;> rfl)
@[simp] theorem State.count_hart_vtype (s : State) (u : Nat) : (s.count u).hart.vtype = s.hart.vtype := by unfold State.count; split <;> first | rfl | (dsimp only; split <;> rfl)
@[simp] theorem State.count_hart_srseed (s : State) (u : Nat) : (s.count u).hart.srseed = s.hart.srseed := by unfold State.count; split <;> first | rfl | (dsimp only; split <;> rfl)
@[simp] theorem State.count_hart_srcount (s : State) (u : Nat) : (s.count u).hart.srcount = s.hart.srcount := by unfold State.count; split <;> first | rfl | (dsimp only; split <;> rfl)
@[simp] theorem State.count_hart_msprec (s : State) (u : Nat) : (s.count u).hart.msprec = s.hart.msprec := by unfold State.count; split <;> first | rfl | (dsimp only; split <;> rfl)
@[simp] theorem State.count_hart_msanchor (s : State) (u : Nat) : (s.count u).hart.msanchor = s.hart.msanchor := by unfold State.count; split <;> first | rfl | (dsimp only; split <;> rfl)
@[simp] theorem State.count_hart_msm (s : State) (u : Nat) : (s.count u).hart.msm = s.hart.msm := by unfold State.count; split <;> first | rfl | (dsimp only; split <;> rfl)
@[simp] theorem State.count_hart_msn (s : State) (u : Nat) : (s.count u).hart.msn = s.hart.msn := by unfold State.count; split <;> first | rfl | (dsimp only; split <;> rfl)
@[simp] theorem State.count_hart_msk (s : State) (u : Nat) : (s.count u).hart.msk = s.hart.msk := by unfold State.count; split <;> first | rfl | (dsimp only; split <;> rfl)
@[simp] theorem State.count_hart_telem (s : State) (u : Nat) : (s.count u).hart.telem = s.hart.telem := by unfold State.count; split <;> first | rfl | (dsimp only; split <;> rfl)
@[simp] theorem State.count_hart_tpc (s : State) (u : Nat) : (s.count u).hart.tpc = s.hart.tpc := by unfold State.count; split <;> first | rfl | (dsimp only; split <;> rfl)
@[simp] theorem State.count_hart_tcause (s : State) (u : Nat) : (s.count u).hart.tcause = s.hart.tcause := by unfold State.count; split <;> first | rfl | (dsimp only; split <;> rfl)
@[simp] theorem State.count_hart_tval (s : State) (u : Nat) : (s.count u).hart.tval = s.hart.tval := by unfold State.count; split <;> first | rfl | (dsimp only; split <;> rfl)
@[simp] theorem State.count_hart_tdone (s : State) (u : Nat) : (s.count u).hart.tdone = s.hart.tdone := by unfold State.count; split <;> first | rfl | (dsimp only; split <;> rfl)
@[simp] theorem State.count_hart_tprog (s : State) (u : Nat) : (s.count u).hart.tprog = s.hart.tprog := by unfold State.count; split <;> first | rfl | (dsimp only; split <;> rfl)
@[simp] theorem State.count_hart_steeplim (s : State) (u : Nat) : (s.count u).hart.steeplim = s.hart.steeplim := by unfold State.count; split <;> first | rfl | (dsimp only; split <;> rfl)
@[simp] theorem State.count_hart_quantum (s : State) (u : Nat) : (s.count u).hart.quantum = s.hart.quantum := by unfold State.count; split <;> first | rfl | (dsimp only; split <;> rfl)
@[simp] theorem State.count_hart_prioLevel (s : State) (u : Nat) : (s.count u).hart.prioLevel = s.hart.prioLevel := by unfold State.count; split <;> first | rfl | (dsimp only; split <;> rfl)
@[simp] theorem State.count_hart_prioCeil (s : State) (u : Nat) : (s.count u).hart.prioCeil = s.hart.prioCeil := by unfold State.count; split <;> first | rfl | (dsimp only; split <;> rfl)
@[simp] theorem State.count_hart_ctxptr (s : State) (u : Nat) : (s.count u).hart.ctxptr = s.hart.ctxptr := by unfold State.count; split <;> first | rfl | (dsimp only; split <;> rfl)
@[simp] theorem State.count_hart_chanWait (s : State) (u : Nat) : (s.count u).hart.chanWait = s.hart.chanWait := by unfold State.count; split <;> first | rfl | (dsimp only; split <;> rfl)
@[simp] theorem State.count_hart_replay (s : State) (u : Nat) : (s.count u).hart.replay = s.hart.replay := by unfold State.count; split <;> first | rfl | (dsimp only; split <;> rfl)
@[simp] theorem State.count_hart_code (s : State) (u : Nat) : (s.count u).hart.code = s.hart.code := by unfold State.count; split <;> first | rfl | (dsimp only; split <;> rfl)
@[simp] theorem State.count_hart_current (s : State) (u : Nat) : (s.count u).hart.current = s.hart.current := by unfold State.count; split <;> first | rfl | (dsimp only; split <;> rfl)
@[simp] theorem State.count_hart_dbg (s : State) (u : Nat) : (s.count u).hart.dbg = s.hart.dbg := by unfold State.count; split <;> first | rfl | (dsimp only; split <;> rfl)
@[simp] theorem State.count_hart_noMatch (s : State) (u : Nat) : (s.count u).hart.noMatch = s.hart.noMatch := by unfold State.count; split <;> first | rfl | (dsimp only; split <;> rfl)
@[simp] theorem State.count_hart_expireAt (s : State) (u : Nat) : (s.count u).hart.expireAt = s.hart.expireAt := by unfold State.count; split <;> first | rfl | (dsimp only; split <;> rfl)
@[simp] theorem State.count_hart_asked (s : State) (u : Nat) : (s.count u).hart.asked = s.hart.asked := by unfold State.count; split <;> first | rfl | (dsimp only; split <;> rfl)
@[simp] theorem State.count_hart_leave (s : State) (u : Nat) : (s.count u).hart.leave = s.hart.leave := by unfold State.count; split <;> first | rfl | (dsimp only; split <;> rfl)
@[simp] theorem State.count_hart_rotor (s : State) (u : Nat) : (s.count u).hart.rotor = s.hart.rotor := by unfold State.count; split <;> first | rfl | (dsimp only; split <;> rfl)

/-! ### block -/

@[simp] theorem State.block_others (s : State) (w : Wait) : (s.block w).others = s.others := rfl
@[simp] theorem State.block_sched (s : State) (w : Wait) : (s.block w).sched = s.sched := rfl
@[simp] theorem State.block_tm (s : State) (w : Wait) : (s.block w).tm = s.tm := rfl
@[simp] theorem State.block_gm (s : State) (w : Wait) : (s.block w).gm = s.gm := rfl
@[simp] theorem State.block_tmFull (s : State) (w : Wait) : (s.block w).tmFull = s.tmFull := rfl
@[simp] theorem State.block_gmFull (s : State) (w : Wait) : (s.block w).gmFull = s.gmFull := rfl
@[simp] theorem State.block_tmPois (s : State) (w : Wait) : (s.block w).tmPois = s.tmPois := rfl
@[simp] theorem State.block_gmPois (s : State) (w : Wait) : (s.block w).gmPois = s.gmPois := rfl
@[simp] theorem State.block_gmKey (s : State) (w : Wait) : (s.block w).gmKey = s.gmKey := rfl
@[simp] theorem State.block_gmStamp (s : State) (w : Wait) : (s.block w).gmStamp = s.gmStamp := rfl
@[simp] theorem State.block_departed (s : State) (w : Wait) : (s.block w).departed = s.departed := rfl
@[simp] theorem State.block_shoots (s : State) (w : Wait) : (s.block w).shoots = s.shoots := rfl
@[simp] theorem State.block_outbound (s : State) (w : Wait) : (s.block w).outbound = s.outbound := rfl
@[simp] theorem State.block_nextSeq (s : State) (w : Wait) : (s.block w).nextSeq = s.nextSeq := rfl
@[simp] theorem State.block_asyncs (s : State) (w : Wait) : (s.block w).asyncs = s.asyncs := rfl
@[simp] theorem State.block_procs (s : State) (w : Wait) : (s.block w).procs = s.procs := rfl
@[simp] theorem State.block_nets (s : State) (w : Wait) : (s.block w).nets = s.nets := rfl
@[simp] theorem State.block_tiles (s : State) (w : Wait) : (s.block w).tiles = s.tiles := rfl
@[simp] theorem State.block_vdevs (s : State) (w : Wait) : (s.block w).vdevs = s.vdevs := rfl
@[simp] theorem State.block_events (s : State) (w : Wait) : (s.block w).events = s.events := rfl
@[simp] theorem State.block_ticks (s : State) (w : Wait) : (s.block w).ticks = s.ticks := rfl
@[simp] theorem State.block_time (s : State) (w : Wait) : (s.block w).time = s.time := rfl
@[simp] theorem State.block_power (s : State) (w : Wait) : (s.block w).power = s.power := rfl
@[simp] theorem State.block_mcasts (s : State) (w : Wait) : (s.block w).mcasts = s.mcasts := rfl
@[simp] theorem State.block_pkg (s : State) (w : Wait) : (s.block w).pkg = s.pkg := rfl
@[simp] theorem State.block_liveEps (s : State) (w : Wait) : (s.block w).liveEps = s.liveEps := rfl
@[simp] theorem State.block_keySlots (s : State) (w : Wait) : (s.block w).keySlots = s.keySlots := rfl
@[simp] theorem State.block_islands (s : State) (w : Wait) : (s.block w).islands = s.islands := rfl
@[simp] theorem State.block_logEvents (s : State) (w : Wait) : (s.block w).logEvents = s.logEvents := rfl
@[simp] theorem State.block_conns (s : State) (w : Wait) : (s.block w).conns = s.conns := rfl
@[simp] theorem State.block_reports (s : State) (w : Wait) : (s.block w).reports = s.reports := rfl
@[simp] theorem State.block_hart_id (s : State) (w : Wait) : (s.block w).hart.id = s.hart.id := rfl
@[simp] theorem State.block_hart_priv (s : State) (w : Wait) : (s.block w).hart.priv = s.hart.priv := rfl
@[simp] theorem State.block_hart_pc (s : State) (w : Wait) : (s.block w).hart.pc = s.hart.pc := rfl
@[simp] theorem State.block_hart_pid (s : State) (w : Wait) : (s.block w).hart.pid = s.hart.pid := rfl
@[simp] theorem State.block_hart_lane0 (s : State) (w : Wait) : (s.block w).hart.lane0 = s.hart.lane0 := rfl
@[simp] theorem State.block_hart_lanes (s : State) (w : Wait) : (s.block w).hart.lanes = s.hart.lanes := rfl
@[simp] theorem State.block_hart_parent (s : State) (w : Wait) : (s.block w).hart.parent = s.hart.parent := rfl
@[simp] theorem State.block_hart_child (s : State) (w : Wait) : (s.block w).hart.child = s.hart.child := rfl
@[simp] theorem State.block_hart_joined (s : State) (w : Wait) : (s.block w).hart.joined = s.hart.joined := rfl
@[simp] theorem State.block_hart_draws (s : State) (w : Wait) : (s.block w).hart.draws = s.hart.draws := rfl
@[simp] theorem State.block_hart_x (s : State) (w : Wait) : (s.block w).hart.x = s.hart.x := rfl
@[simp] theorem State.block_hart_xPois (s : State) (w : Wait) : (s.block w).hart.xPois = s.hart.xPois := rfl
@[simp] theorem State.block_hart_p (s : State) (w : Wait) : (s.block w).hart.p = s.hart.p := rfl
@[simp] theorem State.block_hart_v (s : State) (w : Wait) : (s.block w).hart.v = s.hart.v := rfl
@[simp] theorem State.block_hart_vPois (s : State) (w : Wait) : (s.block w).hart.vPois = s.hart.vPois := rfl
@[simp] theorem State.block_hart_e (s : State) (w : Wait) : (s.block w).hart.e = s.hart.e := rfl
@[simp] theorem State.block_hart_m (s : State) (w : Wait) : (s.block w).hart.m = s.hart.m := rfl
@[simp] theorem State.block_hart_streams (s : State) (w : Wait) : (s.block w).hart.streams = s.hart.streams := rfl
@[simp] theorem State.block_hart_fflags (s : State) (w : Wait) : (s.block w).hart.fflags = s.hart.fflags := rfl
@[simp] theorem State.block_hart_vl (s : State) (w : Wait) : (s.block w).hart.vl = s.hart.vl := rfl
@[simp] theorem State.block_hart_vtype (s : State) (w : Wait) : (s.block w).hart.vtype = s.hart.vtype := rfl
@[simp] theorem State.block_hart_srseed (s : State) (w : Wait) : (s.block w).hart.srseed = s.hart.srseed := rfl
@[simp] theorem State.block_hart_srcount (s : State) (w : Wait) : (s.block w).hart.srcount = s.hart.srcount := rfl
@[simp] theorem State.block_hart_msprec (s : State) (w : Wait) : (s.block w).hart.msprec = s.hart.msprec := rfl
@[simp] theorem State.block_hart_msanchor (s : State) (w : Wait) : (s.block w).hart.msanchor = s.hart.msanchor := rfl
@[simp] theorem State.block_hart_msm (s : State) (w : Wait) : (s.block w).hart.msm = s.hart.msm := rfl
@[simp] theorem State.block_hart_msn (s : State) (w : Wait) : (s.block w).hart.msn = s.hart.msn := rfl
@[simp] theorem State.block_hart_msk (s : State) (w : Wait) : (s.block w).hart.msk = s.hart.msk := rfl
@[simp] theorem State.block_hart_telem (s : State) (w : Wait) : (s.block w).hart.telem = s.hart.telem := rfl
@[simp] theorem State.block_hart_tpc (s : State) (w : Wait) : (s.block w).hart.tpc = s.hart.tpc := rfl
@[simp] theorem State.block_hart_tcause (s : State) (w : Wait) : (s.block w).hart.tcause = s.hart.tcause := rfl
@[simp] theorem State.block_hart_tval (s : State) (w : Wait) : (s.block w).hart.tval = s.hart.tval := rfl
@[simp] theorem State.block_hart_tdone (s : State) (w : Wait) : (s.block w).hart.tdone = s.hart.tdone := rfl
@[simp] theorem State.block_hart_tprog (s : State) (w : Wait) : (s.block w).hart.tprog = s.hart.tprog := rfl
@[simp] theorem State.block_hart_steepcnt (s : State) (w : Wait) : (s.block w).hart.steepcnt = s.hart.steepcnt := rfl
@[simp] theorem State.block_hart_steeplim (s : State) (w : Wait) : (s.block w).hart.steeplim = s.hart.steeplim := rfl
@[simp] theorem State.block_hart_quantum (s : State) (w : Wait) : (s.block w).hart.quantum = s.hart.quantum := rfl
@[simp] theorem State.block_hart_prioLevel (s : State) (w : Wait) : (s.block w).hart.prioLevel = s.hart.prioLevel := rfl
@[simp] theorem State.block_hart_prioCeil (s : State) (w : Wait) : (s.block w).hart.prioCeil = s.hart.prioCeil := rfl
@[simp] theorem State.block_hart_ctxptr (s : State) (w : Wait) : (s.block w).hart.ctxptr = s.hart.ctxptr := rfl
@[simp] theorem State.block_hart_qcount (s : State) (w : Wait) : (s.block w).hart.qcount = s.hart.qcount := rfl
@[simp] theorem State.block_hart_chanWait (s : State) (w : Wait) : (s.block w).hart.chanWait = s.hart.chanWait := rfl
@[simp] theorem State.block_hart_replay (s : State) (w : Wait) : (s.block w).hart.replay = s.hart.replay := rfl
@[simp] theorem State.block_hart_code (s : State) (w : Wait) : (s.block w).hart.code = s.hart.code := rfl
@[simp] theorem State.block_hart_current (s : State) (w : Wait) : (s.block w).hart.current = s.hart.current := rfl
@[simp] theorem State.block_hart_dbg (s : State) (w : Wait) : (s.block w).hart.dbg = s.hart.dbg := rfl
@[simp] theorem State.block_hart_noMatch (s : State) (w : Wait) : (s.block w).hart.noMatch = s.hart.noMatch := rfl
@[simp] theorem State.block_hart_expireAt (s : State) (w : Wait) : (s.block w).hart.expireAt = s.hart.expireAt := rfl
@[simp] theorem State.block_hart_asked (s : State) (w : Wait) : (s.block w).hart.asked = s.hart.asked := rfl
@[simp] theorem State.block_hart_leave (s : State) (w : Wait) : (s.block w).hart.leave = s.hart.leave := rfl
@[simp] theorem State.block_hart_rotor (s : State) (w : Wait) : (s.block w).hart.rotor = s.hart.rotor := rfl

/-! ### unblock -/

@[simp] theorem State.unblock_others (s : State) : s.unblock.others = s.others := rfl
@[simp] theorem State.unblock_sched (s : State) : s.unblock.sched = s.sched := rfl
@[simp] theorem State.unblock_tm (s : State) : s.unblock.tm = s.tm := rfl
@[simp] theorem State.unblock_gm (s : State) : s.unblock.gm = s.gm := rfl
@[simp] theorem State.unblock_tmFull (s : State) : s.unblock.tmFull = s.tmFull := rfl
@[simp] theorem State.unblock_gmFull (s : State) : s.unblock.gmFull = s.gmFull := rfl
@[simp] theorem State.unblock_tmPois (s : State) : s.unblock.tmPois = s.tmPois := rfl
@[simp] theorem State.unblock_gmPois (s : State) : s.unblock.gmPois = s.gmPois := rfl
@[simp] theorem State.unblock_gmKey (s : State) : s.unblock.gmKey = s.gmKey := rfl
@[simp] theorem State.unblock_gmStamp (s : State) : s.unblock.gmStamp = s.gmStamp := rfl
@[simp] theorem State.unblock_departed (s : State) : s.unblock.departed = s.departed := rfl
@[simp] theorem State.unblock_shoots (s : State) : s.unblock.shoots = s.shoots := rfl
@[simp] theorem State.unblock_outbound (s : State) : s.unblock.outbound = s.outbound := rfl
@[simp] theorem State.unblock_nextSeq (s : State) : s.unblock.nextSeq = s.nextSeq := rfl
@[simp] theorem State.unblock_asyncs (s : State) : s.unblock.asyncs = s.asyncs := rfl
@[simp] theorem State.unblock_procs (s : State) : s.unblock.procs = s.procs := rfl
@[simp] theorem State.unblock_nets (s : State) : s.unblock.nets = s.nets := rfl
@[simp] theorem State.unblock_tiles (s : State) : s.unblock.tiles = s.tiles := rfl
@[simp] theorem State.unblock_vdevs (s : State) : s.unblock.vdevs = s.vdevs := rfl
@[simp] theorem State.unblock_events (s : State) : s.unblock.events = s.events := rfl
@[simp] theorem State.unblock_ticks (s : State) : s.unblock.ticks = s.ticks := rfl
@[simp] theorem State.unblock_time (s : State) : s.unblock.time = s.time := rfl
@[simp] theorem State.unblock_power (s : State) : s.unblock.power = s.power := rfl
@[simp] theorem State.unblock_mcasts (s : State) : s.unblock.mcasts = s.mcasts := rfl
@[simp] theorem State.unblock_pkg (s : State) : s.unblock.pkg = s.pkg := rfl
@[simp] theorem State.unblock_liveEps (s : State) : s.unblock.liveEps = s.liveEps := rfl
@[simp] theorem State.unblock_keySlots (s : State) : s.unblock.keySlots = s.keySlots := rfl
@[simp] theorem State.unblock_islands (s : State) : s.unblock.islands = s.islands := rfl
@[simp] theorem State.unblock_logEvents (s : State) : s.unblock.logEvents = s.logEvents := rfl
@[simp] theorem State.unblock_conns (s : State) : s.unblock.conns = s.conns := rfl
@[simp] theorem State.unblock_reports (s : State) : s.unblock.reports = s.reports := rfl
@[simp] theorem State.unblock_hart_id (s : State) : s.unblock.hart.id = s.hart.id := rfl
@[simp] theorem State.unblock_hart_priv (s : State) : s.unblock.hart.priv = s.hart.priv := rfl
@[simp] theorem State.unblock_hart_pc (s : State) : s.unblock.hart.pc = s.hart.pc := rfl
@[simp] theorem State.unblock_hart_pid (s : State) : s.unblock.hart.pid = s.hart.pid := rfl
@[simp] theorem State.unblock_hart_lane0 (s : State) : s.unblock.hart.lane0 = s.hart.lane0 := rfl
@[simp] theorem State.unblock_hart_lanes (s : State) : s.unblock.hart.lanes = s.hart.lanes := rfl
@[simp] theorem State.unblock_hart_parent (s : State) : s.unblock.hart.parent = s.hart.parent := rfl
@[simp] theorem State.unblock_hart_child (s : State) : s.unblock.hart.child = s.hart.child := rfl
@[simp] theorem State.unblock_hart_joined (s : State) : s.unblock.hart.joined = s.hart.joined := rfl
@[simp] theorem State.unblock_hart_draws (s : State) : s.unblock.hart.draws = s.hart.draws := rfl
@[simp] theorem State.unblock_hart_x (s : State) : s.unblock.hart.x = s.hart.x := rfl
@[simp] theorem State.unblock_hart_xPois (s : State) : s.unblock.hart.xPois = s.hart.xPois := rfl
@[simp] theorem State.unblock_hart_p (s : State) : s.unblock.hart.p = s.hart.p := rfl
@[simp] theorem State.unblock_hart_v (s : State) : s.unblock.hart.v = s.hart.v := rfl
@[simp] theorem State.unblock_hart_vPois (s : State) : s.unblock.hart.vPois = s.hart.vPois := rfl
@[simp] theorem State.unblock_hart_e (s : State) : s.unblock.hart.e = s.hart.e := rfl
@[simp] theorem State.unblock_hart_m (s : State) : s.unblock.hart.m = s.hart.m := rfl
@[simp] theorem State.unblock_hart_streams (s : State) : s.unblock.hart.streams = s.hart.streams := rfl
@[simp] theorem State.unblock_hart_fflags (s : State) : s.unblock.hart.fflags = s.hart.fflags := rfl
@[simp] theorem State.unblock_hart_vl (s : State) : s.unblock.hart.vl = s.hart.vl := rfl
@[simp] theorem State.unblock_hart_vtype (s : State) : s.unblock.hart.vtype = s.hart.vtype := rfl
@[simp] theorem State.unblock_hart_srseed (s : State) : s.unblock.hart.srseed = s.hart.srseed := rfl
@[simp] theorem State.unblock_hart_srcount (s : State) : s.unblock.hart.srcount = s.hart.srcount := rfl
@[simp] theorem State.unblock_hart_msprec (s : State) : s.unblock.hart.msprec = s.hart.msprec := rfl
@[simp] theorem State.unblock_hart_msanchor (s : State) : s.unblock.hart.msanchor = s.hart.msanchor := rfl
@[simp] theorem State.unblock_hart_msm (s : State) : s.unblock.hart.msm = s.hart.msm := rfl
@[simp] theorem State.unblock_hart_msn (s : State) : s.unblock.hart.msn = s.hart.msn := rfl
@[simp] theorem State.unblock_hart_msk (s : State) : s.unblock.hart.msk = s.hart.msk := rfl
@[simp] theorem State.unblock_hart_telem (s : State) : s.unblock.hart.telem = s.hart.telem := rfl
@[simp] theorem State.unblock_hart_tpc (s : State) : s.unblock.hart.tpc = s.hart.tpc := rfl
@[simp] theorem State.unblock_hart_tcause (s : State) : s.unblock.hart.tcause = s.hart.tcause := rfl
@[simp] theorem State.unblock_hart_tval (s : State) : s.unblock.hart.tval = s.hart.tval := rfl
@[simp] theorem State.unblock_hart_tdone (s : State) : s.unblock.hart.tdone = s.hart.tdone := rfl
@[simp] theorem State.unblock_hart_tprog (s : State) : s.unblock.hart.tprog = s.hart.tprog := rfl
@[simp] theorem State.unblock_hart_steepcnt (s : State) : s.unblock.hart.steepcnt = s.hart.steepcnt := rfl
@[simp] theorem State.unblock_hart_steeplim (s : State) : s.unblock.hart.steeplim = s.hart.steeplim := rfl
@[simp] theorem State.unblock_hart_quantum (s : State) : s.unblock.hart.quantum = s.hart.quantum := rfl
@[simp] theorem State.unblock_hart_prioLevel (s : State) : s.unblock.hart.prioLevel = s.hart.prioLevel := rfl
@[simp] theorem State.unblock_hart_prioCeil (s : State) : s.unblock.hart.prioCeil = s.hart.prioCeil := rfl
@[simp] theorem State.unblock_hart_ctxptr (s : State) : s.unblock.hart.ctxptr = s.hart.ctxptr := rfl
@[simp] theorem State.unblock_hart_qcount (s : State) : s.unblock.hart.qcount = s.hart.qcount := rfl
@[simp] theorem State.unblock_hart_chanWait (s : State) : s.unblock.hart.chanWait = s.hart.chanWait := rfl
@[simp] theorem State.unblock_hart_replay (s : State) : s.unblock.hart.replay = s.hart.replay := rfl
@[simp] theorem State.unblock_hart_code (s : State) : s.unblock.hart.code = s.hart.code := rfl
@[simp] theorem State.unblock_hart_current (s : State) : s.unblock.hart.current = s.hart.current := rfl
@[simp] theorem State.unblock_hart_dbg (s : State) : s.unblock.hart.dbg = s.hart.dbg := rfl
@[simp] theorem State.unblock_hart_noMatch (s : State) : s.unblock.hart.noMatch = s.hart.noMatch := rfl
@[simp] theorem State.unblock_hart_expireAt (s : State) : s.unblock.hart.expireAt = s.hart.expireAt := rfl
@[simp] theorem State.unblock_hart_asked (s : State) : s.unblock.hart.asked = s.hart.asked := rfl
@[simp] theorem State.unblock_hart_leave (s : State) : s.unblock.hart.leave = s.hart.leave := rfl
@[simp] theorem State.unblock_hart_rotor (s : State) : s.unblock.hart.rotor = s.hart.rotor := rfl

/-! ### raise -/

@[simp] theorem State.raise_others (s : State) (f : FFlags) : (s.raise f).others = s.others := rfl
@[simp] theorem State.raise_sched (s : State) (f : FFlags) : (s.raise f).sched = s.sched := rfl
@[simp] theorem State.raise_tm (s : State) (f : FFlags) : (s.raise f).tm = s.tm := rfl
@[simp] theorem State.raise_gm (s : State) (f : FFlags) : (s.raise f).gm = s.gm := rfl
@[simp] theorem State.raise_tmFull (s : State) (f : FFlags) : (s.raise f).tmFull = s.tmFull := rfl
@[simp] theorem State.raise_gmFull (s : State) (f : FFlags) : (s.raise f).gmFull = s.gmFull := rfl
@[simp] theorem State.raise_tmPois (s : State) (f : FFlags) : (s.raise f).tmPois = s.tmPois := rfl
@[simp] theorem State.raise_gmPois (s : State) (f : FFlags) : (s.raise f).gmPois = s.gmPois := rfl
@[simp] theorem State.raise_gmKey (s : State) (f : FFlags) : (s.raise f).gmKey = s.gmKey := rfl
@[simp] theorem State.raise_gmStamp (s : State) (f : FFlags) : (s.raise f).gmStamp = s.gmStamp := rfl
@[simp] theorem State.raise_departed (s : State) (f : FFlags) : (s.raise f).departed = s.departed := rfl
@[simp] theorem State.raise_shoots (s : State) (f : FFlags) : (s.raise f).shoots = s.shoots := rfl
@[simp] theorem State.raise_outbound (s : State) (f : FFlags) : (s.raise f).outbound = s.outbound := rfl
@[simp] theorem State.raise_nextSeq (s : State) (f : FFlags) : (s.raise f).nextSeq = s.nextSeq := rfl
@[simp] theorem State.raise_asyncs (s : State) (f : FFlags) : (s.raise f).asyncs = s.asyncs := rfl
@[simp] theorem State.raise_procs (s : State) (f : FFlags) : (s.raise f).procs = s.procs := rfl
@[simp] theorem State.raise_nets (s : State) (f : FFlags) : (s.raise f).nets = s.nets := rfl
@[simp] theorem State.raise_tiles (s : State) (f : FFlags) : (s.raise f).tiles = s.tiles := rfl
@[simp] theorem State.raise_vdevs (s : State) (f : FFlags) : (s.raise f).vdevs = s.vdevs := rfl
@[simp] theorem State.raise_events (s : State) (f : FFlags) : (s.raise f).events = s.events := rfl
@[simp] theorem State.raise_ticks (s : State) (f : FFlags) : (s.raise f).ticks = s.ticks := rfl
@[simp] theorem State.raise_time (s : State) (f : FFlags) : (s.raise f).time = s.time := rfl
@[simp] theorem State.raise_power (s : State) (f : FFlags) : (s.raise f).power = s.power := rfl
@[simp] theorem State.raise_mcasts (s : State) (f : FFlags) : (s.raise f).mcasts = s.mcasts := rfl
@[simp] theorem State.raise_pkg (s : State) (f : FFlags) : (s.raise f).pkg = s.pkg := rfl
@[simp] theorem State.raise_liveEps (s : State) (f : FFlags) : (s.raise f).liveEps = s.liveEps := rfl
@[simp] theorem State.raise_keySlots (s : State) (f : FFlags) : (s.raise f).keySlots = s.keySlots := rfl
@[simp] theorem State.raise_islands (s : State) (f : FFlags) : (s.raise f).islands = s.islands := rfl
@[simp] theorem State.raise_logEvents (s : State) (f : FFlags) : (s.raise f).logEvents = s.logEvents := rfl
@[simp] theorem State.raise_conns (s : State) (f : FFlags) : (s.raise f).conns = s.conns := rfl
@[simp] theorem State.raise_reports (s : State) (f : FFlags) : (s.raise f).reports = s.reports := rfl
@[simp] theorem State.raise_hart_id (s : State) (f : FFlags) : (s.raise f).hart.id = s.hart.id := rfl
@[simp] theorem State.raise_hart_status (s : State) (f : FFlags) : (s.raise f).hart.status = s.hart.status := rfl
@[simp] theorem State.raise_hart_priv (s : State) (f : FFlags) : (s.raise f).hart.priv = s.hart.priv := rfl
@[simp] theorem State.raise_hart_pc (s : State) (f : FFlags) : (s.raise f).hart.pc = s.hart.pc := rfl
@[simp] theorem State.raise_hart_pid (s : State) (f : FFlags) : (s.raise f).hart.pid = s.hart.pid := rfl
@[simp] theorem State.raise_hart_lane0 (s : State) (f : FFlags) : (s.raise f).hart.lane0 = s.hart.lane0 := rfl
@[simp] theorem State.raise_hart_lanes (s : State) (f : FFlags) : (s.raise f).hart.lanes = s.hart.lanes := rfl
@[simp] theorem State.raise_hart_parent (s : State) (f : FFlags) : (s.raise f).hart.parent = s.hart.parent := rfl
@[simp] theorem State.raise_hart_child (s : State) (f : FFlags) : (s.raise f).hart.child = s.hart.child := rfl
@[simp] theorem State.raise_hart_joined (s : State) (f : FFlags) : (s.raise f).hart.joined = s.hart.joined := rfl
@[simp] theorem State.raise_hart_draws (s : State) (f : FFlags) : (s.raise f).hart.draws = s.hart.draws := rfl
@[simp] theorem State.raise_hart_x (s : State) (f : FFlags) : (s.raise f).hart.x = s.hart.x := rfl
@[simp] theorem State.raise_hart_xPois (s : State) (f : FFlags) : (s.raise f).hart.xPois = s.hart.xPois := rfl
@[simp] theorem State.raise_hart_p (s : State) (f : FFlags) : (s.raise f).hart.p = s.hart.p := rfl
@[simp] theorem State.raise_hart_v (s : State) (f : FFlags) : (s.raise f).hart.v = s.hart.v := rfl
@[simp] theorem State.raise_hart_vPois (s : State) (f : FFlags) : (s.raise f).hart.vPois = s.hart.vPois := rfl
@[simp] theorem State.raise_hart_e (s : State) (f : FFlags) : (s.raise f).hart.e = s.hart.e := rfl
@[simp] theorem State.raise_hart_m (s : State) (f : FFlags) : (s.raise f).hart.m = s.hart.m := rfl
@[simp] theorem State.raise_hart_streams (s : State) (f : FFlags) : (s.raise f).hart.streams = s.hart.streams := rfl
@[simp] theorem State.raise_hart_vl (s : State) (f : FFlags) : (s.raise f).hart.vl = s.hart.vl := rfl
@[simp] theorem State.raise_hart_vtype (s : State) (f : FFlags) : (s.raise f).hart.vtype = s.hart.vtype := rfl
@[simp] theorem State.raise_hart_srseed (s : State) (f : FFlags) : (s.raise f).hart.srseed = s.hart.srseed := rfl
@[simp] theorem State.raise_hart_srcount (s : State) (f : FFlags) : (s.raise f).hart.srcount = s.hart.srcount := rfl
@[simp] theorem State.raise_hart_msprec (s : State) (f : FFlags) : (s.raise f).hart.msprec = s.hart.msprec := rfl
@[simp] theorem State.raise_hart_msanchor (s : State) (f : FFlags) : (s.raise f).hart.msanchor = s.hart.msanchor := rfl
@[simp] theorem State.raise_hart_msm (s : State) (f : FFlags) : (s.raise f).hart.msm = s.hart.msm := rfl
@[simp] theorem State.raise_hart_msn (s : State) (f : FFlags) : (s.raise f).hart.msn = s.hart.msn := rfl
@[simp] theorem State.raise_hart_msk (s : State) (f : FFlags) : (s.raise f).hart.msk = s.hart.msk := rfl
@[simp] theorem State.raise_hart_telem (s : State) (f : FFlags) : (s.raise f).hart.telem = s.hart.telem := rfl
@[simp] theorem State.raise_hart_tpc (s : State) (f : FFlags) : (s.raise f).hart.tpc = s.hart.tpc := rfl
@[simp] theorem State.raise_hart_tcause (s : State) (f : FFlags) : (s.raise f).hart.tcause = s.hart.tcause := rfl
@[simp] theorem State.raise_hart_tval (s : State) (f : FFlags) : (s.raise f).hart.tval = s.hart.tval := rfl
@[simp] theorem State.raise_hart_tdone (s : State) (f : FFlags) : (s.raise f).hart.tdone = s.hart.tdone := rfl
@[simp] theorem State.raise_hart_tprog (s : State) (f : FFlags) : (s.raise f).hart.tprog = s.hart.tprog := rfl
@[simp] theorem State.raise_hart_steepcnt (s : State) (f : FFlags) : (s.raise f).hart.steepcnt = s.hart.steepcnt := rfl
@[simp] theorem State.raise_hart_steeplim (s : State) (f : FFlags) : (s.raise f).hart.steeplim = s.hart.steeplim := rfl
@[simp] theorem State.raise_hart_quantum (s : State) (f : FFlags) : (s.raise f).hart.quantum = s.hart.quantum := rfl
@[simp] theorem State.raise_hart_prioLevel (s : State) (f : FFlags) : (s.raise f).hart.prioLevel = s.hart.prioLevel := rfl
@[simp] theorem State.raise_hart_prioCeil (s : State) (f : FFlags) : (s.raise f).hart.prioCeil = s.hart.prioCeil := rfl
@[simp] theorem State.raise_hart_ctxptr (s : State) (f : FFlags) : (s.raise f).hart.ctxptr = s.hart.ctxptr := rfl
@[simp] theorem State.raise_hart_qcount (s : State) (f : FFlags) : (s.raise f).hart.qcount = s.hart.qcount := rfl
@[simp] theorem State.raise_hart_chanWait (s : State) (f : FFlags) : (s.raise f).hart.chanWait = s.hart.chanWait := rfl
@[simp] theorem State.raise_hart_replay (s : State) (f : FFlags) : (s.raise f).hart.replay = s.hart.replay := rfl
@[simp] theorem State.raise_hart_code (s : State) (f : FFlags) : (s.raise f).hart.code = s.hart.code := rfl
@[simp] theorem State.raise_hart_current (s : State) (f : FFlags) : (s.raise f).hart.current = s.hart.current := rfl
@[simp] theorem State.raise_hart_dbg (s : State) (f : FFlags) : (s.raise f).hart.dbg = s.hart.dbg := rfl
@[simp] theorem State.raise_hart_noMatch (s : State) (f : FFlags) : (s.raise f).hart.noMatch = s.hart.noMatch := rfl
@[simp] theorem State.raise_hart_expireAt (s : State) (f : FFlags) : (s.raise f).hart.expireAt = s.hart.expireAt := rfl
@[simp] theorem State.raise_hart_asked (s : State) (f : FFlags) : (s.raise f).hart.asked = s.hart.asked := rfl
@[simp] theorem State.raise_hart_leave (s : State) (f : FFlags) : (s.raise f).hart.leave = s.hart.leave := rfl
@[simp] theorem State.raise_hart_rotor (s : State) (f : FFlags) : (s.raise f).hart.rotor = s.hart.rotor := rfl

/-! ### spin -/

@[simp] theorem State.spin_others (s : State) (w : IWord) : (s.spin w).others = s.others := rfl
@[simp] theorem State.spin_sched (s : State) (w : IWord) : (s.spin w).sched = s.sched := rfl
@[simp] theorem State.spin_tm (s : State) (w : IWord) : (s.spin w).tm = s.tm := rfl
@[simp] theorem State.spin_gm (s : State) (w : IWord) : (s.spin w).gm = s.gm := rfl
@[simp] theorem State.spin_tmFull (s : State) (w : IWord) : (s.spin w).tmFull = s.tmFull := rfl
@[simp] theorem State.spin_gmFull (s : State) (w : IWord) : (s.spin w).gmFull = s.gmFull := rfl
@[simp] theorem State.spin_tmPois (s : State) (w : IWord) : (s.spin w).tmPois = s.tmPois := rfl
@[simp] theorem State.spin_gmPois (s : State) (w : IWord) : (s.spin w).gmPois = s.gmPois := rfl
@[simp] theorem State.spin_gmKey (s : State) (w : IWord) : (s.spin w).gmKey = s.gmKey := rfl
@[simp] theorem State.spin_gmStamp (s : State) (w : IWord) : (s.spin w).gmStamp = s.gmStamp := rfl
@[simp] theorem State.spin_departed (s : State) (w : IWord) : (s.spin w).departed = s.departed := rfl
@[simp] theorem State.spin_shoots (s : State) (w : IWord) : (s.spin w).shoots = s.shoots := rfl
@[simp] theorem State.spin_outbound (s : State) (w : IWord) : (s.spin w).outbound = s.outbound := rfl
@[simp] theorem State.spin_nextSeq (s : State) (w : IWord) : (s.spin w).nextSeq = s.nextSeq := rfl
@[simp] theorem State.spin_asyncs (s : State) (w : IWord) : (s.spin w).asyncs = s.asyncs := rfl
@[simp] theorem State.spin_procs (s : State) (w : IWord) : (s.spin w).procs = s.procs := rfl
@[simp] theorem State.spin_nets (s : State) (w : IWord) : (s.spin w).nets = s.nets := rfl
@[simp] theorem State.spin_tiles (s : State) (w : IWord) : (s.spin w).tiles = s.tiles := rfl
@[simp] theorem State.spin_vdevs (s : State) (w : IWord) : (s.spin w).vdevs = s.vdevs := rfl
@[simp] theorem State.spin_events (s : State) (w : IWord) : (s.spin w).events = s.events := rfl
@[simp] theorem State.spin_ticks (s : State) (w : IWord) : (s.spin w).ticks = s.ticks := rfl
@[simp] theorem State.spin_time (s : State) (w : IWord) : (s.spin w).time = s.time := rfl
@[simp] theorem State.spin_power (s : State) (w : IWord) : (s.spin w).power = s.power := rfl
@[simp] theorem State.spin_mcasts (s : State) (w : IWord) : (s.spin w).mcasts = s.mcasts := rfl
@[simp] theorem State.spin_pkg (s : State) (w : IWord) : (s.spin w).pkg = s.pkg := rfl
@[simp] theorem State.spin_liveEps (s : State) (w : IWord) : (s.spin w).liveEps = s.liveEps := rfl
@[simp] theorem State.spin_keySlots (s : State) (w : IWord) : (s.spin w).keySlots = s.keySlots := rfl
@[simp] theorem State.spin_islands (s : State) (w : IWord) : (s.spin w).islands = s.islands := rfl
@[simp] theorem State.spin_logEvents (s : State) (w : IWord) : (s.spin w).logEvents = s.logEvents := rfl
@[simp] theorem State.spin_conns (s : State) (w : IWord) : (s.spin w).conns = s.conns := rfl
@[simp] theorem State.spin_reports (s : State) (w : IWord) : (s.spin w).reports = s.reports := rfl
@[simp] theorem State.spin_hart_id (s : State) (w : IWord) : (s.spin w).hart.id = s.hart.id := rfl
@[simp] theorem State.spin_hart_status (s : State) (w : IWord) : (s.spin w).hart.status = s.hart.status := rfl
@[simp] theorem State.spin_hart_priv (s : State) (w : IWord) : (s.spin w).hart.priv = s.hart.priv := rfl
@[simp] theorem State.spin_hart_pc (s : State) (w : IWord) : (s.spin w).hart.pc = s.hart.pc := rfl
@[simp] theorem State.spin_hart_pid (s : State) (w : IWord) : (s.spin w).hart.pid = s.hart.pid := rfl
@[simp] theorem State.spin_hart_lane0 (s : State) (w : IWord) : (s.spin w).hart.lane0 = s.hart.lane0 := rfl
@[simp] theorem State.spin_hart_lanes (s : State) (w : IWord) : (s.spin w).hart.lanes = s.hart.lanes := rfl
@[simp] theorem State.spin_hart_parent (s : State) (w : IWord) : (s.spin w).hart.parent = s.hart.parent := rfl
@[simp] theorem State.spin_hart_child (s : State) (w : IWord) : (s.spin w).hart.child = s.hart.child := rfl
@[simp] theorem State.spin_hart_joined (s : State) (w : IWord) : (s.spin w).hart.joined = s.hart.joined := rfl
@[simp] theorem State.spin_hart_draws (s : State) (w : IWord) : (s.spin w).hart.draws = s.hart.draws := rfl
@[simp] theorem State.spin_hart_x (s : State) (w : IWord) : (s.spin w).hart.x = s.hart.x := rfl
@[simp] theorem State.spin_hart_xPois (s : State) (w : IWord) : (s.spin w).hart.xPois = s.hart.xPois := rfl
@[simp] theorem State.spin_hart_p (s : State) (w : IWord) : (s.spin w).hart.p = s.hart.p := rfl
@[simp] theorem State.spin_hart_v (s : State) (w : IWord) : (s.spin w).hart.v = s.hart.v := rfl
@[simp] theorem State.spin_hart_vPois (s : State) (w : IWord) : (s.spin w).hart.vPois = s.hart.vPois := rfl
@[simp] theorem State.spin_hart_e (s : State) (w : IWord) : (s.spin w).hart.e = s.hart.e := rfl
@[simp] theorem State.spin_hart_m (s : State) (w : IWord) : (s.spin w).hart.m = s.hart.m := rfl
@[simp] theorem State.spin_hart_streams (s : State) (w : IWord) : (s.spin w).hart.streams = s.hart.streams := rfl
@[simp] theorem State.spin_hart_fflags (s : State) (w : IWord) : (s.spin w).hart.fflags = s.hart.fflags := rfl
@[simp] theorem State.spin_hart_vl (s : State) (w : IWord) : (s.spin w).hart.vl = s.hart.vl := rfl
@[simp] theorem State.spin_hart_vtype (s : State) (w : IWord) : (s.spin w).hart.vtype = s.hart.vtype := rfl
@[simp] theorem State.spin_hart_srseed (s : State) (w : IWord) : (s.spin w).hart.srseed = s.hart.srseed := rfl
@[simp] theorem State.spin_hart_srcount (s : State) (w : IWord) : (s.spin w).hart.srcount = s.hart.srcount := rfl
@[simp] theorem State.spin_hart_msprec (s : State) (w : IWord) : (s.spin w).hart.msprec = s.hart.msprec := rfl
@[simp] theorem State.spin_hart_msanchor (s : State) (w : IWord) : (s.spin w).hart.msanchor = s.hart.msanchor := rfl
@[simp] theorem State.spin_hart_msm (s : State) (w : IWord) : (s.spin w).hart.msm = s.hart.msm := rfl
@[simp] theorem State.spin_hart_msn (s : State) (w : IWord) : (s.spin w).hart.msn = s.hart.msn := rfl
@[simp] theorem State.spin_hart_msk (s : State) (w : IWord) : (s.spin w).hart.msk = s.hart.msk := rfl
@[simp] theorem State.spin_hart_telem (s : State) (w : IWord) : (s.spin w).hart.telem = s.hart.telem := rfl
@[simp] theorem State.spin_hart_tpc (s : State) (w : IWord) : (s.spin w).hart.tpc = s.hart.tpc := rfl
@[simp] theorem State.spin_hart_tcause (s : State) (w : IWord) : (s.spin w).hart.tcause = s.hart.tcause := rfl
@[simp] theorem State.spin_hart_tval (s : State) (w : IWord) : (s.spin w).hart.tval = s.hart.tval := rfl
@[simp] theorem State.spin_hart_tdone (s : State) (w : IWord) : (s.spin w).hart.tdone = s.hart.tdone := rfl
@[simp] theorem State.spin_hart_tprog (s : State) (w : IWord) : (s.spin w).hart.tprog = s.hart.tprog := rfl
@[simp] theorem State.spin_hart_steepcnt (s : State) (w : IWord) : (s.spin w).hart.steepcnt = s.hart.steepcnt := rfl
@[simp] theorem State.spin_hart_steeplim (s : State) (w : IWord) : (s.spin w).hart.steeplim = s.hart.steeplim := rfl
@[simp] theorem State.spin_hart_quantum (s : State) (w : IWord) : (s.spin w).hart.quantum = s.hart.quantum := rfl
@[simp] theorem State.spin_hart_prioLevel (s : State) (w : IWord) : (s.spin w).hart.prioLevel = s.hart.prioLevel := rfl
@[simp] theorem State.spin_hart_prioCeil (s : State) (w : IWord) : (s.spin w).hart.prioCeil = s.hart.prioCeil := rfl
@[simp] theorem State.spin_hart_ctxptr (s : State) (w : IWord) : (s.spin w).hart.ctxptr = s.hart.ctxptr := rfl
@[simp] theorem State.spin_hart_qcount (s : State) (w : IWord) : (s.spin w).hart.qcount = s.hart.qcount := rfl
@[simp] theorem State.spin_hart_chanWait (s : State) (w : IWord) : (s.spin w).hart.chanWait = s.hart.chanWait := rfl
@[simp] theorem State.spin_hart_replay (s : State) (w : IWord) : (s.spin w).hart.replay = s.hart.replay := rfl
@[simp] theorem State.spin_hart_code (s : State) (w : IWord) : (s.spin w).hart.code = s.hart.code := rfl
@[simp] theorem State.spin_hart_current (s : State) (w : IWord) : (s.spin w).hart.current = s.hart.current := rfl
@[simp] theorem State.spin_hart_dbg (s : State) (w : IWord) : (s.spin w).hart.dbg = s.hart.dbg := rfl
@[simp] theorem State.spin_hart_noMatch (s : State) (w : IWord) : (s.spin w).hart.noMatch = s.hart.noMatch := rfl
@[simp] theorem State.spin_hart_expireAt (s : State) (w : IWord) : (s.spin w).hart.expireAt = s.hart.expireAt := rfl
@[simp] theorem State.spin_hart_asked (s : State) (w : IWord) : (s.spin w).hart.asked = s.hart.asked := rfl
@[simp] theorem State.spin_hart_leave (s : State) (w : IWord) : (s.spin w).hart.leave = s.hart.leave := rfl

/-! ### holdLeave -/

@[simp] theorem State.holdLeave_others (s : State) (w : IWord) : (s.holdLeave w).others = s.others := by unfold State.holdLeave; split <;> rfl
@[simp] theorem State.holdLeave_sched (s : State) (w : IWord) : (s.holdLeave w).sched = s.sched := by unfold State.holdLeave; split <;> rfl
@[simp] theorem State.holdLeave_tm (s : State) (w : IWord) : (s.holdLeave w).tm = s.tm := by unfold State.holdLeave; split <;> rfl
@[simp] theorem State.holdLeave_gm (s : State) (w : IWord) : (s.holdLeave w).gm = s.gm := by unfold State.holdLeave; split <;> rfl
@[simp] theorem State.holdLeave_tmFull (s : State) (w : IWord) : (s.holdLeave w).tmFull = s.tmFull := by unfold State.holdLeave; split <;> rfl
@[simp] theorem State.holdLeave_gmFull (s : State) (w : IWord) : (s.holdLeave w).gmFull = s.gmFull := by unfold State.holdLeave; split <;> rfl
@[simp] theorem State.holdLeave_tmPois (s : State) (w : IWord) : (s.holdLeave w).tmPois = s.tmPois := by unfold State.holdLeave; split <;> rfl
@[simp] theorem State.holdLeave_gmPois (s : State) (w : IWord) : (s.holdLeave w).gmPois = s.gmPois := by unfold State.holdLeave; split <;> rfl
@[simp] theorem State.holdLeave_gmKey (s : State) (w : IWord) : (s.holdLeave w).gmKey = s.gmKey := by unfold State.holdLeave; split <;> rfl
@[simp] theorem State.holdLeave_gmStamp (s : State) (w : IWord) : (s.holdLeave w).gmStamp = s.gmStamp := by unfold State.holdLeave; split <;> rfl
@[simp] theorem State.holdLeave_departed (s : State) (w : IWord) : (s.holdLeave w).departed = s.departed := by unfold State.holdLeave; split <;> rfl
@[simp] theorem State.holdLeave_shoots (s : State) (w : IWord) : (s.holdLeave w).shoots = s.shoots := by unfold State.holdLeave; split <;> rfl
@[simp] theorem State.holdLeave_outbound (s : State) (w : IWord) : (s.holdLeave w).outbound = s.outbound := by unfold State.holdLeave; split <;> rfl
@[simp] theorem State.holdLeave_nextSeq (s : State) (w : IWord) : (s.holdLeave w).nextSeq = s.nextSeq := by unfold State.holdLeave; split <;> rfl
@[simp] theorem State.holdLeave_asyncs (s : State) (w : IWord) : (s.holdLeave w).asyncs = s.asyncs := by unfold State.holdLeave; split <;> rfl
@[simp] theorem State.holdLeave_procs (s : State) (w : IWord) : (s.holdLeave w).procs = s.procs := by unfold State.holdLeave; split <;> rfl
@[simp] theorem State.holdLeave_nets (s : State) (w : IWord) : (s.holdLeave w).nets = s.nets := by unfold State.holdLeave; split <;> rfl
@[simp] theorem State.holdLeave_tiles (s : State) (w : IWord) : (s.holdLeave w).tiles = s.tiles := by unfold State.holdLeave; split <;> rfl
@[simp] theorem State.holdLeave_vdevs (s : State) (w : IWord) : (s.holdLeave w).vdevs = s.vdevs := by unfold State.holdLeave; split <;> rfl
@[simp] theorem State.holdLeave_events (s : State) (w : IWord) : (s.holdLeave w).events = s.events := by unfold State.holdLeave; split <;> rfl
@[simp] theorem State.holdLeave_ticks (s : State) (w : IWord) : (s.holdLeave w).ticks = s.ticks := by unfold State.holdLeave; split <;> rfl
@[simp] theorem State.holdLeave_time (s : State) (w : IWord) : (s.holdLeave w).time = s.time := by unfold State.holdLeave; split <;> rfl
@[simp] theorem State.holdLeave_power (s : State) (w : IWord) : (s.holdLeave w).power = s.power := by unfold State.holdLeave; split <;> rfl
@[simp] theorem State.holdLeave_mcasts (s : State) (w : IWord) : (s.holdLeave w).mcasts = s.mcasts := by unfold State.holdLeave; split <;> rfl
@[simp] theorem State.holdLeave_pkg (s : State) (w : IWord) : (s.holdLeave w).pkg = s.pkg := by unfold State.holdLeave; split <;> rfl
@[simp] theorem State.holdLeave_liveEps (s : State) (w : IWord) : (s.holdLeave w).liveEps = s.liveEps := by unfold State.holdLeave; split <;> rfl
@[simp] theorem State.holdLeave_keySlots (s : State) (w : IWord) : (s.holdLeave w).keySlots = s.keySlots := by unfold State.holdLeave; split <;> rfl
@[simp] theorem State.holdLeave_islands (s : State) (w : IWord) : (s.holdLeave w).islands = s.islands := by unfold State.holdLeave; split <;> rfl
@[simp] theorem State.holdLeave_logEvents (s : State) (w : IWord) : (s.holdLeave w).logEvents = s.logEvents := by unfold State.holdLeave; split <;> rfl
@[simp] theorem State.holdLeave_conns (s : State) (w : IWord) : (s.holdLeave w).conns = s.conns := by unfold State.holdLeave; split <;> rfl
@[simp] theorem State.holdLeave_reports (s : State) (w : IWord) : (s.holdLeave w).reports = s.reports := by unfold State.holdLeave; split <;> rfl
@[simp] theorem State.holdLeave_hart_id (s : State) (w : IWord) : (s.holdLeave w).hart.id = s.hart.id := by unfold State.holdLeave; split <;> rfl
@[simp] theorem State.holdLeave_hart_status (s : State) (w : IWord) : (s.holdLeave w).hart.status = s.hart.status := by unfold State.holdLeave; split <;> rfl
@[simp] theorem State.holdLeave_hart_priv (s : State) (w : IWord) : (s.holdLeave w).hart.priv = s.hart.priv := by unfold State.holdLeave; split <;> rfl
@[simp] theorem State.holdLeave_hart_pc (s : State) (w : IWord) : (s.holdLeave w).hart.pc = s.hart.pc := by unfold State.holdLeave; split <;> rfl
@[simp] theorem State.holdLeave_hart_pid (s : State) (w : IWord) : (s.holdLeave w).hart.pid = s.hart.pid := by unfold State.holdLeave; split <;> rfl
@[simp] theorem State.holdLeave_hart_lane0 (s : State) (w : IWord) : (s.holdLeave w).hart.lane0 = s.hart.lane0 := by unfold State.holdLeave; split <;> rfl
@[simp] theorem State.holdLeave_hart_lanes (s : State) (w : IWord) : (s.holdLeave w).hart.lanes = s.hart.lanes := by unfold State.holdLeave; split <;> rfl
@[simp] theorem State.holdLeave_hart_parent (s : State) (w : IWord) : (s.holdLeave w).hart.parent = s.hart.parent := by unfold State.holdLeave; split <;> rfl
@[simp] theorem State.holdLeave_hart_child (s : State) (w : IWord) : (s.holdLeave w).hart.child = s.hart.child := by unfold State.holdLeave; split <;> rfl
@[simp] theorem State.holdLeave_hart_joined (s : State) (w : IWord) : (s.holdLeave w).hart.joined = s.hart.joined := by unfold State.holdLeave; split <;> rfl
@[simp] theorem State.holdLeave_hart_draws (s : State) (w : IWord) : (s.holdLeave w).hart.draws = s.hart.draws := by unfold State.holdLeave; split <;> rfl
@[simp] theorem State.holdLeave_hart_x (s : State) (w : IWord) : (s.holdLeave w).hart.x = s.hart.x := by unfold State.holdLeave; split <;> rfl
@[simp] theorem State.holdLeave_hart_xPois (s : State) (w : IWord) : (s.holdLeave w).hart.xPois = s.hart.xPois := by unfold State.holdLeave; split <;> rfl
@[simp] theorem State.holdLeave_hart_p (s : State) (w : IWord) : (s.holdLeave w).hart.p = s.hart.p := by unfold State.holdLeave; split <;> rfl
@[simp] theorem State.holdLeave_hart_v (s : State) (w : IWord) : (s.holdLeave w).hart.v = s.hart.v := by unfold State.holdLeave; split <;> rfl
@[simp] theorem State.holdLeave_hart_vPois (s : State) (w : IWord) : (s.holdLeave w).hart.vPois = s.hart.vPois := by unfold State.holdLeave; split <;> rfl
@[simp] theorem State.holdLeave_hart_e (s : State) (w : IWord) : (s.holdLeave w).hart.e = s.hart.e := by unfold State.holdLeave; split <;> rfl
@[simp] theorem State.holdLeave_hart_m (s : State) (w : IWord) : (s.holdLeave w).hart.m = s.hart.m := by unfold State.holdLeave; split <;> rfl
@[simp] theorem State.holdLeave_hart_streams (s : State) (w : IWord) : (s.holdLeave w).hart.streams = s.hart.streams := by unfold State.holdLeave; split <;> rfl
@[simp] theorem State.holdLeave_hart_fflags (s : State) (w : IWord) : (s.holdLeave w).hart.fflags = s.hart.fflags := by unfold State.holdLeave; split <;> rfl
@[simp] theorem State.holdLeave_hart_vl (s : State) (w : IWord) : (s.holdLeave w).hart.vl = s.hart.vl := by unfold State.holdLeave; split <;> rfl
@[simp] theorem State.holdLeave_hart_vtype (s : State) (w : IWord) : (s.holdLeave w).hart.vtype = s.hart.vtype := by unfold State.holdLeave; split <;> rfl
@[simp] theorem State.holdLeave_hart_srseed (s : State) (w : IWord) : (s.holdLeave w).hart.srseed = s.hart.srseed := by unfold State.holdLeave; split <;> rfl
@[simp] theorem State.holdLeave_hart_srcount (s : State) (w : IWord) : (s.holdLeave w).hart.srcount = s.hart.srcount := by unfold State.holdLeave; split <;> rfl
@[simp] theorem State.holdLeave_hart_msprec (s : State) (w : IWord) : (s.holdLeave w).hart.msprec = s.hart.msprec := by unfold State.holdLeave; split <;> rfl
@[simp] theorem State.holdLeave_hart_msanchor (s : State) (w : IWord) : (s.holdLeave w).hart.msanchor = s.hart.msanchor := by unfold State.holdLeave; split <;> rfl
@[simp] theorem State.holdLeave_hart_msm (s : State) (w : IWord) : (s.holdLeave w).hart.msm = s.hart.msm := by unfold State.holdLeave; split <;> rfl
@[simp] theorem State.holdLeave_hart_msn (s : State) (w : IWord) : (s.holdLeave w).hart.msn = s.hart.msn := by unfold State.holdLeave; split <;> rfl
@[simp] theorem State.holdLeave_hart_msk (s : State) (w : IWord) : (s.holdLeave w).hart.msk = s.hart.msk := by unfold State.holdLeave; split <;> rfl
@[simp] theorem State.holdLeave_hart_telem (s : State) (w : IWord) : (s.holdLeave w).hart.telem = s.hart.telem := by unfold State.holdLeave; split <;> rfl
@[simp] theorem State.holdLeave_hart_tpc (s : State) (w : IWord) : (s.holdLeave w).hart.tpc = s.hart.tpc := by unfold State.holdLeave; split <;> rfl
@[simp] theorem State.holdLeave_hart_tcause (s : State) (w : IWord) : (s.holdLeave w).hart.tcause = s.hart.tcause := by unfold State.holdLeave; split <;> rfl
@[simp] theorem State.holdLeave_hart_tval (s : State) (w : IWord) : (s.holdLeave w).hart.tval = s.hart.tval := by unfold State.holdLeave; split <;> rfl
@[simp] theorem State.holdLeave_hart_tdone (s : State) (w : IWord) : (s.holdLeave w).hart.tdone = s.hart.tdone := by unfold State.holdLeave; split <;> rfl
@[simp] theorem State.holdLeave_hart_tprog (s : State) (w : IWord) : (s.holdLeave w).hart.tprog = s.hart.tprog := by unfold State.holdLeave; split <;> rfl
@[simp] theorem State.holdLeave_hart_steepcnt (s : State) (w : IWord) : (s.holdLeave w).hart.steepcnt = s.hart.steepcnt := by unfold State.holdLeave; split <;> rfl
@[simp] theorem State.holdLeave_hart_steeplim (s : State) (w : IWord) : (s.holdLeave w).hart.steeplim = s.hart.steeplim := by unfold State.holdLeave; split <;> rfl
@[simp] theorem State.holdLeave_hart_quantum (s : State) (w : IWord) : (s.holdLeave w).hart.quantum = s.hart.quantum := by unfold State.holdLeave; split <;> rfl
@[simp] theorem State.holdLeave_hart_prioLevel (s : State) (w : IWord) : (s.holdLeave w).hart.prioLevel = s.hart.prioLevel := by unfold State.holdLeave; split <;> rfl
@[simp] theorem State.holdLeave_hart_prioCeil (s : State) (w : IWord) : (s.holdLeave w).hart.prioCeil = s.hart.prioCeil := by unfold State.holdLeave; split <;> rfl
@[simp] theorem State.holdLeave_hart_ctxptr (s : State) (w : IWord) : (s.holdLeave w).hart.ctxptr = s.hart.ctxptr := by unfold State.holdLeave; split <;> rfl
@[simp] theorem State.holdLeave_hart_qcount (s : State) (w : IWord) : (s.holdLeave w).hart.qcount = s.hart.qcount := by unfold State.holdLeave; split <;> rfl
@[simp] theorem State.holdLeave_hart_chanWait (s : State) (w : IWord) : (s.holdLeave w).hart.chanWait = s.hart.chanWait := by unfold State.holdLeave; split <;> rfl
@[simp] theorem State.holdLeave_hart_replay (s : State) (w : IWord) : (s.holdLeave w).hart.replay = s.hart.replay := by unfold State.holdLeave; split <;> rfl
@[simp] theorem State.holdLeave_hart_code (s : State) (w : IWord) : (s.holdLeave w).hart.code = s.hart.code := by unfold State.holdLeave; split <;> rfl
@[simp] theorem State.holdLeave_hart_current (s : State) (w : IWord) : (s.holdLeave w).hart.current = s.hart.current := by unfold State.holdLeave; split <;> rfl
@[simp] theorem State.holdLeave_hart_dbg (s : State) (w : IWord) : (s.holdLeave w).hart.dbg = s.hart.dbg := by unfold State.holdLeave; split <;> rfl
@[simp] theorem State.holdLeave_hart_noMatch (s : State) (w : IWord) : (s.holdLeave w).hart.noMatch = s.hart.noMatch := by unfold State.holdLeave; split <;> rfl
@[simp] theorem State.holdLeave_hart_expireAt (s : State) (w : IWord) : (s.holdLeave w).hart.expireAt = s.hart.expireAt := by unfold State.holdLeave; split <;> rfl
@[simp] theorem State.holdLeave_hart_asked (s : State) (w : IWord) : (s.holdLeave w).hart.asked = s.hart.asked := by unfold State.holdLeave; split <;> rfl
@[simp] theorem State.holdLeave_hart_rotor (s : State) (w : IWord) : (s.holdLeave w).hart.rotor = s.hart.rotor := by unfold State.holdLeave; split <;> rfl

/-! ### setAcc -/

@[simp] theorem State.setAcc_others (s : State) (n : BitVec 2) (a : LongAcc) : (s.setAcc n a).others = s.others := rfl
@[simp] theorem State.setAcc_sched (s : State) (n : BitVec 2) (a : LongAcc) : (s.setAcc n a).sched = s.sched := rfl
@[simp] theorem State.setAcc_tm (s : State) (n : BitVec 2) (a : LongAcc) : (s.setAcc n a).tm = s.tm := rfl
@[simp] theorem State.setAcc_gm (s : State) (n : BitVec 2) (a : LongAcc) : (s.setAcc n a).gm = s.gm := rfl
@[simp] theorem State.setAcc_tmFull (s : State) (n : BitVec 2) (a : LongAcc) : (s.setAcc n a).tmFull = s.tmFull := rfl
@[simp] theorem State.setAcc_gmFull (s : State) (n : BitVec 2) (a : LongAcc) : (s.setAcc n a).gmFull = s.gmFull := rfl
@[simp] theorem State.setAcc_tmPois (s : State) (n : BitVec 2) (a : LongAcc) : (s.setAcc n a).tmPois = s.tmPois := rfl
@[simp] theorem State.setAcc_gmPois (s : State) (n : BitVec 2) (a : LongAcc) : (s.setAcc n a).gmPois = s.gmPois := rfl
@[simp] theorem State.setAcc_gmKey (s : State) (n : BitVec 2) (a : LongAcc) : (s.setAcc n a).gmKey = s.gmKey := rfl
@[simp] theorem State.setAcc_gmStamp (s : State) (n : BitVec 2) (a : LongAcc) : (s.setAcc n a).gmStamp = s.gmStamp := rfl
@[simp] theorem State.setAcc_departed (s : State) (n : BitVec 2) (a : LongAcc) : (s.setAcc n a).departed = s.departed := rfl
@[simp] theorem State.setAcc_shoots (s : State) (n : BitVec 2) (a : LongAcc) : (s.setAcc n a).shoots = s.shoots := rfl
@[simp] theorem State.setAcc_outbound (s : State) (n : BitVec 2) (a : LongAcc) : (s.setAcc n a).outbound = s.outbound := rfl
@[simp] theorem State.setAcc_nextSeq (s : State) (n : BitVec 2) (a : LongAcc) : (s.setAcc n a).nextSeq = s.nextSeq := rfl
@[simp] theorem State.setAcc_asyncs (s : State) (n : BitVec 2) (a : LongAcc) : (s.setAcc n a).asyncs = s.asyncs := rfl
@[simp] theorem State.setAcc_procs (s : State) (n : BitVec 2) (a : LongAcc) : (s.setAcc n a).procs = s.procs := rfl
@[simp] theorem State.setAcc_nets (s : State) (n : BitVec 2) (a : LongAcc) : (s.setAcc n a).nets = s.nets := rfl
@[simp] theorem State.setAcc_tiles (s : State) (n : BitVec 2) (a : LongAcc) : (s.setAcc n a).tiles = s.tiles := rfl
@[simp] theorem State.setAcc_vdevs (s : State) (n : BitVec 2) (a : LongAcc) : (s.setAcc n a).vdevs = s.vdevs := rfl
@[simp] theorem State.setAcc_events (s : State) (n : BitVec 2) (a : LongAcc) : (s.setAcc n a).events = s.events := rfl
@[simp] theorem State.setAcc_ticks (s : State) (n : BitVec 2) (a : LongAcc) : (s.setAcc n a).ticks = s.ticks := rfl
@[simp] theorem State.setAcc_time (s : State) (n : BitVec 2) (a : LongAcc) : (s.setAcc n a).time = s.time := rfl
@[simp] theorem State.setAcc_power (s : State) (n : BitVec 2) (a : LongAcc) : (s.setAcc n a).power = s.power := rfl
@[simp] theorem State.setAcc_mcasts (s : State) (n : BitVec 2) (a : LongAcc) : (s.setAcc n a).mcasts = s.mcasts := rfl
@[simp] theorem State.setAcc_pkg (s : State) (n : BitVec 2) (a : LongAcc) : (s.setAcc n a).pkg = s.pkg := rfl
@[simp] theorem State.setAcc_liveEps (s : State) (n : BitVec 2) (a : LongAcc) : (s.setAcc n a).liveEps = s.liveEps := rfl
@[simp] theorem State.setAcc_keySlots (s : State) (n : BitVec 2) (a : LongAcc) : (s.setAcc n a).keySlots = s.keySlots := rfl
@[simp] theorem State.setAcc_islands (s : State) (n : BitVec 2) (a : LongAcc) : (s.setAcc n a).islands = s.islands := rfl
@[simp] theorem State.setAcc_logEvents (s : State) (n : BitVec 2) (a : LongAcc) : (s.setAcc n a).logEvents = s.logEvents := rfl
@[simp] theorem State.setAcc_conns (s : State) (n : BitVec 2) (a : LongAcc) : (s.setAcc n a).conns = s.conns := rfl
@[simp] theorem State.setAcc_reports (s : State) (n : BitVec 2) (a : LongAcc) : (s.setAcc n a).reports = s.reports := rfl
@[simp] theorem State.setAcc_hart_id (s : State) (n : BitVec 2) (a : LongAcc) : (s.setAcc n a).hart.id = s.hart.id := rfl
@[simp] theorem State.setAcc_hart_status (s : State) (n : BitVec 2) (a : LongAcc) : (s.setAcc n a).hart.status = s.hart.status := rfl
@[simp] theorem State.setAcc_hart_priv (s : State) (n : BitVec 2) (a : LongAcc) : (s.setAcc n a).hart.priv = s.hart.priv := rfl
@[simp] theorem State.setAcc_hart_pc (s : State) (n : BitVec 2) (a : LongAcc) : (s.setAcc n a).hart.pc = s.hart.pc := rfl
@[simp] theorem State.setAcc_hart_pid (s : State) (n : BitVec 2) (a : LongAcc) : (s.setAcc n a).hart.pid = s.hart.pid := rfl
@[simp] theorem State.setAcc_hart_lane0 (s : State) (n : BitVec 2) (a : LongAcc) : (s.setAcc n a).hart.lane0 = s.hart.lane0 := rfl
@[simp] theorem State.setAcc_hart_lanes (s : State) (n : BitVec 2) (a : LongAcc) : (s.setAcc n a).hart.lanes = s.hart.lanes := rfl
@[simp] theorem State.setAcc_hart_parent (s : State) (n : BitVec 2) (a : LongAcc) : (s.setAcc n a).hart.parent = s.hart.parent := rfl
@[simp] theorem State.setAcc_hart_child (s : State) (n : BitVec 2) (a : LongAcc) : (s.setAcc n a).hart.child = s.hart.child := rfl
@[simp] theorem State.setAcc_hart_joined (s : State) (n : BitVec 2) (a : LongAcc) : (s.setAcc n a).hart.joined = s.hart.joined := rfl
@[simp] theorem State.setAcc_hart_draws (s : State) (n : BitVec 2) (a : LongAcc) : (s.setAcc n a).hart.draws = s.hart.draws := rfl
@[simp] theorem State.setAcc_hart_x (s : State) (n : BitVec 2) (a : LongAcc) : (s.setAcc n a).hart.x = s.hart.x := rfl
@[simp] theorem State.setAcc_hart_xPois (s : State) (n : BitVec 2) (a : LongAcc) : (s.setAcc n a).hart.xPois = s.hart.xPois := rfl
@[simp] theorem State.setAcc_hart_p (s : State) (n : BitVec 2) (a : LongAcc) : (s.setAcc n a).hart.p = s.hart.p := rfl
@[simp] theorem State.setAcc_hart_v (s : State) (n : BitVec 2) (a : LongAcc) : (s.setAcc n a).hart.v = s.hart.v := rfl
@[simp] theorem State.setAcc_hart_vPois (s : State) (n : BitVec 2) (a : LongAcc) : (s.setAcc n a).hart.vPois = s.hart.vPois := rfl
@[simp] theorem State.setAcc_hart_m (s : State) (n : BitVec 2) (a : LongAcc) : (s.setAcc n a).hart.m = s.hart.m := rfl
@[simp] theorem State.setAcc_hart_streams (s : State) (n : BitVec 2) (a : LongAcc) : (s.setAcc n a).hart.streams = s.hart.streams := rfl
@[simp] theorem State.setAcc_hart_fflags (s : State) (n : BitVec 2) (a : LongAcc) : (s.setAcc n a).hart.fflags = s.hart.fflags := rfl
@[simp] theorem State.setAcc_hart_vl (s : State) (n : BitVec 2) (a : LongAcc) : (s.setAcc n a).hart.vl = s.hart.vl := rfl
@[simp] theorem State.setAcc_hart_vtype (s : State) (n : BitVec 2) (a : LongAcc) : (s.setAcc n a).hart.vtype = s.hart.vtype := rfl
@[simp] theorem State.setAcc_hart_srseed (s : State) (n : BitVec 2) (a : LongAcc) : (s.setAcc n a).hart.srseed = s.hart.srseed := rfl
@[simp] theorem State.setAcc_hart_srcount (s : State) (n : BitVec 2) (a : LongAcc) : (s.setAcc n a).hart.srcount = s.hart.srcount := rfl
@[simp] theorem State.setAcc_hart_msprec (s : State) (n : BitVec 2) (a : LongAcc) : (s.setAcc n a).hart.msprec = s.hart.msprec := rfl
@[simp] theorem State.setAcc_hart_msanchor (s : State) (n : BitVec 2) (a : LongAcc) : (s.setAcc n a).hart.msanchor = s.hart.msanchor := rfl
@[simp] theorem State.setAcc_hart_msm (s : State) (n : BitVec 2) (a : LongAcc) : (s.setAcc n a).hart.msm = s.hart.msm := rfl
@[simp] theorem State.setAcc_hart_msn (s : State) (n : BitVec 2) (a : LongAcc) : (s.setAcc n a).hart.msn = s.hart.msn := rfl
@[simp] theorem State.setAcc_hart_msk (s : State) (n : BitVec 2) (a : LongAcc) : (s.setAcc n a).hart.msk = s.hart.msk := rfl
@[simp] theorem State.setAcc_hart_telem (s : State) (n : BitVec 2) (a : LongAcc) : (s.setAcc n a).hart.telem = s.hart.telem := rfl
@[simp] theorem State.setAcc_hart_tpc (s : State) (n : BitVec 2) (a : LongAcc) : (s.setAcc n a).hart.tpc = s.hart.tpc := rfl
@[simp] theorem State.setAcc_hart_tcause (s : State) (n : BitVec 2) (a : LongAcc) : (s.setAcc n a).hart.tcause = s.hart.tcause := rfl
@[simp] theorem State.setAcc_hart_tval (s : State) (n : BitVec 2) (a : LongAcc) : (s.setAcc n a).hart.tval = s.hart.tval := rfl
@[simp] theorem State.setAcc_hart_tdone (s : State) (n : BitVec 2) (a : LongAcc) : (s.setAcc n a).hart.tdone = s.hart.tdone := rfl
@[simp] theorem State.setAcc_hart_tprog (s : State) (n : BitVec 2) (a : LongAcc) : (s.setAcc n a).hart.tprog = s.hart.tprog := rfl
@[simp] theorem State.setAcc_hart_steepcnt (s : State) (n : BitVec 2) (a : LongAcc) : (s.setAcc n a).hart.steepcnt = s.hart.steepcnt := rfl
@[simp] theorem State.setAcc_hart_steeplim (s : State) (n : BitVec 2) (a : LongAcc) : (s.setAcc n a).hart.steeplim = s.hart.steeplim := rfl
@[simp] theorem State.setAcc_hart_quantum (s : State) (n : BitVec 2) (a : LongAcc) : (s.setAcc n a).hart.quantum = s.hart.quantum := rfl
@[simp] theorem State.setAcc_hart_prioLevel (s : State) (n : BitVec 2) (a : LongAcc) : (s.setAcc n a).hart.prioLevel = s.hart.prioLevel := rfl
@[simp] theorem State.setAcc_hart_prioCeil (s : State) (n : BitVec 2) (a : LongAcc) : (s.setAcc n a).hart.prioCeil = s.hart.prioCeil := rfl
@[simp] theorem State.setAcc_hart_ctxptr (s : State) (n : BitVec 2) (a : LongAcc) : (s.setAcc n a).hart.ctxptr = s.hart.ctxptr := rfl
@[simp] theorem State.setAcc_hart_qcount (s : State) (n : BitVec 2) (a : LongAcc) : (s.setAcc n a).hart.qcount = s.hart.qcount := rfl
@[simp] theorem State.setAcc_hart_chanWait (s : State) (n : BitVec 2) (a : LongAcc) : (s.setAcc n a).hart.chanWait = s.hart.chanWait := rfl
@[simp] theorem State.setAcc_hart_replay (s : State) (n : BitVec 2) (a : LongAcc) : (s.setAcc n a).hart.replay = s.hart.replay := rfl
@[simp] theorem State.setAcc_hart_code (s : State) (n : BitVec 2) (a : LongAcc) : (s.setAcc n a).hart.code = s.hart.code := rfl
@[simp] theorem State.setAcc_hart_current (s : State) (n : BitVec 2) (a : LongAcc) : (s.setAcc n a).hart.current = s.hart.current := rfl
@[simp] theorem State.setAcc_hart_dbg (s : State) (n : BitVec 2) (a : LongAcc) : (s.setAcc n a).hart.dbg = s.hart.dbg := rfl
@[simp] theorem State.setAcc_hart_noMatch (s : State) (n : BitVec 2) (a : LongAcc) : (s.setAcc n a).hart.noMatch = s.hart.noMatch := rfl
@[simp] theorem State.setAcc_hart_expireAt (s : State) (n : BitVec 2) (a : LongAcc) : (s.setAcc n a).hart.expireAt = s.hart.expireAt := rfl
@[simp] theorem State.setAcc_hart_asked (s : State) (n : BitVec 2) (a : LongAcc) : (s.setAcc n a).hart.asked = s.hart.asked := rfl
@[simp] theorem State.setAcc_hart_leave (s : State) (n : BitVec 2) (a : LongAcc) : (s.setAcc n a).hart.leave = s.hart.leave := rfl
@[simp] theorem State.setAcc_hart_rotor (s : State) (n : BitVec 2) (a : LongAcc) : (s.setAcc n a).hart.rotor = s.hart.rotor := rfl

/-! ### setPred -/

@[simp] theorem State.setPred_others (s : State) (n : BitVec 3) (v : BitVec 65536) : (s.setPred n v).others = s.others := rfl
@[simp] theorem State.setPred_sched (s : State) (n : BitVec 3) (v : BitVec 65536) : (s.setPred n v).sched = s.sched := rfl
@[simp] theorem State.setPred_tm (s : State) (n : BitVec 3) (v : BitVec 65536) : (s.setPred n v).tm = s.tm := rfl
@[simp] theorem State.setPred_gm (s : State) (n : BitVec 3) (v : BitVec 65536) : (s.setPred n v).gm = s.gm := rfl
@[simp] theorem State.setPred_tmFull (s : State) (n : BitVec 3) (v : BitVec 65536) : (s.setPred n v).tmFull = s.tmFull := rfl
@[simp] theorem State.setPred_gmFull (s : State) (n : BitVec 3) (v : BitVec 65536) : (s.setPred n v).gmFull = s.gmFull := rfl
@[simp] theorem State.setPred_tmPois (s : State) (n : BitVec 3) (v : BitVec 65536) : (s.setPred n v).tmPois = s.tmPois := rfl
@[simp] theorem State.setPred_gmPois (s : State) (n : BitVec 3) (v : BitVec 65536) : (s.setPred n v).gmPois = s.gmPois := rfl
@[simp] theorem State.setPred_gmKey (s : State) (n : BitVec 3) (v : BitVec 65536) : (s.setPred n v).gmKey = s.gmKey := rfl
@[simp] theorem State.setPred_gmStamp (s : State) (n : BitVec 3) (v : BitVec 65536) : (s.setPred n v).gmStamp = s.gmStamp := rfl
@[simp] theorem State.setPred_departed (s : State) (n : BitVec 3) (v : BitVec 65536) : (s.setPred n v).departed = s.departed := rfl
@[simp] theorem State.setPred_shoots (s : State) (n : BitVec 3) (v : BitVec 65536) : (s.setPred n v).shoots = s.shoots := rfl
@[simp] theorem State.setPred_outbound (s : State) (n : BitVec 3) (v : BitVec 65536) : (s.setPred n v).outbound = s.outbound := rfl
@[simp] theorem State.setPred_nextSeq (s : State) (n : BitVec 3) (v : BitVec 65536) : (s.setPred n v).nextSeq = s.nextSeq := rfl
@[simp] theorem State.setPred_asyncs (s : State) (n : BitVec 3) (v : BitVec 65536) : (s.setPred n v).asyncs = s.asyncs := rfl
@[simp] theorem State.setPred_procs (s : State) (n : BitVec 3) (v : BitVec 65536) : (s.setPred n v).procs = s.procs := rfl
@[simp] theorem State.setPred_nets (s : State) (n : BitVec 3) (v : BitVec 65536) : (s.setPred n v).nets = s.nets := rfl
@[simp] theorem State.setPred_tiles (s : State) (n : BitVec 3) (v : BitVec 65536) : (s.setPred n v).tiles = s.tiles := rfl
@[simp] theorem State.setPred_vdevs (s : State) (n : BitVec 3) (v : BitVec 65536) : (s.setPred n v).vdevs = s.vdevs := rfl
@[simp] theorem State.setPred_events (s : State) (n : BitVec 3) (v : BitVec 65536) : (s.setPred n v).events = s.events := rfl
@[simp] theorem State.setPred_ticks (s : State) (n : BitVec 3) (v : BitVec 65536) : (s.setPred n v).ticks = s.ticks := rfl
@[simp] theorem State.setPred_time (s : State) (n : BitVec 3) (v : BitVec 65536) : (s.setPred n v).time = s.time := rfl
@[simp] theorem State.setPred_power (s : State) (n : BitVec 3) (v : BitVec 65536) : (s.setPred n v).power = s.power := rfl
@[simp] theorem State.setPred_mcasts (s : State) (n : BitVec 3) (v : BitVec 65536) : (s.setPred n v).mcasts = s.mcasts := rfl
@[simp] theorem State.setPred_pkg (s : State) (n : BitVec 3) (v : BitVec 65536) : (s.setPred n v).pkg = s.pkg := rfl
@[simp] theorem State.setPred_liveEps (s : State) (n : BitVec 3) (v : BitVec 65536) : (s.setPred n v).liveEps = s.liveEps := rfl
@[simp] theorem State.setPred_keySlots (s : State) (n : BitVec 3) (v : BitVec 65536) : (s.setPred n v).keySlots = s.keySlots := rfl
@[simp] theorem State.setPred_islands (s : State) (n : BitVec 3) (v : BitVec 65536) : (s.setPred n v).islands = s.islands := rfl
@[simp] theorem State.setPred_logEvents (s : State) (n : BitVec 3) (v : BitVec 65536) : (s.setPred n v).logEvents = s.logEvents := rfl
@[simp] theorem State.setPred_conns (s : State) (n : BitVec 3) (v : BitVec 65536) : (s.setPred n v).conns = s.conns := rfl
@[simp] theorem State.setPred_reports (s : State) (n : BitVec 3) (v : BitVec 65536) : (s.setPred n v).reports = s.reports := rfl
@[simp] theorem State.setPred_hart_id (s : State) (n : BitVec 3) (v : BitVec 65536) : (s.setPred n v).hart.id = s.hart.id := by unfold State.setPred Hart.setP; split <;> rfl
@[simp] theorem State.setPred_hart_status (s : State) (n : BitVec 3) (v : BitVec 65536) : (s.setPred n v).hart.status = s.hart.status := by unfold State.setPred Hart.setP; split <;> rfl
@[simp] theorem State.setPred_hart_priv (s : State) (n : BitVec 3) (v : BitVec 65536) : (s.setPred n v).hart.priv = s.hart.priv := by unfold State.setPred Hart.setP; split <;> rfl
@[simp] theorem State.setPred_hart_pc (s : State) (n : BitVec 3) (v : BitVec 65536) : (s.setPred n v).hart.pc = s.hart.pc := by unfold State.setPred Hart.setP; split <;> rfl
@[simp] theorem State.setPred_hart_pid (s : State) (n : BitVec 3) (v : BitVec 65536) : (s.setPred n v).hart.pid = s.hart.pid := by unfold State.setPred Hart.setP; split <;> rfl
@[simp] theorem State.setPred_hart_lane0 (s : State) (n : BitVec 3) (v : BitVec 65536) : (s.setPred n v).hart.lane0 = s.hart.lane0 := by unfold State.setPred Hart.setP; split <;> rfl
@[simp] theorem State.setPred_hart_lanes (s : State) (n : BitVec 3) (v : BitVec 65536) : (s.setPred n v).hart.lanes = s.hart.lanes := by unfold State.setPred Hart.setP; split <;> rfl
@[simp] theorem State.setPred_hart_parent (s : State) (n : BitVec 3) (v : BitVec 65536) : (s.setPred n v).hart.parent = s.hart.parent := by unfold State.setPred Hart.setP; split <;> rfl
@[simp] theorem State.setPred_hart_child (s : State) (n : BitVec 3) (v : BitVec 65536) : (s.setPred n v).hart.child = s.hart.child := by unfold State.setPred Hart.setP; split <;> rfl
@[simp] theorem State.setPred_hart_joined (s : State) (n : BitVec 3) (v : BitVec 65536) : (s.setPred n v).hart.joined = s.hart.joined := by unfold State.setPred Hart.setP; split <;> rfl
@[simp] theorem State.setPred_hart_draws (s : State) (n : BitVec 3) (v : BitVec 65536) : (s.setPred n v).hart.draws = s.hart.draws := by unfold State.setPred Hart.setP; split <;> rfl
@[simp] theorem State.setPred_hart_x (s : State) (n : BitVec 3) (v : BitVec 65536) : (s.setPred n v).hart.x = s.hart.x := by unfold State.setPred Hart.setP; split <;> rfl
@[simp] theorem State.setPred_hart_xPois (s : State) (n : BitVec 3) (v : BitVec 65536) : (s.setPred n v).hart.xPois = s.hart.xPois := by unfold State.setPred Hart.setP; split <;> rfl
@[simp] theorem State.setPred_hart_v (s : State) (n : BitVec 3) (v : BitVec 65536) : (s.setPred n v).hart.v = s.hart.v := by unfold State.setPred Hart.setP; split <;> rfl
@[simp] theorem State.setPred_hart_vPois (s : State) (n : BitVec 3) (v : BitVec 65536) : (s.setPred n v).hart.vPois = s.hart.vPois := by unfold State.setPred Hart.setP; split <;> rfl
@[simp] theorem State.setPred_hart_e (s : State) (n : BitVec 3) (v : BitVec 65536) : (s.setPred n v).hart.e = s.hart.e := by unfold State.setPred Hart.setP; split <;> rfl
@[simp] theorem State.setPred_hart_m (s : State) (n : BitVec 3) (v : BitVec 65536) : (s.setPred n v).hart.m = s.hart.m := by unfold State.setPred Hart.setP; split <;> rfl
@[simp] theorem State.setPred_hart_streams (s : State) (n : BitVec 3) (v : BitVec 65536) : (s.setPred n v).hart.streams = s.hart.streams := by unfold State.setPred Hart.setP; split <;> rfl
@[simp] theorem State.setPred_hart_fflags (s : State) (n : BitVec 3) (v : BitVec 65536) : (s.setPred n v).hart.fflags = s.hart.fflags := by unfold State.setPred Hart.setP; split <;> rfl
@[simp] theorem State.setPred_hart_vl (s : State) (n : BitVec 3) (v : BitVec 65536) : (s.setPred n v).hart.vl = s.hart.vl := by unfold State.setPred Hart.setP; split <;> rfl
@[simp] theorem State.setPred_hart_vtype (s : State) (n : BitVec 3) (v : BitVec 65536) : (s.setPred n v).hart.vtype = s.hart.vtype := by unfold State.setPred Hart.setP; split <;> rfl
@[simp] theorem State.setPred_hart_srseed (s : State) (n : BitVec 3) (v : BitVec 65536) : (s.setPred n v).hart.srseed = s.hart.srseed := by unfold State.setPred Hart.setP; split <;> rfl
@[simp] theorem State.setPred_hart_srcount (s : State) (n : BitVec 3) (v : BitVec 65536) : (s.setPred n v).hart.srcount = s.hart.srcount := by unfold State.setPred Hart.setP; split <;> rfl
@[simp] theorem State.setPred_hart_msprec (s : State) (n : BitVec 3) (v : BitVec 65536) : (s.setPred n v).hart.msprec = s.hart.msprec := by unfold State.setPred Hart.setP; split <;> rfl
@[simp] theorem State.setPred_hart_msanchor (s : State) (n : BitVec 3) (v : BitVec 65536) : (s.setPred n v).hart.msanchor = s.hart.msanchor := by unfold State.setPred Hart.setP; split <;> rfl
@[simp] theorem State.setPred_hart_msm (s : State) (n : BitVec 3) (v : BitVec 65536) : (s.setPred n v).hart.msm = s.hart.msm := by unfold State.setPred Hart.setP; split <;> rfl
@[simp] theorem State.setPred_hart_msn (s : State) (n : BitVec 3) (v : BitVec 65536) : (s.setPred n v).hart.msn = s.hart.msn := by unfold State.setPred Hart.setP; split <;> rfl
@[simp] theorem State.setPred_hart_msk (s : State) (n : BitVec 3) (v : BitVec 65536) : (s.setPred n v).hart.msk = s.hart.msk := by unfold State.setPred Hart.setP; split <;> rfl
@[simp] theorem State.setPred_hart_telem (s : State) (n : BitVec 3) (v : BitVec 65536) : (s.setPred n v).hart.telem = s.hart.telem := by unfold State.setPred Hart.setP; split <;> rfl
@[simp] theorem State.setPred_hart_tpc (s : State) (n : BitVec 3) (v : BitVec 65536) : (s.setPred n v).hart.tpc = s.hart.tpc := by unfold State.setPred Hart.setP; split <;> rfl
@[simp] theorem State.setPred_hart_tcause (s : State) (n : BitVec 3) (v : BitVec 65536) : (s.setPred n v).hart.tcause = s.hart.tcause := by unfold State.setPred Hart.setP; split <;> rfl
@[simp] theorem State.setPred_hart_tval (s : State) (n : BitVec 3) (v : BitVec 65536) : (s.setPred n v).hart.tval = s.hart.tval := by unfold State.setPred Hart.setP; split <;> rfl
@[simp] theorem State.setPred_hart_tdone (s : State) (n : BitVec 3) (v : BitVec 65536) : (s.setPred n v).hart.tdone = s.hart.tdone := by unfold State.setPred Hart.setP; split <;> rfl
@[simp] theorem State.setPred_hart_tprog (s : State) (n : BitVec 3) (v : BitVec 65536) : (s.setPred n v).hart.tprog = s.hart.tprog := by unfold State.setPred Hart.setP; split <;> rfl
@[simp] theorem State.setPred_hart_steepcnt (s : State) (n : BitVec 3) (v : BitVec 65536) : (s.setPred n v).hart.steepcnt = s.hart.steepcnt := by unfold State.setPred Hart.setP; split <;> rfl
@[simp] theorem State.setPred_hart_steeplim (s : State) (n : BitVec 3) (v : BitVec 65536) : (s.setPred n v).hart.steeplim = s.hart.steeplim := by unfold State.setPred Hart.setP; split <;> rfl
@[simp] theorem State.setPred_hart_quantum (s : State) (n : BitVec 3) (v : BitVec 65536) : (s.setPred n v).hart.quantum = s.hart.quantum := by unfold State.setPred Hart.setP; split <;> rfl
@[simp] theorem State.setPred_hart_prioLevel (s : State) (n : BitVec 3) (v : BitVec 65536) : (s.setPred n v).hart.prioLevel = s.hart.prioLevel := by unfold State.setPred Hart.setP; split <;> rfl
@[simp] theorem State.setPred_hart_prioCeil (s : State) (n : BitVec 3) (v : BitVec 65536) : (s.setPred n v).hart.prioCeil = s.hart.prioCeil := by unfold State.setPred Hart.setP; split <;> rfl
@[simp] theorem State.setPred_hart_ctxptr (s : State) (n : BitVec 3) (v : BitVec 65536) : (s.setPred n v).hart.ctxptr = s.hart.ctxptr := by unfold State.setPred Hart.setP; split <;> rfl
@[simp] theorem State.setPred_hart_qcount (s : State) (n : BitVec 3) (v : BitVec 65536) : (s.setPred n v).hart.qcount = s.hart.qcount := by unfold State.setPred Hart.setP; split <;> rfl
@[simp] theorem State.setPred_hart_chanWait (s : State) (n : BitVec 3) (v : BitVec 65536) : (s.setPred n v).hart.chanWait = s.hart.chanWait := by unfold State.setPred Hart.setP; split <;> rfl
@[simp] theorem State.setPred_hart_replay (s : State) (n : BitVec 3) (v : BitVec 65536) : (s.setPred n v).hart.replay = s.hart.replay := by unfold State.setPred Hart.setP; split <;> rfl
@[simp] theorem State.setPred_hart_code (s : State) (n : BitVec 3) (v : BitVec 65536) : (s.setPred n v).hart.code = s.hart.code := by unfold State.setPred Hart.setP; split <;> rfl
@[simp] theorem State.setPred_hart_current (s : State) (n : BitVec 3) (v : BitVec 65536) : (s.setPred n v).hart.current = s.hart.current := by unfold State.setPred Hart.setP; split <;> rfl
@[simp] theorem State.setPred_hart_dbg (s : State) (n : BitVec 3) (v : BitVec 65536) : (s.setPred n v).hart.dbg = s.hart.dbg := by unfold State.setPred Hart.setP; split <;> rfl
@[simp] theorem State.setPred_hart_noMatch (s : State) (n : BitVec 3) (v : BitVec 65536) : (s.setPred n v).hart.noMatch = s.hart.noMatch := by unfold State.setPred Hart.setP; split <;> rfl
@[simp] theorem State.setPred_hart_expireAt (s : State) (n : BitVec 3) (v : BitVec 65536) : (s.setPred n v).hart.expireAt = s.hart.expireAt := by unfold State.setPred Hart.setP; split <;> rfl
@[simp] theorem State.setPred_hart_asked (s : State) (n : BitVec 3) (v : BitVec 65536) : (s.setPred n v).hart.asked = s.hart.asked := by unfold State.setPred Hart.setP; split <;> rfl
@[simp] theorem State.setPred_hart_leave (s : State) (n : BitVec 3) (v : BitVec 65536) : (s.setPred n v).hart.leave = s.hart.leave := by unfold State.setPred Hart.setP; split <;> rfl
@[simp] theorem State.setPred_hart_rotor (s : State) (n : BitVec 3) (v : BitVec 65536) : (s.setPred n v).hart.rotor = s.hart.rotor := by unfold State.setPred Hart.setP; split <;> rfl

/-! ### drew -/

@[simp] theorem State.drew_others (s : State) (n : Nat) : (s.drew n).others = s.others := rfl
@[simp] theorem State.drew_sched (s : State) (n : Nat) : (s.drew n).sched = s.sched := rfl
@[simp] theorem State.drew_tm (s : State) (n : Nat) : (s.drew n).tm = s.tm := rfl
@[simp] theorem State.drew_gm (s : State) (n : Nat) : (s.drew n).gm = s.gm := rfl
@[simp] theorem State.drew_tmFull (s : State) (n : Nat) : (s.drew n).tmFull = s.tmFull := rfl
@[simp] theorem State.drew_gmFull (s : State) (n : Nat) : (s.drew n).gmFull = s.gmFull := rfl
@[simp] theorem State.drew_tmPois (s : State) (n : Nat) : (s.drew n).tmPois = s.tmPois := rfl
@[simp] theorem State.drew_gmPois (s : State) (n : Nat) : (s.drew n).gmPois = s.gmPois := rfl
@[simp] theorem State.drew_gmKey (s : State) (n : Nat) : (s.drew n).gmKey = s.gmKey := rfl
@[simp] theorem State.drew_gmStamp (s : State) (n : Nat) : (s.drew n).gmStamp = s.gmStamp := rfl
@[simp] theorem State.drew_departed (s : State) (n : Nat) : (s.drew n).departed = s.departed := rfl
@[simp] theorem State.drew_shoots (s : State) (n : Nat) : (s.drew n).shoots = s.shoots := rfl
@[simp] theorem State.drew_outbound (s : State) (n : Nat) : (s.drew n).outbound = s.outbound := rfl
@[simp] theorem State.drew_nextSeq (s : State) (n : Nat) : (s.drew n).nextSeq = s.nextSeq := rfl
@[simp] theorem State.drew_asyncs (s : State) (n : Nat) : (s.drew n).asyncs = s.asyncs := rfl
@[simp] theorem State.drew_procs (s : State) (n : Nat) : (s.drew n).procs = s.procs := rfl
@[simp] theorem State.drew_nets (s : State) (n : Nat) : (s.drew n).nets = s.nets := rfl
@[simp] theorem State.drew_tiles (s : State) (n : Nat) : (s.drew n).tiles = s.tiles := rfl
@[simp] theorem State.drew_vdevs (s : State) (n : Nat) : (s.drew n).vdevs = s.vdevs := rfl
@[simp] theorem State.drew_events (s : State) (n : Nat) : (s.drew n).events = s.events := rfl
@[simp] theorem State.drew_ticks (s : State) (n : Nat) : (s.drew n).ticks = s.ticks := rfl
@[simp] theorem State.drew_time (s : State) (n : Nat) : (s.drew n).time = s.time := rfl
@[simp] theorem State.drew_power (s : State) (n : Nat) : (s.drew n).power = s.power := rfl
@[simp] theorem State.drew_mcasts (s : State) (n : Nat) : (s.drew n).mcasts = s.mcasts := rfl
@[simp] theorem State.drew_pkg (s : State) (n : Nat) : (s.drew n).pkg = s.pkg := rfl
@[simp] theorem State.drew_liveEps (s : State) (n : Nat) : (s.drew n).liveEps = s.liveEps := rfl
@[simp] theorem State.drew_keySlots (s : State) (n : Nat) : (s.drew n).keySlots = s.keySlots := rfl
@[simp] theorem State.drew_islands (s : State) (n : Nat) : (s.drew n).islands = s.islands := rfl
@[simp] theorem State.drew_logEvents (s : State) (n : Nat) : (s.drew n).logEvents = s.logEvents := rfl
@[simp] theorem State.drew_conns (s : State) (n : Nat) : (s.drew n).conns = s.conns := rfl
@[simp] theorem State.drew_reports (s : State) (n : Nat) : (s.drew n).reports = s.reports := rfl
@[simp] theorem State.drew_hart_id (s : State) (n : Nat) : (s.drew n).hart.id = s.hart.id := rfl
@[simp] theorem State.drew_hart_status (s : State) (n : Nat) : (s.drew n).hart.status = s.hart.status := rfl
@[simp] theorem State.drew_hart_priv (s : State) (n : Nat) : (s.drew n).hart.priv = s.hart.priv := rfl
@[simp] theorem State.drew_hart_pc (s : State) (n : Nat) : (s.drew n).hart.pc = s.hart.pc := rfl
@[simp] theorem State.drew_hart_pid (s : State) (n : Nat) : (s.drew n).hart.pid = s.hart.pid := rfl
@[simp] theorem State.drew_hart_lane0 (s : State) (n : Nat) : (s.drew n).hart.lane0 = s.hart.lane0 := rfl
@[simp] theorem State.drew_hart_lanes (s : State) (n : Nat) : (s.drew n).hart.lanes = s.hart.lanes := rfl
@[simp] theorem State.drew_hart_parent (s : State) (n : Nat) : (s.drew n).hart.parent = s.hart.parent := rfl
@[simp] theorem State.drew_hart_child (s : State) (n : Nat) : (s.drew n).hart.child = s.hart.child := rfl
@[simp] theorem State.drew_hart_joined (s : State) (n : Nat) : (s.drew n).hart.joined = s.hart.joined := rfl
@[simp] theorem State.drew_hart_x (s : State) (n : Nat) : (s.drew n).hart.x = s.hart.x := rfl
@[simp] theorem State.drew_hart_xPois (s : State) (n : Nat) : (s.drew n).hart.xPois = s.hart.xPois := rfl
@[simp] theorem State.drew_hart_p (s : State) (n : Nat) : (s.drew n).hart.p = s.hart.p := rfl
@[simp] theorem State.drew_hart_v (s : State) (n : Nat) : (s.drew n).hart.v = s.hart.v := rfl
@[simp] theorem State.drew_hart_vPois (s : State) (n : Nat) : (s.drew n).hart.vPois = s.hart.vPois := rfl
@[simp] theorem State.drew_hart_e (s : State) (n : Nat) : (s.drew n).hart.e = s.hart.e := rfl
@[simp] theorem State.drew_hart_m (s : State) (n : Nat) : (s.drew n).hart.m = s.hart.m := rfl
@[simp] theorem State.drew_hart_streams (s : State) (n : Nat) : (s.drew n).hart.streams = s.hart.streams := rfl
@[simp] theorem State.drew_hart_fflags (s : State) (n : Nat) : (s.drew n).hart.fflags = s.hart.fflags := rfl
@[simp] theorem State.drew_hart_vl (s : State) (n : Nat) : (s.drew n).hart.vl = s.hart.vl := rfl
@[simp] theorem State.drew_hart_vtype (s : State) (n : Nat) : (s.drew n).hart.vtype = s.hart.vtype := rfl
@[simp] theorem State.drew_hart_srseed (s : State) (n : Nat) : (s.drew n).hart.srseed = s.hart.srseed := rfl
@[simp] theorem State.drew_hart_msprec (s : State) (n : Nat) : (s.drew n).hart.msprec = s.hart.msprec := rfl
@[simp] theorem State.drew_hart_msanchor (s : State) (n : Nat) : (s.drew n).hart.msanchor = s.hart.msanchor := rfl
@[simp] theorem State.drew_hart_msm (s : State) (n : Nat) : (s.drew n).hart.msm = s.hart.msm := rfl
@[simp] theorem State.drew_hart_msn (s : State) (n : Nat) : (s.drew n).hart.msn = s.hart.msn := rfl
@[simp] theorem State.drew_hart_msk (s : State) (n : Nat) : (s.drew n).hart.msk = s.hart.msk := rfl
@[simp] theorem State.drew_hart_telem (s : State) (n : Nat) : (s.drew n).hart.telem = s.hart.telem := rfl
@[simp] theorem State.drew_hart_tpc (s : State) (n : Nat) : (s.drew n).hart.tpc = s.hart.tpc := rfl
@[simp] theorem State.drew_hart_tcause (s : State) (n : Nat) : (s.drew n).hart.tcause = s.hart.tcause := rfl
@[simp] theorem State.drew_hart_tval (s : State) (n : Nat) : (s.drew n).hart.tval = s.hart.tval := rfl
@[simp] theorem State.drew_hart_tdone (s : State) (n : Nat) : (s.drew n).hart.tdone = s.hart.tdone := rfl
@[simp] theorem State.drew_hart_tprog (s : State) (n : Nat) : (s.drew n).hart.tprog = s.hart.tprog := rfl
@[simp] theorem State.drew_hart_steepcnt (s : State) (n : Nat) : (s.drew n).hart.steepcnt = s.hart.steepcnt := rfl
@[simp] theorem State.drew_hart_steeplim (s : State) (n : Nat) : (s.drew n).hart.steeplim = s.hart.steeplim := rfl
@[simp] theorem State.drew_hart_quantum (s : State) (n : Nat) : (s.drew n).hart.quantum = s.hart.quantum := rfl
@[simp] theorem State.drew_hart_prioLevel (s : State) (n : Nat) : (s.drew n).hart.prioLevel = s.hart.prioLevel := rfl
@[simp] theorem State.drew_hart_prioCeil (s : State) (n : Nat) : (s.drew n).hart.prioCeil = s.hart.prioCeil := rfl
@[simp] theorem State.drew_hart_ctxptr (s : State) (n : Nat) : (s.drew n).hart.ctxptr = s.hart.ctxptr := rfl
@[simp] theorem State.drew_hart_qcount (s : State) (n : Nat) : (s.drew n).hart.qcount = s.hart.qcount := rfl
@[simp] theorem State.drew_hart_chanWait (s : State) (n : Nat) : (s.drew n).hart.chanWait = s.hart.chanWait := rfl
@[simp] theorem State.drew_hart_replay (s : State) (n : Nat) : (s.drew n).hart.replay = s.hart.replay := rfl
@[simp] theorem State.drew_hart_code (s : State) (n : Nat) : (s.drew n).hart.code = s.hart.code := rfl
@[simp] theorem State.drew_hart_current (s : State) (n : Nat) : (s.drew n).hart.current = s.hart.current := rfl
@[simp] theorem State.drew_hart_dbg (s : State) (n : Nat) : (s.drew n).hart.dbg = s.hart.dbg := rfl
@[simp] theorem State.drew_hart_noMatch (s : State) (n : Nat) : (s.drew n).hart.noMatch = s.hart.noMatch := rfl
@[simp] theorem State.drew_hart_expireAt (s : State) (n : Nat) : (s.drew n).hart.expireAt = s.hart.expireAt := rfl
@[simp] theorem State.drew_hart_asked (s : State) (n : Nat) : (s.drew n).hart.asked = s.hart.asked := rfl
@[simp] theorem State.drew_hart_leave (s : State) (n : Nat) : (s.drew n).hart.leave = s.hart.leave := rfl
@[simp] theorem State.drew_hart_rotor (s : State) (n : Nat) : (s.drew n).hart.rotor = s.hart.rotor := rfl

/-! ### setVtype -/

@[simp] theorem State.setVtype_others (s : State) (v : Word) : (s.setVtype v).others = s.others := rfl
@[simp] theorem State.setVtype_sched (s : State) (v : Word) : (s.setVtype v).sched = s.sched := rfl
@[simp] theorem State.setVtype_tm (s : State) (v : Word) : (s.setVtype v).tm = s.tm := rfl
@[simp] theorem State.setVtype_gm (s : State) (v : Word) : (s.setVtype v).gm = s.gm := rfl
@[simp] theorem State.setVtype_tmFull (s : State) (v : Word) : (s.setVtype v).tmFull = s.tmFull := rfl
@[simp] theorem State.setVtype_gmFull (s : State) (v : Word) : (s.setVtype v).gmFull = s.gmFull := rfl
@[simp] theorem State.setVtype_tmPois (s : State) (v : Word) : (s.setVtype v).tmPois = s.tmPois := rfl
@[simp] theorem State.setVtype_gmPois (s : State) (v : Word) : (s.setVtype v).gmPois = s.gmPois := rfl
@[simp] theorem State.setVtype_gmKey (s : State) (v : Word) : (s.setVtype v).gmKey = s.gmKey := rfl
@[simp] theorem State.setVtype_gmStamp (s : State) (v : Word) : (s.setVtype v).gmStamp = s.gmStamp := rfl
@[simp] theorem State.setVtype_departed (s : State) (v : Word) : (s.setVtype v).departed = s.departed := rfl
@[simp] theorem State.setVtype_shoots (s : State) (v : Word) : (s.setVtype v).shoots = s.shoots := rfl
@[simp] theorem State.setVtype_outbound (s : State) (v : Word) : (s.setVtype v).outbound = s.outbound := rfl
@[simp] theorem State.setVtype_nextSeq (s : State) (v : Word) : (s.setVtype v).nextSeq = s.nextSeq := rfl
@[simp] theorem State.setVtype_asyncs (s : State) (v : Word) : (s.setVtype v).asyncs = s.asyncs := rfl
@[simp] theorem State.setVtype_procs (s : State) (v : Word) : (s.setVtype v).procs = s.procs := rfl
@[simp] theorem State.setVtype_nets (s : State) (v : Word) : (s.setVtype v).nets = s.nets := rfl
@[simp] theorem State.setVtype_tiles (s : State) (v : Word) : (s.setVtype v).tiles = s.tiles := rfl
@[simp] theorem State.setVtype_vdevs (s : State) (v : Word) : (s.setVtype v).vdevs = s.vdevs := rfl
@[simp] theorem State.setVtype_events (s : State) (v : Word) : (s.setVtype v).events = s.events := rfl
@[simp] theorem State.setVtype_ticks (s : State) (v : Word) : (s.setVtype v).ticks = s.ticks := rfl
@[simp] theorem State.setVtype_time (s : State) (v : Word) : (s.setVtype v).time = s.time := rfl
@[simp] theorem State.setVtype_power (s : State) (v : Word) : (s.setVtype v).power = s.power := rfl
@[simp] theorem State.setVtype_mcasts (s : State) (v : Word) : (s.setVtype v).mcasts = s.mcasts := rfl
@[simp] theorem State.setVtype_pkg (s : State) (v : Word) : (s.setVtype v).pkg = s.pkg := rfl
@[simp] theorem State.setVtype_liveEps (s : State) (v : Word) : (s.setVtype v).liveEps = s.liveEps := rfl
@[simp] theorem State.setVtype_keySlots (s : State) (v : Word) : (s.setVtype v).keySlots = s.keySlots := rfl
@[simp] theorem State.setVtype_islands (s : State) (v : Word) : (s.setVtype v).islands = s.islands := rfl
@[simp] theorem State.setVtype_logEvents (s : State) (v : Word) : (s.setVtype v).logEvents = s.logEvents := rfl
@[simp] theorem State.setVtype_conns (s : State) (v : Word) : (s.setVtype v).conns = s.conns := rfl
@[simp] theorem State.setVtype_reports (s : State) (v : Word) : (s.setVtype v).reports = s.reports := rfl
@[simp] theorem State.setVtype_hart_id (s : State) (v : Word) : (s.setVtype v).hart.id = s.hart.id := by unfold State.setVtype; dsimp only; split <;> rfl
@[simp] theorem State.setVtype_hart_status (s : State) (v : Word) : (s.setVtype v).hart.status = s.hart.status := by unfold State.setVtype; dsimp only; split <;> rfl
@[simp] theorem State.setVtype_hart_priv (s : State) (v : Word) : (s.setVtype v).hart.priv = s.hart.priv := by unfold State.setVtype; dsimp only; split <;> rfl
@[simp] theorem State.setVtype_hart_pc (s : State) (v : Word) : (s.setVtype v).hart.pc = s.hart.pc := by unfold State.setVtype; dsimp only; split <;> rfl
@[simp] theorem State.setVtype_hart_pid (s : State) (v : Word) : (s.setVtype v).hart.pid = s.hart.pid := by unfold State.setVtype; dsimp only; split <;> rfl
@[simp] theorem State.setVtype_hart_lane0 (s : State) (v : Word) : (s.setVtype v).hart.lane0 = s.hart.lane0 := by unfold State.setVtype; dsimp only; split <;> rfl
@[simp] theorem State.setVtype_hart_lanes (s : State) (v : Word) : (s.setVtype v).hart.lanes = s.hart.lanes := by unfold State.setVtype; dsimp only; split <;> rfl
@[simp] theorem State.setVtype_hart_parent (s : State) (v : Word) : (s.setVtype v).hart.parent = s.hart.parent := by unfold State.setVtype; dsimp only; split <;> rfl
@[simp] theorem State.setVtype_hart_child (s : State) (v : Word) : (s.setVtype v).hart.child = s.hart.child := by unfold State.setVtype; dsimp only; split <;> rfl
@[simp] theorem State.setVtype_hart_joined (s : State) (v : Word) : (s.setVtype v).hart.joined = s.hart.joined := by unfold State.setVtype; dsimp only; split <;> rfl
@[simp] theorem State.setVtype_hart_draws (s : State) (v : Word) : (s.setVtype v).hart.draws = s.hart.draws := by unfold State.setVtype; dsimp only; split <;> rfl
@[simp] theorem State.setVtype_hart_x (s : State) (v : Word) : (s.setVtype v).hart.x = s.hart.x := by unfold State.setVtype; dsimp only; split <;> rfl
@[simp] theorem State.setVtype_hart_xPois (s : State) (v : Word) : (s.setVtype v).hart.xPois = s.hart.xPois := by unfold State.setVtype; dsimp only; split <;> rfl
@[simp] theorem State.setVtype_hart_p (s : State) (v : Word) : (s.setVtype v).hart.p = s.hart.p := by unfold State.setVtype; dsimp only; split <;> rfl
@[simp] theorem State.setVtype_hart_e (s : State) (v : Word) : (s.setVtype v).hart.e = s.hart.e := by unfold State.setVtype; dsimp only; split <;> rfl
@[simp] theorem State.setVtype_hart_m (s : State) (v : Word) : (s.setVtype v).hart.m = s.hart.m := by unfold State.setVtype; dsimp only; split <;> rfl
@[simp] theorem State.setVtype_hart_streams (s : State) (v : Word) : (s.setVtype v).hart.streams = s.hart.streams := by unfold State.setVtype; dsimp only; split <;> rfl
@[simp] theorem State.setVtype_hart_fflags (s : State) (v : Word) : (s.setVtype v).hart.fflags = s.hart.fflags := by unfold State.setVtype; dsimp only; split <;> rfl
@[simp] theorem State.setVtype_hart_srseed (s : State) (v : Word) : (s.setVtype v).hart.srseed = s.hart.srseed := by unfold State.setVtype; dsimp only; split <;> rfl
@[simp] theorem State.setVtype_hart_srcount (s : State) (v : Word) : (s.setVtype v).hart.srcount = s.hart.srcount := by unfold State.setVtype; dsimp only; split <;> rfl
@[simp] theorem State.setVtype_hart_msprec (s : State) (v : Word) : (s.setVtype v).hart.msprec = s.hart.msprec := by unfold State.setVtype; dsimp only; split <;> rfl
@[simp] theorem State.setVtype_hart_msanchor (s : State) (v : Word) : (s.setVtype v).hart.msanchor = s.hart.msanchor := by unfold State.setVtype; dsimp only; split <;> rfl
@[simp] theorem State.setVtype_hart_msm (s : State) (v : Word) : (s.setVtype v).hart.msm = s.hart.msm := by unfold State.setVtype; dsimp only; split <;> rfl
@[simp] theorem State.setVtype_hart_msn (s : State) (v : Word) : (s.setVtype v).hart.msn = s.hart.msn := by unfold State.setVtype; dsimp only; split <;> rfl
@[simp] theorem State.setVtype_hart_msk (s : State) (v : Word) : (s.setVtype v).hart.msk = s.hart.msk := by unfold State.setVtype; dsimp only; split <;> rfl
@[simp] theorem State.setVtype_hart_telem (s : State) (v : Word) : (s.setVtype v).hart.telem = s.hart.telem := by unfold State.setVtype; dsimp only; split <;> rfl
@[simp] theorem State.setVtype_hart_tpc (s : State) (v : Word) : (s.setVtype v).hart.tpc = s.hart.tpc := by unfold State.setVtype; dsimp only; split <;> rfl
@[simp] theorem State.setVtype_hart_tcause (s : State) (v : Word) : (s.setVtype v).hart.tcause = s.hart.tcause := by unfold State.setVtype; dsimp only; split <;> rfl
@[simp] theorem State.setVtype_hart_tval (s : State) (v : Word) : (s.setVtype v).hart.tval = s.hart.tval := by unfold State.setVtype; dsimp only; split <;> rfl
@[simp] theorem State.setVtype_hart_tdone (s : State) (v : Word) : (s.setVtype v).hart.tdone = s.hart.tdone := by unfold State.setVtype; dsimp only; split <;> rfl
@[simp] theorem State.setVtype_hart_tprog (s : State) (v : Word) : (s.setVtype v).hart.tprog = s.hart.tprog := by unfold State.setVtype; dsimp only; split <;> rfl
@[simp] theorem State.setVtype_hart_steepcnt (s : State) (v : Word) : (s.setVtype v).hart.steepcnt = s.hart.steepcnt := by unfold State.setVtype; dsimp only; split <;> rfl
@[simp] theorem State.setVtype_hart_steeplim (s : State) (v : Word) : (s.setVtype v).hart.steeplim = s.hart.steeplim := by unfold State.setVtype; dsimp only; split <;> rfl
@[simp] theorem State.setVtype_hart_quantum (s : State) (v : Word) : (s.setVtype v).hart.quantum = s.hart.quantum := by unfold State.setVtype; dsimp only; split <;> rfl
@[simp] theorem State.setVtype_hart_prioLevel (s : State) (v : Word) : (s.setVtype v).hart.prioLevel = s.hart.prioLevel := by unfold State.setVtype; dsimp only; split <;> rfl
@[simp] theorem State.setVtype_hart_prioCeil (s : State) (v : Word) : (s.setVtype v).hart.prioCeil = s.hart.prioCeil := by unfold State.setVtype; dsimp only; split <;> rfl
@[simp] theorem State.setVtype_hart_ctxptr (s : State) (v : Word) : (s.setVtype v).hart.ctxptr = s.hart.ctxptr := by unfold State.setVtype; dsimp only; split <;> rfl
@[simp] theorem State.setVtype_hart_qcount (s : State) (v : Word) : (s.setVtype v).hart.qcount = s.hart.qcount := by unfold State.setVtype; dsimp only; split <;> rfl
@[simp] theorem State.setVtype_hart_chanWait (s : State) (v : Word) : (s.setVtype v).hart.chanWait = s.hart.chanWait := by unfold State.setVtype; dsimp only; split <;> rfl
@[simp] theorem State.setVtype_hart_replay (s : State) (v : Word) : (s.setVtype v).hart.replay = s.hart.replay := by unfold State.setVtype; dsimp only; split <;> rfl
@[simp] theorem State.setVtype_hart_code (s : State) (v : Word) : (s.setVtype v).hart.code = s.hart.code := by unfold State.setVtype; dsimp only; split <;> rfl
@[simp] theorem State.setVtype_hart_current (s : State) (v : Word) : (s.setVtype v).hart.current = s.hart.current := by unfold State.setVtype; dsimp only; split <;> rfl
@[simp] theorem State.setVtype_hart_dbg (s : State) (v : Word) : (s.setVtype v).hart.dbg = s.hart.dbg := by unfold State.setVtype; dsimp only; split <;> rfl
@[simp] theorem State.setVtype_hart_noMatch (s : State) (v : Word) : (s.setVtype v).hart.noMatch = s.hart.noMatch := by unfold State.setVtype; dsimp only; split <;> rfl
@[simp] theorem State.setVtype_hart_expireAt (s : State) (v : Word) : (s.setVtype v).hart.expireAt = s.hart.expireAt := by unfold State.setVtype; dsimp only; split <;> rfl
@[simp] theorem State.setVtype_hart_asked (s : State) (v : Word) : (s.setVtype v).hart.asked = s.hart.asked := by unfold State.setVtype; dsimp only; split <;> rfl
@[simp] theorem State.setVtype_hart_leave (s : State) (v : Word) : (s.setVtype v).hart.leave = s.hart.leave := by unfold State.setVtype; dsimp only; split <;> rfl
@[simp] theorem State.setVtype_hart_rotor (s : State) (v : Word) : (s.setVtype v).hart.rotor = s.hart.rotor := by unfold State.setVtype; dsimp only; split <;> rfl

end Sys2Proof.Machine
end

