-- ==== Sys2Proof/Laws/Issue.lean ====
section
/-! SUPPORT. What the shared operations of the scalar front end do: passing the early tests, counting units, writing a
register, going on. -/

namespace Sys2Proof.Machine

/-- An instruction that no early condition meets does its body with its units counted. -/
theorem State.issue_pass {s : State} {w : IWord} {g : Gate} {body : State → State} (hp : g.priv = false)
    (hu : s.steepOver g.units = false) (hv : g.vcfg = false) (hs : g.stream = false) (hc : g.chan = false)
    (hm : g.matrix = false) : s.issue w g body = body (s.count g.units) := by
  simp [State.issue, hp, hu, hv, hs, hc, hm]

@[simp] theorem State.x_count (s : State) (u : Nat) (r : BitVec 5) : (s.count u).x r = s.x r := by simp [State.x]
@[simp] theorem State.xPoisoned_count (s : State) (u : Nat) (r : BitVec 5) : (s.count u).xPoisoned r = s.xPoisoned r := by
  simp [State.xPoisoned]

/-- The same for one that reads scalar registers, none of them poisoned. -/
theorem State.issueX_pass {s : State} {w : IWord} {g : Gate} {reads : List (BitVec 5)} {body : State → State}
    (hf : s.Fit g.units reads) (hp : g.priv = false) (hv : g.vcfg = false) (hs : g.stream = false) (hc : g.chan = false)
    (hm : g.matrix = false) : s.issueX w g reads body = body (s.count g.units) := by
  have h : reads.any (s.count g.units).xPoisoned = false := by
    rw [List.any_eq_false]
    intro r hr
    simp [hf.2 r hr]
  rw [State.issueX, State.issue_pass hp hf.1 hv hs hc hm, h]
  rfl

@[simp] theorem gate1_units : gate1.units = 1 := rfl

/-- Passing the tests for an instruction of one unit without conditions of its own. -/
theorem State.issueX_one {s : State} {w : IWord} {reads : List (BitVec 5)} {body : State → State} (hf : s.Fit 1 reads) :
    s.issueX w gate1 reads body = body (s.count 1) := State.issueX_pass hf rfl rfl rfl rfl rfl

/-! ### Registers -/

theorem State.setX_zero (s : State) (v : Word) : s.setX 0#5 v = s := rfl

theorem State.setX_ne {s : State} {d : BitVec 5} {v : Word} (hd : d ≠ 0#5) : s.setX d v = { s with hart := { s.hart with
    x := s.hart.x.set d.toNat v d.isLt, xPois := s.hart.xPois &&& ~~~((1 : BitVec 32) <<< d.toNat) } } := if_neg hd

theorem State.setX_hart_x {s : State} {d : BitVec 5} {v : Word} (hd : d ≠ 0#5) :
    (s.setX d v).hart.x = s.hart.x.set d.toNat v d.isLt := by simp [State.setX, hd]

theorem State.setX_hart_xPois {s : State} {d : BitVec 5} {v : Word} (hd : d ≠ 0#5) :
    (s.setX d v).hart.xPois = s.hart.xPois &&& ~~~((1 : BitVec 32) <<< d.toNat) := by simp [State.setX, hd]

theorem State.x_setX (s : State) (d : BitVec 5) (v : Word) (r : BitVec 5) :
    (s.setX d v).x r = if r = d ∧ d ≠ 0 then v else s.x r := by
  by_cases hd : d = 0#5
  · subst hd; simp [State.setX_zero]
  · unfold State.x
    rw [State.setX_hart_x hd]
    by_cases h0 : r = 0#5
    · have : ¬(0#5 = d) := fun h => hd h.symm
      simp [h0, this]
    · by_cases hr : r = d
      · subst hr; simp [h0]
      · have : d.toNat ≠ r.toNat := fun h => hr (BitVec.eq_of_toNat_eq h.symm)
        simp [h0, hr, this]

theorem State.xPoisoned_setX (s : State) (d : BitVec 5) (v : Word) (r : BitVec 5) :
    (s.setX d v).xPoisoned r = (decide (r ≠ d) && s.xPoisoned r) := by
  by_cases hd : d = 0#5
  · subst hd
    by_cases hr : r = 0#5 <;> simp [State.setX_zero, State.xPoisoned, hr]
  · unfold State.xPoisoned
    rw [State.setX_hart_xPois hd]
    by_cases hr : r = d
    · subst hr
      have := r.isLt
      simp [BitVec.getLsbD_and, BitVec.getLsbD_not, BitVec.getLsbD_shiftLeft]
    · have hne : r.toNat ≠ d.toNat := fun h => hr (BitVec.eq_of_toNat_eq h)
      have := r.isLt
      by_cases hlt : r.toNat < d.toNat
      · simp [hr, hlt, show r.toNat < 32 by omega]
      · have : r.toNat - d.toNat ≠ 0 := by omega
        simp [hr, hlt, this, show r.toNat < 32 by omega]

@[simp] theorem State.x_advance (s : State) (r : BitVec 5) : s.advance.x r = s.x r := by simp [State.x]
@[simp] theorem State.xPoisoned_advance (s : State) (r : BitVec 5) : s.advance.xPoisoned r = s.xPoisoned r := by
  simp [State.xPoisoned]

theorem State.advance_pc (s : State) : s.advance.hart.pc = s.nextPc := by
  unfold State.advance State.nextPc State.setPc
  split <;> simp_all

theorem State.nextPc_of {s t : State} (h1 : t.hart.pc = s.hart.pc) (h2 : t.hart.current = s.hart.current) :
    t.nextPc = s.nextPc := by simp [State.nextPc, h1, h2]

/-- Going on changes the program counter and the model's two records alone. -/
theorem State.advance_eq (s : State) : s.advance = { s with hart := s.hart.pcOf s.advance.hart } := by
  unfold State.advance State.setPc Hart.pcOf
  split <;> simp_all

theorem State.setX_eq (s : State) (d : BitVec 5) (v : Word) :
    s.setX d v = { s with hart := { s.hart with x := (s.setX d v).hart.x, xPois := (s.setX d v).hart.xPois } } := by
  unfold State.setX
  split <;> rfl

/-- What counting, writing a register and going on come to. -/
theorem State.writesX_intro (s : State) (d : BitVec 5) (v : Word) : s.WritesX d v (((s.count 1).setX d v).advance) := by
  refine ⟨?_, fun r => ?_, fun r => ?_, ⟨fun k => ?_, fun k => ?_⟩, ?_⟩
  · rw [State.advance_pc]; exact State.nextPc_of (by simp) (by simp)
  · rw [State.x_advance, State.x_setX, State.x_count]
  · rw [State.xPoisoned_advance, State.xPoisoned_setX, State.xPoisoned_count]
  · simp
  · simp
  · generalize s.count 1 = c
    unfold State.advance State.setPc Hart.xOf Hart.pcOf
    by_cases hd : d = 0#5
    · subst hd
      simp only [State.setX_zero]
      split <;> rfl
    · rw [State.setX_ne hd]
      split <;> rfl

/-- An instruction of the scalar front end that meets no condition writes its register. -/
theorem State.scalar_writes {s : State} {w : IWord} {reads : List (BitVec 5)} {d : BitVec 5} {v : Word} (hf : s.Fit 1 reads) :
    Answers (.next (s.scalar w reads d v)) (s.WritesX d v) := by
  rw [State.scalar, State.issueX_one hf]
  exact ⟨_, rfl, s.writesX_intro d v⟩

/-- What counting and a jump come to. -/
theorem State.jumpsTo_intro (s : State) (pc : Word) : s.JumpsTo pc ((s.count 1).setPc pc) :=
  ⟨rfl, ⟨fun k => by simp, fun k => by simp⟩, rfl⟩

/-- A trap at P changes the record, the level and the program counter, and nothing else. -/
theorem State.trapsAtP_intro {s : State} (hp : s.hart.priv = .p) (hc : s.hart.current = none) (c : BitVec 8) (v : Word) :
    s.TrapsAtP c v s.hart.pc (s.trap c v) := by
  simp [State.trap, State.takeTrap, State.TrapsAtP, hp, simpleTrap, Hart.enterS, hc, State.MemSame]

end Sys2Proof.Machine
end

