-- ==== Sys2Proof/Laws/TileMemory.lean ====
section
/-! SUPPORT. What the scalar front end finds granted and stores in tile memory. -/

namespace Sys2Proof.Machine

/-! ### Counting units leaves what an instruction is granted -/

/-- Counting changes a process in its capture block alone. -/
theorem State.count_procs (s : State) (u : Nat) : ∃ f : Proc → Proc,
    (∀ q, f q = { q with capture := (f q).capture }) ∧ (s.count u).procs = s.procs.map f := by
  have hid : ∃ f : Proc → Proc, (∀ q, f q = { q with capture := (f q).capture }) ∧ s.procs = s.procs.map f :=
    ⟨id, fun q => rfl, by simp⟩
  unfold State.count
  split
  · dsimp only
    split
    · exact hid
    · rename_i p _
      refine ⟨fun q => if q.pid = p then (if q.capture.active then
        { q with capture := { q.capture with steep := q.capture.steep + BitVec.ofNat 64 u } } else q) else q, ?_, rfl⟩
      intro q
      dsimp only
      split
      · split <;> rfl
      · rfl
  · exact hid

theorem State.myProc?_count (s : State) (u : Nat) :
    ∃ f : Proc → Proc, (∀ q, f q = { q with capture := (f q).capture }) ∧ (s.count u).myProc? = s.myProc?.map f := by
  obtain ⟨f, hf, hp⟩ := s.count_procs u
  refine ⟨f, hf, ?_⟩
  have hpid : ∀ q, (f q).pid = q.pid := fun q => by rw [hf q]
  unfold State.myProc? State.proc?
  simp only [State.count_hart_pid, hp]
  cases s.hart.pid with
  | none => rfl
  | some p =>
    simp only [Option.bind_some, List.find?_map]
    congr 2
    funext q
    simp [hpid]

@[simp] theorem State.tmOk_count (s : State) (u a n : Nat) : (s.count u).tmOk a n = s.tmOk a n := by
  obtain ⟨f, hf, hp⟩ := s.myProc?_count u
  have hg : ∀ a, (s.count u).tmGranted a = s.tmGranted a := by
    intro a
    unfold State.tmGranted
    simp only [State.count_hart_priv, hp, State.tileNo, State.count_hart_id]
    cases s.hart.priv <;> try rfl
    cases s.myProc? with
    | none => rfl
    | some q => simp only [Option.map_some]; rw [hf q]
  unfold State.tmOk
  simp only [State.count_hart_priv, hp, hg]
  cases s.hart.priv <;> try rfl
  cases s.myProc? with
  | none => rfl
  | some q => simp only [Option.map_some]; rw [hf q]

@[simp] theorem State.tmPoisoned_count (s : State) (u a n : Nat) : (s.count u).tmPoisoned a n = s.tmPoisoned a n := by
  simp [State.tmPoisoned, State.tmPoisKey, State.tileNo]

@[simp] theorem State.tmLoad_count (s : State) (u a n : Nat) : (s.count u).tmLoad a n = s.tmLoad a n := by
  simp [State.tmLoad, State.tmBytes, State.tileNo]


/-- A hart without debug entries meets no watch, no breakpoint and no element breakpoint. -/
theorem State.dbgActs_nil {s : State} (h : s.hart.dbg = []) (b : Bool) (f : DbgEntry → Bool) : s.dbgActs b f = none := by
  simp [State.dbgActs, h]

theorem State.watchHit_nil {s : State} (h : s.hart.dbg = []) (t l st : Bool) (i va n : Nat) :
    s.watchHit t l st i va n = none := State.dbgActs_nil h _ _

theorem State.breakElem_nil {s : State} (h : s.hart.dbg = []) (i : Nat) : s.breakElem i = none := State.dbgActs_nil h _ _

/-! ### Loads and stores (R180) -/

/-- The conditions of a scalar access of tile memory of a hart without debug entries, in their order. -/
theorem State.tmFault_of {s : State} (hd : s.hart.dbg = []) (ea : Word) (n : Nat) (store : Bool) :
    s.tmFault ea n store =
      if ea.toNat % n ≠ 0 then some (causeMisalign, ea)
      else if s.tmOk ea.toNat n = false then some (causeProt, ea)
      else if s.tmPoisoned ea.toNat n = true ∧ (store = false ∨ n < 8) then some (causePoison, ea) else none := by
  unfold State.tmFault
  rw [State.watchHit_nil hd]
  by_cases h1 : ea.toNat % n = 0
  · by_cases h2 : s.tmOk ea.toNat n = true
    · by_cases h3 : s.tmPoisoned ea.toNat n = true <;> cases store <;> by_cases h4 : n < 8 <;> simp [h1, h2, h3, h4]
    · simp [h1, h2]
  · simp [h1]

/-- The length of a little-endian number. -/
@[simp] theorem length_leBytes (n v : Nat) : (leBytes n v).length = n := by
  induction n generalizing v with
  | zero => rfl
  | succ n ih => simp [leBytes, ih]

/-- The bytes of a number give back its residue. -/
theorem leNat_leBytes (n v : Nat) : leNat (leBytes n v) = v % 256 ^ n := by
  induction n generalizing v with
  | zero => simp [leBytes, leNat, Nat.mod_one]
  | succ n ih =>
    simp only [leBytes, leNat, ih, BitVec.toNat_ofNat]
    rw [show (256 : Nat) ^ (n + 1) = 256 * 256 ^ n by rw [Nat.pow_succ, Nat.mul_comm], Nat.mod_mul]

/-- What counting, a store to tile memory and going on come to, for a store of one aligned access. -/
theorem State.storesTm_intro {s : State} (hm : s.MemOk) {a n : Nat} (v : Nat) (hal : a % n = 0)
    (hn : n = 1 ∨ n = 2 ∨ n = 4 ∨ n = 8) :
    s.StoresTm (tmKey s.hart.id.tile a) (leBytes n v) (((s.count 1).tmStore a (leBytes n v)).advance) := by
  have hk : n = 8 → tmKey s.hart.id.tile a % 8 = 0 := by rintro rfl; unfold tmKey Config.tmBytes; omega
  refine ⟨?_, ?_, fun c hc => ?_, fun c => ?_, ?_, ?_⟩
  · rw [State.advance_pc]
    exact State.nextPc_of (by simp [State.tmStore, State.tmStoreKey]) (by simp [State.tmStore, State.tmStoreKey])
  · simpa [State.tmStore, State.tmStoreKey, State.tileNo] using Memory.bytes_store (leBytes n v) (tmKey s.hart.id.tile a) hm.1
  · simpa [State.tmStore, State.tmStoreKey, State.tileNo] using
      Memory.read_store_outside (leBytes n v) (tmKey s.hart.id.tile a) hm.1 hc
  · simp [State.tmStore, State.tmStoreKey]
  · simp only [State.advance_tmPois, State.tmStore, State.tmStoreKey, length_leBytes, State.count_tmPois, State.tileNo,
      State.count_hart_id]
    by_cases h8 : n < 8
    · simp [h8]
    · have h8' : n = 8 := by omega
      have := hk h8'
      subst h8'
      simp only [Nat.lt_irrefl, if_false]
      rw [show (tmKey s.hart.id.tile a + 7) / 8 = tmKey s.hart.id.tile a / 8 by omega,
        show (tmKey s.hart.id.tile a + 8) / 8 - tmKey s.hart.id.tile a / 8 = 1 by omega]
  · generalize s.count 1 = c
    unfold State.advance State.setPc State.tmStore State.tmStoreKey Hart.pcOf
    dsimp only
    split <;> rfl

end Sys2Proof.Machine
end

