-- ==== Sys2Proof/Laws/Vector.lean ====
section
/-! SUPPORT. What the operand forms of vector instructions come to on a quiet hart: no stream opens, no element stops, and
an element loop writes its elements and raises its flags. -/

namespace Sys2Proof.Machine

/-! ### A quiet hart -/

theorem Hart.bindings_nil {h : Hart} (hb : h.anyBinding = false) (st : Bool) (regs : List (Nat × Nat)) :
    h.bindings st regs = [] := by
  unfold Hart.bindings
  rw [List.filterMap_eq_nil_iff]
  intro io hio
  obtain ⟨i, hi, rfl⟩ := List.mem_mapIdx.1 hio
  have : (h.streams.toList[i]).isSome = false := by
    simp only [Hart.anyBinding, List.any_eq_false] at hb
    simpa using hb _ (List.getElem_mem hi)
  cases hs : h.streams.toList[i] with
  | none => rfl
  | some b => rw [hs] at this; cases this

theorem Hart.streamBad_nil {h : Hart} (hb : h.anyBinding = false) (a b : List (Nat × Nat)) : h.streamBad a b = false := by
  simp [Hart.streamBad, Hart.bindings_nil hb]

theorem State.openStrips_nil {s : State} (hb : s.hart.anyBinding = false) (a b : List (Nat × Nat)) :
    s.openStrips a b = .ok ⟨[], []⟩ := by
  simp [State.openStrips, Hart.bindings_nil hb]

theorem State.touchStrips_nil {s : State} (hb : s.hart.anyBinding = false) (a b : List (Nat × Nat)) :
    s.touchStrips a b = s := by
  simp [State.touchStrips, State.myTouch, Hart.bindings_nil hb]

theorem State.awaited_nil (s : State) : s.awaited ⟨[], []⟩ = [] := by
  simp [State.awaited]

theorem Hart.elemPois_nil {h : Hart} (hv : h.vPois = []) (w r i : Nat) : h.elemPois w r i = false := by
  simp [Hart.elemPois, hv, setHas]

theorem Hart.poisIn_nil {h : Hart} (hv : h.vPois = []) (w : Nat) (regs : List Nat) (i : Nat) : h.poisIn w regs i = none := by
  simp [Hart.poisIn, Hart.elemPois_nil hv]

theorem State.xPoisoned_nil {s : State} (hx : s.hart.xPois = 0) (r : BitVec 5) : s.xPoisoned r = false := by
  simp [State.xPoisoned, hx]

theorem State.Quiet.count {s : State} (h : s.Quiet) (u : Nat) : (s.count u).Quiet := by
  obtain ⟨h1, h2, h3, h4, h5, h6, h7⟩ := h
  refine ⟨?_, ?_, ?_, ?_, ?_, ?_, ?_⟩ <;> simp_all [Hart.anyBinding, Hart.Unwatched]

/-- A hart whose instruction has overwritten none of its sources is what the instruction reads. -/
theorem State.source_whole {s : State} (h : s.hart.current.all (fun r => r.entry.kept.shadow.isEmpty) = true) :
    s.source = s.hart := by
  unfold State.source
  cases hc : s.hart.current with
  | none => rfl
  | some r =>
    rw [hc] at h
    have : r.entry.kept.shadow = [] := by simpa using h
    simp [this]

/-! ### What the issue of a vector instruction leaves -/

/-- The state in which the body of a vector instruction of u units begins. -/
def State.started (s : State) (w : IWord) (u : Nat) : State := ((s.count u).spin w).holdLeave w

section
variable (s : State) (w : IWord) (u : Nat)

theorem State.started_eq : s.started w u = { s.count u with hart := { (s.count u).hart with
    rotor := (s.started w u).hart.rotor, leave := (s.started w u).hart.leave } } := by
  unfold State.started State.holdLeave State.spin
  dsimp only
  split <;> split <;> rfl

@[simp] theorem State.started_x (r : BitVec 5) : (s.started w u).x r = s.x r := by simp [State.started, State.x]
@[simp] theorem State.started_sew : (s.started w u).sew = s.sew := by simp [State.started, State.sew]
@[simp] theorem State.started_grp : (s.started w u).grp = s.grp := by simp [State.started, State.grp]
@[simp] theorem State.started_vlen : (s.started w u).vlen = s.vlen := by simp [State.started, State.vlen]
@[simp] theorem State.started_vlmax : (s.started w u).vlmax = s.vlmax := by simp [State.started, State.vlmax]
@[simp] theorem State.started_startElem : (s.started w u).startElem = s.startElem := by
  simp [State.started, State.startElem]
@[simp] theorem State.started_opA (r : BitVec 5) : (s.started w u).opA r = s.opA r := by
  simp [State.started, State.opA, State.x]
@[simp] theorem State.started_opB (r : BitVec 5) : (s.started w u).opB r = s.opB r := by
  simp [State.started, State.opB, State.x]
theorem Hart.pbit_of {g h : Hart} (hp : g.p = h.p) (n : BitVec 3) (i : Nat) : g.pbit n i = h.pbit n i := by
  simp [Hart.pbit, hp]
theorem Hart.elem_of {g h : Hart} (hv : g.v = h.v) (ht : g.vtype = h.vtype) (hl : g.lanes = h.lanes)
    (h0 : g.lane0 = h.lane0) (sw r i : Nat) : g.elem sw r i = h.elem sw r i := by
  simp [Hart.elem, Hart.elemKey, hv, ht, hl, h0]
@[simp] theorem State.started_pbit (n : BitVec 3) (i : Nat) : (s.started w u).hart.pbit n i = s.hart.pbit n i :=
  Hart.pbit_of (by simp [State.started]) n i
@[simp] theorem State.started_elem (sw r i : Nat) : (s.started w u).hart.elem sw r i = s.hart.elem sw r i :=
  Hart.elem_of (by simp [State.started]) (by simp [State.started]) (by simp [State.started]) (by simp [State.started]) ..
@[simp] theorem State.started_skipped (i : Nat) : (s.started w u).skipped i = s.skipped i := by
  simp [State.started, State.skipped]
@[simp] theorem State.started_actives (p : BitVec 3) : (s.started w u).actives p = s.actives p := by
  simp [State.actives]
@[simp] theorem State.started_operandB (h : Hart) (b : BitVec 5) (sc : BitVec 1) (sw i : Nat) :
    (s.started w u).operandB h b sc sw i = s.operandB h b sc sw i := by simp [State.operandB]
@[simp] theorem State.started_unwatched : (s.started w u).hart.Unwatched = s.hart.Unwatched := by
  simp [State.started, Hart.Unwatched]
@[simp] theorem State.started_tm : (s.started w u).tm = s.tm := by simp [State.started]
@[simp] theorem State.started_gm : (s.started w u).gm = s.gm := by simp [State.started]
@[simp] theorem State.started_fflags : (s.started w u).hart.fflags = s.hart.fflags := by simp [State.started]
@[simp] theorem State.started_v : (s.started w u).hart.v = s.hart.v := by simp [State.started]
@[simp] theorem State.started_vPois : (s.started w u).hart.vPois = s.hart.vPois := by simp [State.started]
@[simp] theorem State.started_p : (s.started w u).hart.p = s.hart.p := by simp [State.started]
@[simp] theorem State.started_vtype : (s.started w u).hart.vtype = s.hart.vtype := by simp [State.started]
@[simp] theorem State.started_pc : (s.started w u).hart.pc = s.hart.pc := by simp [State.started]
@[simp] theorem State.started_current : (s.started w u).hart.current = s.hart.current := by simp [State.started]
end

/-! ### vgo and vrun on a quiet hart -/

/-- How a vector instruction that read the hart g ends, without streams. -/
def VEnd.finish (g : Hart) (v : VInstr) : VEnd → State
  | .done t => t.advance
  | .stop t c val e pr td => t.stopWith (g.overwritten t.hart) v.word v.xa v.xb c val e pr td
  | .wait t => t

theorem State.closeStrips_nil (s : State) : s.closeStrips ⟨[], []⟩ = s := rfl

theorem State.vgo_quiet {s : State} {v : VInstr} {body : State → Hart → VEnd} (hb : s.hart.anyBinding = false)
    (hx : s.hart.xPois = 0) (hw : s.source = s.hart) :
    s.vgo v body = (body ((s.spin v.word).holdLeave v.word) s.hart).finish s.hart v := by
  have hr : v.reads.any s.xPoisoned = false := by
    rw [List.any_eq_false]; intro r _; simp [State.xPoisoned_nil hx]
  unfold State.vgo
  rw [State.touchStrips_nil hb]
  dsimp only
  rw [State.openStrips_nil hb]
  dsimp only
  rw [hr, Bool.and_false, State.awaited_nil]
  simp only [Bool.false_eq_true, if_false, List.isEmpty_nil, Bool.not_true]
  have : s.view ⟨[], []⟩ = s.hart := hw
  rw [this, hw]
  cases body ((s.spin v.word).holdLeave v.word) s.hart <;> rfl

theorem State.vrun_quiet {s : State} {v : VInstr} {body : State → Hart → VEnd} (hq : s.Quiet)
    (hu : s.steepOver v.units = false) (hv : v.vcfg = false) :
    s.vrun v body = (body (s.started v.word v.units) (s.count v.units).hart).finish (s.count v.units).hart v := by
  unfold State.vrun
  rw [State.issue_pass rfl hu hv (Hart.streamBad_nil hq.1 _ _) rfl rfl]
  have hc := hq.count v.units
  exact State.vgo_quiet hc.1 hc.2.2.2.1 (State.source_whole hc.2.2.2.2.2.2)

/-! ### Element loops -/

theorem State.haltElem_quiet {s : State} (hd : s.hart.Unwatched) (i : Nat) : s.haltElem i = none := by
  have : s.breakElem i = none := by simp [State.breakElem, State.dbgActs, hd.1]
  simp [State.haltElem, State.expired, hd.2, this]

theorem State.elemStop_quiet {s : State} (hd : s.hart.Unwatched) {pois : Nat → Option Nat} {i : Nat}
    (hp : pois i = none) : s.elemStop pois i = none := by
  simp [State.elemStop, State.haltElem_quiet hd, hp]

theorem Hart.setElem_dbg (h : Hart) (w r i v : Nat) : (h.setElem w r i v).dbg = h.dbg := rfl

/-- The hart after the writes differs in its vector storage alone. -/
theorem Hart.writeElems_eq (h : Hart) (w r : Nat) (f : Nat → Nat) (l : List Nat) :
    h.writeElems w r f l = { h with v := (h.writeElems w r f l).v, vPois := (h.writeElems w r f l).vPois } := by
  induction l generalizing h with
  | nil => rfl
  | cons i l ih =>
    change (h.setElem w r i (f i)).writeElems w r f l = _
    rw [ih]
    rfl

theorem setDel_nil (a : Nat) : setDel [] a = [] := rfl

theorem Hart.setElem_vPois {h : Hart} (hv : h.vPois = []) (w r i v : Nat) : (h.setElem w r i v).vPois = [] := by
  have : ∀ l : List Nat, l.foldl (fun (m : List Nat) j => setDel m (h.elemKey w r i + j)) [] = [] := by
    intro l
    induction l with
    | nil => rfl
    | cons a l ih => simpa [setDel_nil] using ih
  simp [Hart.setElem, hv, this]

theorem Hart.writeElems_vPois {h : Hart} (hv : h.vPois = []) (w r : Nat) (f : Nat → Nat) (l : List Nat) :
    (h.writeElems w r f l).vPois = [] := by
  induction l generalizing h with
  | nil => exact hv
  | cons i l ih => exact ih (Hart.setElem_vPois hv w r i (f i))

/-- An element loop that no element stops. -/
theorem State.elemLoop_quiet {pois : Nat → Option Nat} {dw d : Nat} {f : Nat → Nat × FFlags} (hp : ∀ i, pois i = none) :
    ∀ (l : List Nat) (s : State) (fl : FFlags), s.hart.Unwatched →
      s.elemLoop pois dw d f l fl = .done (({ s with hart := s.hart.writeElems dw d (fun i => (f i).1) l }).raise
        (l.foldl (fun fl i => fl ||| (f i).2) fl))
  | [], s, fl, _ => rfl
  | i :: l, s, fl, hd => by
    rw [State.elemLoop, State.elemStop_quiet hd (hp i)]
    dsimp only
    rw [State.elemLoop_quiet hp l _ _ (by exact hd)]
    rfl

theorem foldl_or (f : Nat → FFlags) (l : List Nat) (a b : FFlags) :
    a ||| l.foldl (fun fl i => fl ||| f i) b = l.foldl (fun fl i => fl ||| f i) (a ||| b) := by
  induction l generalizing b with
  | nil => rfl
  | cons i l ih => simp only [List.foldl_cons]; rw [ih, BitVec.or_assoc]

/-- An element loop of a started instruction writes its elements. -/
theorem State.writesV_intro {s : State} (w : IWord) (u dw : Nat) (d : BitVec 5) (f : Nat → Nat × FFlags) (l : List Nat)
    (hv : s.hart.vPois = []) :
    s.WritesV u dw d l f ((State.raise { s.started w u with
        hart := (s.started w u).hart.writeElems dw d.toNat (fun i => (f i).1) l }
        (l.foldl (fun fl i => fl ||| (f i).2) 0)).advance) := by
  have hw : ((s.started w u).hart.writeElems dw d.toNat (fun i => (f i).1) l).v =
      (s.hart.writeElems dw d.toNat (fun i => (f i).1) l).v := by
    have key : ∀ (l : List Nat) (g h : Hart), g.v = h.v → g.vtype = h.vtype → g.lanes = h.lanes → g.lane0 = h.lane0 →
        (g.writeElems dw d.toNat (fun i => (f i).1) l).v = (h.writeElems dw d.toNat (fun i => (f i).1) l).v := by
      intro l
      induction l with
      | nil => intro g h h1 _ _ _; exact h1
      | cons i l ih =>
        intro g h h1 h2 h3 h4
        refine ih _ _ ?_ h2 h3 h4
        simp [Hart.setElem, Hart.elemKey, h1, h2, h3, h4]
    exact key l _ _ (by simp) (by simp) (by simp [State.started]) (by simp [State.started])
  refine ⟨?_, ?_, ?_, ?_, ⟨fun k => ?_, fun k => ?_⟩, ?_⟩
  · rw [State.advance_pc]
    refine State.nextPc_of ?_ ?_ <;> simp only [State.raise_hart_pc, State.raise_hart_current] <;>
      rw [Hart.writeElems_eq] <;> simp
  · simpa using hw
  · simp only [State.advance_hart_vPois, State.raise_hart_vPois]
    exact Hart.writeElems_vPois (by simpa using hv) _ _ _ _
  · simp only [State.advance_hart_fflags]
    change ((s.started w u).hart.writeElems dw d.toNat (fun i => (f i).1) l).fflags ||| _ = _
    rw [Hart.writeElems_eq]
    simp only [State.started_fflags]
    rw [foldl_or]; simp
  · simp
  · simp
  · obtain ⟨r, lv, h⟩ : ∃ r lv, s.started w u = { s.count u with hart := { (s.count u).hart with rotor := r, leave := lv } } :=
      ⟨_, _, State.started_eq s w u⟩
    rw [h]
    generalize s.count u = c
    rw [Hart.writeElems_eq]
    generalize Hart.v (Hart.writeElems _ _ _ _ _) = vv
    generalize Hart.vPois (Hart.writeElems _ _ _ _ _) = vp
    generalize List.foldl _ _ l = fl
    unfold State.advance State.raise State.setPc Hart.vOf Hart.pcOf
    dsimp only
    split <;> rfl

/-! ### Predicate destinations -/

/-- A bit of a predicate value after one bit is written. -/
theorem getLsbD_pput (v : BitVec 65536) {i : Nat} (b : Bool) {j : Nat} (hj : j < 65536) :
    (pput v i b).getLsbD j = if j = i then b else v.getLsbD j := by
  have h1 : ((1 : BitVec 65536) <<< i).getLsbD j = decide (j = i) := by
    rw [BitVec.getLsbD_shiftLeft]
    by_cases h : j < i
    · simp [h]; omega
    · by_cases he : j = i
      · subst he; simp [hj]
      · have : j - i ≠ 0 := by omega
        simp [h, he, this]
  unfold pput
  cases b
  · simp only [Bool.false_eq_true, if_false, BitVec.getLsbD_and, BitVec.getLsbD_not, h1]
    by_cases he : j = i <;> simp [he, hj]
  · simp only [if_true, BitVec.getLsbD_or, h1]
    by_cases he : j = i <;> simp [he]

theorem Hart.pbit_setP_ne {h : Hart} {d n : BitVec 3} (hn : n ≠ d) (v : BitVec 65536) (i : Nat) :
    (h.setP d v).pbit n i = h.pbit n i := by
  unfold Hart.setP
  split
  · rfl
  · have : d.toNat ≠ n.toNat := fun e => hn (BitVec.eq_of_toNat_eq e.symm)
    simp [Hart.pbit, this]

theorem Hart.pbit_setP {h : Hart} {d : BitVec 3} (v : BitVec 65536) (i : Nat) :
    (h.setP d v).pbit d i = if d ≠ 0 then v.getLsbD i else h.pbit d i := by
  unfold Hart.setP
  by_cases hd : d = 0#3
  · simp [hd]
  · simp [Hart.pbit, hd]

theorem Hart.getLsbD_pval {h : Hart} {d : BitVec 3} {i : Nat} (hi : i < 65536) : (h.pval d).getLsbD i = h.pbit d i := by
  unfold Hart.pval Hart.pbit
  by_cases hd : d = 0
  · rw [if_pos hd, BitVec.getLsbD_allOnes]
    simp [hd, hi]
  · rw [if_neg hd, decide_eq_false hd, Bool.false_or]

/-- The hart with bits of a predicate register written one after another. -/
def Hart.writePred (h : Hart) (d : BitVec 3) (f : Nat → Bool) (l : List Nat) : Hart :=
  l.foldl (fun (g : Hart) i => g.setP d (pput (g.pval d) i (f i))) h

theorem Hart.writePred_eq (h : Hart) (d : BitVec 3) (f : Nat → Bool) (l : List Nat) :
    h.writePred d f l = { h with p := (h.writePred d f l).p } := by
  induction l generalizing h with
  | nil => rfl
  | cons i l ih =>
    change (h.setP d (pput (h.pval d) i (f i))).writePred d f l = _
    rw [ih]
    unfold Hart.setP
    split
    · rename_i hd; simp only [Hart.writePred, List.foldl_cons, Hart.setP, hd, if_true]
    · rename_i hd; simp only [Hart.writePred, List.foldl_cons, Hart.setP, hd, if_false]

theorem Hart.writePred_bit {d : BitVec 3} {f : Nat → Bool} {i : Nat} (hi : i < 65536) : ∀ (l : List Nat) (h : Hart),
    (h.writePred d f l).pbit d i = if d ≠ 0 ∧ i ∈ l then f i else h.pbit d i
  | [], h => by simp [Hart.writePred]
  | j :: l, h => by
    change ((h.setP d (pput (h.pval d) j (f j))).writePred d f l).pbit d i = _
    rw [Hart.writePred_bit hi l, Hart.pbit_setP, getLsbD_pput _ _ hi, Hart.getLsbD_pval hi]
    by_cases hd : d = 0#3
    · simp [hd]
    · by_cases hl : i ∈ l
      · simp [hd, hl]
      · by_cases hj : i = j
        · subst hj; simp [hd, hl]
        · simp [hd, hl, hj]

theorem Hart.writePred_other {d n : BitVec 3} (hn : n ≠ d) {f : Nat → Bool} (i : Nat) : ∀ (l : List Nat) (h : Hart),
    (h.writePred d f l).pbit n i = h.pbit n i
  | [], _ => rfl
  | j :: l, h => by
    change ((h.setP d (pput (h.pval d) j (f j))).writePred d f l).pbit n i = _
    rw [Hart.writePred_other hn i l, Hart.pbit_setP_ne hn]

/-- A predicate loop that no element stops. -/
theorem State.predLoop_quiet {pois : Nat → Option Nat} {d : BitVec 3} {f : Nat → Bool × FFlags} (hp : ∀ i, pois i = none) :
    ∀ (l : List Nat) (s : State) (fl : FFlags), s.hart.Unwatched →
      s.predLoop pois d f l fl = .done (State.raise { s with hart := s.hart.writePred d (fun i => (f i).1) l }
        (l.foldl (fun fl i => fl ||| (f i).2) fl))
  | [], s, fl, _ => rfl
  | i :: l, s, fl, hd => by
    rw [State.predLoop, State.elemStop_quiet hd (hp i)]
    dsimp only
    rw [State.predLoop_quiet hp l _ _ (by unfold Hart.Unwatched Hart.setP; split <;> exact hd)]
    rfl

/-- A predicate loop of a started instruction writes its bits. -/
theorem State.writesP_intro (s : State) (w : IWord) (u : Nat) (d : BitVec 3) (f : Nat → Bool × FFlags) (l : List Nat) :
    s.WritesP u d l f ((State.raise { s.started w u with
        hart := (s.started w u).hart.writePred d (fun i => (f i).1) l }
        (l.foldl (fun fl i => fl ||| (f i).2) 0)).advance) := by
  have hb : ∀ n i, ((State.raise { s.started w u with
        hart := (s.started w u).hart.writePred d (fun i => (f i).1) l }
        (l.foldl (fun fl i => fl ||| (f i).2) 0)).advance).hart.pbit n i =
      ((s.started w u).hart.writePred d (fun i => (f i).1) l).pbit n i := fun n i => Hart.pbit_of (by simp) n i
  refine ⟨?_, fun i hi => ?_, fun n i hn => ?_, ?_, ⟨fun k => ?_, fun k => ?_⟩, ?_⟩
  · rw [State.advance_pc]
    refine State.nextPc_of ?_ ?_ <;> simp only [State.raise_hart_pc, State.raise_hart_current] <;>
      rw [Hart.writePred_eq] <;> simp
  · rw [hb, Hart.writePred_bit hi]
    simp
  · rw [hb, Hart.writePred_other hn]
    simp
  · simp only [State.advance_hart_fflags]
    change ((s.started w u).hart.writePred d (fun i => (f i).1) l).fflags ||| _ = _
    rw [Hart.writePred_eq]
    simp only [State.started_fflags]
    rw [foldl_or]; simp
  · simp
  · simp
  · obtain ⟨r, lv, h⟩ : ∃ r lv, s.started w u = { s.count u with hart := { (s.count u).hart with rotor := r, leave := lv } } :=
      ⟨_, _, State.started_eq s w u⟩
    rw [h]
    generalize s.count u = c
    rw [Hart.writePred_eq]
    generalize Hart.p (Hart.writePred _ _ _ _) = pp
    generalize List.foldl _ _ l = fl
    unfold State.advance State.raise State.setPc Hart.predOf Hart.pcOf
    dsimp only
    split <;> rfl

/-! ### The operand forms -/

/-- A vector instruction on a quiet hart whose body is an element loop. -/
theorem State.vrun_elems {s : State} {v : VInstr} {body : State → Hart → VEnd} {pois : Nat → Option Nat} {dw : Nat}
    {d : BitVec 5} {f : Nat → Nat × FFlags} {l : List Nat} (hr : s.VReady v.units []) (hv : v.vcfg = false)
    (hp : ∀ i, pois i = none)
    (hb : body (s.started v.word v.units) (s.count v.units).hart = (s.started v.word v.units).elemLoop pois dw d.toNat f l 0) :
    s.WritesV v.units dw d l f (s.vrun v body) := by
  rw [State.vrun_quiet hr.1 hr.2.1 hv, hb, State.elemLoop_quiet hp _ _ _ (by simpa using hr.1.2.1)]
  exact s.writesV_intro v.word v.units dw d f l hr.1.2.2.1

/-- The same with a predicate loop. -/
theorem State.vrun_preds {s : State} {v : VInstr} {body : State → Hart → VEnd} {pois : Nat → Option Nat}
    {d : BitVec 3} {f : Nat → Bool × FFlags} {l : List Nat} (hr : s.VReady v.units []) (hv : v.vcfg = false)
    (hp : ∀ i, pois i = none)
    (hb : body (s.started v.word v.units) (s.count v.units).hart = (s.started v.word v.units).predLoop pois d f l 0) :
    s.WritesP v.units d l f (s.vrun v body) := by
  rw [State.vrun_quiet hr.1 hr.2.1 hv, hb, State.predLoop_quiet hp _ _ _ (by simpa using hr.1.2.1)]
  exact s.writesP_intro v.word v.units d f l

@[simp] theorem Hart.elem_count (s : State) (u sw r i : Nat) : (s.count u).hart.elem sw r i = s.hart.elem sw r i :=
  Hart.elem_of (by simp) (by simp) (by simp) (by simp) ..

@[simp] theorem Hart.pbit_count (s : State) (u : Nat) (n : BitVec 3) (i : Nat) : (s.count u).hart.pbit n i = s.hart.pbit n i :=
  Hart.pbit_of (by simp) n i

@[simp] theorem State.operandB_count (s t : State) (u : Nat) (b : BitVec 5) (sc : BitVec 1) (w i : Nat) :
    t.operandB (s.count u).hart b sc w i = t.operandB s.hart b sc w i := by simp [State.operandB]

theorem Hart.poisIn_count {s : State} (hq : s.Quiet) (u w : Nat) (regs : List Nat) (i : Nat) :
    (s.count u).hart.poisIn w regs i = none := Hart.poisIn_nil (by simpa using hq.2.2.1) ..

/-- The groups of a binary instruction. -/
theorem State.vvInstr_vcfg {s : State} {word : IWord} {d a b : BitVec 5} {p : BitVec 3} {sc : BitVec 1} {rd : Bool}
    (hg : ∀ r ∈ [d, a] ++ (if sc = 1 then [] else [b]), s.badGroup r = false) :
    (s.vvInstr word d a b p sc rd false).vcfg = false := by
  have h1 := hg d (by simp)
  have h2 := hg a (by simp)
  by_cases hs : sc = 1#1
  · simp [State.vvInstr, h1, h2, hs]
  · have h3 := hg b (by simp [hs])
    simp [State.vvInstr, h1, h2, h3]

/-- The binary form with a vector destination. -/
theorem State.vvBin_writes {s : State} {word : IWord} {d a b : BitVec 5} {p : BitVec 3} {sc : BitVec 1}
    {f : Nat → Nat → Nat × FFlags} (hr : s.VReady (s.rows s.sew) ([d, a] ++ if sc = 1 then [] else [b])) :
    Answers (.next (s.vvBin word d a b p sc false f)) (s.WritesV (s.rows s.sew) s.sew d (s.actives p)
      (fun i => f (s.hart.elem s.sew a.toNat i) (s.operandB s.hart b sc s.sew i))) := by
  refine ⟨_, rfl, State.vrun_elems (pois := fun i => (s.count (s.rows s.sew)).hart.poisIn s.sew (vvRegs d a b sc false) i)
    ⟨hr.1, hr.2.1, by simp⟩ (State.vvInstr_vcfg hr.2.2) (Hart.poisIn_count hr.1 _ _ _) ?_⟩
  simp only [State.started_actives, State.started_operandB, Hart.elem_count, State.operandB_count]
  rfl

/-- The unary form. -/
theorem State.vvUn_writes {s : State} {word : IWord} {d a : BitVec 5} {p : BitVec 3} {f : Nat → Nat × FFlags}
    (hr : s.VReady (s.rows s.sew) [d, a]) :
    Answers (.next (s.vvUn word d a p false f)) (s.WritesV (s.rows s.sew) s.sew d (s.actives p)
      (fun i => f (s.hart.elem s.sew a.toNat i))) := by
  refine ⟨_, rfl, State.vrun_elems (pois := fun i => (s.count (s.rows s.sew)).hart.poisIn s.sew [a.toNat] i)
    ⟨hr.1, hr.2.1, by simp⟩ (State.vvInstr_vcfg (word := word) (p := p) (rd := false) (sc := 1) (b := a) (by simpa using hr.2.2)) (Hart.poisIn_count hr.1 _ _ _) ?_⟩
  simp only [State.started_actives, Hart.elem_count]
  rfl

/-- The comparison with a predicate destination. -/
theorem State.vvCmp_writes {s : State} {word : IWord} {d : BitVec 3} {a b : BitVec 5} {p : BitVec 3} {sc : BitVec 1}
    {f : Nat → Nat → Bool × FFlags} (hr : s.VReady (s.rows s.sew) ([a] ++ if sc = 1 then [] else [b])) :
    Answers (.next (s.vvCmp word d a b p sc f)) (s.WritesP (s.rows s.sew) d (s.actives p)
      (fun i => f (s.hart.elem s.sew a.toNat i) (s.operandB s.hart b sc s.sew i))) := by
  refine ⟨_, rfl, State.vrun_preds (pois := fun i => (s.count (s.rows s.sew)).hart.poisIn s.sew (vvRegs a a b sc false) i)
    ⟨hr.1, hr.2.1, by simp⟩ (State.vvInstr_vcfg (word := word) (p := p) (rd := false) (d := a) (by simpa using hr.2.2)) (Hart.poisIn_count hr.1 _ _ _) ?_⟩
  simp only [State.started_actives, State.started_operandB, Hart.elem_count, State.operandB_count]
  rfl

end Sys2Proof.Machine
end

