-- ==== Sys2Proof/Tests/Slice0.lean ====
section
/-! SUPPORT. The model's own tests: words and ill-formed terms, one step of an instruction, and a state that meets the
hypotheses of each statement. -/

open Sys2Proof Sys2Proof.Machine

namespace Sys2Proof.Tests.Slice0

/-! ### Words of every family, written out from the encodings and the spec's own examples -/

theorem test_word_alu : decode 0x056B3800#32 = some (.add 11 11 7) := by decide
theorem test_word_alu_unary : decode 0x04A60012#32 = some (.clz 5 6) := by decide
theorem test_word_alu_reserved : decode 0x04A60812#32 = none := by decide
theorem test_word_shift : decode 0x212900BF#32 = some (.srai 9 9 63) := by decide
theorem test_word_lih : decode 0x24A579B9#32 = some (.lih 5 5 0x79B9) := by decide
theorem test_word_div : decode 0x2CA63804#32 = some (.div 5 6 7) := by decide
theorem test_word_setf : decode 0x5C060100#32 = some (.setf 6) := by decide
theorem test_word_sete : decode 0x5C060140#32 = some (.sete 6) := by decide
theorem test_word_fence : decode 0x5C000180#32 = some .fence := by decide
theorem test_word_ldg : decode 0x5CA60030#32 = some (.ldg 5 6 3 0) := by decide
theorem test_word_stg : decode 0x5C062860#32 = some (.stg 6 5 2) := by decide
theorem test_word_ldsync : decode 0x5CA600F0#32 = some (.ldsyncE 5 6 1) := by decide
theorem test_word_amo : decode 0x5C093C34#32 = some (.amoAdd 0 9 7 1 0 1) := by decide
theorem test_word_cas : decode 0x5CA93E70#32 = some (.amoCas 5 9 7 1 0 0) := by decide
theorem test_word_branch : decode 0x60A6FFFF#32 = some (.beq 5 6 0xFFFF) := by decide
theorem test_word_setvli : decode 0x88C00004#32 = some (.setvli 6 4) := by decide
theorem test_word_vcmp : decode 0x8C21009E#32 = some (.vcmpGt 1 1 0 0 1) := by decide
theorem test_word_vfma : decode 0x94813880#32 = some (.vfma 4 1 7 0 1) := by decide
theorem test_word_vcomp : decode 0x98410103#32 = some (.vcomp 2 1 1) := by decide
theorem test_word_viota : decode 0x98600104#32 = some (.viota 3 1) := by decide
theorem test_word_pset : decode 0x9C400004#32 = some (.pset 2 0) := by decide
theorem test_word_pcnt : decode 0x9CA10206#32 = some (.pcnt 5 1 2) := by decide
theorem test_word_vstm : decode 0xB46A5806#32 = some (.vstm 3 10 11 0) := by decide
theorem test_word_vldsync : decode 0xB44C0001#32 = some (.vldsyncE 2 12 0) := by decide
theorem test_word_vspill : decode 0xB4420002#32 = some (.vspill 2 2 0) := by decide
theorem test_word_easpill : decode 0xB4220004#32 = some (.easpill 1 2) := by decide
theorem test_word_vamo : decode 0xB8893840#32 = some (.vamoAdd 4 9 7 0) := by decide
theorem test_word_sbind : decode 0xC4290000#32 = some (.sbind 1 9) := by decide
theorem test_word_sunb : decode 0xC4200001#32 = some (.sunb 1) := by decide
theorem test_word_mshape : decode 0xCCA63800#32 = some (.mshape 5 6 7) := by decide
theorem test_word_mpack : decode 0xCC8A3801#32 = some (.mpack 4 10 7 0) := by decide
theorem test_word_mma : decode 0xCC0A5804#32 = some (.mma 10 11 0) := by decide
theorem test_word_mzero : decode 0xCC000003#32 = some (.mzero 0) := by decide
theorem test_word_mdrain : decode 0xCC2C6A35#32 = some (.mdrain 1 12 13 2 0 1 1) := by decide
theorem test_word_dgrant : decode 0xD4AB6001#32 = some (.dgrant 5 11 12) := by decide
theorem test_word_barrier : decode 0xD80E0000#32 = some (.barrier 14) := by decide
theorem test_word_tcap : decode 0xF8010001#32 = some .tcapStart := by decide
theorem test_word_eret : decode 0xFC005000#32 = some .eret := by decide
theorem test_word_tlbinv : decode 0xFC057000#32 = some (.tlbinv 5) := by decide
theorem test_word_zero : decode 0x00000000#32 = none := by decide

/-! ### Ill-formed terms -/

theorem test_ill_ldg : Instr.wellFormed (.ldg 1 2 3 1) = false := by decide
theorem test_ill_vfcvt : Instr.wellFormed (.vfcvtFf 1 2 6 0) = false := by decide
theorem test_ill_earnd : Instr.wellFormed (.earnd 1 2 5 0) = false := by decide
theorem test_ill_segment : Instr.wellFormed (.vlseg 1 2 0 0 0) = false ∧ Instr.wellFormed (.vsseg 1 2 0 3 1) = false := by
  decide
theorem test_ill_count : Instr.wellFormed (.crdm 1 0 0 0) = false ∧ Instr.wellFormed (.crdm 1 0 0 9) = false ∧
    Instr.wellFormed (.cwrm 30 0 3) = false ∧ Instr.wellFormed (.cwrm 29 0 3) = true := by decide
theorem test_ill_mdrain : Instr.wellFormed (.mdrain 5 2 0 0 0 0 0) = false ∧ Instr.wellFormed (.mdrain 0 2 0 0 0 3 0) = false ∧
    Instr.wellFormed (.mdrain 0 2 1 0 0 0 0) = false := by decide
theorem test_ill_barrier : Instr.wellFormed (.barrierReduce 1 0) = false := by decide
theorem test_ill_failure : Instr.wellFormed (.laneFailure 2048 (.lane 0)) = false ∧
    Instr.wellFormed (.laneFailure 0 (.lane 32)) = false ∧ Instr.wellFormed (.laneFailure 0 (.frontEnd 8)) = false := by decide
theorem test_ill_wear : Instr.wellFormed (.wearSample 0 1000001 0 0) = false ∧ Instr.wellFormed (.wearSample 2048 0 0 0) = false := by
  decide
theorem test_ill_tile : Instr.wellFormed (.marginAlarmStop 2048) = false ∧
    Instr.wellFormed (.quarantineSelfTest 2048 true) = false ∧ Instr.wellFormed (.spareSubstitution 2048) = false ∧
    Instr.wellFormed (.laneRebuildComplete 2048) = false ∧ Instr.wellFormed (.hartRestart 2048 0) = false ∧
    Instr.wellFormed (.hartRestart 0 8) = false := by decide
theorem test_ill_island : Instr.wellFormed (.temperatureSample 64 0) = false ∧ Instr.wellFormed (.powerSample 0 64) = false := by
  decide
theorem test_ill_launch : Instr.wellFormed (.launchStage ⟨1, 256, 1⟩ (List.replicate 64 0)) = false ∧
    Instr.wellFormed (.launchGo ⟨1, 0, 1⟩ (List.replicate 63 0)) = false ∧
    Instr.wellFormed (.launchStageAndStart ⟨1, 0, 1⟩ (List.replicate 65 0)) = false := by decide
theorem test_ill_fabric : Instr.wellFormed (.flitRetry 4 0 0) = false ∧ Instr.wellFormed (.linkTimeout 0 18) = false ∧
    Instr.wellFormed (.switchTimeout 8192 0) = false ∧ Instr.wellFormed (.groupTimeout 8192) = false := by decide
/-- A request one byte short of its header. -/
def short : HostRequest := ⟨0, true, 0, List.replicate 15 0⟩
theorem test_ill_request : Instr.wellFormed (.shootdown short) = false ∧ Instr.wellFormed (.migrate short) = false ∧
    Instr.wellFormed (.peersUpdated short) = false ∧ Instr.wellFormed (.multicastGroup short) = false ∧
    Instr.wellFormed (.checkpoint short) = false ∧ Instr.wellFormed (.copy short) = false ∧
    Instr.wellFormed (.restore short) = false ∧ Instr.wellFormed (.deviceAttestation short) = false ∧
    Instr.wellFormed (.endNetwork short) = false ∧ Instr.wellFormed (.endProcess short) = false ∧
    Instr.wellFormed (.partition short) = false ∧ Instr.wellFormed (.readRankEntries short) = false ∧
    Instr.wellFormed (.readHealth short) = false ∧ Instr.wellFormed (.readCharge short) = false ∧
    Instr.wellFormed (.create short) = false ∧ Instr.wellFormed (.destroy short) = false ∧
    Instr.wellFormed (.keyLoad short) = false ∧ Instr.wellFormed (.keyErase short) = false ∧
    Instr.wellFormed (.packageAttestation short) = false ∧ Instr.wellFormed (.logRead short) = false ∧
    Instr.wellFormed (.archive short) = false ∧ Instr.wellFormed (.islandLimits short) = false ∧
    Instr.wellFormed (.setOkek short) = false ∧ Instr.wellFormed (.configuration short) = false ∧
    Instr.wellFormed (.firmwareUpdate short) = false ∧ Instr.wellFormed (.unknownRequest short) = false := by decide

/-! ### Small states -/

/-- The selected hart runs at P under a STEEP limit. -/
def run : State :=
  { State.reset with power := .ready, hart := { State.reset.hart with status := .running, steeplim := 1000 } }

/-- A state that an outcome reaches. -/
def after : Out → State
  | .next t => t
  | _ => State.reset

/-- The process on the selected hart: rank 2 of network 1, with a kernel block of 12 KiB at address 0. -/
def proc : Proc :=
  { pid := ⟨1, 2⟩, vdid := 0, status := .onHart ⟨0, 0⟩, tile := 0, kernel := 0, kbase := 0, klen := 0x3000, entry := 0
    safeTab := [], ports := [], seed := 5, args := [], level := 0, steeplim := 1000, quantum := 0, ctxptr := 0, ctxphys := 0
    gen := 0, switches := 0, charge := 0, held := 0, capture := ⟨0, 0, 0, 0, 0, 0, 0, 0, true⟩, stopDue := false, binds := []
    issued := true }

/-- Its device: tile 0, a region of 1 GiB at endpoint 0, and its page table at 0x1000. -/
def dev : VDev :=
  { vdid := 0, tiles := [0], regions := [⟨1, 0, 0, 2 ^ 30⟩], macs := [9], keyMap := [0], ceil := 4, rootEp := 0
    rootAddr := 0x1000, homeDie := 0, hbase := 0, hlen := 0, hwdog := 10000, tvec := 0x2000, vdcfg := [], waiting := []
    doomed := [], logging := false, dirty := [], forwarding := false, peers := [], destroyTag := none }

/-- A virtual address of the device's first gigabyte, which one leaf maps to itself. -/
def va : Nat := 0x400000

/-- The process runs on its device. -/
def base : State :=
  { run with
    time := 7, procs := [proc], vdevs := [dev], liveEps := [0, 1, 2, 3]
    tiles := [(0, { Tile.powerOn with vdid := some 0, tvec := 0x2000 })]
    gm := ((Memory.store [] 0x1000 (leBytes 8 0x1001)).store 0x2000 (leBytes 8 0x1801)).store 0x3000 (leBytes 8 0xF)
    hart := { run.hart with pid := some ⟨1, 2⟩, x := (Vector.replicate 32 0).set 6 0x100 |>.set 7 0x400000 |>.set 8 3 } }

/-- The same at another privilege. -/
def atPriv (s : State) (q : Priv) : State := { s with hart := { s.hart with priv := q } }

/-- The same with the selected hart blocked. -/
def blocked (s : State) (w : Wait) : State := { s with hart := { s.hart with status := .blocked w } }

/-- The same with SEW 32, RC 32 and VL = 2. -/
def vec (s : State) : State := { s with hart := { s.hart with vtype := 0x42, vl := 2 } }

/-! ### One step -/

theorem test_add_wraps : (after (exec (.add 5 6 7) ((run.setX 6 0xFFFFFFFFFFFFFFFF).setX 7 2))).x 5 = 1 := by decide
theorem test_ror_example : (after (exec (.ror 5 5 6) ((run.setX 5 0xF1).setX 6 0x44))).x 5 = 0x1000000000000000 + 0xF := by
  decide
theorem test_div_example : (after (exec (.div 5 6 7) ((run.setX 6 (-7)).setX 7 2))).x 5 = -3 := by decide
theorem test_rem_example : (after (exec (.rem 5 6 7) ((run.setX 6 (-7)).setX 7 2))).x 5 = -1 := by decide
theorem test_div_zero : (after (exec (.div 5 6 7) (run.setX 6 (-7)))).x 5 = -1 := by decide
theorem test_store_load : (after (exec (.ldh 5 6 0) (after (exec (.sth 8 6 0) (base.setX 8 0x8001))))).x 5 = -0x7FFF := by
  decide
theorem test_ldg : ({ base with gm := base.gm.write va 0x9C }.replyDone (.loadX 5 false) 1 ⟨0, 0x400000, ⟨va, 0, 0x3000⟩⟩).x 5 =
    0x9C := by decide
theorem test_store_not_fetched : let s := after (exec (.stw 6 6 8) base)
    s.tmLoad 0x108 4 = 0x100 ∧ { s with hart := { s.hart with pc := 0x108 } }.fetchWord = 0 := by decide
theorem test_iinv : let s := after (exec (.stw 6 6 8) base)
    (after (exec .iinv { s with hart := { s.hart with pc := 0x104 } })).fetchWord = 0x100 := by decide
theorem test_x0 : (after (exec (.addi 0 6 1) base)).x 0 = 0 := by decide
theorem test_brk : (after (exec (.brk 9) base)).hart.pc = 0x2000 ∧ (after (exec (.brk 9) base)).hart.tval = 9 := by decide

/-! ### Hypotheses that a state meets: steps and the scalar front end -/

theorem test_wit_StepRunsDecoded : let s := run.withFetchWord 32 0x056B3800
    s.power = .ready ∧ s.events = [] ∧ s.internal = [] ∧ s.hart.status = .running ∧ s.hart.replay = [] ∧
    s.breakAt s.hart.pc = none ∧ s.fetchOk = true ∧ decode s.fetchWord = some (.add 11 11 7) := by decide
theorem test_wit_StepStops_illegal : let s := run.withFetchWord 32 0
    s.power = .ready ∧ s.events = [] ∧ s.internal = [] ∧ s.hart.status = .running ∧ s.hart.replay = [] ∧
    s.breakAt s.hart.pc = none ∧ s.fetchOk = true ∧ decode s.fetchWord = none := by decide
theorem test_wit_StepStops_prot : let s := { base with hart := { base.hart with pc := 0x3000 } }
    s.power = .ready ∧ s.events = [] ∧ s.internal = [] ∧ s.hart.status = .running ∧ s.hart.replay = [] ∧
    s.breakAt s.hart.pc = none ∧ s.fetchOk = false := by decide
theorem test_wit_CodingRoundTrip : Instr.wellFormed (.ldg 31 31 3 0) = true ∧ Instr.isWord (.ldg 31 31 3 0) = true := by decide
theorem test_wit_StepKeepsCanonical : base.tm.wf = true ∧ base.gm.wf = true ∧ base.shards = [] := by decide
theorem test_wit_StateLaws_memory : Memory.wf [(3, 1), (5, 2)] = true ∧ setWf [3, 5] = true := by decide
theorem test_wit_StateLaws_element : let h := (vec base).hart
    0 < h.lanes ∧ h.lane0 + h.lanes ≤ 32 ∧ vtRc h.vtype ≤ 32 ∧ h.v.cells.Pairwise (fun a b => a.1 < b.1) ∧
    31 + 255 / (vlenOf h.lanes (vtRc h.vtype) / 32) < vtRc h.vtype := by decide
theorem test_wit_fit : base.Fit 1 [5, 6] := by unfold State.Fit; decide
theorem test_wit_TmLoadsStores : base.MemOk ∧ base.hart.dbg = [] ∧ 0x2FF8 % 8 = 0 ∧ base.tmOk 0x2FF8 8 = true ∧
    base.tmPoisoned 0x2FF8 8 = false := by unfold State.MemOk; decide
theorem test_wit_OperandTraps : base.hart.priv = .p ∧ base.hart.current = none ∧ base.hart.dbg = [] ∧ 0x101 % 2 ≠ 0 ∧
    base.tmOk 0x3000 1 = false ∧ { base with tmPois := [0x20] }.tmPoisoned 0x100 1 = true ∧ base.tmOk 0x100 1 = true := by
  decide
theorem test_wit_OperandTraps_vector : let s := (vec base).setX 6 0x102
    s.VReady (s.rows s.sew) [4] ∧ s.hart.priv = .p ∧ s.hart.current = none ∧ s.hart.replay = [] ∧ 0 ∈ s.actives 0 ∧
    (s.x 6).toNat % 4 ≠ 0 := by unfold State.VReady State.Quiet Hart.Unwatched; decide
theorem test_wit_BranchesAndJumps : (base.x 6 + 8).toNat % 4 = 0 ∧ (base.x 6 + 2).toNat % 4 ≠ 0 ∧ base.hart.priv = .p ∧
    base.hart.current = none := by decide


/-- A cached walk entry that agrees with the table serves or does not. -/
theorem test_walkHit_or {c : State} {l : Nat} {e : Word}
    (h : ((c.tile 0).walks.find? (fun w => w.vdid == 0 && w.level == l && w.part == walkPart l va)).all
      (fun w => w.entry == e) = true) :
    c.walkHit (some 0) 0 l va = none ∨ c.walkHit (some 0) 0 l va = some e := by
  unfold State.walkHit
  dsimp only
  revert h
  cases (c.tile 0).walks.find? (fun w => w.vdid == 0 && w.level == l && w.part == walkPart l va) with
  | none => exact fun _ => .inl rfl
  | some w =>
    intro h
    simp only [Option.all_some, beq_iff_eq] at h
    cases Config.walkHit c.ticks l with
    | false => exact .inl rfl
    | true => exact .inr (congrArg some h)

/-- A step of a walk of va through a non-leaf entry. -/
theorem test_walk_step {c : State} {lvl t i : Nat} {ws : List WalkEntry} {e : Word}
    (hi : va / 2 ^ (12 + 9 * (lvl + 1)) % (if lvl = 3 then 256 else 512) = i) (hm : dev.mayLoad (t + 8 * i) 8 = true)
    (hw : c.walkHit (some 0) 0 (lvl + 1) va = none ∨ c.walkHit (some 0) 0 (lvl + 1) va = some e)
    (hp : c.pte dev t i = e) (hk : c.pkg = 0)
    (he : pteV e = true ∧ pteLeaf e = false ∧ e.extractLsb' 2 9 = 0 ∧ pteEndpoint e / 4 = 0) :
    c.walkFrom (some 0) dev va (lvl + 1) t ws =
      c.walkFrom (some 0) dev va lvl (pteEndpoint e * Config.localBytes + pteAddr e) (⟨0, lvl + 1, walkPart (lvl + 1) va, e⟩ :: ws) := by
  have z : dev.vdid = 0 := rfl
  rw [State.walkFrom]
  simp only [hi, z]
  rcases hw with w | w <;> simp [w, hm, hp, hk, he.1, he.2.1, he.2.2.1, he.2.2.2]

/-- The translation of va on a state whose walk cache and tables agree with those of base. -/
theorem test_xlates {c : State} {n : Need} {leaf : Word} (hd : c.myVdev? = some dev) (ht : c.tileNo = 0)
    (hl : (c.tile 0).tlb = []) (hk : c.pkg = 0)
    (h4 : ((c.tile 0).walks.find? (fun w => w.vdid == 0 && w.level == 4 && w.part == walkPart 4 va)).all
      (fun w => w.entry == 0x1001) = true)
    (h3 : ((c.tile 0).walks.find? (fun w => w.vdid == 0 && w.level == 3 && w.part == walkPart 3 va)).all
      (fun w => w.entry == 0x1801) = true)
    (h2 : (c.tile 0).walks.find? (fun w => w.vdid == 0 && w.level == 2 && w.part == walkPart 2 va) = none)
    (hp : c.pte dev 0x1000 0 = 0x1001 ∧ c.pte dev 0x2000 0 = 0x1801 ∧ c.pte dev 0x3000 0 = leaf)
    (hf : pteV leaf = true ∧ pteLeaf leaf = true ∧ leafFault dev 2 (2 ^ 30) leaf = none) :
    c.myXlate n va = c.check dev (decide (c.hart.priv = .p)) n va (.ok ⟨0, 0, 2 ^ 30, 0x3000, leaf, 0⟩) := by
  have key : (c.walk (some 0) dev va).map (·.1) = .ok ⟨0, 0, 2 ^ 30, 0x3000, leaf, 0⟩ := by
    have w2 : c.walkHit (some 0) 0 (1 + 1) va = none := by simp [State.walkHit, h2]
    show (c.walkFrom (some 0) dev va (3 + 1) 0x1000 []).map _ = _
    rw [test_walk_step (i := 0) (e := 0x1001) (by decide) (by decide) (test_walkHit_or h4) hp.1 hk (by decide)]
    show (c.walkFrom (some 0) dev va (2 + 1) 0x2000 _).map _ = _
    rw [test_walk_step (i := 0) (e := 0x1801) (by decide) (by decide) (test_walkHit_or h3) hp.2.1 hk (by decide)]
    show (c.walkFrom (some 0) dev va (1 + 1) 0x3000 _).map _ = _
    have i2 : va / 2 ^ (12 + 9 * (1 + 1)) % (if 1 = 3 then 256 else 512) = 0 := by decide
    have z : dev.vdid = 0 := rfl
    have m2 : dev.mayLoad (0x3000 + 8 * 0) 8 = true := by decide
    rw [State.walkFrom]
    simp only [i2, z, w2, m2, hp.2.2, Option.getD_none, hf.1, hf.2.1]
    have q : leafFault dev 2 1073741824 leaf = none := hf.2.2
    simp [q, Except.map]
    decide
  unfold State.myXlate State.laneXlate
  rw [hd]
  simp only [State.xlate, State.tlbLookup, ht, hl, List.find?_nil, key]

/-- The state in which an access of va is tested. -/
def walked (s : State) (n : Nat) : State := (s.count 1).probe 0x400000 n

/-- What va translates to there. -/
def hit : TlbEntry × Phys := (⟨0, 0, 2 ^ 30, 0x3000, 0x1F, 0⟩, ⟨va, 0, 0x3000⟩)
/-! ### Vectors and memory -/

theorem test_wit_VConfigAndMoves : vtLegal 0x42 = true ∧ vtLegal 0xFFFF = false ∧ base.hart.anyBinding = false := by decide
theorem test_wit_vready : let s := vec base
    s.VReady (s.rows s.sew) [4, 1, 7] ∧ s.sew = 32 ∧ s.actives 0 = [0, 1] := by unfold State.VReady State.Quiet Hart.Unwatched; decide
theorem test_wit_vready_64 : let s := { base with hart := { base.hart with vtype := 0x43, vl := 2 } }
    s.VReady (s.rows s.sew) [4, 1, 7] ∧ s.sew = 64 := by unfold State.VReady State.Quiet Hart.Unwatched; decide
theorem test_wit_VFloatConvert : let s := vec base
    s.Quiet ∧ s.badGroup 4 = false ∧ s.steepOver (s.rows 64) = false ∧ s.grp * 64 ≤ 8 * 32 ∧
    2 % max 1 (s.grp * 64 / 32) = 0 ∧ 2 + max 1 (s.grp * 64 / 32) ≤ vtRc s.hart.vtype ∧
    (vtSr s.hart.vtype && narrowing .fp64 s.fmt) = false := by unfold State.Quiet Hart.Unwatched; decide
theorem test_wit_VFloatConvert_drawn : let s := { vec base with hart := { (vec base).hart with vtype := 0x1042 } }
    s.Quiet ∧ s.badGroup 4 = false ∧ (vtSr s.hart.vtype && narrowing .fp64 s.fmt) = true := by unfold State.Quiet Hart.Unwatched; decide
theorem test_wit_VFloatConvert_round : (Fmt.decode .e4m3 0x7E).isNan = false ∧ (Fmt.decode .e4m3 0x7F).isNan = true := by decide
theorem test_wit_LongAccumulators : (base.hart.acc 1).pois = false ∧ (base.setX 6 0x108).tmOk 0x108 536 = true ∧ 0x108 % 8 = 0 ∧
    base.tmPoisoned 0x108 536 = false := by decide
theorem test_wit_VectorTmAccess : let s := vec base
    s.MemOk ∧ s.VReady (s.rows s.sew) [4] ∧ (s.opA 6).toNat % 64 = 0 ∧ (s.opA 6).toNat % 4 = 0 ∧ s.tmOk 0x100 4 = true ∧
    s.tmOk 0x104 4 = true ∧ s.tmOk 0x2FFC 4 = true := by unfold State.MemOk State.VReady State.Quiet Hart.Unwatched; decide
theorem test_wit_VectorTmAccess_segment : let s := vec base
    s.VReady (2 * s.rows (max 32 16)) [4] ∧ 4 + 2 * s.grp ≤ vtRc s.hart.vtype ∧ s.tmOk 0x106 2 = true := by
  unfold State.VReady State.Quiet Hart.Unwatched; decide

theorem test_wit_translates : let s := { base with gmFull := [va / 64] }; let c := (s.count 1).probe (s.x 7) 8
    s.MemOk ∧ s.hart.dbg = [] ∧ s.Fit 1 [7, 7, 5] ∧ (s.x 7).toNat = va ∧ va % 8 = 0 ∧ c.myXlate .r va = .ok hit ∧ c.myXlate .w va = .ok hit ∧
    c.myXlate .rw va = .ok hit ∧ s.remote hit.2 = false ∧ Config.tmBytes ≤ va ∧
    ((c.myUse .r hit.1).gbytes 8).gmPoisoned hit.2 8 = false ∧ ((c.myUse .rw hit.1).gbytes 8).gmPoisoned hit.2 8 = false ∧
    (c.myUse .r hit.1).gmPoisoned hit.2 8 = false ∧ setHas s.gmFull (hit.2.addr / 64) = true ∧
    setHas base.gmFull (hit.2.addr / 64) = false ∧ s.myVdev? = some dev := by
  have x : ∀ n : Need, (((({ base with gmFull := [va / 64] } : State).count 1).probe 0x400000 8).myXlate n va) = .ok hit := by
    intro n
    rw [test_xlates (leaf := 0x1F) (by decide) (by decide) (by decide) (by decide) (by decide) (by decide) (by decide) (by decide)
      (by decide)]
    cases n <;> rfl
  refine ⟨?_, by decide, ?_, by decide, by decide, x .r, x .w, x .rw, ?_⟩
  · unfold State.MemOk; decide
  · unfold State.Fit; decide
  · decide +kernel
theorem test_wit_FullEmptySync : base.tmOk 0x100 4 = true ∧ setHas base.tmFull (0x100 / 64) = false ∧
    setHas { base with tmFull := [4] }.tmFull (tmKey 0 0x100 / 64) = true ∧ base.tmPoisoned 0x100 4 = false := by decide

/-- One element is active. -/
def vec1 : State := { vec base with hart := { (vec base).hart with vl := 1 } }

theorem test_oneElem {s : State} {v : GmVec} (h : v.misaligned 0 = false ∧ v.idx 0 = none ∧ v.lane 0 = 0 ∧ (v.addr 0).toNat = va)
    (x : (s.laneTouch 0 va).myXlate v.need va = .ok hit) :
    (s.gmVecProbe v [0]).gmVecAddr v [0] = .ok [⟨0, v.addr 0, hit.2⟩] := by
  have y : (s.laneTouch 0 va).laneXlate 0 v.need va = .ok hit := x
  simp [State.gmVecProbe, State.gmVecAddr, h.1, h.2.1, h.2.2.1, h.2.2.2, y]

/-- The accesses of a vector instruction of a mode. -/
def accessing (mode : BitVec 3) (load store : Bool) : GmVec := GmVec.mk 4 (if load && store then .rw else if load then .r else .w)
  load store (if load && store then 3 else if load then 1 else 2)
  (fun i => if mode = 0 then vec1.opA 7 + BitVec.ofNat 64 (i * 4) else if mode = 1 then vec1.opA 7 + BitVec.ofNat 64 i * vec1.opB 8
    else vec1.opA 7 + BitVec.ofNat 64 (vec1.hart.elem 32 2 i)) (fun i => if mode = 0 then 0 else i % vec1.hart.lanes)
  (fun _ => none) (fun _ => none)

theorem test_wit_global_elements : let s := vec1; let c := s.count (s.rows s.sew)
    let e := [(⟨0, 0x400000, hit.2⟩ : ElemAccess)]
    s.MemOk ∧ s.VReady (s.rows s.sew) [4, 2] ∧ s.remote hit.2 = false ∧ s.actives 0 = [0] ∧
    ∀ m : BitVec 3, m ≤ 2 → (c.gmVecProbe (accessing m true false) [0]).gmVecAddr (accessing m true false) [0] = .ok e ∧
      (c.gmVecProbe (accessing m false true) [0]).gmVecAddr (accessing m false true) [0] = .ok e ∧
      (c.gmVecProbe (accessing m true true) [0]).gmVecAddr (accessing m true true) [0] = .ok e := by
  refine ⟨by unfold State.MemOk; decide, by unfold State.VReady State.Quiet Hart.Unwatched; decide, by decide, by decide, ?_⟩
  have x : ∀ n : Need, ((vec1.count (vec1.rows vec1.sew)).laneTouch 0 va).myXlate n va = .ok hit := by
    intro n
    rw [test_xlates (leaf := 0x1F) (by decide) (by decide) (by decide) (by decide) (by decide) (by decide) (by decide) (by decide)
      (by decide)]
    cases n <;> rfl
  intro m hm
  have a : ∀ m : BitVec 3, m ≤ 2 → ∀ l s : Bool, (accessing m l s).addr 0 = 0x400000 ∧ (accessing m l s).misaligned 0 = false ∧
      (accessing m l s).lane 0 = 0 := by decide
  have y : ∀ l s : Bool, _ := fun l s => test_oneElem (s := vec1.count (vec1.rows vec1.sew)) (v := accessing m l s)
    ⟨(a m hm l s).2.1, rfl, (a m hm l s).2.2, by rw [(a m hm l s).1]; rfl⟩ (x _)
  simp only [(a m hm _ _).1] at y
  exact ⟨y true false, y false true, y true true⟩
theorem test_wit_FullEmptySync_vector : let s := { vec base with tmFull := [4], gmFull := [va / 64] }
    s.tmOk 0x100 4 = true ∧ s.tmOk 0x104 4 = true ∧ ([0x100 / 64].all (setHas s.tmFull)) = true ∧
    ([va / 64].all (setHas s.gmFull)) = true ∧ s.VReady (s.rows s.sew) [4] := by
  unfold State.VReady State.Quiet Hart.Unwatched; decide

/-- The process is the issuer of multicast group 3. -/
def cast : State := { vec base with mcasts := [⟨0, 3, 0, [0, 1], true⟩] }

theorem test_wit_VectorGlobal_vstm : cast.mcast? (cast.opB 8).toNat = some ⟨0, 3, 0, [0, 1], true⟩ ∧ cast.startElem < cast.vlen := by
  decide
theorem test_wit_VectorGlobal_ack : let s := blocked cast (.vstm 0 0 0 3 ⟨[], []⟩ [])
    s.hart.status = .blocked (.vstm 0 0 0 3 ⟨[], []⟩ []) ∧ s.asyncs = [] ∧
    s.memberMask (((s.mcast? 3).map (·.members)).getD []) 0 = 0 ∧
    s.memberMask (((s.mcast? 3).map (·.members)).getD []) 2 ≠ 0 := by decide +kernel

/-! ### Channels, streams, lanes, traps -/

/-- A channel of network 1 with four slots of 64 bytes in a ring of tile 0. -/
def chan (prod cons : ChanEnd) (base wr rd : Nat) (tok : Option Nat) : Chan :=
  { slotLog := 6, k := 2, prod := prod, cons := cons, wr := BitVec.ofNat 32 wr, rd := BitVec.ofNat 32 rd
    closed := tok.isSome, token := tok.map (BitVec.ofNat 32), ring := .tile 0 base }

/-- Channel 0 holds two slots, 1 and 2 are the process's own with room and without, 3 is empty, 4 holds the token, and 5
is closed. -/
def net : Network :=
  { netid := 1, vdid := 0, digest := [], nproc := 4
    chans := [chan (.rank 0) (.rank 2) 0x100 5 3 none, chan (.rank 2) (.rank 1) 0x200 6 4 none,
      chan (.rank 2) (.rank 1) 0x300 8 4 none, chan (.rank 0) (.rank 2) 0x400 4 4 none,
      chan (.rank 0) (.rank 2) 0x500 5 4 (some 4), chan (.rank 2) (.rank 1) 0x600 5 4 (some 4)]
    groups := [], entries := [0x100000000, 0x100000000, 0x100000000, 0x100000000], rankLo := 0, rankCnt := 4
    started := true, startAt := none, caddyVa := 0, caddyLen := 0, caddyUsed := 0, argsVa := 0, statusVa := 0
    statusDue := false, changedAt := 0, deadlockTold := false }

/-- The process with its six ports bound, and a safe point at its program counter. -/
def ported : Proc :=
  { proc with
    ports := [some ⟨0, false⟩, some ⟨1, true⟩, some ⟨2, true⟩, some ⟨3, false⟩, some ⟨4, false⟩, some ⟨5, true⟩]
    safeTab := [⟨0xFFFFFFFF, 0xFFFFFFFF, 0xFF, 0x3F, 0xF, false, true, 8, 4, 0⟩] }

def base2 : State := { base with procs := [ported], nets := [net] }

/-- The channel that a port names. -/
def at_ (k : Nat) : Option (Network × Nat × Chan) := (net.chans[k]?).map fun c => (net, k, c)

theorem test_wit_Channels : let s := base2
    s.myChan 0 = at_ 0 ∧ s.myChan 5 = at_ 5 ∧ s.hart.priv = .p ∧ s.hart.dbg = [] ∧ s.chanBad 0 false = false ∧
    s.chanBad 3 false = false ∧ s.chanBad 4 false = false ∧ s.chanBad 1 true = false ∧ s.chanBad 2 true = false ∧
    s.chanBad 5 true = false := by decide
theorem test_wit_Channels_ends : let c := fun k => (net.chans[k]?).getD (chan (.rank 0) (.rank 0) 0 0 0 none)
    (c 0).readable = true ∧ (c 0).atToken = false ∧ (c 4).readable = true ∧ (c 4).atToken = true ∧ (c 3).readable = false ∧
    net.writeWaits (c 1) = false ∧ (c 1).closed = false ∧ 8 * 8 ≤ (c 1).slotBytes ∧ net.writeWaits (c 2) = true ∧
    (c 2).closed = false ∧ (c 5).closed = true ∧ 2 * 4 ≤ (c 1).slotBytes := by decide
theorem test_wit_Channels_blocked : (blocked base2 (.crd 5 1 0)).hart.status = .blocked (.crd 5 1 0) ∧
    (blocked base2 (.cclose 1)).hart.status = .blocked (.cclose 1) := by decide
theorem test_wit_Channels_slots : base2.MemOk ∧ (leBytes 64 7).length = 2 ^ 6 ∧ 3 % 2 ^ 2 ≠ 4 % 2 ^ 2 := by
  unfold State.MemOk; decide

/-- A descriptor of three words at va. -/
def descBytes : List Byte := leBytes 8 va ++ leBytes 8 4 ++ leBytes 16 0 ++ leBytes 4 3 ++ leBytes 8 0x100000001 ++ leBytes 4 2 ++ leBytes 16 0

def bind : Binding := Binding.ofBytes descBytes 4 1 0x100 0

/-- The descriptor at 0x100, and v4 bound to it. -/
def described : State := { vec1 with tm := Memory.store [] 0x100 descBytes }
def bound : State := { described with hart := { described.hart with streams := #v[none, some bind, none, none] } }

theorem test_wit_Streams_bind : let s := described
    s.MemOk ∧ s.hart.Unwatched ∧ s.badGroup 4 = false ∧ s.hart.parent = none ∧ (s.x 6).toNat % 64 = 0 ∧
    s.tmOk 0x100 64 = true ∧ s.tmPoisoned 0x100 64 = false ∧
    Binding.ofBytes (s.tm.bytes (tmKey 0 0x100) 64) 4 s.grp (s.x 6) s.ticks = bind ∧
    s.descBad bind (s.tm.bytes (tmKey 0 0x100) 64) = false := by unfold State.MemOk Hart.Unwatched; decide
theorem test_wit_Streams_bound : let s := bound
    s.hart.boundSlot 4 = some (1, bind) ∧ bind.store = false ∧ s.badGroup 4 = false ∧ s.badGroup 8 = false ∧ s.steepOver 1 = false ∧
    s.hart.vPois = [] ∧ s.hart.bindings false [(4, s.grp)] = [(1, bind)] ∧ s.hart.bindings true [(4, s.grp)] = [] ∧
    s.hart.bindings false [(8, s.grp)] = [] ∧ s.hart.bindings true [(8, s.grp)] = [] ∧ bind.reg = 4 := by decide
theorem test_wit_Streams_strip : let s := bound; let c := (s.count (s.rows s.sew)).touchStrips [(4, s.grp)] [(8, s.grp)]
    s.sew = 32 ∧ c.stripStop bind 32 = none ∧ c.awaited ⟨[⟨1, bind, [], c.stripElems bind⟩], []⟩ = [] ∧
    s.hart.current = none ∧ (bind.base + 0).toNat = va ∧ c.myXlate .r va = .ok hit ∧ 1 ≤ bind.total ∧
    ∀ m < 4, (numGet c.gmStamp (hit.2.addr + m)).all (decide <| · < bind.since) = true := by
  have x : ∀ n : Need, ((bound.count (bound.rows bound.sew)).touchStrips [(4, bound.grp)] [(8, bound.grp)]).myXlate n va =
      .ok hit := by
    intro n
    rw [test_xlates (leaf := 0x1F) (by decide) (by decide) (by decide) (by decide) (by decide) (by decide) (by decide) (by decide)
      (by decide)]
    cases n <;> rfl
  have hs : bind.strip ((bound.count (bound.rows bound.sew)).touchStrips [(4, bound.grp)] [(8, bound.grp)]).vlen =
      [(0, 0x400000)] := by decide
  refine ⟨by decide, ?_, ?_, by decide, by decide, x .r, by decide, by decide⟩
  · have hw : ((bound.count (bound.rows bound.sew)).touchStrips [(4, bound.grp)] [(8, bound.grp)]).watchHit false true false 0
        va 4 = none := by decide
    have hp : ((bound.count (bound.rows bound.sew)).touchStrips [(4, bound.grp)] [(8, bound.grp)]).gmPoisoned hit.2 4 = false := by
      decide
    have hb : bind.store = false := by decide
    have y := x .r
    simp only [va] at y hw
    simp [State.stripStop, firstStop, hs, hb, y, hw, hp]
  · have hr : ((bound.count (bound.rows bound.sew)).touchStrips [(4, bound.grp)] [(8, bound.grp)]).remote hit.2 = false := by
      decide
    have y := x .r
    simp only [va] at y
    simp [State.awaited, State.stripElems, hs, (by decide : bind.store = false), y, hr]
/-- v4 bound to it for stores. -/
def sink : Binding := { bind with store := true }
def appending : State := { described with hart := { described.hart with streams := #v[none, some sink, none, none] } }
theorem test_wit_Streams_append : let s := appending; let c := (s.count (s.rows s.sew)).touchStrips [(8, s.grp)] [(4, s.grp)]
    let es : List ElemAccess := [⟨0, 0x400000, hit.2⟩]
    s.MemOk ∧ s.hart.Unwatched ∧ s.steepOver (s.rows s.sew) = false ∧ s.hart.vPois = [] ∧ s.badGroup 4 = false ∧
    s.badGroup 8 = false ∧ s.hart.current = none ∧ s.hart.bindings true [(8, s.grp)] = [] ∧ s.hart.bindings false [(4, s.grp)] = [] ∧
    s.hart.bindings false [(8, s.grp)] = [] ∧ s.hart.bindings true [(4, s.grp)] = [(1, sink)] ∧ sink.reg = 4 ∧ sink.store = true ∧
    s.sew = 32 ∧ c.stripStop sink 32 = none ∧ es.map (·.elem) = (List.range s.vlen).filter (fun j => sink.pos + j < sink.total) ∧
    sink.base + 0 = 0x400000 ∧ c.myXlate .w va = .ok hit := by
  have x : ((appending.count (appending.rows appending.sew)).touchStrips [(8, appending.grp)] [(4, appending.grp)]).myXlate .w va =
      .ok hit := by
    rw [test_xlates (leaf := 0x1F) (by decide) (by decide) (by decide) (by decide) (by decide) (by decide) (by decide) (by decide)
      (by decide)]
    rfl
  refine ⟨by unfold State.MemOk; decide, by unfold Hart.Unwatched; decide, by decide, by decide, by decide, by decide, by decide,
    by decide, by decide, by decide, by decide, by decide, by decide, by decide, ?_, by decide, by decide, x⟩
  have hs : sink.strip ((appending.count (appending.rows appending.sew)).touchStrips [(8, appending.grp)] [(4, appending.grp)]).vlen =
      [(0, 0x400000)] := by decide
  have hw : ((appending.count (appending.rows appending.sew)).touchStrips [(8, appending.grp)] [(4, appending.grp)]).watchHit
      false false true 0 va 4 = none := by decide
  simp only [va] at x hw
  simp [State.stripStop, firstStop, hs, (by decide : sink.store = true), x, hw]
theorem test_wit_Streams_store : ({ bind with store := true } : Binding).store = true ∧
    (blocked bound (.sunb 4)).hart.status = .blocked (.sunb 4) := by decide

/-- The hart as a parent whose child, on the upper half of the lanes, has joined or not. -/
def parent (r : Option JoinRecord) : State :=
  { base with hart := { base.hart with lanes := 16, child := some 4, joined := r } }

theorem test_wit_Lanes : base.hart.priv = .p ∧ 8 ≤ base.hart.lanes ∧ base.hart.child = none ∧ base.hart.anyBinding = false ∧
    base.Fit 1 [] ∧ (parent none).hart.child.isSome = true ∧ (parent none).hart.joined = none ∧
    (parent (some ⟨1, 2, 3, 4⟩)).hart.joined = some ⟨1, 2, 3, 4⟩ ∧ (parent none).hart.parent = none ∧
    (blocked (parent (some ⟨1, 2, 3, 4⟩)) .joinl).hart.status = .blocked .joinl := by unfold State.Fit; decide

/-- The child of that parent, selected, with the parent beside it. -/
def child : State :=
  { base with
    hart := { base.hart with id := ⟨0, 4⟩, lane0 := 16, lanes := 16, parent := some 0 }
    others := [(parent none).hart] }

theorem test_wit_Lanes_child : let m := (parent none).hart
    child.hart.child = none ∧ child.hart.joined = none ∧ child.hart.parent.isSome = true ∧ m ∈ child.others ∧
    m.id.tile = child.hart.id.tile ∧ m.child = some child.hart.id.front ∧ (∀ o ∈ child.others, o = m) ∧ child.Fit 1 [] := by
  unfold State.Fit; decide +kernel
theorem test_wit_TrapEntryAndReturn : (atPriv base .s).hart.priv ≠ .p ∧ base.hart.pid = some ⟨1, 2⟩ ∧
    base.proc? ⟨1, 2⟩ = some proc ∧ base.isBase base.hart = true ∧ base.hart.current = none ∧ base.hart.replay = [] ∧
    base.steepOver 1 = false ∧ (atPriv base .m).hart.priv = .m := by decide
theorem test_wit_live : ∀ r, proc.status ≠ .ended r := by intro r h; cases h

/-- The next unit would pass the STEEP limit. -/
def steep : State := { vec base with hart := { (vec base).hart with steepcnt := 1000 } }

theorem test_wit_EarlyTraps : csrKind 0xFFF = .none ∧ csrReadOnly 0xC00 = true ∧ csrKind 0x100 = .sys ∧ csrKind 0x300 = .mon ∧
    steep.steepOver 1 = true ∧ steep.steepOver (steep.rows steep.sew) = true ∧ vtLegal (base.x 7) = false ∧
    vtLegal 0x41 = true ∧ bound.hart.anyBinding = true ∧ (0x41 : BitVec 7) ≠ bound.hart.vtype.setWidth 7 ∧
    { vec base with hart := { (vec base).hart with vtype := 0x02 } }.badGroup 8 = true ∧
    { base.hart with lanes := 4 }.lanes < 8 ∧ child.forked = true ∧
    { base with hart := { base.hart with xPois := 0x40 } }.xPoisoned 6 = true ∧ (atPriv base .s).hart.priv ≠ .p := by decide
theorem test_wit_EarlyTraps_widths : (vec base).sew ≠ 64 ∧ base.sew = 64 ∧
    { base with hart := { base.hart with vtype := 0x40 } }.sew = 8 ∧
    bound.hart.bindings false [(4, bound.grp)] ≠ [] := by decide
theorem test_wit_System : base2.Fit 1 [6] ∧ base2.forked = false ∧ (base2.x 6).toNat > base2.time.toNat ∧
    (base2.x 8).toNat ≤ base2.time.toNat ∧
    (blocked base (.waitt 9)).hart.status = .blocked (.waitt 9) ∧ base2.safeEntry 1 = none ∧
    base2.hart.current = none ∧ base2.proc? ⟨1, 2⟩ = some ported ∧ base2.net? 1 = some net ∧ 2 < net.entries.length ∧
    proc.capture.active = true ∧ { proc with capture := Capture.zero }.capture.active = false := by unfold State.Fit; decide
theorem test_wit_System_safe : ∃ e, base2.safeEntry 0 = some (ported, e) ∧ base2.due ported e = .nothing := ⟨_, rfl, by decide⟩
theorem test_wit_CsrReads : base.Fit 1 [] ∧ (atPriv base .s).hart.priv ≠ .p ∧ (atPriv base .m).hart.priv = .m ∧
    base.hart.tprog.toList.getD 3 none = none ∧
    { base.hart with tprog := #v[none, none, none, some ⟨true, true, 4, 7, 0, 0, 5, 6, ⟨0, []⟩⟩] }.tprog.toList.getD 3 none =
      some ⟨true, true, 4, 7, 0, 0, 5, 6, ⟨0, []⟩⟩ := by unfold State.Fit; decide
theorem test_wit_CsrWrites : (atPriv base .m).Fit 1 [6] ∧ csrPriv .m 0x305 true = false ∧ csrPriv .s 0x102 true = false ∧
    csrPriv .p 0x009 true = false ∧ vtLegal 0x42 = true ∧ vtLegal ((vec base).csr 0x009 ||| 0x40) = true := by
  unfold State.Fit; decide

/-! ### Matrices, transfers, exchanges -/

/-- A granted shape of 32 by 32 by 32, with one-bit elements on both sides, whose blocks hold only zeros. -/
def shape : State :=
  { vec base with hart := { (vec base).hart with msm := 32, msn := 32, msk := 32, msprec := 0, msanchor := 0 } }

theorem test_wit_MatrixShapes : let q : Word := 0x0037002000200020
    q &&& 0xFF00E000E000E000 = 0 ∧ (q ||| 0x2000) &&& 0xFF00E000E000E000 ≠ 0 ∧ shape.hart.dbg = [] ∧ shape.hart.lanes = 32 ∧
    shape.hart.msm ≠ 0 ∧ base.hart.msm = 0 ∧ base.hart.priv = .p := by decide
theorem test_wit_MatrixShapes_mma : let s := shape.setX 7 0x200
    s.VReady 1 [] ∧ (s.x 6).toNat % 32 = 0 ∧ s.startElem = 0 ∧
    (List.range 32).all (fun i => s.tmOk (0x100 + 4 * i) 4 && s.tmOk (0x100 + 128 + i) 1 &&
      s.tm.read (tmKey 0 (0x100 + 128 + i)) != 255) = true := by unfold State.VReady State.Quiet Hart.Unwatched; decide
theorem test_wit_PlaneBlocks : let s := vec base
    s.MemOk ∧ s.VReady (s.rows s.sew) [4] ∧ s.vlen ≤ 1024 ∧ (s.opA 6).toNat % 32 = 0 ∧ s.tmOk 0x100 (128 * 16 + 1) = true := by
  unfold State.MemOk State.VReady State.Quiet Hart.Unwatched; decide
theorem test_wit_Drains : let s := shape
    s.MemOk ∧ s.VReady (s.rows 128) [4] ∧ s.actives 0 = [0, 1] ∧ 0 < s.hart.msn.toNat ∧
    s.vlen ≤ s.hart.msm.toNat * s.hart.msn.toNat ∧ setHas (s.hart.bank 0).pois 0 = false ∧ s.tmOk 0x104 4 = true := by
  unfold State.MemOk State.VReady State.Quiet Hart.Unwatched; decide
theorem test_wit_Drains_global : let s := { shape with hart := { shape.hart with vl := 1 } }
    s.actives 0 = [0] ∧ ((s.count (s.rows 128)).laneTouch 0 va).laneXlate 0 .w va = .ok hit := by
  refine ⟨by decide, ?_⟩
  rw [show ∀ c : State, c.laneXlate 0 .w va = c.myXlate .w va from fun _ => rfl, test_xlates (leaf := 0x1F) (by decide)
    (by decide) (by decide) (by decide) (by decide) (by decide) (by decide) (by decide) (by decide)]
  rfl

/-- The pages that n bytes at va touch. -/
def pages : List (Nat × TlbEntry × Phys) := [(va, hit)]

/-- A range of one page at va translates once it has been walked. -/
theorem test_pages {s : State} {n : Need} {len : Nat} (h : pagesOf va len = [va]) (x : (s.laneTouch 0 va).myXlate n va = .ok hit) :
    (s.myTouch (pagesOf va len)).xlateRange (fun s x => s.myXlate n x) va len = .ok pages := by
  have y : s.myTouch [va] = s.laneTouch 0 va := rfl
  simp only [State.xlateRange, h, y]
  simp [x, pages]

/-- A pending write of two bytes, one granule of tile memory. -/
def write : AsyncWrite := ⟨.engine, some ⟨0, 0⟩, some ⟨1, 2⟩, 0, [⟨true, 0, 1, [⟨64, .lit 7, 0, 0, 0⟩, ⟨65, .gm ⟨va, 0, 0⟩, 0, 0, 1⟩]⟩], none, 0, none, [], []⟩

theorem test_wit_TransferCommands : let s := base.setX 9 24
    s.Fit 1 [6, 7, 9] ∧ 0 < (s.x 9).toNat ∧ (s.x 6).toNat % 8 = 0 ∧ (s.x 7).toNat % 8 = 0 ∧ (s.x 9).toNat % 8 = 0 ∧
    s.tmOk 0x100 24 = true ∧ s.txFree = true ∧ { s with asyncs := [write, write] }.txFree = false ∧
    (∀ n, ((s.count 1).myTouch (pagesOf va 24)).xlateRange (fun s x => s.myXlate n x) va 24 = .ok pages) ∧
    (base.x 9).toNat = 0 := by
  refine ⟨by unfold State.Fit; decide, by decide, by decide, by decide, by decide, by decide, by decide, by decide, ?_, by decide⟩
  intro n
  refine test_pages (by decide) ?_
  rw [test_xlates (leaf := 0x1F) (by decide) (by decide) (by decide) (by decide) (by decide) (by decide) (by decide) (by decide)
      (by decide)]
  cases n <;> rfl

/-- A descriptor at 0x100 of one row of 8 bytes from va to 0x400. -/
def rows : State := { base with tm := Memory.store [] 0x100 (leBytes 8 va ++ leBytes 4 0x400 ++ leBytes 4 8 ++ leBytes 12 0 ++ leBytes 4 1) }

theorem test_wit_TransferCommands_rows : let desc := rows.tm.bytes (tmKey 0 0x100) 32
    (base.x 6).toNat % 8 = 0 ∧ rows.tmOk 0x100 32 = true ∧ field desc 0 8 = va ∧ field desc 8 4 = 0x400 ∧ field desc 12 4 = 8 ∧
    field desc 16 8 % 8 = 0 ∧ field desc 24 4 % 8 = 0 ∧ field desc 28 2 = 1 ∧ field desc 30 1 = 0 ∧ field desc 31 1 = 0 ∧
    rows.tmOk 0x400 8 = true ∧
    ((rows.count 1).myTouch (pagesOf va 8)).xlateRange (fun s x => s.myXlate .r x) va 8 = .ok pages := by
  refine ⟨by decide, by decide, by decide, by decide, by decide, by decide, by decide, by decide, by decide, by decide, by decide, ?_⟩
  refine test_pages (by decide) ?_
  rw [test_xlates (leaf := 0x1F) (by decide) (by decide) (by decide) (by decide) (by decide) (by decide) (by decide) (by decide)
      (by decide)]
  rfl
theorem test_wit_TransferCommands_marking : let s := { base with asyncs := [write] }
    s.MemOk ∧ (s.harts.map (·.id)).Nodup ∧ (∀ h ∈ s.harts, h.status = .running) ∧
    (∃ a ∈ s.asyncs, a.stopped = false ∧ a.chunks ≠ []) ∧ (∀ a ∈ s.asyncs, ∀ c ∈ a.chunks, (c.bytes.map (·.key)).Nodup) := by
  unfold State.MemOk; decide

/-- Group 1 of the network: ranks 1 and 2. -/
def group (a b : Member) : Group := ⟨[a, b], 0, 1, none, 3⟩
def m1 : Member := ⟨1, none, none, none, 0, 0, 5⟩
def m2 : Member := ⟨2, none, none, none, 0, 0, 5⟩
def grouped (q : Group) (s : State) : State := { s with nets := [{ net with groups := [q, q] }], procs := [ported] }
def cal : Calendar := ⟨0, 1, 5, 6, 2, [(0, 64), (64, 100)], [(64, 1), (40, 1)], [0, 64], [(0, 1, 1)]⟩
def exch (c : Option Calendar) (granted closed : Bool) : Exchange :=
  { Exchange.opened 1 0x400000 0x200 [hit.2] [16, 32] with
    calendar := c, granted := granted, closed := closed, sent := [8, 16] }

/-- The bytes of a post record, or of the head of a calendar, of group 1 at 0x100; and a send record at 0x200. -/
def posted (q : Group) : State :=
  grouped q { base with
    tm := (Memory.store [] 0x100 (leBytes 4 1 ++ leBytes 4 2 ++ leBytes 8 va ++ leBytes 8 0x200 ++ leBytes 8 0 ++ leBytes 8 16 ++
      leBytes 8 32)).store 0x200 (leBytes 8 0x400 ++ leBytes 4 40 ++ leBytes 4 1) }
def posting : State := posted (group m1 m2)

theorem test_wit_ExchangeInstructions : let s := posting
    s.MemOk ∧ (s.myGroup 1).isSome = true ∧ (s.myGroup 1).map (·.2.2) = some 1 ∧ m2.exch = none ∧ (s.x 6).toNat % 32 = 0 ∧
    s.tmOk 0x100 48 = true ∧ s.tmPoisoned 0x100 48 = false ∧ (group m1 m2).members.length ≤ 4096 ∧ s.hart.priv = .p ∧ s.hart.dbg = [] ∧
    (let post := s.tm.bytes (tmKey 0 0x100) 48
     field post 0 4 = 1 ∧ field post 4 4 = 2 ∧ field post 8 8 % 64 = 0 ∧ field post 16 8 % 64 = 0 ∧ field post 24 8 = 0 ∧
     field post 32 8 % 8 = 0 ∧ field post 40 8 % 8 = 0) ∧
    ((s.count 1).myTouch (pagesOf va 0x200)).xlateRange (fun s a => s.myXlate .w a) va 0x200 = .ok pages := by
  refine ⟨by unfold State.MemOk; decide, by decide, by decide, by decide, by decide, by decide, by decide, by decide, by decide,
    by decide, by decide, ?_⟩
  refine test_pages (by decide) ?_
  rw [test_xlates (leaf := 0x1F) (by decide) (by decide) (by decide) (by decide) (by decide) (by decide) (by decide) (by decide)
      (by decide)]
  rfl

/-- The same with an exchange open. -/
def opened (c : Option Calendar) (granted : Bool) : State := posted (group m1 { m2 with exch := some (exch c granted false) })

theorem test_wit_ExchangeInstructions_grant : let s := (opened (some cal) false).setX 8 0x200
    (s.x 6).toNat % 64 = 0 ∧ s.tmOk 0x100 64 = true ∧ s.tmPoisoned 0x100 4 = false ∧
    leNat (s.tm.bytes (tmKey 0 0x100) 4) = 1 ∧ (cal.bytes 1 1).length ≤ (s.x 8).toNat ∧
    s.tmOk 0x100 (cal.bytes 1 1).length = true ∧ s.epLive (group m1 m2).primary = true := by decide +kernel

/-- Exchange 1 at position 16, as the calendar that DGRANT wrote has it, with a send record of 40 bytes for member 1. -/
def sending (src len : Nat) : State :=
  { (opened (some cal) true).setX 8 0x200 with
    tm := (Memory.store [] 0x100 (leBytes 4 1 ++ leBytes 12 0 ++ leBytes 8 1)).store 0x200
      (leBytes 8 src ++ leBytes 4 len ++ leBytes 4 1) }

theorem test_wit_ExchangeInstructions_send : let s := sending 0x400 40
    leNat (s.tm.bytes (tmKey 0 0x100) 4) = 1 ∧ leNat (s.tm.bytes (tmKey 0 0x110) 8) = (exch (some cal) true false).seq ∧
    s.tmOk 0x200 16 = true ∧ (s.x 8).toNat % 8 = 0 ∧ 0x400 % 8 = 0 ∧ 40 % 8 = 0 ∧ 1 < 2 ∧
    0 < min 40 ((cal.send.getD 1 (0, 0)).1 - 16) ∧ s.tmOk 0x400 24 = true ∧
    s.tmPoisoned 0x100 4 = false ∧ s.tmPoisoned 0x110 8 = false ∧ s.tmPoisoned 0x200 16 = false ∧
    min 0 ((cal.send.getD 1 (0, 0)).1 - 16) = 0 := by decide
theorem test_wit_ExchangeInstructions_send_global :
    (((sending va 40).count 1).myTouch (pagesOf va 24)).xlateRange (fun s a => s.myXlate .r a) va 24 = .ok pages := by
  refine test_pages (by decide) ?_
  rw [test_xlates (leaf := 0x1F) (by decide) (by decide) (by decide) (by decide) (by decide) (by decide) (by decide) (by decide)
      (by decide)]
  rfl

/-- The reducing barrier's record at 0x100: the sum of three 32-bit integers at 0x400. -/
def reducing : State :=
  grouped (group m1 m2) { base.setX 8 1 with
    tm := Memory.store [] 0x100 (leBytes 4 0x200 ++ leBytes 4 3 ++ leBytes 8 0x400 ++ leBytes 8 0x440 ++ leBytes 8 0) }

theorem test_wit_Barriers : let s := reducing
    s.MemOk ∧ (s.myGroup 1).isSome = true ∧ (s.x 8).toNat = 1 ∧ ((group m1 m2).members.any fun m => s.rankGone net m.rank) = false ∧
    (let bs := s.tm.bytes (tmKey 0 0x100) 32; let r := redOf bs
     redBad bs = none ∧ r.src.toNat % 2 ^ r.red.width = 0 ∧ r.dst.toNat % 2 ^ r.red.width = 0 ∧
     r.red.count * 2 ^ r.red.width = 12 ∧ s.tmOk r.src.toNat 12 = true ∧ s.tmOk r.dst.toNat 12 = true ∧
     s.tmPoisoned r.src.toNat 12 = false) ∧
    entryEnded 0x500000000 = true := by unfold State.MemOk; decide

/-- Both members wait at the barrier. -/
def arrived : State :=
  let q := group { m1 with arrival := some ⟨none, [], 0⟩ } { m2 with arrival := some ⟨none, [], 0⟩ }
  let s := blocked (grouped q base) (.barrier 1)
  { s with others := [{ s.hart with id := ⟨1, 0⟩, pid := some ⟨1, 1⟩ }] }

theorem test_wit_Barriers_completion : let s := arrived
    (s.group? 1 1).isSome = true ∧ (s.harts.map (·.id)).Nodup ∧ ((group m1 m2).members.map (·.rank)).Nodup ∧
    (s.harts.map (·.pid)).Nodup ∧
    ((s.group? 1 1).map fun nq => nq.2.members.all fun m => m.arrival.isSome && m.exch.all fun x => x.closings == 2) = some true ∧
    s.hart.priv = .p ∧ s.hart.pid = some ⟨1, 2⟩ := by decide +kernel

/-- The completion has reached member 0, and is on its way to member 1. -/
def leavingOne : State :=
  let s := blocked (grouped (group m1 { m2 with arrival := some ⟨none, [], 0⟩, leaving := some .plain }) base) (.barrier 1)
  { s with others := [{ base.hart with id := ⟨1, 0⟩, pid := some ⟨1, 1⟩ }] }
theorem test_wit_Barriers_leaving : ((leavingOne.group? 1 1).map fun nq => nq.2.members.any fun w => w.leaving != none) = some true ∧
    (leavingOne.harts.map (·.id)).Nodup := by decide +kernel

/-- Member 0 sends to both: bytes 0 to 7 of member 1's grant lie ready, and the closing flits behind them. -/
def flying : State :=
  let x := { exch (some cal) true true with flights := [⟨1, 0, 0, [.lit 1, .tm 5], 0⟩], flits := [0, 1] }
  grouped (group { m1 with exch := some x } { m2 with exch := some (exch (some cal) true true) }) { base with time := 400010 }

theorem test_wit_ExchangeEvents : let s := flying
    s.MemOk ∧ (s.group? 1 1).isSome = true ∧ ((s.group? 1 1).map fun nq => nq.1.abroad 1) = some false ∧ cal.runs[0]? = some (0, 1, 1) ∧ (3 : Word).toNat + 400000 ≤ s.time.toNat ∧
    base.time.toNat < (3 : Word).toNat + 400000 ∧
    (((s.group? 1 1).map (·.2)).bind (·.exch? 0)).map (·.seq) = (((s.group? 1 1).map (·.2)).bind (·.exch? 1)).map (·.seq) ∧
    (((s.group? 1 1).map (·.2)).bind (·.exch? 0)).any (fun x => x.flights.any (fun f => f.receiver == 1) &&
      x.flights.all (fun f => f.receiver != 0) && x.flits.contains 0) = true := by unfold State.MemOk; decide
theorem test_wit_RepliesAndGranules : let e : ElemAccess := ⟨0, 0x400000, hit.2⟩
    let s := blocked base (.reply 0 (.loadX 5 true) 8 [e] [] 0 0 ⟨[], []⟩)
    s.MemOk ∧ s.hart.dbg = [] ∧ s.hart.priv = .p ∧ s.hart.current = none ∧
    s.hart.status = .blocked (.reply 0 (.loadX 5 true) 8 [e] [] 0 0 ⟨[], []⟩) ∧
    base.epLive (e.phys.addr / Config.localBytes) = true ∧ { base with liveEps := [] }.epLive 0 = false ∧
    base.gmPoisoned e.phys 8 = false ∧ { base with gmPois := [va / 64] }.gmPoisoned e.phys 8 = true ∧ base.remote e.phys = false := by
  unfold State.MemOk; decide
/-- Two elements at one location: the second waits for the first. -/
def pair : List ElemAccess := [⟨3, 0x400000, hit.2⟩, ⟨4, 0x400000, hit.2⟩]
theorem test_wit_RepliesAndGranules_vector : let s := blocked (vec base) (.reply 0 (.loadV 4 1) 4 pair [] 0 0 ⟨[], []⟩)
    s.Quiet ∧ s.hart.status = .blocked (.reply 0 (.loadV 4 1) 4 pair [] 0 0 ⟨[], []⟩) ∧ pair.head?.any (fun x => decide (3 ≤ x.elem + 255)) = true ∧
    pair.find? (fun x => x.elem == 4) = pair[1]? ∧ pair.find? (fun x => x.phys.addr == va) = pair[0]? := by
  unfold State.Quiet Hart.Unwatched; decide
theorem test_wit_RepliesAndGranules_sync : let s := blocked { base with tmFull := [4] } (.ldsync true 5 0x100 8 none)
    0x100 % 8 = 0 ∧ s.tmOk 0x100 8 = true ∧ setHas s.tmFull (0x100 / 64) = true ∧ s.tmPoisoned 0x100 8 = false ∧
    (blocked base (.ldsync false 5 0x400000 8 (some hit.2))).hart.status = .blocked (.ldsync false 5 0x400000 8 (some hit.2)) ∧
    Config.tmBytes ≤ (0x400000 : Word).toNat ∧ setHas { base with gmFull := [va / 64] }.gmFull (hit.2.addr / 64) = true := by
  decide
theorem test_wit_RepliesAndGranules_vldsync : let s := blocked { (vec base).setX 6 0x400000 with tmFull := [4] } (.vldsync true 4 6 0 pair)
    let t := blocked { vec base with tmFull := [4] } (.vldsync true 4 6 0 [])
    s.Quiet ∧ t.Quiet ∧ s.hart.status = .blocked (.vldsync true 4 6 0 pair) ∧ Config.tmBytes ≤ (s.opA 6).toNat ∧ pair ≠ [] ∧
    t.hart.status = .blocked (.vldsync true 4 6 0 []) ∧ (t.opA 6).toNat < Config.tmBytes ∧ t.actives 0 = [0, 1] ∧
    (∀ i ∈ t.actives 0, (t.opA 6 + BitVec.ofNat 64 (i * 4)).toNat % 4 = 0 ∧ t.tmOk (t.opA 6 + BitVec.ofNat 64 (i * 4)).toNat 4 = true) := by
  unfold State.Quiet Hart.Unwatched; decide

/-- An entry of the debug table that samples into a ring of 256 bytes at va. -/
def sampling : DbgEntry := ⟨5, false, false, true, 0, 0x400000, 256, 0⟩
def sampled : State :=
  { base with
    hart := { base.hart with dbg := [sampling] }
    tiles := [(0, { Tile.powerOn with vdid := some 0, tvec := 0x2000, traceAt := some (sampling, 32) })] }

theorem test_wit_WatchdogAndSample : let s := sampled
    s.hart.status = .running ∧ s.hart.priv = .p ∧ (atPriv s .s).hart.priv = .s ∧ s.traceEntry = some sampling ∧
    s.myVdev? = some dev ∧ 0 < sampling.len.toNat ∧ s.traceNext sampling % sampling.len.toNat + 32 ≤ sampling.len.toNat ∧
    (s.xlateRange (fun s a => s.xlateEngine dev .w a) (va + 32) 32).toOption.map (·.length) = some 1 ∧
    base.traceEntry = none ∧ base.saving = none := by decide

/-- The safe point of the process, and rank 3 ready at level 3 on its tile. -/
def point : SafeEntry := ⟨0xFFFFFFFF, 0xFFFFFFFF, 0xFF, 0x3F, 0xF, false, true, 8, 4, 0⟩
def next (restored : Bool) : Proc :=
  { proc with pid := ⟨1, 3⟩, status := .ready restored, level := 3, safeTab := [point], ctxphys := 0x500000 }
def crowded (restored : Bool) : State :=
  { base with
    procs := [next restored, { proc with safeTab := [point], ctxphys := 0x600000 }]
    tiles := [(0, { base.tile 0 with queue := (base.tile 0).queue.set 3 [⟨1, 3⟩] })] }
def idle (s : State) : State := { s with hart := { s.hart with status := .idle, pid := none } }

/-- The hart waits at its channel-wait safe point, and is wanted. -/
def waiting : State :=
  let s := blocked (crowded false) (.crd 1 2 0)
  { s with hart := { s.hart with chanWait := some 0 } }

theorem test_wit_HartDispatch : let s := idle (crowded false)
    s.hart.status = .idle ∧ (s.tile 0).leaving = false ∧ (s.nextReady 0).bind s.proc? = some (next false) ∧
    ((idle (crowded true)).nextReady 0).bind (idle (crowded true)).proc? = some (next true) ∧
    (idle base).nextReady 0 = none := by decide
theorem test_wit_HartDispatch_yield : let s := waiting
    s.hart.chanWait = some 0 ∧ (Wait.crd 1 2 0).yields = true ∧ (Wait.barrier 1).yields = false ∧ s.others = [] ∧
    (s.myProc?.map fun q => s.wanted q point) = some true ∧ (s.myProc?.map fun q => q.safeTab[0]?) = some (some point) ∧
    s.isBase s.hart = true := by decide
theorem test_wit_WatchdogAndSample_spans : waiting.saving.isSome = true ∧ (Wait.crd 1 2 0).yields = true ∧
    ((idle (crowded true)).nextReady 0).isSome = true := by decide

/-- A safe point at which x6 and v1 live. -/
def small : SafeEntry := { point with xlive := 0x40, vlive := 2, plive := 2, emlive := 0, slive := 0 }

theorem test_wit_ContextRoundTrip : let s := vec (crowded false); let h := s.hart
    h.vPois = [] ∧ h.xPois = 0 ∧ (∀ k : Fin 4, h.e[k].pois = false) ∧ (∀ k : Fin 2, h.m[k].pois = []) ∧
    (s.proc? ⟨1, 2⟩).isSome = true ∧ h.lanes < 256 ∧ h.vl.toNat ≤ vlmaxOf h.lanes h.vtype ∧
    vtLegal (h.vtype.setWidth 64) = true ∧ s.gmPois = [] ∧ (∀ k : Fin 4, h.streams[k] = none) ∧ s.MemOk := by
  unfold State.MemOk; decide
theorem test_wit_ContextRoundTrip_area : (layPieces ((vec (crowded false)).hart.pieces 0 small)).bytes.length ≤ Config.ctxAreaBytes := by
  decide +kernel

/-- The process of rank 3, saved at its safe point at TIME 7 with x6 and v1 live, with its hart's registers. -/
def saved : State :=
  let q := { next true with safeTab := [small] }
  let s := vec { crowded true with procs := [q] }
  idle { s.saveContext s.hart q 0 small with time := 9 }
theorem test_wit_HartDispatch_restore :
    ((saved.proc? ⟨1, 3⟩).map fun q => (saved.readArea q).ok q) = some true ∧
    ((saved.proc? ⟨1, 3⟩).map fun q => q.safeTab[field (saved.readArea q).pay 0 2]?) = some (some small) ∧
    ((saved.proc? ⟨1, 3⟩).map fun q => field (saved.readArea q).hdr 6 1) = some saved.hart.lanes ∧
    ((saved.proc? ⟨1, 3⟩).map fun q => decide (field (saved.readArea q).hdr 0x30 8 < saved.time.toNat)) = some true ∧
    (saved.proc? ⟨1, 3⟩).map (·.status) = some (.ready true) ∧ (saved.nextReady 0) = some ⟨1, 3⟩ := by decide +kernel
theorem test_wit_HartDispatch_unsealed : ((crowded true).readArea (next true)).ok (next true) = false := by decide +kernel

/-! ### The part itself -/

/-- A tile that holds a process, with one lane failed and an alarm standing since TIME 5. -/
def worn : State :=
  { base with
    time := 200000000
    tiles := [(0, { base.tile 0 with failures := 1, laneA := some 4, rebuilding := true, alarmAt := some 5, quarantined := true })] }
/-- A tile that is empty, retired and to be replaced. -/
def retired : State :=
  { base with procs := [], tiles := [(0, { base.tile 0 with health := .retired, retiring := true, quarantined := true })] }

theorem test_wit_TileHealth : worn.MemOk ∧ worn.power = .ready ∧ retired.power = .ready ∧ (worn.tile 0).failures = 1 ∧ (base.tile 0).failures = 0 ∧ (worn.tile 0).rebuilding = true ∧
    (worn.tile 0).alarmAt.any (fun w => decide (w.toNat + 100000000 ≤ worn.time.toNat)) = true ∧ (base.tile 0).alarmAt = none ∧
    (retired.tile 0).quarantined = true ∧ (retired.tile 0).health = .retired ∧ (retired.tile 0).outOfService = false ∧
    retired.procs = [] ∧ (base.tile 0).health ≠ .retired ∧
    (base.harts.filter fun h => decide (h.id.tile = 0 ∧ h.pid = some ⟨1, 2⟩)).length = 1 ∧ proc.live = true := by
  unfold State.MemOk; decide

theorem test_wit_TileHealth_third : let s := { base with tiles := [(0, { base.tile 0 with failures := 2, laneA := some 4, laneB := some 5 })] }
    s.MemOk ∧ s.power = .ready ∧ 2 ≤ (s.tile 0).failures := by unfold State.MemOk; decide
theorem test_wit_TileHealth_spare : retired.spareLeft (Config.islandOf 0) = true := by
  have h : retired.tiles = [(0, retired.tile 0)] := rfl
  have z : (retired.tile 0).subst = 0 := rfl
  simp [State.spareLeft, State.sparesUsed, h, z, sparesPerIsland]

def event (c : Nat) : LogEvent := ⟨77, 1, c, 5, 6, 7, 8, 9⟩

theorem test_wit_LogChain : (State.reset.log = [] ∧ State.reset.logEvents = [] ∧ State.reset.logNearFull = false) ∧
    3 ∉ [8, 12, 13, 14, 15, 18] ∧ { State.reset with logEvents := [event 3] }.logEvents = event 3 :: [] := by decide

def hot : Island := ⟨3, 3, 95, 1, 1, true, false, some 5⟩
theorem test_wit_PowerAndClock : let s := { base with time := 20000000, islands := [(2, hot)], powerLowered := [2], powerCool := some 5 }
    s.MemOk ∧ s.island 2 = hot ∧ 10 * hot.tgov ≤ 960 ∧ 960 < 1150 ∧ 900 < 10 * hot.tgov ∧ 3000000 < 3000001 ∧ 0 < hot.point ∧
    (5 : Word).toNat + 10000000 ≤ s.time.toNat ∧ s.powerLowered = [2] ∧ State.reset.power = .off ∧ s.power = .ready ∧
    base.power ≠ .off ∧ State.reset.power ≠ .ready ∧ base.ptp = .free ∧ timeGap 25 (7 : Word) ≤ 18 := by unfold State.MemOk; decide

/-! ### Launch -/

/-- An image of one rank with a kernel block of 16 bytes, and a launch message for it with the image at va. -/
def image : List Byte :=
  let body := leBytes 4 0 ++ leBytes 2 0 ++ leBytes 1 3 ++ leBytes 1 0 ++ leBytes 8 77 ++ leBytes 16 (2 ^ 128 - 1) ++
    (leBytes 8 192 ++ leBytes 4 16 ++ leBytes 4 40 ++ leBytes 4 4 ++ leBytes 4 0 ++ leBytes 8 192) ++
    (List.range 16).map (fun j => BitVec.ofNat 8 (j + 1))
  leBytes 4 0x4D4F4C48 ++ leBytes 4 1 ++ leBytes 8 208 ++ leBytes 4 1 ++ leBytes 4 0 ++ leBytes 4 0 ++ leBytes 4 1 ++
    leBytes 8 128 ++ leBytes 8 160 ++ leBytes 8 160 ++ leBytes 8 160 ++ leBytes 8 192 ++ leBytes 8 0 ++ sha256 body ++
    leBytes 16 0 ++ body
def message (flags : Nat) : List Byte :=
  leBytes 8 va ++ leBytes 4 9 ++ leBytes 4 flags ++ leBytes 8 0 ++ leBytes 8 (va + 0x2000) ++ leBytes 16 0 ++ leBytes 4 100 ++
    leBytes 12 0
/-- The device's tile is free, and the image lies at va. -/
def empty : State :=
  { base with procs := [], hart := { base.hart with status := .idle, pid := none }, gm := base.gm.store va image }

theorem test_wit_LaunchMessages_fault : base.MemOk ∧ base.vdev? 0 = some dev ∧
    (field (message 2) 0x0C 2).testBit 1 = true ∧ (field (message 2) 0x0C 2).testBit 2 = false ∧
    (field (message 0) 0x0C 2).testBit 1 = false ∧ (field (message 4) 0x0C 2).testBit 2 = true ∧
    (base.stageFault dev (message 2)).isSome = true ∧ (base.goFault dev (message 4)).isSome = true := by
  unfold State.MemOk; decide +kernel
/-- The message comes as the first on its connection. -/
theorem test_wit_LaunchMessages_turn : (base.openConn 9 0).conn? 9 = some ⟨9, 0, 0, 0, [], 0, [], [], 0⟩ ∧ base.power = .ready ∧
    dev.forwarding = false ∧ dev.doomed = [] ∧ base.holdsPeers 0 = false := by decide
/-- What a message is tested for but the room of a kernel block, which depends on the monitor's own bytes, a free value
(assumption log, 92). -/
theorem test_wit_LaunchMessages_staged : empty.rangesBad dev (empty.stageRanges dev (message 2)) = none ∧
    empty.imageAt dev va = image ∧ Image.fault image = none ∧ Image.nproc image = 1 ∧ empty.netHeld 9 = false ∧
    (empty.tile 0).open? = true ∧ empty.launchHeld 0 = false := by decide +kernel

/-- Network 9, staged here with its one rank. -/
def staged : State :=
  { base with
    nets := [{ net with netid := 9, nproc := 1, chans := [], entries := [0x100000000], rankCnt := 1, started := false }]
    procs := [{ proc with pid := ⟨9, 0⟩, status := .staged }] }
def going : List Byte := leBytes 8 0 ++ leBytes 4 9 ++ leBytes 4 4 ++ leBytes 8 0 ++ leBytes 8 (va + 0x2000) ++ leBytes 32 0

theorem test_wit_LaunchMessages_go : (field going 0x0C 2).testBit 2 = true ∧ (field going 0x0C 2).testBit 1 = false ∧
    staged.goFault dev going = none ∧ (staged.net? 9).isSome = true ∧
    (staged.proc? ⟨9, 0⟩).map (·.status) = some .staged ∧ 0 < 1 := by decide +kernel

/-- The launch channel with its token next and a slot behind it. -/
def lchan : Chan := { chan (.rank 0) (.host 0xFFFF) 0x100 5 4 (some 4) with ring := .host [] }
def launched : State := { staged with nets := [{ net with netid := 9, chans := [lchan], started := true }] }

theorem test_wit_LaunchEvents : launched.net? 9 = some { net with netid := 9, chans := [lchan], started := true } ∧
    launched.chan? 9 0 = some lchan ∧ lchan.token = some lchan.rd ∧ lchan.wr ≠ lchan.rd ∧
    { lchan with token := none }.token ≠ some lchan.rd ∧ net.startAt = none ∧ (staged.net? 9).any (!·.started) = true ∧
    base.net? 5 = none ∧ net.entries.length = net.nproc ∧ entryPlaced (net.entry 1) = true ∧
    (∀ d ∈ base.vdevs, d.waiting = []) := by decide
theorem test_wit_LaunchEvents_resume : let d := { dev with waiting := [⟨message 2, true, image, [[]]⟩] }
    let s := { empty with vdevs := [d] }
    s.power = .ready ∧ s.vdevs = [] ++ d :: [] ∧ s.vdev? d.vdid = some d ∧ d.waiting = ⟨message 2, true, image, [[]]⟩ :: [] ∧
    (field (message 2) 0x0C 2).testBit 2 = false ∧ base.power = .ready := by decide +kernel
theorem test_wit_LaunchEvents_exchange : let x : RankExchange := ⟨1, 1, [], 4, 2, [0x100000001]⟩
    let n := { net with rankLo := 0, rankCnt := 2 }
    x.digest = n.digest ∧ x.nproc = n.nproc ∧ ¬(n.rankLo ≤ x.rankLo + 0 ∧ x.rankLo + 0 < n.rankLo + n.rankCnt) ∧
    (net.rankLo ≤ 2 ∧ 2 < net.rankLo + net.rankCnt ∧ entryPlaced 0x100000001 = true) := by decide

/-- All four ranks are blocked or ended, since long before: rank 2 writes channel 2, which is full. -/
def stuck : State :=
  let pr := fun (k : Nat) (st : ProcStatus) => { ported with pid := ⟨1, k⟩, status := st, tile := k }
  { base with
    time := 100000, hart := { base.hart with status := .idle, pid := none }
    nets := [{ net with caddyVa := 0x400000, caddyLen := 0x1000 }]
    procs := [pr 0 (.ended .halt), pr 1 (.ended .halt), pr 2 (.switchedOut (.cwr 3 2)), pr 3 (.ended .halt)] }

theorem test_wit_SentinelAndCompletion : let s := stuck; let n := { net with caddyVa := 0x400000, caddyLen := 0x1000 }
    s.MemOk ∧ s.net? 1 = some n ∧ n.rankLo = 0 ∧ 0 < n.rankCnt ∧ n.deadlockTold = false ∧
    (∀ x ∈ s.standings n, x.2 = .ended ∨ x.2.blocked = true) ∧ ((s.standings n).filter fun x => x.2.blocked) ≠ [] ∧
    ((s.standings n).filterMap fun x => match x.2 with | .write c => some c | _ => none) = [2] ∧
    s.netPending n = false ∧ n.owed = false ∧ s.hostInvolved n = false ∧ n.changedAt.toNat + 50000 ≤ s.time.toNat ∧
    n.chans[2]?.map (·.k) = some 2 ∧ (n.caddyUsed + 63) / 64 * 64 + 2 * 2 ^ 8 ≤ n.caddyLen ∧ net.caddyLen < 2 * 2 ^ 8 ∧
    (s.engineRange dev .rw va 512).toOption.isSome = true ∧
    (base2.standings net).any (fun x => x.2 != .ended && !x.2.blocked) = true := by unfold State.MemOk; decide +kernel
/-- The same, with rank 2 reading channel 3, which is empty. -/
def starved : State :=
  { stuck with
    procs := stuck.procs.map fun (q : Proc) =>
      if q.pid.rank = 2 then { q with status := .switchedOut (.crd 3 0 3) } else q }
theorem test_wit_SentinelAndCompletion_reader : let n := { net with caddyVa := 0x400000, caddyLen := 0x1000 }
    ((starved.standings n).filterMap fun x => match x.2 with | .write c => some c | _ => none) = [] ∧
    ((starved.standings n).filter fun x => x.2.blocked) ≠ [] := by decide +kernel
theorem test_wit_SentinelAndCompletion_done :
    let n := { net with entries := [0x500000000, 0x500000000, 0x500000000, 0x500000000] }
    (∀ r < n.nproc, entryEnded (n.entry r) = true) ∧ stuck.netPending n = false ∧ dev.destroyTag = none := by decide +kernel

/-! ### The fabric and the host -/

theorem test_wit_FabricFailures : base.epLive 0 = true ∧ { base with liveEps := [1] }.epLive 0 = false ∧
    (∃ c ∈ ({ write with chunks := [⟨false, 0, va / 64, [⟨va, .tm 9, 0, 0, 0⟩]⟩] } : AsyncWrite).chunks, c.touches 0 = true) ∧
    hit.2.addr / Config.localBytes = 0 ∧
    (let s := blocked base (.ldsync false 5 0x400000 8 (some hit.2))
     s.hart.status = .blocked (.ldsync false 5 0x400000 8 (some hit.2)) ∧ s.hart.current = none ∧ s.asyncs = [] ∧
     ∀ h ∈ s.harts, h.priv = .p ∧ ∀ w, h.status = .blocked w → ∀ x, w ≠ .txEntry x) := by
  refine ⟨by decide, by decide, by decide, by decide, by decide, by decide, by decide, ?_⟩
  intro h hh
  have e : h = (blocked base (.ldsync false 5 0x400000 8 (some hit.2))).hart := by
    have z : (blocked base (.ldsync false 5 0x400000 8 (some hit.2))).others = [] := rfl
    rw [State.harts, z] at hh
    exact List.mem_singleton.mp hh
  subst e
  refine ⟨rfl, ?_⟩
  intro w hw x hx
  subst hx
  cases hw

def packet (op : PacketOp) : Packet := ⟨7, 0, 4, 0, 1, 0, va, op⟩
theorem test_wit_RequestPackets : let s := base
    s.MemOk ∧ (packet (.read 8)).dst / 4 = s.pkg ∧ s.power = .ready ∧ s.served = [] ∧ dev.keyMap[0]? = some 0 ∧ dev.keyMap[1]? = none ∧ s.vdev? 0 = some dev ∧
    dev.forwarding = false ∧ (⟨1, 0, 0, 2 ^ 30⟩ : Region) ∈ dev.regions ∧ va + 8 ≤ 2 ^ 30 ∧ ¬2 ^ 30 + 8 ≤ 2 ^ 30 ∧
    s.gmPoisoned ⟨va, 0, 0⟩ 8 = false ∧ { s with gmPois := [va / 64] }.gmPoisoned ⟨va, 0, 0⟩ 8 = true ∧
    { s with served := [⟨7, 0, 4, some [1]⟩] }.served.find? (fun (x : Served) => x.isOf (packet (.read 8))) = some ⟨7, 0, 4, some [1]⟩ ∧ s.vdev? 9 = none := by unfold State.MemOk; decide
theorem test_wit_RequestPackets_forwarding : let d := { dev with forwarding := true }
    { base with vdevs := [d] }.vdev? 0 = some d ∧ d.forwarding = true ∧ d.regions = [⟨1, 0, 0, 2 ^ 30⟩] := by decide

def conn : Conn := ⟨9, 0, 4, 7, [⟨5, 3, 3, none, [1]⟩], 0, [], [], 4⟩
/-- Channel 1 is produced by host endpoint 3. -/
def host : State :=
  { base with
    conns := [conn]
    nets := [{ net with chans := [chan (.rank 0) (.rank 2) 0x100 5 3 none, chan (.host 3) (.rank 2) 0x200 6 4 none] }] }

theorem test_wit_HostTransport : host.conns.find? (fun x => x.id == 9) = some conn ∧
    host.conns.find? (fun x => x.id == 5) = none ∧ conn.unacked ≠ [] ∧ { conn with unacked := [] }.unacked = [] ∧
    field (leBytes 2 0x4748 ++ leBytes 42 1) 0 2 = 0x4748 ∧ field (leBytes 44 0) 0 2 ≠ 0x4748 := by decide

def slot (seq : Nat) (pay : List Byte) : HostMsg := ⟨9, 0, 3, seq, pay⟩
theorem test_wit_HostMessages : let s := host
    s.MemOk ∧ s.power = .ready ∧ s.vdev? 0 = some dev ∧ conn.vdid = 0 ∧ (slot 5 [1, 2]).seq = conn.rxSeq + 1 ∧
    conn.held = [] ∧ (s.hostChan 0 3).isSome = true ∧ s.hostChan 0 9 = none ∧
    (s.hostChan 0 3).any (fun x => !x.2.2.closed && !x.1.writeWaits x.2.2 && !x.1.consumerEnded x.2.2 &&
      decide ([1, 2].length ≤ 2 ^ x.2.2.slotLog)) = true ∧
    (s.hostChan 0 3).map (·.2.1) = some 1 ∧ (s.hostChan 0 3).map (·.2.2.ring) = some (.tile 0 0x200) ∧
    (s.engineRange dev .w va 16).toOption.isSome = true ∧ (s.engineRange dev .w (2 ^ 40) 16).toOption = none ∧
    (s.engineRange dev .r va 8192).toOption.isSome = true := by unfold State.MemOk; decide +kernel
theorem test_wit_HostMessages_opens : base.conns = [] ∧ base.mayOpen 9 0 = true ∧
    { base with vdevs := [{ dev with macs := [] }] }.mayOpen 9 0 = false ∧ (field (message 2) 0x0C 2).testBit 1 = true := by decide
theorem test_wit_HostMessages_waits : let n := { net with chans := [chan (.host 3) (.rank 2) 0x200 8 4 none] }
    (n.chans[0]?).any n.writeWaits = true ∧ (slot 6 []).seq ≠ conn.rxSeq + 1 ∧
    { conn with held := [(2, slot 5 [])] }.held ≠ [] := by decide

/-- The copy of the device after the final swap goes on. -/
def leaving (s : State) : State := { s with migrations := [⟨0, 66, 2, 1, 5, .final, 3, 7, [], [(1, 0, 4)]⟩] }
theorem test_wit_HostMessages_moving : (∃ g ∈ (leaving host).migrations, g.vdid = 0 ∧ g.phase = .final) ∧
    (leaving host).conns.find? (fun x => x.id == 9) = some conn ∧ (slot 5 [1]).seq = conn.rxSeq + conn.held.length + 1 := by decide
theorem test_wit_RequestPackets_moving : (∃ g ∈ (leaving base).migrations, g.vdid = 0 ∧ g.phase = .final) ∧
    (leaving base).vdev? 0 = some dev ∧ dev.forwarding = false := by decide

/-! ### Requests -/

/-- A request of a code with a body, of the device or on the management MAC. -/
def request (code : Nat) (management : Bool) (body : List Byte) : HostRequest :=
  ⟨9, management, 0, leBytes 2 code ++ leBytes 2 0 ++ leBytes 4 77 ++ leBytes 4 body.length ++ leBytes 4 0 ++ body⟩
/-- No fault of the request itself. -/
def clean (r : HostRequest) : Bool := (base2.reqFault r).isNone

theorem test_wit_RefusedRequests : base2.MemOk ∧ base2.power = .ready ∧ field (request 32 false []).payload 0 2 = 32 ∧
    (request 32 false []).management = false ∧ field (request 1 true []).payload 0 2 = 1 ∧
    field ((request 1 false []).payload.set 2 1) 2 2 ≠ 0 ∧ (base2.vdev? 0).isSome = true ∧ base2.conns = [] ∧ base2.hears (request 1 false []) = true ∧
    field (request 15 false []).payload 0 2 = 15 ∧ clean (request 1 false (leBytes 8 0)) = true := by
  unfold State.MemOk; decide +kernel
theorem test_wit_SupervisorRequests : clean (request 1 false (leBytes 8 va)) = true ∧
    clean (request 4 false (leBytes 2 5 ++ leBytes 2 3 ++ leBytes 4 1 ++ leBytes 2 4 ++ leBytes 2 5 ++ leBytes 4 6)) = true ∧
    clean (request 9 false (leBytes 8 1)) = true ∧ clean (request 10 false (leBytes 4 1 ++ leBytes 4 2)) = true ∧
    clean (request 11 false (leBytes 2 0 ++ leBytes 6 3)) = true ∧
    clean (request 12 false (leBytes 4 1 ++ leBytes 4 1 ++ leBytes 8 2)) = true ∧
    clean (request 13 false (leBytes 2 0 ++ leBytes 6 1)) = true ∧ clean (request 14 false (leBytes 4 1 ++ leBytes 4 2)) = true ∧
    clean (request 8 false (leBytes 32 7)) = true ∧ base2.net? 1 = some net ∧ net.vdid = 0 ∧ dev.tiles[0]? = some 0 ∧
    dev.tiles[1]? = none ∧ base2.net? 3 = none ∧ base2.mcasts = [] := by decide +kernel

/-- A launch message of network 9 waits for room. -/
def waitingMsg : State := { base2 with vdevs := [{ dev with waiting := [⟨message 0, true, image, [[]]⟩] }] }
theorem test_wit_SupervisorRequests_waiting : waitingMsg.net? 9 = none ∧ field (message 0) 8 4 = 9 ∧
    (waitingMsg.vdev? 0).map (·.waiting) = some [⟨message 0, true, image, [[]]⟩] := by decide +kernel

/-- A create request for tile 3 with a region at endpoint 1, key slot 4 and a handler block of 4 KiB. -/
def creation : HostRequest :=
  request 32 true (leBytes 2 1 ++ leBytes 1 1 ++ leBytes 1 1 ++ leBytes 1 1 ++ leBytes 1 0 ++ leBytes 2 1 ++ leBytes 8 0x10000 ++
    leBytes 4 500 ++ leBytes 4 4096 ++ leBytes 4 4096 ++ leBytes 4 260 ++ leBytes 8 3 ++
    (leBytes 2 5 ++ leBytes 6 1 ++ leBytes 8 0x10000 ++ leBytes 16 0x10000) ++ leBytes 8 7 ++ leBytes 8 4 ++
    List.replicate 4096 1)
/-- The part with a key in slot 4. -/
def keyed : State := { base2 with keySlots := [(4, List.replicate 64 1)] }

theorem test_wit_ManagementRequests_create : let b := creation.payload.drop 16
    keyed.MemOk ∧ keyed.reqFault creation = none ∧ keyed.notFree b = none ∧ keyed.freeVdid = some 1 ∧
    base2.notFree b = some (4, 4) ∧ field b 5 1 = 0 := by unfold State.MemOk; decide +kernel
theorem test_wit_ManagementRequests : clean (request 33 true (leBytes 8 0)) = true ∧
    clean (request 34 true (leBytes 8 4 ++ leBytes 72 77)) = true ∧ clean (request 35 true (leBytes 8 4)) = true ∧
    clean (request 36 true (leBytes 32 8)) = true ∧ clean (request 37 true (leBytes 16 5)) = true ∧
    clean (request 38 true []) = true ∧ clean (request 39 true (leBytes 8 5 ++ leBytes 1 2 ++ leBytes 7 80)) = true ∧
    clean (request 40 true (leBytes 40 6)) = true ∧ clean (request 41 true (leBytes 8 6)) = true ∧
    clean (request 42 true (leBytes 9 7)) = true ∧ base2.vdev? 3 = none ∧ base2.migrations = [] ∧
    (∃ n ∈ base2.nets, n.vdid = 0) ∧ (∀ x ∈ base2.vdevs, 4 ∉ x.keyMap) ∧ base2.lastRead = base2.logNext := by decide +kernel

/-! ### Migration, checkpoints, restore -/

def moving : Migration := ⟨0, 66, 2, 1, 5, .stopping, 3, 7, [], []⟩
/-- No process of the device is on a hart, and a migration is under way. -/
def quiet : State :=
  { base2 with
    time := 5008, procs := [{ ported with status := .ready false }], migrations := [moving]
    hart := { base2.hart with status := .idle, pid := none } }

theorem test_wit_DeviceMigration : clean (request 2 false (leBytes 2 5 ++ leBytes 2 2 ++ leBytes 4 88)) = true ∧
    clean (request 3 false []) = true ∧ base2.migrations = [] ∧ base2.ckpts = [] ∧ dev.forwarding = false ∧ dev.peers = [] ∧
    quiet.migrations.find? (fun m => m.vdid == 0) = some moving ∧ moving.phase = .stopping ∧ quiet.vdev? 0 = some dev ∧
    (∀ q ∈ quiet.procs, q.status = .ready false ∧ quiet.exchOpen q.pid = false ∧ quiet.portableOff q = true) ∧ quiet.asyncs = [] ∧
    moving.stopAt.toNat + 1000 * moving.stoplim ≤ quiet.time.toNat ∧
    base.time.toNat < moving.stopAt.toNat + 1000 * moving.stoplim := by decide +kernel
theorem test_wit_DeviceMigration_holds : ∀ q ∈ quiet.procs, quiet.stopHolds q = true := by
  intro q h
  have e : quiet.exchOpen q.pid = false ∧ quiet.portableOff q = true :=
    (by decide +kernel : ∀ q ∈ quiet.procs, quiet.exchOpen q.pid = false ∧ quiet.portableOff q = true) q h
  simp [State.stopHolds, e.1, e.2]
theorem test_wit_DeviceMigration_copy : let g := { moving with phase := .rounds, copy := [(1, 3, 2)] }
    let h := { moving with phase := .rounds, copy := [], words := [(1, 0, 1)] }; let k := { moving with phase := .rounds }
    g.copy = (1, 3, 2) :: [] ∧ dev.regions.find? (fun r => r.id == 1) = some ⟨1, 0, 0, 2 ^ 30⟩ ∧ h.copy = [] ∧
    h.words = (1, 0, 1) :: [] ∧ k.copy = [] ∧ k.words = [] ∧ k.phase = .rounds ∧ 2 + k.rounds ≤ k.round ∧
    { k with round := 1 }.round < 2 + k.rounds ∧ { quiet with migrations := [g] }.migrations.find? (fun m => m.vdid == 0) = some g := by
  decide

def ckpt (ph : CkptPhase) : Ckpt := ⟨5, 9, 0, 33, 2, 0, [1], [(0x400000, 100)], 5, 0, 7, ph⟩

theorem test_wit_Checkpoints : let s := { quiet with migrations := [], ckpts := [ckpt .stopping] }
    clean (request 5 false (leBytes 8 5 ++ leBytes 8 9 ++ leBytes 2 4 ++ leBytes 1 0 ++ leBytes 1 1 ++ leBytes 1 1 ++ leBytes 3 0 ++
      leBytes 4 7 ++ leBytes 4 0 ++ leBytes 8 0 ++ leBytes 8 1 ++ leBytes 8 va ++ leBytes 8 100)) = true ∧
    clean (request 6 false (leBytes 8 5 ++ leBytes 8 9)) = true ∧ base2.ckpts = [] ∧ base2.shards = [] ∧
    s.ckpts.find? (fun x => decide (x.job = 5)) = some (ckpt .stopping) ∧
    (∀ q ∈ s.procs, q.status = .ready false ∧ s.stopHolds q = true) ∧
    (ckpt .stopping).startedAt.toNat + 1000 * (ckpt .stopping).qbound ≤ s.time.toNat ∧ (ckpt .copied).phase = .copied ∧
    (ckpt .quiesced).phase = .quiesced ∧ (ckpt .quiesced).step = 9 := by decide +kernel
theorem test_wit_Restores : clean (request 7 false (leBytes 8 5 ++ leBytes 2 6 ++ leBytes 6 1)) = true ∧
    (match base2.restoreTest 5 6 1 with | .error e => e | .ok _ => 0) = 1 ∧ base2.migrations = [] ∧
    quiet.migrations.any (fun m => m.vdid == dev.vdid) = true := by decide +kernel

/-! ### The spec's worked examples, one step each -/

/-- SEW 32, RC 32, with values in the first elements of v1. -/
def vals (l : List Nat) : State := { vec base with hart := { ((vec base).hart.setElems 32 1 l) with vl := BitVec.ofNat 17 l.length } }

-- R224: v1 holds 5, −2, 9, 0, −7, 3, 8, −1
def eight : State := vals [5, 0xFFFFFFFE, 9, 0, 0xFFFFFFF9, 3, 8, 0xFFFFFFFF]
def compared : State := after (exec (.vcmpGt 1 1 0 0 1) eight)
theorem test_vcmp_example : (List.range 8).map (compared.hart.pbit 1) = [true, false, true, false, false, true, true, false] := by
  decide +kernel
theorem test_vcomp_example : (List.range 4).map (fun i => (after (exec (.vcomp 2 1 1) compared)).hart.elem 32 2 i) = [5, 9, 3, 8] := by
  decide +kernel
theorem test_viota_example : (List.range 8).map (fun i => (after (exec (.viota 3 1) compared)).hart.elem 32 3 i) =
    [0, 1, 1, 2, 2, 2, 3, 4] := by decide +kernel
theorem test_pcnt_example : (after (exec (.pcnt 5 1 2) (after (exec (.pset 2 0) compared)))).x 5 = 4 := by decide +kernel

-- R78: VSADD, VSADDU and VADD at SEW 8
def bytes : State :=
  { base with hart := ({ base.hart with vtype := 0x40, vl := 1 }.setElem 8 1 0 100 |>.setElem 8 2 0 60 |>.setElem 8 3 0 0xF0 |>.setElem 8 4 0 0x20) }
theorem test_vsadd_example : (after (exec (.vsadd 5 1 2 0 0) bytes)).hart.elem 8 5 0 = 127 := by decide +kernel
theorem test_vsaddu_example : (after (exec (.vsaddu 5 3 4 0 0) bytes)).hart.elem 8 5 0 = 255 := by decide +kernel
theorem test_vadd_example : (after (exec (.vadd 5 3 4 0 0) bytes)).hart.elem 8 5 0 = 0x10 := by decide +kernel

-- VLSEG.WIDEN v4, [x10], 3 at SEW 16
def segments : State :=
  { base.setX 10 0x100 with
    tm := Memory.store [] 0x100 [0x05, 0xFB, 0x80, 0x10, 0x7F, 0x00]
    hart := { (base.setX 10 0x100).hart with vtype := 0x41, vl := 2 } }
theorem test_word_vlseg : decode 0xA48A006A#32 = some (.vlseg 4 10 0 1 2) := by decide
theorem test_vlseg_example : let t := after (exec (.vlseg 4 10 0 1 2) segments)
    [t.hart.elem 16 4 0, t.hart.elem 16 4 1, t.hart.elem 16 5 0, t.hart.elem 16 5 1, t.hart.elem 16 6 0, t.hart.elem 16 6 1] =
      [0x0005, 0x0010, 0xFFFB, 0x007F, 0xFF80, 0x0000] := by decide +kernel

-- Number formats: −6.5, 70,000 in FP16, block integers, 2^0.5, log2 8, 1/3
theorem test_round_example : (Fmt.round .fp16 (.mode 0) (Fmt.decode .fp64 0xC01A000000000000)).1 = 0xC680 ∧
    (Fmt.round .e4m3 (.mode 0) (Fmt.decode .fp64 0xC01A000000000000)).1 = 0xCD ∧
    Fmt.round .e5m2 (.mode 0) (Fmt.decode .fp64 0xC01A000000000000) = (0xC6, flagNX) := by decide +kernel
theorem test_overflow_example : Fmt.ofInt .fp16 (.mode 0) 70000 = (0x7C00, flagOF ||| flagNX) ∧
    Fmt.ofInt .fp16 (.mode 1) 70000 = (0x7BFF, flagOF ||| flagNX) := by decide +kernel
theorem test_block_example : (toBlockInt (.mode 0) 8 123 (Fmt.decode .fp32 0xC0D00000)).1 = 0x98 ∧
    (toBlockInt (.mode 0) 4 127 (Fmt.decode .fp32 0xC0D00000)).1 = 0xA := by decide +kernel
theorem test_exp2_example : Fmt.exp2 .fp16 (.mode 0) 0x3800 = (0x3DA8, flagNX) ∧ Fmt.log2 .fp32 (.mode 0) 0x41000000 = (0x40400000, 0) := by
  decide +kernel
theorem test_rcpe_example : (Fmt.rcpe .fp32 0x40400000).1 = 0x3EAAA000 := by decide +kernel

-- EADOT of 2^600 × 2^400, 1 × 1 and −2^600 × 2^400; EARND gives 1
theorem test_eadot_example : ((([Fmt.decode .fp64 0x7E70000000000000, Fmt.decode .fp64 0x3FF0000000000000,
    Fmt.decode .fp64 0xFE70000000000000].foldl LongAcc.addTerm LongAcc.zero)).round .fp64 (.mode 0)).1 = 0x3FF0000000000000 := by
  decide +kernel

-- MSHAPE of 64 by 64 by 256 on 8 lanes
def eightLanes : State :=
  let s := (base.setX 6 0x0037010000400040).setX 7 (-10)
  { s with hart := { s.hart with lanes := 8 } }
theorem test_mshape_example : (after (exec (.mshape 5 6 7) eightLanes)).x 5 = 0x0037010000400008 := by decide +kernel
theorem test_vlmaxq_example : (after (exec (.vlmaxq 9 5) (eightLanes.setX 5 0x21))).x 9 = 512 ∧
    (after (exec (.vlmaxq 9 5) (eightLanes.setX 5 0x61))).x 9 = 0 := by decide +kernel

theorem test_word_csrr : decode 0xFCE00001#32 = some (.csrr 7 1) ∧ decode 0xFC051009#32 = some (.csrw 5 9) := by decide

-- FIPS 197, 5.1.1 and 4.2: the S-box at 0x53, and two products
theorem test_aes_sub : aesSub 0x53 = 0xED ∧ aesSubInv 0xED = 0x53 ∧ aesTimes 0x57 0x83 = 0xC1 ∧ aesTimes 0x57 0x13 = 0xFE := by
  decide

/-! ### Witnesses of single clauses -/

theorem test_wit_OperandTraps_forms : let at_ := fun x : Word => (vec base).setX 6 x
    let e := fun (x : Word) k => (at_ x).x 6 + BitVec.ofNat 64 (k * 4)
    (at_ 0x2FFC).tmOk (e 0x2FFC 0).toNat 4 = true ∧ (at_ 0x2FFC).tmOk (e 0x2FFC 1).toNat 4 = false ∧ (e 0x2FFC 1).toNat % 4 = 0 ∧
    (at_ 0x101).segBad 4 16 2 = false ∧ (0x101 : Word).toNat % 2 ≠ 0 ∧ (at_ 0x3000).tmOk 0x3000 2 = false ∧
    (at_ 0x102).badGroup 8 = false ∧ ((at_ 0x102).x 6 + BitVec.ofNat 64 ((at_ 0x102).hart.elem 32 8 0)).toNat % 4 ≠ 0 ∧
    (at_ 0x102).x 8 = 3 ∧ (0x102 : Word).toNat % 64 ≠ 0 ∧ (0x3000 : Word).toNat % 64 = 0 ∧
    (at_ 0x3000).steepOver ((at_ 0x3000).rows 32) = false := by decide
theorem test_wit_OperandTraps_poison : let s := { (vec base).setX 6 0x104 with tmPois := [0x21] }; let t := s.setX 8 4
    s.MemOk ∧ s.hart.anyBinding = false ∧ s.hart.Unwatched ∧ s.hart.xPois = 0 ∧ s.hart.vPois = [] ∧ s.hart.priv = .p ∧
    s.hart.current = none ∧ 1 ∈ s.actives 0 ∧ s.badGroup 4 = false ∧ s.steepOver (s.rows s.sew) = false ∧
    (∀ k ∈ s.actives 0, (s.x 6 + BitVec.ofNat 64 (k * 4)).toNat % 4 = 0 ∧ s.tmOk (s.x 6 + BitVec.ofNat 64 (k * 4)).toNat 4 = true ∧
      t.x 6 + BitVec.ofNat 64 k * t.x 8 = s.x 6 + BitVec.ofNat 64 (k * 4)) ∧
    s.tmPoisoned (s.x 6 + BitVec.ofNat 64 (1 * 4)).toNat 4 = true ∧ (s.actives 0).filter (· < 1) = [0] ∧
    s.tmPoisoned (s.x 6 + BitVec.ofNat 64 (0 * 4)).toNat 4 = false ∧ s.badGroup 8 = false := by
  unfold State.MemOk Hart.Unwatched; decide
theorem test_wit_OperandTraps_spill : let s := base.setX 6 0x104; let t := { base.setX 6 0x108 with tmPois := [0x21] }
    s.Fit 1 [6] ∧ (s.x 6).toNat % 8 ≠ 0 ∧ (base.setX 6 0x3000).tmOk 0x3000 536 = false ∧
    t.tmOk (t.x 6).toNat 536 = true ∧ t.tmPoisoned (t.x 6).toNat 536 = true := by unfold State.Fit; decide
theorem test_wit_Channels_vector : let s := vec base2; let c := fun k => (net.chans[k]?).getD (chan (.rank 0) (.rank 0) 0 0 0 none)
    s.VReady (s.rows s.sew) [4] ∧ s.Quiet ∧ s.myChan 0 = at_ 0 ∧ s.chanBad 0 false = false ∧ s.chanBad 1 true = false ∧
    s.vlen * 4 ≤ (c 1).slotBytes ∧ (c 3).readable = false ∧ net.writeWaits (c 2) = true ∧ (c 2).closed = false ∧
    s.vlen * 4 ≤ (c 2).slotBytes ∧ (c 5).closed = true ∧ s.hart.current = none ∧
    (blocked s (.vcrd 4 1 0)).hart.status = .blocked (.vcrd 4 1 0) ∧ (blocked s (.vcwr 4 1)).hart.status = .blocked (.vcwr 4 1) ∧
    (blocked s (.vcwr 4 1)).Quiet ∧ (c 1).slotBytes < 8 * 9 ∧
    { s with hart := { s.hart with vl := 32 } }.vlen * 4 > (c 1).slotBytes := by
  unfold State.VReady State.Quiet Hart.Unwatched; decide
theorem test_wit_CsrWrites_privileged : let s := atPriv base .m
    s.hart.priv = .m ∧ s.hart.status = .running ∧ s.tileOccupied 0 = true ∧ { s with procs := [] }.tileOccupied 0 = false ∧
    4 * s.hart.id.front % 32 = 0 ∧ 4 * 1 % 32 ≠ 0 := by decide

/-- A request to endpoint 1, sent on plane 2 of die 0. -/
def asking : State := { base with outbound := [⟨7, 1, Config.localBytes + 64, 8, false, 0, 1, 2⟩] }
theorem test_wit_FabricFailures_moves : asking.pkg = 0 ∧ asking.power = .ready ∧
    (∃ o ∈ asking.outbound, o.src = 4 * asking.pkg + 0 ∧ o.plane = 2 ∧ o.addr / Config.localBytes = 1) ∧
    { asking with linksDown := [(0, 2)] }.planeUp 0 1 3 = true ∧ { asking with linksDown := [(0, 2)] }.planeUp 0 1 2 = false ∧
    { asking with switchesDown := [(1, 2)] }.planeUp 0 1 2 = false := by decide

/-- The package runs ranks 2 and 3 alone: rank 0 produces channels 0, 4 and 6 from elsewhere, and rank 1 takes channel 7. -/
def spread : State :=
  { base2 with
    nets := [{ net with
      rankLo := 2, rankCnt := 2
      chans := net.chans ++ [chan (.rank 0) (.rank 2) 0x100 8 4 none, { chan (.rank 2) (.rank 1) 0x200 5 4 none with ring := .host [[1]] }] }] }
theorem test_wit_RequestPackets_channels : let n := (spread.nets[0]?).getD net; let c := fun k => (n.chans[k]?).getD (chan (.rank 0) (.rank 0) 0 0 0 none)
    spread.net? (packet (.token 0)).netid = some n ∧ n.vdid = (packet (.token 0)).vdid ∧ n.mine 0 = false ∧ n.mine 1 = false ∧
    (c 0).prod = .rank 0 ∧ (c 0).closed = false ∧ [1, 2].length ≤ 2 ^ (c 0).slotLog ∧ n.writeWaits (c 0) = false ∧
    n.consumerEnded (c 0) = false ∧ (c 0).ring = .tile 0 0x100 ∧ (c 0).cons = .rank 2 ∧ (c 4).prod = .rank 0 ∧ (c 4).closed = true ∧
    (c 6).prod = .rank 0 ∧ (c 6).closed = false ∧ n.writeWaits (c 6) = true ∧ (c 7).cons = .rank 1 ∧ (c 7).ring = .host [[1]] ∧
    (c 1).cons = .rank 1 ∧ (c 1).ring = .tile 0 0x200 ∧ spread.served = [] ∧ spread.MemOk := by unfold State.MemOk; decide

/-- A frame of a class-2 message of the device's connection, with its number and FRAG field, and two bytes. -/
def frame (seq frag : Nat) : List Byte :=
  leBytes 2 0x4748 ++ leBytes 1 1 ++ leBytes 1 2 ++ leBytes 2 0 ++ leBytes 2 3 ++ leBytes 8 seq ++ leBytes 8 4 ++ leBytes 4 2 ++
    leBytes 2 frag ++ leBytes 2 0 ++ [8, 9]
theorem test_wit_HostTransport_frames : let f := frame 5 0x8000
    field f 0 2 = 0x4748 ∧ field f 2 1 = 1 ∧ field f 3 1 = 2 ∧ field f 0x1E 2 = 0 ∧ 32 + field f 0x18 4 ≤ f.length ∧ host.power ≠ .off ∧
    host.conns.find? (fun y => y.vdid == field f 4 2) = some conn ∧ host.conns.find? (fun z => z.id == conn.id) = some conn ∧
    field f 8 8 ≠ 0 ∧ field f 8 8 = conn.rxSeq + conn.held.length + 1 ∧ conn.frags = [] ∧ field f 0x1C 2 = 32768 + 0 ∧
    field (frame 5 0) 0x1C 2 < 32768 ∧ field (frame 0 0) 8 8 = 0 ∧ field (frame 4 0) 8 8 ≠ conn.rxSeq + conn.held.length + 1 ∧
    { conn with frags := [(0, false, [1])] }.frags.any (fun g => g.1 == field (frame 5 0) 0x1C 2 % 32768) = true := by decide

/-- The device has begun to stop. -/
def stopping : State := { base with migrations := [moving] }
theorem test_wit_LaunchMessages_held : stopping.launchHeld 0 = true ∧ base.launchHeld 0 = false ∧
    (stopping.openConn 9 0).conn? 9 = some ⟨9, 0, 0, 0, [], 0, [], [], 0⟩ := by decide
theorem test_wit_DeviceMigration_running : base2.procs.any (fun q => decide (q.status = .onHart ⟨0, 0⟩)) = true ∧
    ({ moving with phase := .final } : Migration).phase ≠ .stopping := by decide
theorem test_wit_ManagementRequests_hears : base2.hears creation = true ∧ base2.hears (request 35 true (leBytes 8 4)) = true ∧
    base2.hears (request 1 false (leBytes 8 0)) = true := by decide +kernel

end Sys2Proof.Tests.Slice0
end

section
/-! SUPPORT. Every function of the model keeps the memories canonical. `State.Kept` says that the two memories of a
state and the cells that its shards hold are canonical. Only a few functions write a memory, and for each of them a
law of `Memory` gives the claim; every other function is composed of functions before it. So there is one lemma per
function, in the order of the model, and it cites the lemmas of the functions that it calls; `grind` goes through the
branches between the calls. Where such a lemma is one line, the new state has the memories of the old. -/

namespace Sys2Proof.Machine
open State

/-- The memories that a step can change, and the cells of the chunks that checkpoints hold, are canonical. -/
structure CanonMems (tm gm : Memory) (shards : List Shard) : Prop where
  tm : tm.wf = true
  gm : gm.wf = true
  shards : ∀ x ∈ shards, ∀ k ∈ x.chunks, k.cells.wf = true

/-- The memories of a state are canonical. -/
def State.Kept (s : State) : Prop := CanonMems s.tm s.gm s.shards

/-- The state that an instruction answers with, where it answers with one. -/
def Out.Kept : Out → Prop
  | .next t => t.Kept
  | .fault _ => True
  | .refused _ => True

/-- The state in which the loop over the elements of a vector access ends. -/
def VEnd.Kept : VEnd → Prop
  | .done t => t.Kept
  | .stop t _ _ _ _ _ => t.Kept
  | .wait t => t.Kept

variable {s : State}

/-! ### How functions of a state are put together -/

theorem State.Kept.foldl {α : Type} {f : State → α → State} {l : List α} (hs : s.Kept)
    (hf : ∀ t a, t.Kept → (f t a).Kept) : (l.foldl f s).Kept :=
  List.foldlRecOn l f hs fun t ht a _ => hf t a ht

theorem State.Kept.foldl_fst {α β : Type} {f : State × β → α → State × β} {l : List α} {r : State × β}
    (hr : r.1.Kept) (hf : ∀ r a, r.1.Kept → (f r a).1.Kept) : (l.foldl f r).1.Kept :=
  List.foldlRecOn (motive := fun r : State × β => r.1.Kept) l f hr fun r hr a _ => hf r a hr

theorem State.Kept.getD {o : Option State} (hs : s.Kept) (ho : ∀ u, o = some u → u.Kept) : (o.getD s).Kept := by
  cases o with
  | none => exact hs
  | some u => exact ho u rfl

theorem State.Kept.ite {c : Prop} [Decidable c] {t : State} (hs : s.Kept) (ht : t.Kept) :
    (if c then s else t).Kept := by
  split <;> assumption

theorem State.Kept.withHart (hs : s.Kept) (h : Hart) : ({ s with hart := h }).Kept := hs
theorem State.Kept.withAsyncs (hs : s.Kept) (l : List AsyncWrite) : ({ s with asyncs := l }).Kept := hs
theorem State.Kept.withLastRead (hs : s.Kept) (n : Nat) : ({ s with lastRead := n }).Kept := hs

theorem State.Kept.reset : State.reset.Kept := ⟨rfl, rfl, by simp [State.reset]⟩

theorem Memory.wf_takeRange {base n : Nat} {from_ to_ : Memory} (h : to_.wf = true) :
    (Memory.takeRange base n from_ to_).wf = true :=
  Memory.wf_storeAll _ (Memory.wf_clear _ _ h)

theorem Memory.wf_foldl_write {α : Type} (l : List α) (k : α → Nat) (v : α → Byte) {m : Memory}
    (h : m.wf = true) : (l.foldl (fun m a => m.write (k a) (v a)) m).wf = true :=
  List.foldlRecOn (motive := fun m => Memory.wf m = true) l _ h fun _ hm _ _ => Memory.wf_write _ _ hm

theorem kept_of_findSome? {α : Type} {f : α → Option State} {l : List α} (h : ∀ a u, f a = some u → u.Kept) :
    ∀ u, l.findSome? f = some u → u.Kept := by
  intro u hu
  obtain ⟨a, -, ha⟩ := List.exists_of_findSome?_eq_some hu
  exact h a u ha

/-! ### Registers, memory, packets and marks of poison -/

theorem State.Kept.setX {r v} (hs : s.Kept) : (s.setX r v).Kept := by
  unfold State.setX
  grind [State.Kept]

theorem State.Kept.setPc {pc} (hs : s.Kept) : (s.setPc pc).Kept := hs

theorem State.Kept.advance (hs : s.Kept) : s.advance.Kept := by
  unfold State.advance
  grind [State.Kept, Kept.setPc]

theorem State.Kept.setTile {t v} (hs : s.Kept) : (s.setTile t v).Kept := hs

theorem State.Kept.mapHarts {f} (hs : s.Kept) : (s.mapHarts f).Kept := hs

theorem State.Kept.mapProc {p f} (hs : s.Kept) : (s.mapProc p f).Kept := hs

theorem State.Kept.mapNet {n f} (hs : s.Kept) : (s.mapNet n f).Kept := hs

theorem State.Kept.mapChan {n c f} (hs : s.Kept) : (s.mapChan n c f).Kept := hs

theorem State.Kept.mapVdev {v f} (hs : s.Kept) : (s.mapVdev v f).Kept := hs

theorem State.Kept.tmStoreKey {k bs} (hs : s.Kept) : (s.tmStoreKey k bs).Kept :=
  ⟨Memory.wf_store _ _ hs.tm, hs.gm, hs.shards⟩

theorem State.Kept.tmStore {a bs} (hs : s.Kept) : (s.tmStore a bs).Kept := hs.tmStoreKey

theorem State.Kept.logDirty {k n} (hs : s.Kept) : (s.logDirty k n).Kept := by
  unfold State.logDirty
  grind [State.Kept, Kept.foldl]

theorem State.Kept.rekey {key g} (hs : s.Kept) : (s.rekey key g).Kept := by
  unfold State.rekey
  split
  · exact hs
  · exact .ite hs ⟨hs.tm, Memory.wf_store _ _ hs.gm, hs.shards⟩

theorem State.Kept.gmStore {p bs} (hs : s.Kept) : (s.gmStore p bs).Kept := by
  obtain ⟨htm, hgm, hsh⟩ := hs.foldl (l := granulesOf p.addr bs.length) fun t g ht =>
    ht.rekey (key := t.slotKey p.slot) (g := g)
  exact Kept.logDirty ⟨htm, Memory.wf_store _ _ hgm, hsh⟩

theorem State.Kept.setTmFull {g b} (hs : s.Kept) : (s.setTmFull g b).Kept := hs

theorem State.Kept.setGmFull {g b} (hs : s.Kept) : (s.setGmFull g b).Kept := by
  unfold State.setGmFull
  grind [State.Kept, Kept.logDirty]

theorem State.Kept.report {vdid kind tag netid body} (hs : s.Kept) : (s.report vdid kind tag netid body).Kept := hs

theorem State.Kept.reportMgmtNet {kind tag netid body} (hs : s.Kept) : (s.reportMgmtNet kind tag netid body).Kept :=
  hs

theorem State.Kept.reportMgmt {kind tag body} (hs : s.Kept) : (s.reportMgmt kind tag body).Kept := hs

theorem State.Kept.fail {r} (hs : s.Kept) : (s.fail r).Kept := by
  unfold State.fail
  grind [State.Kept, Kept.report, Kept.reportMgmtNet]

theorem State.Kept.event {die cls source addr detail netid vdid} (hs : s.Kept) :
    (s.event die cls source addr detail netid vdid).Kept := hs

theorem State.Kept.kettleEvent {cls key detail netid} (hs : s.Kept) : (s.kettleEvent cls key detail netid).Kept := hs

theorem State.Kept.partialStoreEvent {g netid} (hs : s.Kept) : (s.partialStoreEvent g netid).Kept := by
  unfold State.partialStoreEvent
  grind [Kept.kettleEvent]

theorem State.Kept.sendPacket {src netid store w} (hs : s.Kept) : (s.sendPacket src netid store w).Kept := hs

theorem State.Kept.sendPackets {netid store ws} (hs : s.Kept) : (s.sendPackets netid store ws).Kept := by
  unfold State.sendPackets
  grind [State.Kept, Kept.sendPacket, Kept.foldl]

theorem State.Kept.sendReads {es n} (hs : s.Kept) : (s.sendReads es n).Kept := hs.sendPackets

theorem State.Kept.gotReply {p} (hs : s.Kept) : (s.gotReply p).Kept := hs

theorem State.Kept.packet {netid ws} (hs : s.Kept) : (s.packet netid ws).Kept := by
  unfold State.packet
  grind [State.Kept, Kept.sendPackets, Kept.partialStoreEvent, Kept.foldl]

theorem State.Kept.tileEvent {t cls lane addr detail netid} (hs : s.Kept) :
    (s.tileEvent t cls lane addr detail netid).Kept := hs

theorem State.Kept.poisonTm {w} (hs : s.Kept) : (s.poisonTm w).Kept := by
  unfold State.poisonTm
  grind [State.Kept, Kept.tileEvent]

theorem State.Kept.logGmPois {gs netid} (hs : s.Kept) : (s.logGmPois gs netid).Kept := by
  unfold State.logGmPois
  grind [Kept.kettleEvent, Kept.foldl]

theorem State.Kept.poisonGm {g netid} (hs : s.Kept) : (s.poisonGm g netid).Kept := by
  unfold State.poisonGm
  grind [State.Kept, Kept.kettleEvent]

/-! ### The log (R421 to R426) -/

theorem State.Kept.putSeal {kind} (hs : s.Kept) : (s.putSeal kind).Kept := hs

theorem State.Kept.putEntry {ev} (hs : s.Kept) : (s.putEntry ev).Kept := by
  unfold State.putEntry
  grind [State.Kept, Kept.putSeal]

theorem State.Kept.nearFull (hs : s.Kept) : s.nearFull.Kept := by
  unfold State.nearFull
  grind [State.Kept, Kept.putEntry]

theorem State.Kept.sealLog {kind} (hs : s.Kept) : (s.sealLog kind).Kept := hs.putSeal.nearFull

theorem State.Kept.writeEntry {ev} (hs : s.Kept) : (s.writeEntry ev).Kept := hs.putEntry.nearFull

theorem State.Kept.writeNext (hs : s.Kept) : s.writeNext.Kept := by
  unfold State.writeNext
  grind [State.Kept, Kept.writeEntry]

theorem State.Kept.writeAll (hs : s.Kept) : s.writeAll.Kept := by
  unfold State.writeAll
  grind [Kept.writeNext, Kept.foldl]

/-! ### Translation: table entries written by a walk or a use (R387 to R391) -/

theorem State.Kept.orLeaf {d t bits} (hs : s.Kept) : (s.orLeaf d t bits).Kept := by
  unfold State.orLeaf
  grind [Kept.gmStore]

theorem State.Kept.setAD {d n t} (hs : s.Kept) : (s.setAD d n t).Kept := hs.orLeaf

theorem State.Kept.touch {tile bank d va} (hs : s.Kept) : (s.touch tile bank d va).Kept := by
  unfold State.touch
  grind [Kept.setTile, Kept.orLeaf, Kept.foldl]

theorem State.Kept.useXlate {tile bank d n t} (hs : s.Kept) : (s.useXlate tile bank d n t).Kept := by
  unfold State.useXlate
  grind [Kept.orLeaf, Kept.setTile]

theorem State.Kept.laneTouch {lane va} (hs : s.Kept) : (s.laneTouch lane va).Kept := by
  unfold State.laneTouch
  grind [Kept.touch]

theorem State.Kept.myTouch {vas} (hs : s.Kept) : (s.myTouch vas).Kept := by
  unfold State.myTouch
  grind [Kept.laneTouch, Kept.foldl]

theorem State.Kept.laneUse {lane n t} (hs : s.Kept) : (s.laneUse lane n t).Kept := by
  unfold State.laneUse
  grind [Kept.useXlate]

theorem State.Kept.myUse {n t} (hs : s.Kept) : (s.myUse n t).Kept := hs.laneUse

theorem State.Kept.gmScatter {netid ps bs} (hs : s.Kept) : (s.gmScatter netid ps bs).Kept := by
  unfold State.gmScatter
  grind [Kept.gmStore, Kept.packet, Kept.foldl]

theorem State.Kept.gmStoreRange {l va bs} (hs : s.Kept) : (s.gmStoreRange l va bs).Kept := by
  unfold State.gmStoreRange
  grind [Kept.gmStore, Kept.foldl]

/-! ### Contexts in memory (R351 to R354) -/

theorem State.Kept.poisonAt {base offs netid} (hs : s.Kept) : (s.poisonAt base offs netid).Kept := by
  unfold State.poisonAt
  grind [Kept.poisonGm, Kept.foldl]

theorem State.Kept.saveContext {hh q idx e} (hs : s.Kept) : (s.saveContext hh q idx e).Kept := by
  unfold State.saveContext
  grind [Kept.gmStore, Kept.poisonAt, Kept.mapProc]

/-! ### Processes: queues, messages, asynchronous writers, dumps and endings -/

theorem State.Kept.enqueue {t p level head} (hs : s.Kept) : (s.enqueue t p level head).Kept := hs

theorem State.Kept.dequeue {t p} (hs : s.Kept) : (s.dequeue t p).Kept := hs

theorem State.Kept.wakeOne {q} (hs : s.Kept) : (s.wakeOne q).Kept := by
  unfold State.wakeOne
  grind [Kept.enqueue, Kept.mapProc]

theorem State.Kept.wakeReady (hs : s.Kept) : s.wakeReady.Kept := by
  unfold State.wakeReady
  grind [Kept.wakeOne, Kept.foldl]

theorem State.Kept.mapConn {c f} (hs : s.Kept) : (s.mapConn c f).Kept := hs

theorem State.Kept.sendTo {x m} (hs : s.Kept) : (s.sendTo x m).Kept := hs

theorem State.Kept.sendMsg {vdid cls ep chan payload} (hs : s.Kept) : (s.sendMsg vdid cls ep chan payload).Kept := hs

theorem State.Kept.sendSlot {vdid ep netid chan payload} (hs : s.Kept) :
    (s.sendSlot vdid ep netid chan payload).Kept := by
  unfold State.sendSlot
  grind [Kept.sendMsg]

theorem State.Kept.sendTokens {n rank} (hs : s.Kept) : (s.sendTokens n rank).Kept := by
  unfold State.sendTokens
  grind [Kept.sendSlot, Kept.foldl]

theorem State.Kept.sendCapture {q} (hs : s.Kept) : (s.sendCapture q).Kept := hs

theorem State.Kept.putTm {bs} (hs : s.Kept) : (s.putTm bs).Kept := by
  refine Kept.foldl ⟨Memory.wf_foldl_write _ _ _ hs.tm, hs.gm, hs.shards⟩ fun t u ht => ?_
  grind [State.Kept, Kept.poisonTm]

theorem State.Kept.putGm {slot netid bs} (hs : s.Kept) : (s.putGm slot netid bs).Kept := by
  unfold State.putGm
  grind [State.Kept, Kept.gmStore, Kept.poisonGm, Kept.partialStoreEvent, Kept.foldl]

theorem State.Kept.lostStore {ep a c} (hs : s.Kept) : (s.lostStore ep a c).Kept := by
  unfold State.lostStore
  grind [Kept.fail, Kept.foldl]

theorem State.Kept.lostSend {n g f} (hs : s.Kept) : (s.lostSend n g f).Kept := hs.fail

theorem State.Kept.loseSends {p lost gone} (hs : s.Kept) : (s.loseSends p lost gone).Kept := by
  unfold State.loseSends
  grind [State.Kept, Kept.lostSend, Kept.foldl]

theorem State.Kept.doChunk {netid c} (hs : s.Kept) : (s.doChunk netid c).Kept := by
  unfold State.doChunk
  grind [Kept.setTmFull, Kept.putTm, Kept.setGmFull, Kept.putGm]

theorem State.Kept.doBefore {netid point c} (hs : s.Kept) : (s.doBefore netid point c).Kept := by
  unfold State.doBefore
  grind [Kept.doChunk, Kept.putTm, Kept.putGm]

theorem State.Kept.stopCmds {f} (hs : s.Kept) : (s.stopCmds f).Kept := by
  unfold State.stopCmds
  grind [State.Kept, Kept.doBefore, Kept.foldl]

theorem State.Kept.resumeUse {d toTm bs} (hs : s.Kept) : (s.resumeUse d toTm bs).Kept := by
  unfold State.resumeUse
  grind [Kept.setAD, Kept.foldl]

theorem State.Kept.resumeCmds {f} (hs : s.Kept) : (s.resumeCmds f).Kept := by
  unfold State.resumeCmds
  grind [State.Kept, Kept.resumeUse, Kept.foldl]

theorem State.Kept.dropFlights {p} (hs : s.Kept) : (s.dropFlights p).Kept := hs

theorem State.Kept.coreDump {hh q} (hs : s.Kept) : (s.coreDump hh q).Kept := by
  unfold State.coreDump
  split
  · dsimp only
    split
    · exact hs.stopCmds.dropFlights.withAsyncs _
    · exact (hs.stopCmds.dropFlights.foldl fun _ _ ht => ht.setAD).withAsyncs _
  · exact hs

theorem State.Kept.settleCharge {p} (hs : s.Kept) : (s.settleCharge p).Kept := hs

theorem State.Kept.freeHarts {p} (hs : s.Kept) : (s.freeHarts p).Kept := by
  unfold State.freeHarts
  grind [State.Kept]

theorem State.Kept.barrierEnded {netid g member ranks} (hs : s.Kept) : (s.barrierEnded netid g member ranks).Kept :=
  hs

theorem State.Kept.endBarrier {netid g q gone} (hs : s.Kept) : (s.endBarrier netid g q gone).Kept := by
  unfold State.endBarrier
  grind [Kept.mapNet, Kept.barrierEnded]

theorem State.Kept.endGroups {netid rank} (hs : s.Kept) : (s.endGroups netid rank).Kept := by
  unfold State.endGroups
  grind [Kept.endBarrier, Kept.foldl]

theorem State.Kept.finishProc {q r cause val} (hs : s.Kept) : (s.finishProc q r cause val).Kept := by
  unfold State.finishProc
  grind [Kept.sendCapture, Kept.mapProc, Kept.settleCharge, Kept.sendTokens, Kept.mapNet, Kept.freeHarts,
    Kept.dequeue, Kept.report, Kept.wakeReady, Kept.endGroups]

theorem State.Kept.endProc {p r cause val} (hs : s.Kept) : (s.endProc p r cause val).Kept := by
  unfold State.endProc
  grind [Kept.coreDump, Kept.finishProc]

/-! ### Traps, their returns and the gates of an instruction -/

theorem State.Kept.trapAtS {t} (hs : s.Kept) : (s.trapAtS t).Kept := by
  unfold State.trapAtS
  grind [State.Kept, Kept.report, Kept.endProc, Kept.mapHarts]

theorem State.Kept.trapAtM {t} (hs : s.Kept) : (s.trapAtM t).Kept := by
  unfold State.trapAtM
  grind [State.Kept, Kept.reportMgmt, Kept.reportMgmtNet, Kept.report, Kept.endProc, Kept.mapHarts]

theorem State.Kept.takeTrap {t} (hs : s.Kept) : (s.takeTrap t).Kept := by
  unfold State.takeTrap
  grind [State.Kept, Kept.trapAtS, Kept.trapAtM]

theorem State.Kept.trap {cause val} (hs : s.Kept) : (s.trap cause val).Kept := hs.takeTrap

theorem State.Kept.trapAfter {cause val elem tmap} (hs : s.Kept) : (s.trapAfter cause val elem tmap).Kept :=
  hs.advance.takeTrap

theorem State.Kept.stopWith {shadow w xa xb cause val elem prog tdone} (hs : s.Kept) :
    (s.stopWith shadow w xa xb cause val elem prog tdone).Kept := hs.takeTrap

theorem State.Kept.stopAt {w xa xb cause val elem prog tdone} (hs : s.Kept) :
    (s.stopAt w xa xb cause val elem prog tdone).Kept := hs.stopWith

theorem State.Kept.eretS (hs : s.Kept) : s.eretS.Kept := hs

theorem State.Kept.eretM (hs : s.Kept) : s.eretM.Kept := hs

theorem State.Kept.count {u} (hs : s.Kept) : (s.count u).Kept := by
  unfold State.count
  grind [State.Kept, Kept.mapProc]

theorem State.Kept.uncount {u} (hs : s.Kept) : (s.uncount u).Kept := by
  unfold State.uncount
  grind [State.Kept, Kept.mapProc]

theorem State.Kept.issue {w g body} (hs : s.Kept)
    (hbody : ∀ t, t.Kept → (body t).Kept) : (s.issue w g body).Kept := by
  unfold State.issue
  grind [Kept.trap, Kept.count]

theorem State.Kept.issueX {w g reads body} (hs : s.Kept)
    (hbody : ∀ t, t.Kept → (body t).Kept) : (s.issueX w g reads body).Kept := by
  unfold State.issueX
  grind [Kept.issue, Kept.trap]

theorem State.Kept.scalar {w reads d v} (hs : s.Kept) : (s.scalar w reads d v).Kept := by
  unfold State.scalar
  grind [Kept.issueX, Kept.advance, Kept.setX]

theorem State.Kept.block {w} (hs : s.Kept) : (s.block w).Kept := hs

theorem State.Kept.unblock (hs : s.Kept) : s.unblock.Kept := hs

/-! ### Trace records (R473) -/

theorem State.Kept.traceWrite {d rec} (hs : s.Kept) : (s.traceWrite d rec).Kept := by
  unfold State.traceWrite
  grind [State.Kept, Kept.setTile]

theorem State.Kept.trace {kind stopped width elems} (hs : s.Kept) : (s.trace kind stopped width elems).Kept := by
  unfold State.trace
  grind [Kept.traceWrite]

theorem State.Kept.gbytes {n} (hs : s.Kept) : (s.gbytes n).Kept := by
  unfold State.gbytes
  grind [Kept.mapProc]

/-! ### Strips of streams and the loop over elements -/

theorem State.Kept.useStrip {b} (hs : s.Kept) : (s.useStrip b).Kept := by
  unfold State.useStrip
  grind [Kept.myUse, Kept.foldl]

theorem State.Kept.touchStrips {srcs dsts} (hs : s.Kept) : (s.touchStrips srcs dsts).Kept := hs.myTouch

theorem State.Kept.reissued {u} (hs : s.Kept) : (s.reissued u).Kept := hs.uncount

theorem State.Kept.moveOn {p} (hs : s.Kept) : (s.moveOn p).Kept := hs

theorem State.Kept.popStrip {p} (hs : s.Kept) : (s.popStrip p).Kept := by
  unfold State.popStrip
  grind [State.Kept, Kept.useStrip, Kept.moveOn, Kept.gbytes, Kept.trace]

theorem State.Kept.appendStrip {p} (hs : s.Kept) : (s.appendStrip p).Kept := by
  unfold State.appendStrip
  grind [Kept.packet, Kept.useStrip, Kept.gmStore, Kept.moveOn, Kept.gbytes, Kept.trace, Kept.foldl]

theorem State.Kept.closeStrips {st} (hs : s.Kept) : (s.closeStrips st).Kept := by
  unfold State.closeStrips
  grind [Kept.appendStrip, Kept.popStrip, Kept.foldl]

theorem State.Kept.holdStrips {st} (hs : s.Kept) : (s.holdStrips st).Kept := by
  unfold State.holdStrips
  grind [Kept.block]

theorem State.Kept.stopBefore {t} (hs : s.Kept) : (s.stopBefore t).Kept := by
  unfold State.stopBefore
  grind [VEnd.Kept]

theorem State.Kept.spin {w} (hs : s.Kept) : (s.spin w).Kept := hs

theorem State.Kept.holdLeave {w} (hs : s.Kept) : (s.holdLeave w).Kept := by
  unfold State.holdLeave
  grind [State.Kept]

theorem State.Kept.vgo {v body} (hs : s.Kept)
    (hbody : ∀ t a, t.Kept → (body t a).Kept) : (s.vgo v body).Kept := by
  unfold State.vgo
  grind [Kept.touchStrips, Kept.stopAt, Kept.block, Kept.sendReads, Kept.holdLeave, Kept.spin, Kept.advance,
    Kept.closeStrips, Kept.stopWith, Kept.holdStrips, VEnd.Kept]

theorem State.Kept.vrun {v body} (hs : s.Kept)
    (hbody : ∀ t a, t.Kept → (body t a).Kept) : (s.vrun v body).Kept := by
  unfold State.vrun
  grind [Kept.issue, Kept.vgo]

theorem State.Kept.mrun {v matrix body} (hs : s.Kept)
    (hbody : ∀ t a, t.Kept → (body t a).Kept) : (s.mrun v matrix body).Kept := by
  unfold State.mrun
  grind [Kept.issue, Kept.vgo]

theorem State.Kept.raise {f} (hs : s.Kept) : (s.raise f).Kept := hs

theorem State.Kept.elemLoop {pois dw d f l fl} (hs : s.Kept) : (s.elemLoop pois dw d f l fl).Kept := by
  induction l generalizing s fl with
  | nil => exact hs.raise
  | cons i l ih => grind [State.elemLoop, State.Kept, Kept.raise, VEnd.Kept]

theorem State.Kept.predLoop {pois d f l fl} (hs : s.Kept) : (s.predLoop pois d f l fl).Kept := by
  induction l generalizing s fl with
  | nil => exact hs.raise
  | cons i l ih => grind [State.predLoop, State.Kept, Kept.raise, VEnd.Kept]

theorem State.Kept.stopZero {t} (hs : s.Kept) : (s.stopZero t).Kept := by
  unfold State.stopZero
  grind [VEnd.Kept]

theorem State.Kept.vvBin {word d a b p sc vcfg f} (hs : s.Kept) : (s.vvBin word d a b p sc vcfg f).Kept := by
  unfold State.vvBin
  grind [Kept.vrun, Kept.elemLoop]

theorem State.Kept.vvCmp {word d a b p sc f} (hs : s.Kept) : (s.vvCmp word d a b p sc f).Kept := by
  unfold State.vvCmp
  grind [Kept.vrun, Kept.predLoop]

theorem State.Kept.vvUn {word d a p vcfg f} (hs : s.Kept) : (s.vvUn word d a p vcfg f).Kept := by
  unfold State.vvUn
  grind [Kept.vrun, Kept.elemLoop]

/-! ### Channels (R22 to R30) -/

theorem State.Kept.caddyUse {n c i need} (hs : s.Kept) : (s.caddyUse n c i need).Kept := by
  unfold State.caddyUse
  grind [Kept.setAD, Kept.foldl]

theorem State.Kept.slotWrite {n idx c i bs} (hs : s.Kept) : (s.slotWrite n idx c i bs).Kept := by
  unfold State.slotWrite
  grind [Kept.tmStoreKey, Kept.gmScatter, Kept.caddyUse, Kept.mapChan, Kept.sendSlot]

theorem State.Kept.chanPut {netid idx bs} (hs : s.Kept) : (s.chanPut netid idx bs).Kept := by
  unfold State.chanPut
  grind [Kept.slotWrite, Kept.mapChan, Kept.wakeReady, Kept.mapNet]

theorem State.Kept.chanTake {netid idx} (hs : s.Kept) : (s.chanTake netid idx).Kept := by
  unfold State.chanTake
  grind [Kept.mapChan, Kept.wakeReady, Kept.mapNet]

theorem State.Kept.chanClose {netid idx} (hs : s.Kept) : (s.chanClose netid idx).Kept := by
  unfold State.chanClose
  grind [Kept.mapChan, Kept.sendSlot, Kept.wakeReady, Kept.mapNet]

theorem State.Kept.trapElem {cause val elem} (hs : s.Kept) : (s.trapElem cause val elem).Kept := hs.takeTrap

theorem State.Kept.setPred {n v} (hs : s.Kept) : (s.setPred n v).Kept := hs

theorem State.Kept.crdGo {w port pe regs} (hs : s.Kept) : (s.crdGo w port pe regs).Kept := by
  unfold State.crdGo
  grind [Kept.block, Kept.advance, Kept.setPred, Kept.setX, Kept.caddyUse, Kept.trapElem, Kept.chanTake, Kept.foldl]

theorem State.Kept.cwrGo {w port regs} (hs : s.Kept) : (s.cwrGo w port regs).Kept := by
  unfold State.cwrGo
  grind [Kept.trap, Kept.trapElem, Kept.block, Kept.advance, Kept.chanPut]

theorem State.Kept.ccloseGo {port} (hs : s.Kept) : (s.ccloseGo port).Kept := by
  unfold State.ccloseGo
  grind [Kept.trap, Kept.block, Kept.advance, Kept.chanClose]

theorem execCrd_kept {d pe port} (hs : s.Kept) : (execCrd d pe port s).Kept := by
  unfold execCrd
  grind [Kept.issue, Kept.crdGo, Out.Kept]

theorem execCrdm_kept {d pe port k} (hs : s.Kept) : (execCrdm d pe port k s).Kept := by
  unfold execCrdm
  grind [Kept.issue, Kept.crdGo, Out.Kept]

theorem execCwr_kept {a port} (hs : s.Kept) : (execCwr a port s).Kept := by
  unfold execCwr
  grind [Kept.issue, Kept.cwrGo, Out.Kept]

theorem execCwrm_kept {a port k} (hs : s.Kept) : (execCwrm a port k s).Kept := by
  unfold execCwrm
  grind [Kept.issue, Kept.cwrGo, Out.Kept]

theorem execCclose_kept {port} (hs : s.Kept) : (execCclose port s).Kept := by
  unfold execCclose
  grind [Kept.issue, Kept.ccloseGo, Out.Kept]

theorem State.Kept.vcrdGo {d pe port} (hs : s.Kept) : (s.vcrdGo d pe port).Kept := by
  unfold State.vcrdGo
  grind [State.Kept, Kept.vgo, Kept.stopZero, Kept.block, Kept.setPred, Kept.caddyUse, Kept.chanTake, VEnd.Kept]

theorem State.Kept.vcwrGo {a port} (hs : s.Kept) : (s.vcwrGo a port).Kept := by
  unfold State.vcwrGo
  grind [Kept.vgo, Kept.stopZero, Kept.block, Kept.chanPut, VEnd.Kept]

theorem State.Kept.vchan {v port write go} (hs : s.Kept)
    (hgo : ∀ t, t.Kept → (go t).Kept) : (s.vchan v port write go).Kept := by
  unfold State.vchan
  grind [Kept.issue, Out.Kept]

theorem execVcrd_kept {d pe port} (hs : s.Kept) : (execVcrd d pe port s).Kept := by
  unfold execVcrd
  grind [Kept.vchan, Kept.vcrdGo]

theorem execVcwr_kept {a port} (hs : s.Kept) : (execVcwr a port s).Kept := by
  unfold execVcwr
  grind [Kept.vchan, Kept.vcwrGo]

theorem execChannelReadUnblock_kept (hs : s.Kept) : (execChannelReadUnblock s).Kept := by
  unfold execChannelReadUnblock
  grind [Kept.crdGo, Kept.unblock, Kept.vcrdGo, Out.Kept]

theorem execChannelWriteUnblock_kept (hs : s.Kept) : (execChannelWriteUnblock s).Kept := by
  unfold execChannelWriteUnblock
  grind [Kept.cwrGo, Kept.unblock, Kept.vcwrGo, Kept.ccloseGo, Out.Kept]

/-! ### Scheduling, evacuation and safe points -/

theorem State.Kept.switchOut {q n e st} (hs : s.Kept) : (s.switchOut q n e st).Kept := by
  unfold State.switchOut
  grind [Kept.saveContext, Kept.freeHarts, Kept.mapProc]

theorem State.Kept.logMoved {t ws} (hs : s.Kept) : (s.logMoved t ws).Kept := by
  unfold State.logMoved
  grind [Kept.tileEvent, Kept.foldl]

theorem State.Kept.copyTm {t dest r} (hs : s.Kept) : (s.copyTm t dest r).Kept :=
  Kept.logMoved ⟨Memory.wf_storeAll _ (Memory.wf_clear _ _ hs.tm), hs.gm, hs.shards⟩

theorem State.Kept.loseReads {p t} (hs : s.Kept) : (s.loseReads p t).Kept := by
  unfold State.loseReads
  grind [State.Kept, Kept.lostStore, Kept.loseSends, Kept.foldl]

theorem State.Kept.relocate {p dest} (hs : s.Kept) : (s.relocate p dest).Kept := by
  unfold State.relocate
  grind [State.Kept, Kept.loseReads, Kept.endProc, Kept.stopCmds, Kept.settleCharge, Kept.copyTm, Kept.mapNet,
    Kept.mapProc, Kept.dequeue, Kept.resumeCmds, Kept.enqueue, Kept.foldl]

theorem State.Kept.evacuate {t} (hs : s.Kept) : (s.evacuate t).Kept := by
  unfold State.evacuate
  grind [Kept.relocate, Kept.foldl]

theorem State.Kept.switchAt {q n e a4} (hs : s.Kept) : (s.switchAt q n e a4).Kept := by
  unfold State.switchAt
  grind [Kept.enqueue, Kept.switchOut, Kept.relocate]

theorem State.Kept.occupy {q hh} (hs : s.Kept) : (s.occupy q hh).Kept := hs

theorem State.Kept.logRestored (hs : s.Kept) : s.logRestored.Kept := by
  unfold State.logRestored
  grind [Kept.tileEvent, Kept.foldl]

theorem State.Kept.arrived {p} (hs : s.Kept) : (s.arrived p).Kept := hs

theorem State.Kept.restoreOn {q} (hs : s.Kept) : (s.restoreOn q).Kept := by
  unfold State.restoreOn
  grind [Kept.endProc, Kept.mapProc, Kept.logRestored, Kept.arrived, Kept.occupy]

theorem State.Kept.takeNext (hs : s.Kept) : s.takeNext.Kept := by
  unfold State.takeNext
  grind [Kept.occupy, Kept.restoreOn]

theorem State.Kept.yieldHart {w} (hs : s.Kept) : (s.yieldHart w).Kept := by
  unfold State.yieldHart
  grind [Kept.switchOut, Kept.wakeReady, Kept.evacuate]

theorem execHartDispatch_kept (hs : s.Kept) : (execHartDispatch s).Kept := by
  unfold execHartDispatch
  grind [Kept.takeNext, Kept.evacuate, Kept.yieldHart, Out.Kept]

/-! ### Faults of the silicon, spares and power (R413 to R436) -/

theorem State.Kept.setIsland {i x} (hs : s.Kept) : (s.setIsland i x).Kept := hs

theorem State.Kept.repoint {i} (hs : s.Kept) : (s.repoint i).Kept := hs

theorem State.Kept.whenOn {f} (hs : s.Kept)
    (hf : ∀ t, t.Kept → (f t).Kept) : (s.whenOn f).Kept := by
  unfold State.whenOn
  grind

theorem State.Kept.setHealth {t hh} (hs : s.Kept) : (s.setHealth t hh).Kept := by
  unfold State.setHealth
  grind [Kept.tileEvent, Kept.repoint, Kept.setTile]

theorem State.Kept.settle {t} (hs : s.Kept) : (s.settle t).Kept := by
  unfold State.settle
  grind [Kept.setHealth]

theorem State.Kept.retire {t} (hs : s.Kept) : (s.retire t).Kept := by
  unfold State.retire
  grind [Kept.settle, Kept.evacuate, Kept.setTile]

theorem State.Kept.drain {t} (hs : s.Kept) : (s.drain t).Kept := hs.setHealth.evacuate

theorem State.Kept.reportLane {t lane failures} (hs : s.Kept) : (s.reportLane t lane failures).Kept := by
  unfold State.reportLane
  grind [Kept.report]

theorem State.Kept.poisonRow {t row lane} (hs : s.Kept) : (s.poisonRow t row lane).Kept := hs

theorem State.Kept.poisonGroup {hh row lane} (hs : s.Kept) : (s.poisonGroup hh row lane).Kept := hs

theorem State.Kept.poisonRows {t lanes} (hs : s.Kept) : (s.poisonRows t lanes).Kept := by
  unfold State.poisonRows
  grind [Kept.poisonRow, Kept.foldl]

theorem State.Kept.loseHarts {t} (hs : s.Kept) : (s.loseHarts t).Kept := by
  unfold State.loseHarts
  grind [Kept.endProc, Kept.loseReads, Kept.foldl]

theorem State.Kept.stopTile {t} (hs : s.Kept) : (s.stopTile t).Kept := hs.loseHarts.retire

theorem State.Kept.expel {t} (hs : s.Kept) : (s.expel t).Kept := hs.setTile.retire

theorem State.Kept.failLane {tile n} (hs : s.Kept) : (s.failLane tile n).Kept := by
  fun_cases State.failLane s tile n
  all_goals grind [Kept.setTile, Kept.tileEvent, Kept.reportLane, Kept.setHealth, Kept.poisonRows, Kept.drain,
    Kept.expel]

theorem execLaneFailure_kept {tile part} (hs : s.Kept) : (execLaneFailure tile part s).Kept := by
  unfold execLaneFailure
  grind [Kept.whenOn, Kept.stopTile, Kept.failLane, Out.Kept]

theorem execLaneRebuildComplete_kept {tile} (hs : s.Kept) : (execLaneRebuildComplete tile s).Kept := by
  unfold execLaneRebuildComplete
  grind [Kept.whenOn, Kept.setTile, Out.Kept]

theorem State.Kept.tmFinding {f} (hs : s.Kept) : (s.tmFinding f).Kept := by
  unfold State.tmFinding
  grind [State.Kept, Kept.tileEvent]

theorem execTmScrubPass_kept {found} (hs : s.Kept) : (execTmScrubPass found s).Kept := by
  unfold execTmScrubPass
  grind [Kept.whenOn, Kept.tmFinding, Kept.foldl, Out.Kept]

theorem State.Kept.gmFinding {f} (hs : s.Kept) : (s.gmFinding f).Kept := by
  unfold State.gmFinding
  grind [State.Kept, Kept.kettleEvent]

theorem execDramScrubPass_kept {found} (hs : s.Kept) : (execDramScrubPass found s).Kept := by
  unfold execDramScrubPass
  grind [Kept.whenOn, Kept.gmFinding, Kept.foldl, Out.Kept]

theorem State.Kept.noteHits {t row lanes} (hs : s.Kept) : (s.noteHits t row lanes).Kept := hs

theorem State.Kept.failHit {t lane} (hs : s.Kept) : (s.failHit t lane).Kept := by
  unfold State.failHit
  grind [Kept.failLane]

theorem State.Kept.rowParity {t row lanes} (hs : s.Kept) : (s.rowParity t row lanes).Kept := by
  unfold State.rowParity
  grind [Kept.poisonRow, Kept.tileEvent, Kept.failHit, Kept.noteHits, Kept.foldl]

theorem State.Kept.sliceParity {t row} (hs : s.Kept) : (s.sliceParity t row).Kept := by
  unfold State.sliceParity
  grind [Kept.tileEvent, Kept.poisonRow]

theorem State.Kept.accError {hh b elem correctable} (hs : s.Kept) : (s.accError hh b elem correctable).Kept := by
  unfold State.accError
  grind [Kept.tileEvent, Kept.mapHarts]

theorem State.Kept.onCheck {s₀ k f} (hs : s.Kept)
    (hf : ∀ t a, t.Kept → (f t a).Kept) : (s.onCheck s₀ k f).Kept := by
  unfold State.onCheck
  grind

theorem State.Kept.upset {s₀ a2} (hs : s.Kept) : (s.upset s₀ a2).Kept := by
  unfold State.upset
  grind [Kept.rowParity, Kept.sliceParity, Kept.onCheck, Kept.tileEvent, Kept.failLane, Kept.poisonGroup,
    Kept.accError, Kept.tmFinding, Kept.gmFinding]

theorem State.Kept.silicon {s₀} (hs : s.Kept) : (s.silicon s₀).Kept := by
  unfold State.silicon
  cases Config.silicon s.ticks with
  | none => exact .ite hs hs
  | some u => exact .ite hs.upset hs

theorem execLogEntryWrite_kept (hs : s.Kept) : (execLogEntryWrite s).Kept := hs.writeNext

theorem State.Kept.ageTile {t} (hs : s.Kept) : (s.ageTile t).Kept := by
  unfold State.ageTile
  grind [Kept.setHealth, Kept.drain, Kept.retire]

theorem State.Kept.chargeTile {t} (hs : s.Kept) : (s.chargeTile t).Kept := by
  unfold State.chargeTile
  grind [Kept.settleCharge, Kept.foldl]

theorem execWearSample_kept {tile activityPpm milliVolt deciCelsius} (hs : s.Kept) :
    (execWearSample tile activityPpm milliVolt deciCelsius s).Kept := by
  unfold execWearSample
  grind [Kept.whenOn, Kept.setTile, Kept.ageTile, Kept.chargeTile, Kept.expel, Kept.tileEvent, Kept.settle,
    Kept.evacuate, Out.Kept]

theorem execMarginAlarmStop_kept {tile} (hs : s.Kept) : (execMarginAlarmStop tile s).Kept := by
  unfold execMarginAlarmStop
  grind [Kept.whenOn, Kept.retire, Kept.loseHarts, Out.Kept]

theorem execQuarantineSelfTest_kept {tile pass} (hs : s.Kept) : (execQuarantineSelfTest tile pass s).Kept := by
  unfold execQuarantineSelfTest
  grind [Kept.whenOn, Kept.setTile, Kept.retire, Out.Kept]

theorem State.Kept.writeLife (hs : s.Kept) : s.writeLife.Kept := hs

theorem execLifetimeRecordWrite_kept (hs : s.Kept) : (execLifetimeRecordWrite s).Kept := by
  unfold execLifetimeRecordWrite
  grind [Kept.whenOn, Kept.writeLife, Out.Kept]

theorem State.Kept.substitute {tile} (hs : s.Kept) : (s.substitute tile).Kept := by
  refine Kept.repoint (Kept.setTile ?_)
  exact ⟨Memory.wf_store _ _ (Memory.wf_clear _ _ hs.tm), hs.gm, hs.shards⟩

theorem execSpareSubstitution_kept {tile} (hs : s.Kept) : (execSpareSubstitution tile s).Kept := by
  unfold execSpareSubstitution
  grind [Kept.whenOn, Kept.settle, Kept.substitute, Kept.setTile, Kept.report, Out.Kept]

theorem State.Kept.thermalEvent {i dC action} (hs : s.Kept) : (s.thermalEvent i dC action).Kept := hs

theorem State.Kept.unpowered (hs : s.Kept) : s.unpowered.Kept :=
  ⟨rfl, Memory.wf_filter _ hs.gm, Kept.reset.shards⟩

theorem State.Kept.govern {i dC} (hs : s.Kept) : (s.govern i dC).Kept := by
  unfold State.govern
  grind [Kept.thermalEvent, Kept.setIsland]

theorem execTemperatureSample_kept {island deciCelsius} (hs : s.Kept) :
    (execTemperatureSample island deciCelsius s).Kept := by
  unfold execTemperatureSample
  grind [State.Kept, Kept.whenOn, Kept.govern, Kept.writeEntry, Kept.unpowered, Out.Kept]

theorem execPowerSample_kept {milliWatt island} (hs : s.Kept) : (execPowerSample milliWatt island s).Kept := by
  unfold execPowerSample
  grind [State.Kept, Kept.whenOn, Kept.setIsland, Out.Kept]

theorem execPowerLoss_kept (hs : s.Kept) : (execPowerLoss s).Kept := by
  unfold execPowerLoss
  grind [State.Kept, Kept.unpowered, Out.Kept]

theorem execOrderlyShutdown_kept (hs : s.Kept) : (execOrderlyShutdown s).Kept := by
  unfold execOrderlyShutdown
  grind [State.Kept, Kept.whenOn, Kept.unpowered, Kept.writeLife, Kept.writeAll, Out.Kept]

/-! ### Boot and the lifetime record -/

theorem State.Kept.bootTile {t} (hs : s.Kept) : (s.bootTile t).Kept := by
  unfold State.bootTile
  grind [Kept.setTile]

theorem State.Kept.boot {found} (hs : s.Kept) : (s.boot found).Kept := by
  unfold State.boot
  grind [State.Kept, Kept.bootTile, Kept.repoint, Kept.reportMgmt, Kept.writeEntry, Kept.foldl]

theorem execPwrgoodRise_kept {found} (hs : s.Kept) : (execPwrgoodRise found s).Kept := by
  unfold execPwrgoodRise
  grind [State.Kept, Kept.unpowered, Kept.boot, Out.Kept]

theorem execPtpSync_kept {master} (hs : s.Kept) : (execPtpSync master s).Kept := by
  unfold execPtpSync
  grind [State.Kept, Out.Kept]

theorem execPtpHoldover_kept (hs : s.Kept) : (execPtpHoldover s).Kept := by
  unfold execPtpHoldover
  grind [State.Kept, Out.Kept]

/-! ### Transfer commands (R250 to R252) -/

theorem State.Kept.txPut {word ops toTm rows} (hs : s.Kept) : (s.txPut word ops toTm rows).Kept := by
  unfold State.txPut
  grind [State.Kept, Kept.trap, Kept.myTouch, Kept.block, Kept.myUse, Kept.advance, Kept.foldl]

theorem State.Kept.txLine {word toTm} (hs : s.Kept) : (s.txLine word toTm).Kept := by
  unfold State.txLine
  grind [Kept.advance, Kept.trap, Kept.txPut]

theorem State.Kept.txDesc {word} (hs : s.Kept) : (s.txDesc word).Kept := by
  fun_cases State.txDesc s word
  case case7 => exact hs.txPut
  all_goals exact hs.trap

theorem State.Kept.txGo {word} (hs : s.Kept) : (s.txGo word).Kept := by
  unfold State.txGo
  grind [Kept.txDesc, Kept.txLine]

theorem execTxin_kept {d a b} (hs : s.Kept) : (execTxin d a b s).Kept := by
  unfold execTxin
  grind [Kept.issueX, Kept.txGo, Out.Kept]

theorem execTxout_kept {d a b} (hs : s.Kept) : (execTxout d a b s).Kept := by
  unfold execTxout
  grind [Kept.issueX, Kept.txGo, Out.Kept]

theorem execTx2d_kept {a} (hs : s.Kept) : (execTx2d a s).Kept := by
  unfold execTx2d
  grind [Kept.issueX, Kept.txGo, Out.Kept]

theorem State.Kept.asyncDone {a} (hs : s.Kept) : (s.asyncDone a).Kept := hs

theorem State.Kept.asyncSweep (hs : s.Kept) : s.asyncSweep.Kept := by
  unfold State.asyncSweep
  grind [State.Kept, Kept.asyncDone, Kept.foldl]

theorem State.Kept.select {id} (hs : s.Kept) : (s.select id).Kept := by
  unfold State.select
  grind [State.Kept]

theorem State.Kept.onHart {id f} (hs : s.Kept)
    (hf : ∀ t, t.Kept → (f t).Kept) : (s.onHart id f).Kept := by
  unfold State.onHart
  grind [Kept.select]

theorem State.Kept.txWake (hs : s.Kept) : s.txWake.Kept := by
  unfold State.txWake
  grind [Kept.onHart, Kept.txGo, Kept.unblock, Kept.foldl]

theorem State.Kept.performChunk {a c} (hs : s.Kept) : (s.performChunk a c).Kept := by
  unfold State.performChunk
  grind [Kept.doChunk]

theorem State.Kept.markOne {pick} (hs : s.Kept) : (s.markOne pick).Kept := by
  unfold State.markOne
  grind [State.Kept, Kept.txWake, Kept.asyncSweep, Kept.performChunk]

theorem execGranuleMarking_kept {pick} (hs : s.Kept) : (execGranuleMarking pick s).Kept := hs.markOne

/-! ### Exchanges (R284 to R292) -/

theorem State.Kept.exchTrap {code detail} (hs : s.Kept) : (s.exchTrap code detail).Kept := hs.trap

theorem State.Kept.mapMember {netid g i f} (hs : s.Kept) : (s.mapMember netid g i f).Kept := hs

theorem State.Kept.mapExch {netid g i f} (hs : s.Kept) : (s.mapExch netid g i f).Kept := hs

theorem State.Kept.dpostOpen {n g i seq rbase rcap demand} (hs : s.Kept) :
    (s.dpostOpen n g i seq rbase rcap demand).Kept := by
  unfold State.dpostOpen
  grind [Kept.myTouch, Kept.trap, Kept.myUse, Kept.advance, Kept.mapMember, Kept.foldl]

theorem State.Kept.dpostRec {ea b} (hs : s.Kept) : (s.dpostRec ea b).Kept := by
  fun_cases State.dpostRec s ea b
  all_goals grind [Kept.exchTrap, Kept.trap, Kept.dpostOpen]

theorem execDpost_kept {a} (hs : s.Kept) : (execDpost a s).Kept := by
  unfold execDpost
  grind [Kept.issueX, Kept.trap, Kept.dpostRec, Out.Kept]

theorem State.Kept.dgrantWrite {d ea cap n g i c} (hs : s.Kept) : (s.dgrantWrite d ea cap n g i c).Kept := by
  unfold State.dgrantWrite
  grind [Kept.exchTrap, Kept.trap, Kept.mapExch, Kept.tmStore, Kept.advance, Kept.setX]

theorem State.Kept.dgrantGo {d a b g} (hs : s.Kept) : (s.dgrantGo d a b g).Kept := by
  unfold State.dgrantGo
  grind [Kept.exchTrap, Kept.block, Kept.trap, Kept.dgrantWrite]

theorem execDgrant_kept {d a b} (hs : s.Kept) : (execDgrant d a b s).Kept := by
  refine hs.issueX fun t ht => .ite ht.trap ?_
  split
  · exact ht.trap
  · exact .ite ht.trap ht.dgrantGo

theorem State.Kept.dsendOut {d n g i x c src len dest} (hs : s.Kept) :
    (s.dsendOut d n g i x c src len dest).Kept := by
  unfold State.dsendOut
  grind [Kept.advance, Kept.setX, Kept.mapExch, Kept.trap, Kept.myTouch, Kept.myUse, Kept.foldl]

theorem State.Kept.dsendRec {d ca ra} (hs : s.Kept) : (s.dsendRec d ca ra).Kept := by
  unfold State.dsendRec
  grind [Kept.trap, Kept.exchTrap, Kept.dsendOut]

theorem execDsend_kept {d a b} (hs : s.Kept) : (execDsend d a b s).Kept := by
  unfold execDsend
  grind [Kept.issueX, Kept.trap, Kept.dsendRec, Out.Kept]

theorem execDclose_kept {a} (hs : s.Kept) : (execDclose a s).Kept := by
  unfold execDclose
  grind [Kept.issueX, Kept.trap, Kept.exchTrap, Kept.advance, Kept.mapExch, Out.Kept]

theorem State.Kept.mapGroup {netid g f} (hs : s.Kept) : (s.mapGroup netid g f).Kept := hs

theorem execPhaseCalendarCompute_kept {netid group} (hs : s.Kept) :
    (execPhaseCalendarCompute netid group s).Kept := by
  unfold execPhaseCalendarCompute
  grind [Kept.mapGroup, Out.Kept]

theorem State.Kept.dgrantAgain (hs : s.Kept) : s.dgrantAgain.Kept := by
  unfold State.dgrantAgain
  grind [Kept.dgrantGo, Kept.unblock]

theorem execCalendarArrival_kept {netid group member} (hs : s.Kept) :
    (execCalendarArrival netid group member s).Kept := by
  unfold execCalendarArrival
  grind [Kept.mapExch, Kept.onHart, Kept.dgrantAgain, Out.Kept]

theorem execArbiterHeartbeat_kept {netid group} (hs : s.Kept) : (execArbiterHeartbeat netid group s).Kept :=
  hs.mapGroup

theorem execStandbyTakeover_kept {netid group} (hs : s.Kept) : (execStandbyTakeover netid group s).Kept := by
  unfold execStandbyTakeover
  grind [Kept.mapGroup, Kept.fail, Out.Kept]

theorem execPhaseStart_kept {netid group sender run} (hs : s.Kept) :
    (execPhaseStart netid group sender run s).Kept := by
  unfold execPhaseStart
  grind [Kept.mapExch, Out.Kept]

theorem execExchangeBytesLand_kept {netid group sender receiver} (hs : s.Kept) :
    (execExchangeBytesLand netid group sender receiver s).Kept := by
  unfold execExchangeBytesLand
  grind [Kept.setGmFull, Kept.putGm, Kept.mapExch, Out.Kept]

theorem execClosingFlit_kept {netid group sender receiver} (hs : s.Kept) :
    (execClosingFlit netid group sender receiver s).Kept := by
  unfold execClosingFlit
  grind [Kept.mapExch, Out.Kept]

/-! ### Barriers (R296 to R298) -/

theorem State.Kept.arrive {g a} (hs : s.Kept) : (s.arrive g a).Kept := by
  unfold State.arrive
  grind [Kept.exchTrap, Kept.trap, Kept.block, Kept.mapMember]

theorem execBarrier_kept {a} (hs : s.Kept) : (execBarrier a s).Kept := by
  unfold execBarrier
  grind [Kept.issueX, Kept.exchTrap, Kept.arrive, Out.Kept]

theorem execBarrierReduce_kept {a b} (hs : s.Kept) : (execBarrierReduce a b s).Kept := by
  unfold execBarrierReduce
  grind [Kept.issueX, Kept.trap, Kept.exchTrap, Kept.arrive, Out.Kept]

theorem execBarcnt_kept {d a} (hs : s.Kept) : (execBarcnt d a s).Kept := by
  unfold execBarcnt
  grind [Kept.issueX, Kept.exchTrap, Kept.advance, Kept.setX, Out.Kept]

theorem State.Kept.barrierDone {g dst o} (hs : s.Kept) : (s.barrierDone g dst o).Kept := by
  unfold State.barrierDone
  grind [Kept.unblock, Kept.advance, Kept.raise, Kept.tmStore, Kept.trapAfter]

theorem State.Kept.completeMember {netid g i} (hs : s.Kept) : (s.completeMember netid g i).Kept := by
  unfold State.completeMember
  grind [Kept.mapMember, Kept.onHart, Kept.barrierDone]

theorem execBarrierCompletion_kept {netid group} (hs : s.Kept) : (execBarrierCompletion netid group s).Kept := by
  unfold execBarrierCompletion
  grind [Kept.mapGroup, Kept.completeMember, Out.Kept]

/-! ### Vector accesses of tile memory -/

theorem State.Kept.tmVecLoop {v data eff l} (hs : s.Kept) (heff : ∀ t i, t.Kept → (eff t i).Kept) :
    (s.tmVecLoop v data eff l).Kept := by
  induction l generalizing s with
  | nil => exact hs
  | cons i l ih => grind [State.tmVecLoop, VEnd.Kept]

theorem State.Kept.tmVec {v l data eff} (hs : s.Kept)
    (heff : ∀ t a, t.Kept → (eff t a).Kept) : (s.tmVec v l data eff).Kept := by
  unfold State.tmVec
  grind [Kept.stopBefore, Kept.tmVecLoop]

theorem State.Kept.vload {mode d a b p word} (hs : s.Kept) : (s.vload mode d a b p word).Kept := by
  unfold State.vload
  grind [State.Kept, Kept.vrun, Kept.tmVec, Out.Kept, VEnd.Kept]

theorem State.Kept.vstore {mode d a b p word} (hs : s.Kept) : (s.vstore mode d a b p word).Kept := by
  unfold State.vstore
  grind [Kept.vrun, Kept.tmVec, Kept.tmStore, Out.Kept, VEnd.Kept]

theorem execVld_kept {d a p} (hs : s.Kept) : (execVld d a p s).Kept := hs.vload

theorem execVlds_kept {d a b p} (hs : s.Kept) : (execVlds d a b p s).Kept := hs.vload

theorem execVldx_kept {d a b p} (hs : s.Kept) : (execVldx d a b p s).Kept := hs.vload

theorem execVst_kept {d a p} (hs : s.Kept) : (execVst d a p s).Kept := hs.vstore

theorem execVsts_kept {d a b p} (hs : s.Kept) : (execVsts d a b p s).Kept := hs.vstore

theorem execVstx_kept {d a b p} (hs : s.Kept) : (execVstx d a b p s).Kept := hs.vstore

theorem execVlseg_kept {d a p wc fm} (hs : s.Kept) : (execVlseg d a p wc fm s).Kept := by
  unfold execVlseg
  grind [State.Kept, Kept.vrun, Kept.tmVec, Kept.foldl, Out.Kept, VEnd.Kept]

theorem execVsseg_kept {d a p wc fm} (hs : s.Kept) : (execVsseg d a p wc fm s).Kept := by
  unfold execVsseg
  grind [Kept.vrun, Kept.tmVec, Kept.tmStore, Kept.foldl, Out.Kept, VEnd.Kept]

theorem execVspill_kept {d a p} (hs : s.Kept) : (execVspill d a p s).Kept := by
  unfold execVspill
  grind [State.Kept, Kept.vrun, Kept.stopBefore, Kept.tmVec, Kept.tmStore, Kept.poisonTm, Kept.foldl, Out.Kept,
    VEnd.Kept]

theorem execVfill_kept {d a p} (hs : s.Kept) : (execVfill d a p s).Kept := by
  refine hs.vrun fun t h ht => ?_
  dsimp only
  split
  · exact ht.stopBefore
  · generalize hE : State.tmVec _ _ _ _ _ = e
    have he : e.Kept := hE ▸ ht.tmVec fun u i hu => .ite (hu.withHart _).tileEvent (hu.withHart _)
    cases e with
    | done u => exact State.Kept.withHart he _
    | stop | wait => exact he

theorem execEaspill_kept {d a} (hs : s.Kept) : (execEaspill d a s).Kept := by
  unfold execEaspill
  grind [Kept.issueX, Kept.trap, Kept.advance, Kept.tmStore, Out.Kept]

theorem execEafill_kept {d a} (hs : s.Kept) : (execEafill d a s).Kept := by
  refine hs.issueX fun t ht => ?_
  dsimp only
  split
  · exact ht.trap
  · exact .ite ht.trap (ht.withHart _).advance

/-! ### Accesses of global memory -/

theorem State.Kept.gmAmo {p n op src cmp} (hs : s.Kept) : (s.gmAmo p n op src cmp).2.Kept := by
  unfold State.gmAmo
  grind [Kept.gmStore]

theorem State.Kept.replyDone {use n e} (hs : s.Kept) : (s.replyDone use n e).Kept := by
  unfold State.replyDone
  grind [State.Kept, Kept.setX, Kept.gmAmo]

theorem State.Kept.probe {ea n} (hs : s.Kept) : (s.probe ea n).Kept := by
  unfold State.probe
  grind [Kept.myTouch]

theorem State.Kept.gmReply {word use ea n need store} (hs : s.Kept) : (s.gmReply word use ea n need store).Kept := by
  unfold State.gmReply
  grind [Kept.probe, Kept.trap, Kept.gbytes, Kept.myUse, Kept.block, Kept.sendReads, Kept.advance, Kept.replyDone]

theorem execLdg_kept {d a z u} (hs : s.Kept) : (execLdg d a z u s).Kept := by
  unfold execLdg
  grind [Kept.issueX, Kept.gmReply, Out.Kept]

theorem execStg_kept {a b z} (hs : s.Kept) : (execStg a b z s).Kept := by
  unfold execStg
  grind [Kept.issueX, Kept.probe, Kept.trap, Kept.advance, Kept.gmStore, Kept.packet, Kept.gbytes, Kept.myUse,
    Out.Kept]

theorem State.Kept.amo {op opc d a b z q r} (hs : s.Kept) : (s.amo op opc d a b z q r).Kept := by
  unfold State.amo
  grind [Kept.issueX, Kept.gmReply, Out.Kept]

theorem execAmoAdd_kept {d a b z q r} (hs : s.Kept) : (execAmoAdd d a b z q r s).Kept := hs.amo

theorem execAmoAnd_kept {d a b z q r} (hs : s.Kept) : (execAmoAnd d a b z q r s).Kept := hs.amo

theorem execAmoOr_kept {d a b z q r} (hs : s.Kept) : (execAmoOr d a b z q r s).Kept := hs.amo

theorem execAmoXor_kept {d a b z q r} (hs : s.Kept) : (execAmoXor d a b z q r s).Kept := hs.amo

theorem execAmoMin_kept {d a b z q r} (hs : s.Kept) : (execAmoMin d a b z q r s).Kept := hs.amo

theorem execAmoMax_kept {d a b z q r} (hs : s.Kept) : (execAmoMax d a b z q r s).Kept := hs.amo

theorem execAmoMinu_kept {d a b z q r} (hs : s.Kept) : (execAmoMinu d a b z q r s).Kept := hs.amo

theorem execAmoMaxu_kept {d a b z q r} (hs : s.Kept) : (execAmoMaxu d a b z q r s).Kept := hs.amo

theorem execAmoSwap_kept {d a b z q r} (hs : s.Kept) : (execAmoSwap d a b z q r s).Kept := hs.amo

theorem execAmoCas_kept {d a b z q r} (hs : s.Kept) : (execAmoCas d a b z q r s).Kept := hs.amo

theorem State.Kept.ldsyncGo {e d ea n held} (hs : s.Kept) : (s.ldsyncGo e d ea n held).Kept := by
  fun_cases State.ldsyncGo s e d ea n held
  all_goals grind [Kept.trap, Kept.block, Kept.setX, Kept.advance, Kept.setTmFull, Kept.setGmFull, Kept.gbytes,
    Kept.probe,
    Kept.myUse]

theorem execLdsync_kept {d a z} (hs : s.Kept) : (execLdsync d a z s).Kept := by
  unfold execLdsync
  grind [Kept.issueX, Kept.ldsyncGo, Out.Kept]

theorem execLdsyncE_kept {d a z} (hs : s.Kept) : (execLdsyncE d a z s).Kept := by
  unfold execLdsyncE
  grind [Kept.issueX, Kept.ldsyncGo, Out.Kept]

theorem State.Kept.setFe {word a full} (hs : s.Kept) : (s.setFe word a full).Kept := by
  unfold State.setFe
  grind [Kept.issueX, Kept.trap, Kept.advance, Kept.setTmFull, Kept.probe, Kept.setGmFull, Kept.myUse, Out.Kept]

theorem execSetf_kept {a} (hs : s.Kept) : (execSetf a s).Kept := hs.setFe

theorem execSete_kept {a} (hs : s.Kept) : (execSete a s).Kept := hs.setFe

theorem execFence_kept (hs : s.Kept) : (execFence s).Kept := by
  unfold execFence
  grind [Kept.issue, Kept.advance, Out.Kept]

theorem State.Kept.gmVecProbe {v l} (hs : s.Kept) : (s.gmVecProbe v l).Kept := by
  unfold State.gmVecProbe
  grind [Kept.laneTouch, Kept.foldl]

theorem State.Kept.gmVecUse {v l} (hs : s.Kept) : (s.gmVecUse v l).Kept := by
  unfold State.gmVecUse
  grind [Kept.gbytes, Kept.laneUse, Kept.foldl]

theorem State.Kept.gmVecLoop {v eff l dn} (hs : s.Kept) (heff : ∀ t e, t.Kept → (eff t e).Kept) :
    (s.gmVecLoop v eff l dn).Kept := by
  induction l generalizing s dn with
  | nil => exact hs.trace
  | cons e l ih => grind [State.gmVecLoop, Kept.trace, VEnd.Kept]

theorem State.Kept.gmVecReply {hh word use store p} (hs : s.Kept) : (s.gmVecReply hh word use store p).Kept := by
  unfold State.gmVecReply
  grind [Kept.gmVecProbe, Kept.stopBefore, Kept.gmVecUse, Kept.block, Kept.sendReads, Kept.gmVecLoop, Kept.replyDone,
    VEnd.Kept]

theorem State.Kept.gvload {mode d a b p} (hs : s.Kept) : (s.gvload mode d a b p).Kept := by
  unfold State.gvload
  grind [Kept.vrun, Kept.gmVecReply, Out.Kept, VEnd.Kept]

theorem State.Kept.gvstore {mode d a b p} (hs : s.Kept) : (s.gvstore mode d a b p).Kept := by
  unfold State.gvstore
  grind [Kept.vrun, Kept.gmVecProbe, Kept.stopBefore, Kept.gmVecUse, Kept.gmVecLoop, Kept.packet, Kept.gmStore,
    Out.Kept, VEnd.Kept]

theorem execVldg_kept {d a p} (hs : s.Kept) : (execVldg d a p s).Kept := hs.gvload

theorem execVldgs_kept {d a b p} (hs : s.Kept) : (execVldgs d a b p s).Kept := hs.gvload

theorem execVldgx_kept {d a b p} (hs : s.Kept) : (execVldgx d a b p s).Kept := hs.gvload

theorem execVstg_kept {d a p} (hs : s.Kept) : (execVstg d a p s).Kept := hs.gvstore

theorem execVstgs_kept {d a b p} (hs : s.Kept) : (execVstgs d a b p s).Kept := hs.gvstore

theorem execVstgx_kept {d a b p} (hs : s.Kept) : (execVstgx d a b p s).Kept := hs.gvstore

theorem State.Kept.vamo {op fn d a b p} (hs : s.Kept) : (s.vamo op fn d a b p).Kept := by
  unfold State.vamo
  grind [Kept.vrun, Kept.gmVecReply, Out.Kept, VEnd.Kept]

theorem execVamoAdd_kept {d a b p} (hs : s.Kept) : (execVamoAdd d a b p s).Kept := hs.vamo

theorem execVamoAnd_kept {d a b p} (hs : s.Kept) : (execVamoAnd d a b p s).Kept := hs.vamo

theorem execVamoOr_kept {d a b p} (hs : s.Kept) : (execVamoOr d a b p s).Kept := hs.vamo

theorem execVamoXor_kept {d a b p} (hs : s.Kept) : (execVamoXor d a b p s).Kept := hs.vamo

theorem execVamoMin_kept {d a b p} (hs : s.Kept) : (execVamoMin d a b p s).Kept := hs.vamo

theorem execVamoMax_kept {d a b p} (hs : s.Kept) : (execVamoMax d a b p s).Kept := hs.vamo

theorem execVamoMinu_kept {d a b p} (hs : s.Kept) : (execVamoMinu d a b p s).Kept := hs.vamo

theorem execVamoMaxu_kept {d a b p} (hs : s.Kept) : (execVamoMaxu d a b p s).Kept := hs.vamo

theorem execVamoSwap_kept {d a b p} (hs : s.Kept) : (execVamoSwap d a b p s).Kept := hs.vamo

theorem State.Kept.landed {use n e} (hs : s.Kept) : (s.landed use n e).Kept := by
  unfold State.landed
  grind [Kept.gmAmo]

theorem State.Kept.replyScalar {use n e} (hs : s.Kept) : (s.replyScalar use n e).Kept := by
  unfold State.replyScalar
  grind [Kept.unblock, Kept.gotReply, Kept.trap, Kept.landed, Kept.advance, Kept.replyDone]

theorem State.Kept.replyElement {use n st e} (hs : s.Kept) : (s.replyElement use n st e).Kept := by
  unfold State.replyElement
  grind [Kept.landed, Kept.stopAt, Kept.trace, Kept.unblock, Kept.replyDone, Kept.gotReply, Kept.advance,
    Kept.closeStrips, Kept.block, Kept.foldl]

theorem State.Kept.replyVector {word use n todo st elem} (hs : s.Kept) :
    (s.replyVector word use n todo st elem).Kept := by
  unfold State.replyVector
  grind [Kept.replyElement, Kept.foldl]

theorem execGlobalLoadReply_kept {elem} (hs : s.Kept) : (execGlobalLoadReply elem s).Kept := by
  unfold execGlobalLoadReply
  grind [Kept.replyScalar, Kept.replyVector, Kept.block, Out.Kept]

theorem State.Kept.vldsyncTm {hh e d a p} (hs : s.Kept) : (s.vldsyncTm hh e d a p).Kept := by
  unfold State.vldsyncTm
  grind [State.Kept, Kept.stopZero, Kept.block, Kept.setTmFull, Kept.foldl, VEnd.Kept]

theorem State.Kept.vldsyncGm {hh e d a p held} (hs : s.Kept) : (s.vldsyncGm hh e d a p held).Kept := by
  unfold State.vldsyncGm
  grind [Kept.gmVecProbe, Kept.stopZero, Kept.gmVecUse, Kept.block, Kept.replyDone, Kept.trace, Kept.setGmFull,
    Kept.foldl, VEnd.Kept]

theorem State.Kept.vldsyncGo {e d a p held} (hs : s.Kept) : (s.vldsyncGo e d a p held).Kept := by
  unfold State.vldsyncGo
  grind [Kept.vgo, Kept.vldsyncTm, Kept.vldsyncGm]

theorem State.Kept.vldsync {e d a p} (hs : s.Kept) : (s.vldsync e d a p).Kept := by
  unfold State.vldsync
  grind [Kept.issue, Kept.vldsyncGo, Out.Kept]

theorem execVldsync_kept {d a p} (hs : s.Kept) : (execVldsync d a p s).Kept := hs.vldsync

theorem execVldsyncE_kept {d a p} (hs : s.Kept) : (execVldsyncE d a p s).Kept := hs.vldsync

theorem execGranuleWaitComplete_kept (hs : s.Kept) : (execGranuleWaitComplete s).Kept := by
  unfold execGranuleWaitComplete
  grind [Kept.ldsyncGo, Kept.unblock, Kept.vldsyncGo, Out.Kept]

theorem execVstm_kept {d a b p} (hs : s.Kept) : (execVstm d a b p s).Kept := by
  unfold execVstm
  grind [State.Kept, Kept.vrun, Kept.gmVecProbe, Kept.stopBefore, Kept.gmVecUse, Kept.block, Out.Kept, VEnd.Kept]

/-! ### The vector configuration (R205) -/

theorem State.Kept.setVtype {v} (hs : s.Kept) : (s.setVtype v).Kept := hs

theorem State.Kept.grantVl {d req} (hs : s.Kept) : (s.grantVl d req).Kept := by
  unfold State.grantVl
  grind [State.Kept, Kept.setX]

theorem execSetvl_kept {d a} (hs : s.Kept) : (execSetvl d a s).Kept := by
  unfold execSetvl
  grind [Kept.issueX, Kept.advance, Kept.grantVl, Out.Kept]

theorem execVsett_kept {d a} (hs : s.Kept) : (execVsett d a s).Kept := by
  unfold execVsett
  grind [Kept.issueX, Kept.setVtype, Kept.advance, Kept.setX, Out.Kept]

theorem execVlmaxq_kept {d a} (hs : s.Kept) : (execVlmaxq d a s).Kept := hs.scalar

theorem execSetvli_kept {d i} (hs : s.Kept) : (execSetvli d i s).Kept := by
  unfold execSetvli
  grind [Kept.issue, Kept.advance, Kept.grantVl, Out.Kept]

/-! ### System instructions (R186 to R197) -/

theorem execIllegalInstruction_kept {w} (hs : s.Kept) : (execIllegalInstruction w s).Kept := by
  unfold execIllegalInstruction
  grind [Kept.trap, Out.Kept]

theorem execFetchProt_kept (hs : s.Kept) : (execFetchProt s).Kept := by
  unfold execFetchProt
  grind [Kept.trap, Out.Kept]

theorem execSteepFault_kept (hs : s.Kept) : (execSteepFault s).Kept := by
  unfold execSteepFault
  grind [Kept.trap, Out.Kept]

theorem execRdtime_kept {d} (hs : s.Kept) : (execRdtime d s).Kept := hs.scalar

theorem execWaitt_kept {a} (hs : s.Kept) : (execWaitt a s).Kept := by
  unfold execWaitt
  grind [Kept.issueX, Kept.advance, Kept.block, Out.Kept]

theorem execWaittWake_kept (hs : s.Kept) : (execWaittWake s).Kept := by
  unfold execWaittWake
  grind [Kept.wakeReady, Kept.advance, Kept.unblock, Out.Kept]

theorem execSafe_kept {i} (hs : s.Kept) : (execSafe i s).Kept := by
  unfold execSafe
  grind [State.Kept, Kept.issue, Kept.trap, Kept.advance, Kept.switchAt, Out.Kept]

theorem execBrk_kept {i} (hs : s.Kept) : (execBrk i s).Kept := by
  unfold execBrk
  grind [Kept.issue, Kept.trap, Out.Kept]

theorem execSysc_kept {c} (hs : s.Kept) : (execSysc c s).Kept := by
  unfold execSysc
  grind [Kept.issue, Kept.trapAfter, Out.Kept]

theorem State.Kept.mapMyProc {f} (hs : s.Kept) : (s.mapMyProc f).Kept := by
  unfold State.mapMyProc
  grind [Kept.mapProc]

theorem execTcapStart_kept (hs : s.Kept) : (execTcapStart s).Kept := by
  unfold execTcapStart
  grind [Kept.issue, Kept.advance, Kept.mapMyProc, Out.Kept]

theorem execTcapStop_kept (hs : s.Kept) : (execTcapStop s).Kept := by
  unfold execTcapStop
  grind [Kept.issue, Kept.advance, Kept.mapProc, Kept.sendCapture, Out.Kept]

theorem State.Kept.repartition {t lpart} (hs : s.Kept) : (s.repartition t lpart).Kept := by
  unfold State.repartition
  grind [State.Kept, Kept.setTile]

theorem State.Kept.setCsr {c v} (hs : s.Kept) : (s.setCsr c v).Kept := by
  unfold State.setCsr
  grind [State.Kept, Kept.setVtype, Kept.setTile, Kept.mapMyProc, Kept.repartition]

theorem execCsrr_kept {d c} (hs : s.Kept) : (execCsrr d c s).Kept := by
  unfold execCsrr
  grind [Kept.trap, Kept.issue, Kept.advance, Kept.setX, Out.Kept]

theorem State.Kept.csrWrite {w a c v} (hs : s.Kept) : (s.csrWrite w a c v).Kept := by
  unfold State.csrWrite
  grind [Kept.trap, Kept.issueX, Kept.advance, Kept.setCsr, Out.Kept]

theorem execCsrw_kept {a c} (hs : s.Kept) : (execCsrw a c s).Kept := hs.csrWrite

theorem execCsrs_kept {a c} (hs : s.Kept) : (execCsrs a c s).Kept := hs.csrWrite

theorem execCsrc_kept {a c} (hs : s.Kept) : (execCsrc a c s).Kept := hs.csrWrite

theorem execEret_kept (hs : s.Kept) : (execEret s).Kept := by
  unfold execEret
  grind [Kept.issue, Kept.eretM, Kept.eretS, Out.Kept]

theorem execIinv_kept (hs : s.Kept) : (execIinv s).Kept := by
  unfold execIinv
  grind [State.Kept, Kept.issue, Kept.advance, Out.Kept]

theorem State.Kept.tlbinvGo {va} (hs : s.Kept) : (s.tlbinvGo va).Kept := by
  unfold State.tlbinvGo
  grind [Kept.setTile, Kept.block, Kept.advance]

theorem execTlbinv_kept {a} (hs : s.Kept) : (execTlbinv a s).Kept := by
  unfold execTlbinv
  grind [Kept.issueX, Kept.tlbinvGo, Out.Kept]

theorem State.Kept.tlbWake (hs : s.Kept) : s.tlbWake.Kept := by
  unfold State.tlbWake
  grind [Kept.onHart, Kept.advance, Kept.unblock, Kept.foldl]

theorem execHalt_kept (hs : s.Kept) : (execHalt s).Kept := by
  unfold execHalt
  grind [State.Kept, Kept.issue, Kept.endProc, Kept.advance, Out.Kept]

theorem execHartRestart_kept {tile front} (hs : s.Kept) : (execHartRestart tile front s).Kept := hs.mapHarts

theorem execLeaveGrant_kept (hs : s.Kept) : (execLeaveGrant s).Kept := by
  unfold execLeaveGrant
  grind [State.Kept, Out.Kept]

theorem execLeaveLapse_kept (hs : s.Kept) : (execLeaveLapse s).Kept := by
  unfold execLeaveLapse
  grind [State.Kept, Out.Kept]

/-! ### Time limits (R356, R357) -/

theorem State.Kept.voidChunk {a c} (hs : s.Kept) : (s.voidChunk a c).Kept := by
  unfold State.voidChunk
  grind [Kept.putGm]

theorem State.Kept.endMcast {members failed a} (hs : s.Kept) : (s.endMcast members failed a).1.Kept := by
  refine Kept.foldl_fst hs fun r c hr => ?_
  grind [Kept.voidChunk, Kept.performChunk]

theorem execVstmAck_kept {failed} (hs : s.Kept) : (execVstmAck failed s).Kept := by
  unfold execVstmAck
  grind [State.Kept, Kept.endMcast, Kept.unblock, Kept.closeStrips, Kept.trace, Kept.advance, Kept.trapAfter,
    Kept.foldl, Kept.foldl_fst, Out.Kept]

theorem State.Kept.replyStop {word use n todo done xa xb cause} (hs : s.Kept) :
    (s.replyStop word use n todo done xa xb cause).Kept := by
  unfold State.replyStop
  grind [Kept.stopAt, Kept.trace, Kept.unblock, Kept.trap]

theorem State.Kept.watchInstr (hs : s.Kept) : s.watchInstr.Kept := by
  unfold State.watchInstr
  grind [State.Kept, Kept.trap, Kept.replyStop, Kept.stopAt, Kept.unblock]

theorem State.Kept.watchCode (hs : s.Kept) : s.watchCode.Kept := by
  unfold State.watchCode
  grind [Kept.trap, Kept.unblock]

theorem State.Kept.watchSave (hs : s.Kept) : s.watchSave.Kept := by
  unfold State.watchSave
  grind [State.Kept, Kept.gmStore, Kept.tileEvent, Kept.setTile, Kept.mapHarts, Kept.evacuate, Kept.endProc]

theorem State.Kept.watchRestore (hs : s.Kept) : s.watchRestore.Kept := by
  unfold State.watchRestore
  grind [State.Kept, Kept.enqueue, Kept.dequeue]

theorem execHangWatchdogExpiry_kept {span} (hs : s.Kept) : (execHangWatchdogExpiry span s).Kept := by
  unfold execHangWatchdogExpiry
  grind [Kept.watchInstr, Kept.watchCode, Kept.watchSave, Kept.watchRestore, Out.Kept]

theorem execStallSample_kept (hs : s.Kept) : (execStallSample s).Kept := by
  unfold execStallSample
  grind [Kept.traceWrite, Out.Kept]

/-! ### The fabric and packets of other packages (R441 to R444) -/

theorem State.Kept.failAll {kind plane ep} (hs : s.Kept) : (s.failAll kind plane ep).Kept := by
  unfold State.failAll
  grind [Kept.fail, Kept.foldl]

theorem execFlitRetry_kept {die plane flits} (hs : s.Kept) : (execFlitRetry die plane flits s).Kept := by
  unfold execFlitRetry
  grind [Kept.whenOn, Kept.event, Out.Kept]

theorem State.Kept.resend {hit} (hs : s.Kept) : (s.resend hit).Kept := hs

theorem execLinkTimeout_kept {die plane} (hs : s.Kept) : (execLinkTimeout die plane s).Kept := by
  unfold execLinkTimeout
  grind [State.Kept, Kept.whenOn, Kept.failAll, Kept.resend, Out.Kept]

theorem execSwitchTimeout_kept {endpoint plane} (hs : s.Kept) : (execSwitchTimeout endpoint plane s).Kept := by
  unfold execSwitchTimeout
  grind [State.Kept, Kept.whenOn, Kept.failAll, Kept.resend, Out.Kept]

theorem State.Kept.syncLost {ep} (hs : s.Kept) : (s.syncLost ep).Kept := by
  unfold State.syncLost
  grind [Kept.trap, Kept.unblock, Kept.vgo, Kept.stopZero, Kept.stopAt]

theorem State.Kept.asyncLost {ep a} (hs : s.Kept) : (s.asyncLost ep a).Kept := by
  unfold State.asyncLost
  grind [Kept.lostStore, Kept.fail, Kept.foldl]

theorem State.Kept.storesLost {ep} (hs : s.Kept) : (s.storesLost ep).Kept := by
  unfold State.storesLost
  grind [State.Kept, Kept.fail, Kept.foldl]

theorem State.Kept.failGroups {ep} (hs : s.Kept) : (s.failGroups ep).Kept := by
  unfold State.failGroups
  grind [Kept.endBarrier, Kept.foldl]

theorem State.Kept.onHarts {f} (hs : s.Kept)
    (hf : ∀ t, t.Kept → (f t).Kept) : (s.onHarts f).Kept := by
  unfold State.onHarts
  grind [Kept.onHart, Kept.foldl]

theorem execGroupTimeout_kept {endpoint} (hs : s.Kept) : (execGroupTimeout endpoint s).Kept := by
  unfold execGroupTimeout
  grind [State.Kept, Kept.onHarts, Kept.syncLost, Kept.failAll, Kept.asyncLost, Kept.loseSends, Kept.storesLost,
    Kept.txWake, Kept.asyncSweep, Kept.failGroups, Kept.dgrantAgain, Kept.foldl, Out.Kept]

theorem State.Kept.answerPacket {p code data} (hs : s.Kept) : (s.answerPacket p code data).Kept := hs

theorem State.Kept.performAt {p ph} (hs : s.Kept) : (s.performAt p ph).Kept := by
  unfold State.performAt
  grind [Kept.setGmFull, Kept.answerPacket, Kept.gmStore, Kept.packet, Kept.gmAmo, Kept.foldl]

theorem State.Kept.performPacket {d p} (hs : s.Kept) : (s.performPacket d p).Kept := by
  unfold State.performPacket
  grind [Kept.performAt, Kept.answerPacket]

theorem State.Kept.forwardPacket {dest p r} (hs : s.Kept) : (s.forwardPacket dest p r).Kept := by
  unfold State.forwardPacket
  grind [State.Kept, Kept.performAt]

theorem State.Kept.peerPacket {d r p} (hs : s.Kept) : (s.peerPacket d r p).Kept := by
  unfold State.peerPacket
  grind [Kept.forwardPacket, Kept.mapVdev, Kept.performPacket]

theorem State.Kept.newPacket {p} (hs : s.Kept) : (s.newPacket p).Kept := by
  unfold State.newPacket
  grind [Kept.answerPacket, Kept.peerPacket]

theorem State.Kept.chanPacket {p} (hs : s.Kept) {u} (hu : s.chanPacket p = some u) : u.Kept := by
  unfold State.chanPacket at hu
  grind [Kept.answerPacket, Kept.chanPut, Kept.chanClose, Kept.chanTake, Kept.mapChan, Kept.newPacket]

theorem execRequestPacket_kept {p} (hs : s.Kept) : (execRequestPacket p s).Kept := by
  have hc (l : List Served) (u) := Kept.chanPacket (s := { s with served := l }) (p := p) (u := u) hs
  unfold execRequestPacket
  grind [State.Kept, Kept.getD, Out.Kept]

theorem State.Kept.endNet {netid r} (hs : s.Kept) : (s.endNet netid r).Kept := by
  unfold State.endNet
  grind [Kept.endProc, Kept.foldl]

theorem State.Kept.endWhole {netid} (hs : s.Kept) : (s.endWhole netid).Kept := hs.endNet.mapNet

theorem execRankEntryExchange_kept {x} (hs : s.Kept) : (execRankEntryExchange x s).Kept := by
  unfold execRankEntryExchange
  grind [Kept.endNet, Kept.mapNet, Kept.wakeReady, Kept.endGroups, Kept.foldl, Out.Kept]

/-! ### Launch and the sentinel (R365 to R382) -/

theorem State.Kept.engineUse {d n l} (hs : s.Kept) : (s.engineUse d n l).Kept := by
  unfold State.engineUse
  grind [Kept.setAD, Kept.foldl]

theorem State.Kept.status {d netid va code detail} (hs : s.Kept) : (s.status d netid va code detail).Kept := by
  unfold State.status
  grind [State.Kept, Kept.report, Kept.engineUse]

theorem State.Kept.launchWalks {d m} (hs : s.Kept) : (s.launchWalks d m).Kept := by
  unfold State.launchWalks
  grind [Kept.engineUse, Kept.foldl]

theorem State.Kept.loadBlock {t base i k} (hs : s.Kept) : (s.loadBlock t base i k).Kept := hs.tmStoreKey

theorem State.Kept.placeRank {d w r} (hs : s.Kept) {u} (hu : s.placeRank d w r = some u) : u.Kept := by
  unfold State.placeRank at hu
  grind [State.Kept, Kept.loadBlock, Kept.mapNet, Kept.foldl]

theorem State.Kept.placeRanks {d w cnt} (hs : s.Kept) {u} (hu : s.placeRanks d w cnt = some u) : u.Kept := by
  refine List.foldlRecOn (motive := fun o => ∀ u,
    o = some u → u.Kept) (upTo cnt) _ (by grind) (fun o ho k _ u hu => ?_) u hu
  obtain ⟨v, hv, hu⟩ := Option.bind_eq_some_iff.1 hu
  exact (ho v hv).placeRank hu

theorem State.Kept.joinQueue {p} (hs : s.Kept) : (s.joinQueue p).Kept := by
  unfold State.joinQueue
  grind [Kept.enqueue, Kept.mapProc]

theorem State.Kept.startNet {m n} (hs : s.Kept) : (s.startNet m n).Kept := by
  unfold State.startNet
  grind [Kept.mapNet, Kept.joinQueue, Kept.foldl]

theorem State.Kept.endDoomed {d netid} (hs : s.Kept) : (s.endDoomed d netid).Kept := by
  unfold State.endDoomed
  grind [Kept.endProc, Kept.mapVdev, Kept.foldl]

theorem State.Kept.stage {d w} (hs : s.Kept) {u} (hu : s.stage d w = some u) : u.Kept := by
  have hp (l : List Network) (n t) := Kept.placeRanks (s := { s with nets := l })
    (d := d) (w := w) (cnt := n) (u := t) hs
  unfold State.stage at hu
  grind [Kept.startNet, Kept.status, Kept.mapNet, Kept.endDoomed]

theorem State.Kept.go {d m} (hs : s.Kept) : (s.go d m).Kept := by
  unfold State.go
  grind [Kept.status, Kept.launchWalks, Kept.mapProc, Kept.startNet, Kept.foldl]

theorem State.Kept.keep {v w} (hs : s.Kept) : (s.keep v w).Kept := hs

theorem State.Kept.launch {v m} (hs : s.Kept) : (s.launch v m).Kept := by
  unfold State.launch
  grind [Kept.keep, Kept.go, Kept.status, Kept.launchWalks, Kept.stage, Kept.getD]

theorem State.Kept.resumeAt {d i} (hs : s.Kept) {u} (hu : s.resumeAt d i = some u) : u.Kept := by
  unfold State.resumeAt at hu
  grind [Kept.mapVdev, Kept.stage, Kept.launch, Kept.getD]

theorem State.Kept.resumeWaiting (hs : s.Kept) : s.resumeWaiting.Kept :=
  hs.getD (kept_of_findSome? fun _ _ h => kept_of_findSome? (fun _ _ h => hs.resumeAt h) _ h)

theorem execLaunchWaitResume_kept (hs : s.Kept) : (execLaunchWaitResume s).Kept := hs.resumeWaiting

theorem State.Kept.pumpLaunch (hs : s.Kept) : s.pumpLaunch.Kept := by
  unfold State.pumpLaunch
  grind [Kept.launch, Kept.chanTake, Kept.mapChan]

theorem execLaunchChannelClose_kept {netid chan} (hs : s.Kept) : (execLaunchChannelClose netid chan s).Kept := by
  unfold execLaunchChannelClose
  grind [Kept.chanTake, Out.Kept]

theorem execProcessStart_kept {netid rank} (hs : s.Kept) : (execProcessStart netid rank s).Kept := by
  unfold execProcessStart
  grind [Kept.joinQueue, Out.Kept]

theorem State.Kept.statusSweep (hs : s.Kept) : s.statusSweep.Kept := by
  unfold State.statusSweep
  grind [Kept.status, Kept.mapNet, Kept.foldl]

theorem State.Kept.tellDeadlock {n sub first l} (hs : s.Kept) : (s.tellDeadlock n sub first l).Kept := hs

theorem State.Kept.grow {n i c} (hs : s.Kept) {u} (hu : s.grow n i c = some u) : u.Kept := by
  revert hu
  fun_cases State.grow s n i c
  all_goals intro hu
  case case4 =>
    obtain rfl := Option.some.inj hu
    refine Kept.wakeReady (Kept.mapChan (Kept.mapNet (hs.engineUse.foldl fun t j ht => .ite ht ?_)))
    refine ht.gmScatter.foldl fun t w ht => ?_
    split
    · exact ht.poisonGm
    · exact ht
  all_goals cases hu

theorem execSentinelCheck_kept {netid} (hs : s.Kept) : (execSentinelCheck netid s).Kept := by
  unfold execSentinelCheck
  grind [Kept.tellDeadlock, Kept.grow, Kept.getD, Out.Kept]

theorem State.Kept.dropNet {netid} (hs : s.Kept) : (s.dropNet netid).Kept := hs

theorem State.Kept.freeTile {t} (hs : s.Kept) : (s.freeTile t).Kept :=
  ⟨Memory.wf_clear _ _ hs.tm, hs.gm, hs.shards⟩

theorem State.Kept.tryDestroy {v} (hs : s.Kept) : (s.tryDestroy v).Kept := by
  unfold State.tryDestroy
  grind [State.Kept, Kept.freeTile, Kept.reportMgmt, Kept.foldl]

theorem execNetworkCompletion_kept {netid} (hs : s.Kept) : (execNetworkCompletion netid s).Kept := by
  unfold execNetworkCompletion
  grind [Kept.report, Kept.tryDestroy, Kept.dropNet, Out.Kept]

/-! ### The host port (R451 to R454) -/

theorem State.Kept.openConn {c vdid} (hs : s.Kept) : (s.openConn c vdid).Kept := by
  unfold State.openConn
  grind [State.Kept]

theorem State.Kept.counted {c vdid} (hs : s.Kept) : (s.counted c vdid).Kept := hs.openConn.mapConn

theorem State.Kept.sendOn {c cls ep payload} (hs : s.Kept) : (s.sendOn c cls ep payload).Kept := by
  unfold State.sendOn
  grind [Kept.sendTo]

theorem State.Kept.freeSlot {m} (hs : s.Kept) : (s.freeSlot m).Kept := by
  unfold State.freeSlot
  grind [Kept.mapChan, Kept.chanTake]

theorem State.Kept.ackUpTo {conn ack} (hs : s.Kept) : (s.ackUpTo conn ack).Kept := by
  unfold State.ackUpTo
  grind [Kept.mapConn, Kept.freeSlot, Kept.foldl]

theorem execGhtAck_kept {conn ack} (hs : s.Kept) : (execGhtAck conn ack s).Kept := hs.ackUpTo

theorem execGhtRetransmit_kept {conn} (hs : s.Kept) : (execGhtRetransmit conn s).Kept := by
  unfold execGhtRetransmit
  grind [State.Kept, Kept.mapConn, Out.Kept]

theorem execGhtConnectionReset_kept {conn} (hs : s.Kept) : (execGhtConnectionReset conn s).Kept := by
  unfold execGhtConnectionReset
  grind [State.Kept, Kept.reportMgmt, Out.Kept]

theorem State.Kept.sendReport {r} (hs : s.Kept) : (s.sendReport r).Kept := hs

theorem State.Kept.sendWaiting {x} (hs : s.Kept) : (s.sendWaiting x).Kept := by
  unfold State.sendWaiting
  grind [State.Kept, Kept.sendTo]

theorem State.Kept.sendAck {x} (hs : s.Kept) : (s.sendAck x).Kept := by
  unfold State.sendAck
  grind [State.Kept, Kept.mapConn]

theorem State.Kept.pumpOut (hs : s.Kept) : s.pumpOut.Kept := by
  unfold State.pumpOut
  grind [State.Kept, Kept.sendReport, Kept.sendWaiting, Kept.sendAck, Kept.foldl]

theorem State.Kept.discard {m reason} (hs : s.Kept) : (s.discard m reason).Kept := hs

theorem State.Kept.hostSlot {m} (hs : s.Kept) {u} (hu : s.hostSlot m = some u) : u.Kept := by
  unfold State.hostSlot at hu
  grind [Kept.discard, Kept.chanPut]

theorem State.Kept.hostClose {m} (hs : s.Kept) {u} (hu : s.hostClose m = some u) : u.Kept := by
  unfold State.hostClose at hu
  grind [Kept.chanClose]

theorem State.Kept.hostWrite {m} (hs : s.Kept) : (s.hostWrite m).Kept := by
  unfold State.hostWrite
  grind [Kept.sendOn, Kept.gmStoreRange, Kept.engineUse]

theorem State.Kept.hostRead {m} (hs : s.Kept) : (s.hostRead m).Kept := by
  unfold State.hostRead
  grind [Kept.sendOn, Kept.engineUse]

theorem State.Kept.perform {cls m} (hs : s.Kept) {u} (hu : s.perform cls m = some u) : u.Kept := by
  unfold State.perform at hu
  grind [Kept.launch, Kept.hostSlot, Kept.hostClose, Kept.hostWrite, Kept.hostRead, Kept.getD]

theorem State.Kept.receive {cls m} (hs : s.Kept) : (s.receive cls m).Kept := by
  unfold State.receive
  grind [Kept.openConn, Kept.mapConn, Kept.perform, Kept.counted, Kept.getD]

theorem State.Kept.pumpHeld (hs : s.Kept) : s.pumpHeld.Kept := by
  refine hs.getD (kept_of_findSome? fun x u hu => ?_)
  split at hu
  · cases hu
  · exact hs.mapConn.perform hu

theorem execLaunchStage_kept {hh msg} (hs : s.Kept) : (execLaunchStage hh msg s).Kept := by
  unfold execLaunchStage
  grind [Kept.receive, Out.Kept]

theorem execLaunchGo_kept {hh msg} (hs : s.Kept) : (execLaunchGo hh msg s).Kept := by
  unfold execLaunchGo
  grind [Kept.receive, Out.Kept]

theorem execLaunchStageAndStart_kept {hh msg} (hs : s.Kept) : (execLaunchStageAndStart hh msg s).Kept := by
  unfold execLaunchStageAndStart
  grind [Kept.receive, Out.Kept]

theorem execHostChannelSlot_kept {m} (hs : s.Kept) : (execHostChannelSlot m s).Kept := hs.receive

theorem execHostChannelClose_kept {m} (hs : s.Kept) : (execHostChannelClose m s).Kept := hs.receive

theorem execHostMemoryWrite_kept {m} (hs : s.Kept) : (execHostMemoryWrite m s).Kept := hs.receive

theorem execHostMemoryRead_kept {m} (hs : s.Kept) : (execHostMemoryRead m s).Kept := hs.receive

/-! ### Requests of the supervisor and the management MAC -/

theorem State.Kept.answer {r result detail data} (hs : s.Kept) : (s.answer r result detail data).Kept := by
  unfold State.answer
  grind [Kept.reportMgmt, Kept.report]

theorem State.Kept.countRequest {r} (hs : s.Kept) : (s.countRequest r).Kept := by
  unfold State.countRequest
  grind [Kept.counted]

theorem State.Kept.onRequest {r code act} (hs : s.Kept)
    (hact : ∀ t, t.Kept → (act t).Kept) : (s.onRequest r code act).Kept := by
  unfold State.onRequest
  grind [Kept.countRequest, Kept.answer]

theorem execUnknownRequest_kept {r} (hs : s.Kept) : (execUnknownRequest r s).Kept := by
  unfold execUnknownRequest
  grind [Kept.countRequest, Kept.answer, Out.Kept]

theorem State.Kept.reqDev {r act} (hs : s.Kept)
    (hact : ∀ t a, t.Kept → (act t a).Kept) : (s.reqDev r act).Kept := by
  unfold State.reqDev
  grind [Kept.answer]

theorem execShootdown_kept {r} (hs : s.Kept) : (execShootdown r s).Kept := by
  unfold execShootdown
  grind [State.Kept, Kept.onRequest, Kept.reqDev, Kept.setTile, Kept.answer, Kept.foldl, Out.Kept]

theorem State.Kept.shootSweep (hs : s.Kept) : s.shootSweep.Kept := by
  unfold State.shootSweep
  grind [State.Kept, Kept.answer, Kept.foldl]

theorem State.Kept.mcastSweep (hs : s.Kept) : s.mcastSweep.Kept := hs

theorem execMulticastGroup_kept {r} (hs : s.Kept) : (execMulticastGroup r s).Kept := by
  unfold execMulticastGroup
  grind [State.Kept, Kept.onRequest, Kept.answer, Out.Kept]

theorem State.Kept.endWaiting {d w} (hs : s.Kept) : (s.endWaiting d w).Kept := by
  unfold State.endWaiting
  grind [State.Kept, Kept.mapVdev, Kept.status, Kept.endProc, Kept.foldl]

theorem execEndNetwork_kept {r} (hs : s.Kept) : (execEndNetwork r s).Kept := by
  unfold execEndNetwork
  grind [Kept.onRequest, Kept.answer, Kept.endWhole, Kept.endWaiting, Out.Kept]

theorem execEndProcess_kept {r} (hs : s.Kept) : (execEndProcess r s).Kept := by
  unfold execEndProcess
  grind [Kept.onRequest, Kept.answer, Kept.endProc, Kept.mapVdev, Out.Kept]

theorem execPartition_kept {r} (hs : s.Kept) : (execPartition r s).Kept := by
  unfold execPartition
  grind [Kept.onRequest, Kept.reqDev, Kept.answer, Kept.repartition, Out.Kept]

theorem execReadRankEntries_kept {r} (hs : s.Kept) : (execReadRankEntries r s).Kept := by
  unfold execReadRankEntries
  grind [Kept.onRequest, Kept.answer, Out.Kept]

theorem State.Kept.healthOf {r tiles} (hs : s.Kept) : (s.healthOf r tiles).Kept := by
  unfold State.healthOf
  grind [Kept.answer]

theorem execReadHealth_kept {r} (hs : s.Kept) : (execReadHealth r s).Kept := by
  unfold execReadHealth
  grind [Kept.onRequest, Kept.healthOf, Kept.reqDev, Out.Kept]

theorem execReadCharge_kept {r} (hs : s.Kept) : (execReadCharge r s).Kept := by
  unfold execReadCharge
  grind [Kept.onRequest, Kept.answer, Out.Kept]

theorem execDeviceAttestation_kept {r} (hs : s.Kept) : (execDeviceAttestation r s).Kept := by
  unfold execDeviceAttestation
  grind [Kept.onRequest, Kept.reqDev, Kept.answer, Out.Kept]

theorem execPackageAttestation_kept {r} (hs : s.Kept) : (execPackageAttestation r s).Kept := by
  unfold execPackageAttestation
  grind [Kept.onRequest, Kept.answer, Out.Kept]

theorem State.Kept.clearRegion {r} (hs : s.Kept) : (s.clearRegion r).Kept :=
  ⟨hs.tm, Memory.wf_clear _ _ hs.gm, hs.shards⟩

theorem State.Kept.giveTile {b v t} (hs : s.Kept) : (s.giveTile b v t).Kept := by
  unfold State.giveTile
  grind [Kept.freeTile, Kept.tmStoreKey, Kept.setTile]

theorem execCreate_kept {r} (hs : s.Kept) : (execCreate r s).Kept := by
  unfold execCreate
  grind [State.Kept, Kept.onRequest, Kept.answer, Kept.clearRegion, Kept.giveTile, Kept.foldl, Out.Kept]

theorem execDestroy_kept {r} (hs : s.Kept) : (execDestroy r s).Kept := by
  unfold execDestroy
  grind [Kept.onRequest, Kept.answer, Kept.tryDestroy, Kept.mapVdev, Out.Kept]

theorem execKeyLoad_kept {r} (hs : s.Kept) : (execKeyLoad r s).Kept := by
  unfold execKeyLoad
  grind [State.Kept, Kept.onRequest, Kept.answer, Out.Kept]

theorem execKeyErase_kept {r} (hs : s.Kept) : (execKeyErase r s).Kept := by
  unfold execKeyErase
  grind [State.Kept, Kept.onRequest, Kept.answer, Out.Kept]

theorem execSetOkek_kept {r} (hs : s.Kept) : (execSetOkek r s).Kept := by
  unfold execSetOkek
  grind [State.Kept, Kept.onRequest, Kept.answer, Out.Kept]

theorem execLogRead_kept {r} (hs : s.Kept) : (execLogRead r s).Kept :=
  hs.onRequest fun _ ht => (ht.sealLog.withLastRead _).answer

theorem execArchive_kept {r} (hs : s.Kept) : (execArchive r s).Kept := by
  unfold execArchive
  grind [State.Kept, Kept.onRequest, Kept.answer, Kept.writeEntry, Out.Kept]

theorem execIslandLimits_kept {r} (hs : s.Kept) : (execIslandLimits r s).Kept := by
  unfold execIslandLimits
  grind [Kept.onRequest, Kept.answer, Kept.setIsland, Out.Kept]

theorem execConfiguration_kept {r} (hs : s.Kept) : (execConfiguration r s).Kept := by
  unfold execConfiguration
  grind [State.Kept, Kept.onRequest, Kept.answer, Out.Kept]

theorem execFirmwareUpdate_kept {r} (hs : s.Kept) : (execFirmwareUpdate r s).Kept := by
  unfold execFirmwareUpdate
  grind [State.Kept, Kept.onRequest, Kept.answer, Out.Kept]

/-! ### Migration, checkpoints and restore (R403 to R407, R461 to R468) -/

theorem State.Kept.setStop {f b} (hs : s.Kept) : (s.setStop f b).Kept := hs

theorem State.Kept.migrated {g result} (hs : s.Kept) : (s.migrated g result).Kept := hs

theorem execMigrate_kept {r} (hs : s.Kept) : (execMigrate r s).Kept := by
  unfold execMigrate
  grind [State.Kept, Kept.onRequest, Kept.reqDev, Kept.answer, Kept.migrated, Kept.mapVdev, Out.Kept]

theorem State.Kept.mapMig {v f} (hs : s.Kept) : (s.mapMig v f).Kept := hs

theorem State.Kept.copyUnit {d dest id u} (hs : s.Kept) : (s.copyUnit d dest id u).Kept := by
  have hw (a bs) : CanonMems s.tm (s.gm.store a bs) s.shards := ⟨hs.tm, Memory.wf_store _ _ hs.gm, hs.shards⟩
  unfold State.copyUnit
  grind [State.Kept, Kept.logGmPois]

theorem State.Kept.copyOn {d g} (hs : s.Kept) : (s.copyOn d g).Kept := by
  unfold State.copyOn
  grind [Kept.mapMig, Kept.copyUnit, Kept.mapVdev, Kept.setStop]

theorem State.Kept.mapEntries {v f} (hs : s.Kept) : (s.mapEntries v f).Kept := hs

theorem execMigrationQuiesced_kept {vdid} (hs : s.Kept) : (execMigrationQuiesced vdid s).Kept := by
  unfold execMigrationQuiesced
  grind [Kept.mapMig, Kept.mapEntries, Kept.stopCmds, Out.Kept]

theorem State.Kept.rewriteTable {f lvl table} (hs : s.Kept) : (State.rewriteTable f lvl s table).Kept := by
  induction lvl generalizing s table with
  | zero => exact hs
  | succ lvl ih =>
    refine hs.foldl fun t i ht => ?_
    have hw (a bs) : ({ t with gm := t.gm.store a bs }).Kept := ⟨ht.tm, Memory.wf_store _ _ ht.gm, ht.shards⟩
    grind

theorem State.Kept.moveAway {d} (hs : s.Kept) : (s.moveAway d).Kept := by
  unfold State.moveAway
  grind [State.Kept, Kept.freeTile, Kept.mapVdev, Kept.foldl]

theorem State.Kept.handOver {d g} (hs : s.Kept) : (s.handOver d g).Kept := by
  unfold State.handOver
  grind [State.Kept, Kept.rewriteTable, Kept.moveAway, Kept.forwardPacket, Kept.migrated, Kept.foldl]

theorem State.Kept.migrateOn (hs : s.Kept) : s.migrateOn.Kept := by
  unfold State.migrateOn
  grind [Kept.handOver, Kept.copyOn, Kept.foldl]

theorem execMigrationAbort_kept {vdid stoplim} (hs : s.Kept) : (execMigrationAbort vdid stoplim s).Kept := by
  unfold execMigrationAbort
  grind [Kept.resumeCmds, Kept.setStop, Kept.mapEntries, Kept.migrated, Kept.mapVdev, Kept.performPacket, Kept.foldl,
    Out.Kept]

theorem execPeersUpdated_kept {r} (hs : s.Kept) : (execPeersUpdated r s).Kept := by
  unfold execPeersUpdated
  grind [State.Kept, Kept.onRequest, Kept.reqDev, Kept.answer, Out.Kept]

theorem State.Kept.dropCkpt {job} (hs : s.Kept) : (s.dropCkpt job).Kept := hs

theorem State.Kept.progress {c st} (hs : s.Kept) : (s.progress c st).Kept := hs

theorem execCheckpoint_kept {r} (hs : s.Kept) : (execCheckpoint r s).Kept := by
  unfold execCheckpoint
  grind [State.Kept, Kept.onRequest, Kept.reqDev, Kept.answer, Kept.setStop, Out.Kept]

theorem execCheckpointQuiesced_kept {job} (hs : s.Kept) : (execCheckpointQuiesced job s).Kept := by
  unfold execCheckpointQuiesced
  grind [State.Kept, Kept.report, Kept.progress, Out.Kept]

theorem execCheckpointAbandon_kept {job} (hs : s.Kept) : (execCheckpointAbandon job s).Kept := by
  unfold execCheckpointAbandon
  grind [Kept.report, Kept.progress, Kept.dropCkpt, Kept.setStop, Out.Kept]

theorem State.Kept.tmChunk (hs : s.Kept) (t base n) : (s.tmChunk t base n).cells.wf = true := Memory.wf_filter _ hs.tm

theorem State.Kept.gmChunk (hs : s.Kept) (k n) : (s.gmChunk k n).cells.wf = true := Memory.wf_filter _ hs.gm

theorem State.Kept.vaChunks {d va n} (hs : s.Kept) : ∀ k ∈ s.vaChunks d va n, k.cells.wf = true := by
  intro k hk
  obtain ⟨a, -, ha⟩ := List.mem_filterMap.1 hk
  obtain ⟨r, -, rfl⟩ := Option.map_eq_some_iff.1 ha
  exact hs.gmChunk _ _

/-- The chunks of a shard that COPY takes are canonical: each is a part of a memory. -/
theorem State.Kept.shardOf {c} (hs : s.Kept) : ∀ k ∈ (s.shardOf c).chunks, k.cells.wf = true := by
  have htm := hs.tmChunk
  have hgm := hs.gmChunk
  have hva {d va n} := hs.vaChunks (d := d) (va := va) (n := n)
  unfold State.shardOf
  grind

theorem State.Kept.storeChunks {x} (hs : s.Kept) : (s.storeChunks x).Kept := by
  unfold State.storeChunks
  grind [State.Kept, Kept.foldl]

theorem newestShard_mem {l : List Shard} {x : Shard} (h : newestShard l = some x) : x ∈ l := by
  refine List.foldlRecOn (motive := fun o => ∀ x, o = some x → x ∈ l) l _ (by simp) (fun o ho y hy x hx => ?_) x h
  grind

theorem State.Kept.keepShard {x} (hs : s.Kept) (hx : ∀ k ∈ x.chunks, k.cells.wf = true) : (s.keepShard x).Kept := by
  refine ⟨hs.tm, hs.gm, fun y hy => ?_⟩
  have hsh := hs.shards
  grind [State.keepShard, State.shardsBeside, → newestShard_mem]

theorem execCopy_kept {r} (hs : s.Kept) : (execCopy r s).Kept := by
  refine hs.onRequest fun t ht => ht.reqDev fun u d hu => ?_
  dsimp only
  split
  · exact hu.answer
  · have hx (c) := hu.shardOf (c := c)
    grind [State.Kept, State.sealShard, Kept.setStop, Kept.storeChunks, Kept.dropCkpt, Kept.progress, Kept.answer,
      Kept.keepShard]

theorem execBuddySeal_kept {job} (hs : s.Kept) : (execBuddySeal job s).Kept := by
  unfold execBuddySeal
  grind [Kept.progress, Kept.dropCkpt, Out.Kept]

theorem State.Kept.discardNets {l} (hs : s.Kept) : (s.discardNets l).Kept := by
  unfold State.discardNets
  grind [State.Kept, Kept.freeHarts, Kept.dequeue, Kept.foldl]

theorem State.Kept.takeTm {lo len m full pois} (hs : s.Kept) : (s.takeTm lo len m full pois).Kept :=
  ⟨Memory.wf_takeRange hs.tm, hs.gm, hs.shards⟩

theorem State.Kept.loadTm {nets c} (hs : s.Kept) : (s.loadTm nets c).Kept := by
  unfold State.loadTm
  grind [Kept.takeTm, Kept.logMoved, Kept.foldl]

theorem State.Kept.loadGm {c} (hs : s.Kept) : (s.loadGm c).Kept := by
  refine .ite hs (Kept.logGmPois ?_)
  exact ⟨hs.tm, Memory.wf_takeRange hs.gm, hs.shards⟩

theorem State.Kept.loadShard {x spare failed} (hs : s.Kept) : (s.loadShard x spare failed).Kept := by
  unfold State.loadShard
  grind [State.Kept, Kept.discardNets, Kept.loadGm, Kept.loadTm, Kept.wakeReady, Kept.enqueue, Kept.foldl]

theorem State.Kept.retable {d spare failed} (hs : s.Kept) : (s.retable d spare failed).Kept := hs.rewriteTable.mapVdev

theorem State.Kept.restored {r job step result} (hs : s.Kept) : (s.restored r job step result).Kept :=
  hs.report.answer

theorem State.Kept.stepsHeld {r job} (hs : s.Kept) : (s.stepsHeld r job).Kept := hs

theorem execRestore_kept {r} (hs : s.Kept) : (execRestore r s).Kept := by
  unfold execRestore
  grind [Kept.onRequest, Kept.reqDev, Kept.answer, Kept.stepsHeld, Kept.restored, Kept.retable, Kept.loadShard,
    Kept.dropCkpt, Out.Kept]

/-! ### What follows every step -/

theorem State.Kept.countFor {s₀ b} (hs : s.Kept) : (State.countFor s₀ s b).Kept := by
  unfold State.countFor
  grind [Kept.mapProc]

theorem State.Kept.account {s₀ i own} (hs : s.Kept) : (State.account s₀ s i own).Kept := by
  unfold State.account
  grind [Kept.countFor, Kept.mapProc, Kept.mapHarts, Kept.foldl]

theorem State.Kept.pass (hs : s.Kept) : s.pass.Kept := hs

theorem State.Kept.startOne {q} (hs : s.Kept) : (s.startOne q).Kept := by
  unfold State.startOne
  grind [Kept.joinQueue]

theorem State.Kept.queueUp (hs : s.Kept) : s.queueUp.Kept := by
  unfold State.queueUp
  grind [Kept.wakeOne, Kept.startOne, Kept.foldl]

theorem State.Kept.engines (hs : s.Kept) : s.engines.Kept := by
  unfold State.engines
  grind [Kept.pumpOut, Kept.migrateOn, Kept.mcastSweep, Kept.shootSweep, Kept.tlbWake, Kept.statusSweep,
    Kept.pumpLaunch, Kept.pumpHeld, Kept.resumeWaiting, Kept.queueUp]

theorem State.Kept.noteChanges {s₀} (hs : s.Kept) : (State.noteChanges s₀ s).Kept := hs

theorem State.Kept.chooseHart (hs : s.Kept) : s.chooseHart.Kept := by
  unfold State.chooseHart
  grind [State.Kept, Kept.select]

theorem State.Kept.finish {s₀ i own} (hs : s.Kept) : (State.finish s₀ s i own).Kept := by
  unfold State.finish
  grind [Kept.chooseHart, Kept.noteChanges, Kept.silicon, Kept.engines, Kept.pass, Kept.account]

/-! ### Branches and jumps -/

theorem State.Kept.branch {m a b i taken} (hs : s.Kept) : (s.branch m a b i taken).Kept := by
  unfold State.branch
  grind [Kept.issueX, Kept.setPc, Out.Kept]

theorem execBeq_kept {a b i} (hs : s.Kept) : (execBeq a b i s).Kept := hs.branch

theorem execBne_kept {a b i} (hs : s.Kept) : (execBne a b i s).Kept := hs.branch

theorem execBlt_kept {a b i} (hs : s.Kept) : (execBlt a b i s).Kept := hs.branch

theorem execBge_kept {a b i} (hs : s.Kept) : (execBge a b i s).Kept := hs.branch

theorem execBltu_kept {a b i} (hs : s.Kept) : (execBltu a b i s).Kept := hs.branch

theorem execBgeu_kept {a b i} (hs : s.Kept) : (execBgeu a b i s).Kept := hs.branch

theorem execJ_kept {i} (hs : s.Kept) : (execJ i s).Kept := by
  unfold execJ
  grind [Kept.issue, Kept.setPc, Out.Kept]

theorem execJal_kept {i} (hs : s.Kept) : (execJal i s).Kept := by
  unfold execJal
  grind [Kept.issue, Kept.setPc, Kept.setX, Out.Kept]

theorem execJalr_kept {d a i} (hs : s.Kept) : (execJalr d a i s).Kept := by
  unfold execJalr
  grind [Kept.issueX, Kept.trap, Kept.setPc, Kept.setX, Out.Kept]

/-! ### Frames and requests by code -/

theorem requestExec_kept {code r} (hs : s.Kept) : (requestExec code r s).Kept := by
  unfold requestExec
  split
  exacts [execShootdown_kept hs, execMigrate_kept hs, execPeersUpdated_kept hs, execMulticastGroup_kept hs,
    execCheckpoint_kept hs, execCopy_kept hs, execRestore_kept hs, execDeviceAttestation_kept hs,
    execEndNetwork_kept hs, execEndProcess_kept hs, execPartition_kept hs, execReadRankEntries_kept hs,
    execReadHealth_kept hs, execReadCharge_kept hs, execCreate_kept hs, execDestroy_kept hs, execKeyLoad_kept hs,
    execKeyErase_kept hs, execPackageAttestation_kept hs, execLogRead_kept hs, execArchive_kept hs,
    execIslandLimits_kept hs, execSetOkek_kept hs, execConfiguration_kept hs, execFirmwareUpdate_kept hs,
    execUnknownRequest_kept hs]

theorem State.Kept.request {r} (hs : s.Kept) : (s.request r).Kept := by
  have hr := requestExec_kept (code := reqCode r) (r := r) hs
  unfold State.request
  split
  case h_1 t ht => rwa [ht] at hr
  case h_2 => exact hs

theorem State.Kept.deliver {cls m} (hs : s.Kept) : (s.deliver cls m).Kept := by
  unfold State.deliver
  split
  any_goals exact hs.receive
  any_goals exact hs.request
  exact hs

theorem State.Kept.frameIn {f} (hs : s.Kept) : (s.frameIn f).Kept := by
  unfold State.frameIn
  grind [Kept.ackUpTo, Kept.openConn, Kept.mapConn, Kept.deliver]

theorem execGhtFrameDropped_kept {frame} (hs : s.Kept) : (execGhtFrameDropped frame s).Kept := by
  unfold execGhtFrameDropped
  grind [State.Kept, Kept.frameIn, Out.Kept]

/-! ### FORKL and JOINL -/

theorem execForkl_kept {i} (hs : s.Kept) : (execForkl i s).Kept := by
  unfold execForkl
  grind [State.Kept, Kept.issue, Kept.advance, Out.Kept]

theorem State.Kept.leaveJoin (hs : s.Kept) : s.leaveJoin.Kept := by
  unfold State.leaveJoin
  grind [State.Kept]

theorem State.Kept.joinlGo (hs : s.Kept) : s.joinlGo.Kept := by
  unfold State.joinlGo
  grind [State.Kept, Kept.block, Kept.leaveJoin, Kept.advance]

theorem execJoinl_kept (hs : s.Kept) : (execJoinl s).Kept := by
  unfold execJoinl
  grind [Kept.issue, Kept.joinlGo, Out.Kept]

theorem execJoinlComplete_kept (hs : s.Kept) : (execJoinlComplete s).Kept := by
  unfold execJoinlComplete
  grind [Kept.joinlGo, Kept.unblock, Out.Kept]

/-! ### Vector floating point -/

theorem State.Kept.vfp {fn d a b p sc vcfg f} (hs : s.Kept) : (s.vfp fn d a b p sc vcfg f).Kept := hs.vvBin

theorem State.Kept.vfp1 {fn d a p vcfg f} (hs : s.Kept) : (s.vfp1 fn d a p vcfg f).Kept := hs.vvUn

theorem State.Kept.vfcmp {fn d a b p sc c} (hs : s.Kept) : (s.vfcmp fn d a b p sc c).Kept := hs.vvCmp

theorem State.Kept.vfused {fn d a b p sc negP negC} (hs : s.Kept) : (s.vfused fn d a b p sc negP negC).Kept := by
  unfold State.vfused
  grind [Kept.vrun, Kept.elemLoop, Out.Kept, VEnd.Kept]

theorem execVfadd_kept {d a b p sc} (hs : s.Kept) : (execVfadd d a b p sc s).Kept := hs.vfp

theorem execVfsub_kept {d a b p sc} (hs : s.Kept) : (execVfsub d a b p sc s).Kept := hs.vfp

theorem execVfmul_kept {d a b p sc} (hs : s.Kept) : (execVfmul d a b p sc s).Kept := hs.vfp

theorem execVfdiv_kept {d a b p sc} (hs : s.Kept) : (execVfdiv d a b p sc s).Kept := hs.vfp

theorem execVfmin_kept {d a b p sc} (hs : s.Kept) : (execVfmin d a b p sc s).Kept := hs.vfp

theorem execVfmax_kept {d a b p sc} (hs : s.Kept) : (execVfmax d a b p sc s).Kept := hs.vfp

theorem execVfsqrt_kept {d a p} (hs : s.Kept) : (execVfsqrt d a p s).Kept := hs.vfp1

theorem execVfcmpEq_kept {d a b p sc} (hs : s.Kept) : (execVfcmpEq d a b p sc s).Kept := hs.vfcmp

theorem execVfcmpNe_kept {d a b p sc} (hs : s.Kept) : (execVfcmpNe d a b p sc s).Kept := hs.vfcmp

theorem execVfcmpLt_kept {d a b p sc} (hs : s.Kept) : (execVfcmpLt d a b p sc s).Kept := hs.vfcmp

theorem execVfcmpLe_kept {d a b p sc} (hs : s.Kept) : (execVfcmpLe d a b p sc s).Kept := hs.vfcmp

theorem execVfcmpGt_kept {d a b p sc} (hs : s.Kept) : (execVfcmpGt d a b p sc s).Kept := hs.vfcmp

theorem execVfcmpGe_kept {d a b p sc} (hs : s.Kept) : (execVfcmpGe d a b p sc s).Kept := hs.vfcmp

theorem execVfcmpUn_kept {d a b p sc} (hs : s.Kept) : (execVfcmpUn d a b p sc s).Kept := hs.vfcmp

theorem execVfsgnJ_kept {d a b p sc} (hs : s.Kept) : (execVfsgnJ d a b p sc s).Kept := hs.vfp

theorem execVfsgnJn_kept {d a b p sc} (hs : s.Kept) : (execVfsgnJn d a b p sc s).Kept := hs.vfp

theorem execVfsgnJx_kept {d a b p sc} (hs : s.Kept) : (execVfsgnJx d a b p sc s).Kept := hs.vfp

theorem execVfclass_kept {d a p} (hs : s.Kept) : (execVfclass d a p s).Kept := hs.vfp1

theorem State.Kept.drew {n} (hs : s.Kept) : (s.drew n).Kept := hs

theorem VEnd.Kept.drew {e : VEnd} (he : e.Kept) (l : List Nat) : (e.drew l).Kept := by
  cases e with
  | done s => exact State.Kept.drew (s := s) (n := l.length) he
  | stop s c v i pr td => exact State.Kept.drew (s := s) (n := rankIn l i) he
  | wait s => exact he

theorem State.Kept.vfcvt {word d a p ws draws f} (hs : s.Kept) : (s.vfcvt word d a p ws draws f).Kept := by
  refine hs.vrun fun t h ht => ?_
  dsimp only
  split
  · exact VEnd.Kept.drew ht.elemLoop _
  · exact ht.elemLoop

theorem execVfcvtFf_kept {d a src p} (hs : s.Kept) : (execVfcvtFf d a src p s).Kept := by
  unfold execVfcvtFf
  grind [Kept.vfcvt]

theorem execVfcvtFs_kept {d a src p} (hs : s.Kept) : (execVfcvtFs d a src p s).Kept := by
  unfold execVfcvtFs
  grind [Kept.vfcvt]

theorem execVfcvtFu_kept {d a src p} (hs : s.Kept) : (execVfcvtFu d a src p s).Kept := by
  unfold execVfcvtFu
  grind [Kept.vfcvt]

theorem execVfcvtIf_kept {d a u wd p} (hs : s.Kept) : (execVfcvtIf d a u wd p s).Kept := by
  unfold execVfcvtIf
  grind [Kept.vfcvt]

theorem execVfrcpe_kept {d a p} (hs : s.Kept) : (execVfrcpe d a p s).Kept := hs.vfp1

theorem execVfrcps_kept {d a b p sc} (hs : s.Kept) : (execVfrcps d a b p sc s).Kept := hs.vfp

theorem execVfrsqe_kept {d a p} (hs : s.Kept) : (execVfrsqe d a p s).Kept := hs.vfp1

theorem execVfrsqs_kept {d a b p sc} (hs : s.Kept) : (execVfrsqs d a b p sc s).Kept := hs.vfp

theorem execVfexp2_kept {d a p} (hs : s.Kept) : (execVfexp2 d a p s).Kept := hs.vfp1

theorem execVflog2_kept {d a p} (hs : s.Kept) : (execVflog2 d a p s).Kept := hs.vfp1

theorem execVfma_kept {d a b p sc} (hs : s.Kept) : (execVfma d a b p sc s).Kept := hs.vfused

theorem execVfms_kept {d a b p sc} (hs : s.Kept) : (execVfms d a b p sc s).Kept := hs.vfused

theorem execVfnma_kept {d a b p sc} (hs : s.Kept) : (execVfnma d a b p sc s).Kept := hs.vfused

theorem execVfnms_kept {d a b p sc} (hs : s.Kept) : (execVfnms d a b p sc s).Kept := hs.vfused

/-! ### Long accumulators -/

theorem State.Kept.setAcc {n a} (hs : s.Kept) : (s.setAcc n a).Kept := hs

theorem State.Kept.accInstr {w reads body} (hs : s.Kept)
    (hbody : ∀ t, t.Kept → (body t).Kept) : (s.accInstr w reads body).Kept := by
  unfold State.accInstr
  grind [Kept.issue, Kept.trap, Kept.advance, Kept.spin, Out.Kept]

theorem execEaclr_kept {d} (hs : s.Kept) : (execEaclr d s).Kept := by
  unfold execEaclr
  grind [Kept.accInstr, Kept.setAcc]

theorem execEaaddx_kept {d a} (hs : s.Kept) : (execEaaddx d a s).Kept := by
  unfold execEaaddx
  grind [Kept.accInstr, Kept.setAcc]

theorem execEamov_kept {d a} (hs : s.Kept) : (execEamov d a s).Kept := by
  unfold execEamov
  grind [Kept.accInstr, Kept.setAcc]

theorem execEarnd_kept {d a m f} (hs : s.Kept) : (execEarnd d a m f s).Kept := by
  unfold execEarnd
  grind [Kept.accInstr, Kept.raise, Kept.setX]

theorem State.Kept.accLoop {pois d f l fl} (hs : s.Kept) : (s.accLoop pois d f l fl).Kept := by
  induction l generalizing s fl with
  | nil => exact hs.raise
  | cons i l ih => grind [State.accLoop, Kept.setAcc, Kept.raise, VEnd.Kept]

theorem State.Kept.accBody {pois d p f} (hs : s.Kept) : (s.accBody pois d p f).Kept := by
  unfold State.accBody
  grind [Kept.stopZero, Kept.accLoop]

theorem execEaadd_kept {d a p} (hs : s.Kept) : (execEaadd d a p s).Kept := by
  unfold execEaadd
  grind [Kept.vrun, Kept.accBody, Out.Kept, VEnd.Kept]

theorem execEadot_kept {d a b p sc} (hs : s.Kept) : (execEadot d a b p sc s).Kept := by
  unfold execEadot
  grind [Kept.vrun, Kept.accBody, Out.Kept, VEnd.Kept]

/-! ### Matrix instructions -/

theorem execMshape_kept {d a b} (hs : s.Kept) : (execMshape d a b s).Kept := by
  unfold execMshape
  grind [State.Kept, Kept.issueX, Kept.trap, Kept.advance, Kept.setX, Out.Kept]

theorem execMpack_kept {d a q p} (hs : s.Kept) : (execMpack d a q p s).Kept := by
  unfold execMpack
  grind [Kept.mrun, Kept.stopZero, Kept.tmStore, Kept.drew, Kept.raise, Kept.foldl, Out.Kept, VEnd.Kept]

theorem execMunpk_kept {d a q p} (hs : s.Kept) : (execMunpk d a q p s).Kept := by
  unfold execMunpk
  grind [State.Kept, Kept.mrun, Kept.stopBefore, Kept.tmVecLoop, Kept.raise, Out.Kept, VEnd.Kept]

theorem execMzero_kept {k} (hs : s.Kept) : (execMzero k s).Kept := by
  unfold execMzero
  grind [State.Kept, Kept.issue, Kept.advance, Kept.foldl, Out.Kept]

theorem State.Kept.mmaBlock {k oa ob kb} (hs : s.Kept) : (s.mmaBlock k oa ob kb).Kept := hs

theorem State.Kept.mmaLoop {k oa ob l} (hs : s.Kept) : (s.mmaLoop k oa ob l).Kept := by
  induction l generalizing s with
  | nil => exact hs
  | cons kb l ih => grind [State.mmaLoop, Kept.mmaBlock, VEnd.Kept]

theorem execMma_kept {a b k} (hs : s.Kept) : (execMma a b k s).Kept := by
  unfold execMma
  grind [Kept.mrun, Kept.stopBefore, Kept.mmaLoop, Out.Kept, VEnd.Kept]

theorem State.Kept.drainLoop {data f addr wd put l fl} (hs : s.Kept) (hput : ∀ t e a bs,
    t.Kept → (put t e a bs).Kept) :
    (s.drainLoop data f addr wd put l fl).Kept := by
  induction l generalizing s fl with
  | nil => exact hs.raise
  | cons e l ih => grind [State.drainLoop, Kept.raise, VEnd.Kept]

theorem State.Kept.drainGm {es e va bs} (hs : s.Kept) : (s.drainGm es e va bs).Kept := by
  unfold State.drainGm
  grind [State.Kept, Kept.foldl]

theorem execMdrain_kept {c a b p k m g} (hs : s.Kept) : (execMdrain c a b p k m g s).Kept := by
  refine hs.mrun fun t h ht => ?_
  have fin {e : VEnd} (he : e.Kept) : (if vtSr t.hart.vtype then e.drew (t.actives p) else e).Kept := by
    split
    · exact he.drew _
    · exact he
  dsimp only
  split
  · split
    · exact ht.stopBefore
    · exact fin (ht.drainLoop fun u e a bs hu => hu.tmStore)
  · split
    · exact ht.gmVecProbe.stopBefore
    · exact fin ((ht.gmVecProbe.gmVecUse.withAsyncs _).drainLoop fun u e a bs hu => hu.drainGm)

/-! ### Multiply and divide -/

theorem State.Kept.mulRR {fn d a b f} (hs : s.Kept) : (s.mulRR fn d a b f).Kept := hs.scalar

theorem execMul_kept {d a b} (hs : s.Kept) : (execMul d a b s).Kept := hs.mulRR

theorem execMulh_kept {d a b} (hs : s.Kept) : (execMulh d a b s).Kept := hs.mulRR

theorem execMulhu_kept {d a b} (hs : s.Kept) : (execMulhu d a b s).Kept := hs.mulRR

theorem execMulhsu_kept {d a b} (hs : s.Kept) : (execMulhsu d a b s).Kept := hs.mulRR

theorem execDiv_kept {d a b} (hs : s.Kept) : (execDiv d a b s).Kept := hs.mulRR

theorem execDivu_kept {d a b} (hs : s.Kept) : (execDivu d a b s).Kept := hs.mulRR

theorem execRem_kept {d a b} (hs : s.Kept) : (execRem d a b s).Kept := hs.mulRR

theorem execRemu_kept {d a b} (hs : s.Kept) : (execRemu d a b s).Kept := hs.mulRR

/-! ### Predicates -/

theorem State.Kept.pOp {d a b p fn f} (hs : s.Kept) : (s.pOp d a b p fn f).Kept := by
  unfold State.pOp
  grind [Kept.vrun, Kept.predLoop, Out.Kept, VEnd.Kept]

theorem execPand_kept {d a b p} (hs : s.Kept) : (execPand d a b p s).Kept := hs.pOp

theorem execPor_kept {d a b p} (hs : s.Kept) : (execPor d a b p s).Kept := hs.pOp

theorem execPxor_kept {d a b p} (hs : s.Kept) : (execPxor d a b p s).Kept := hs.pOp

theorem execPandn_kept {d a b p} (hs : s.Kept) : (execPandn d a b p s).Kept := hs.pOp

theorem execPset_kept {d p} (hs : s.Kept) : (execPset d p s).Kept := by
  unfold execPset
  grind [State.Kept, Kept.vrun, Kept.stopZero, Kept.foldl, Out.Kept, VEnd.Kept]

theorem execPfirst_kept {d a p} (hs : s.Kept) : (execPfirst d a p s).Kept := hs.pOp

theorem execPcnt_kept {d a p} (hs : s.Kept) : (execPcnt d a p s).Kept := by
  unfold execPcnt
  grind [Kept.vrun, Kept.stopZero, Kept.setX, Out.Kept, VEnd.Kept]

theorem execPmov_kept {d a p} (hs : s.Kept) : (execPmov d a p s).Kept := hs.pOp

/-! ### Scalar arithmetic -/

theorem State.Kept.aluRR {fn d a b f} (hs : s.Kept) : (s.aluRR fn d a b f).Kept := hs.scalar

theorem State.Kept.aluR {fn d a f} (hs : s.Kept) : (s.aluR fn d a f).Kept := hs.scalar

theorem State.Kept.aluRI {m d a i f} (hs : s.Kept) : (s.aluRI m d a i f).Kept := hs.scalar

theorem execAdd_kept {d a b} (hs : s.Kept) : (execAdd d a b s).Kept := hs.aluRR

theorem execSub_kept {d a b} (hs : s.Kept) : (execSub d a b s).Kept := hs.aluRR

theorem execAnd_kept {d a b} (hs : s.Kept) : (execAnd d a b s).Kept := hs.aluRR

theorem execOr_kept {d a b} (hs : s.Kept) : (execOr d a b s).Kept := hs.aluRR

theorem execXor_kept {d a b} (hs : s.Kept) : (execXor d a b s).Kept := hs.aluRR

theorem execAndn_kept {d a b} (hs : s.Kept) : (execAndn d a b s).Kept := hs.aluRR

theorem execOrn_kept {d a b} (hs : s.Kept) : (execOrn d a b s).Kept := hs.aluRR

theorem execSll_kept {d a b} (hs : s.Kept) : (execSll d a b s).Kept := hs.aluRR

theorem execSrl_kept {d a b} (hs : s.Kept) : (execSrl d a b s).Kept := hs.aluRR

theorem execSra_kept {d a b} (hs : s.Kept) : (execSra d a b s).Kept := hs.aluRR

theorem execRol_kept {d a b} (hs : s.Kept) : (execRol d a b s).Kept := hs.aluRR

theorem execRor_kept {d a b} (hs : s.Kept) : (execRor d a b s).Kept := hs.aluRR

theorem execSlt_kept {d a b} (hs : s.Kept) : (execSlt d a b s).Kept := hs.aluRR

theorem execSltu_kept {d a b} (hs : s.Kept) : (execSltu d a b s).Kept := hs.aluRR

theorem execMin_kept {d a b} (hs : s.Kept) : (execMin d a b s).Kept := hs.aluRR

theorem execMax_kept {d a b} (hs : s.Kept) : (execMax d a b s).Kept := hs.aluRR

theorem execMinu_kept {d a b} (hs : s.Kept) : (execMinu d a b s).Kept := hs.aluRR

theorem execMaxu_kept {d a b} (hs : s.Kept) : (execMaxu d a b s).Kept := hs.aluRR

theorem execClz_kept {d a} (hs : s.Kept) : (execClz d a s).Kept := hs.aluR

theorem execCtz_kept {d a} (hs : s.Kept) : (execCtz d a s).Kept := hs.aluR

theorem execPopc_kept {d a} (hs : s.Kept) : (execPopc d a s).Kept := hs.aluR

theorem execSextb_kept {d a} (hs : s.Kept) : (execSextb d a s).Kept := hs.aluR

theorem execSexth_kept {d a} (hs : s.Kept) : (execSexth d a s).Kept := hs.aluR

theorem execSextw_kept {d a} (hs : s.Kept) : (execSextw d a s).Kept := hs.aluR

theorem execZextw_kept {d a} (hs : s.Kept) : (execZextw d a s).Kept := hs.aluR

theorem execAddi_kept {d a i} (hs : s.Kept) : (execAddi d a i s).Kept := hs.aluRI

theorem execAndi_kept {d a i} (hs : s.Kept) : (execAndi d a i s).Kept := hs.aluRI

theorem execOri_kept {d a i} (hs : s.Kept) : (execOri d a i s).Kept := hs.aluRI

theorem execXori_kept {d a i} (hs : s.Kept) : (execXori d a i s).Kept := hs.aluRI

theorem execSlti_kept {d a i} (hs : s.Kept) : (execSlti d a i s).Kept := hs.aluRI

theorem execSltiu_kept {d a i} (hs : s.Kept) : (execSltiu d a i s).Kept := hs.aluRI

theorem execSlli_kept {d a hh} (hs : s.Kept) : (execSlli d a hh s).Kept := hs.aluRI

theorem execSrli_kept {d a hh} (hs : s.Kept) : (execSrli d a hh s).Kept := hs.aluRI

theorem execSrai_kept {d a hh} (hs : s.Kept) : (execSrai d a hh s).Kept := hs.aluRI

theorem execLih_kept {d a i} (hs : s.Kept) : (execLih d a i s).Kept := hs.aluRI

theorem execAddpc_kept {d a i} (hs : s.Kept) : (execAddpc d a i s).Kept := hs.aluRI

/-! ### Stream bindings -/

theorem execSbind_kept {d a} (hs : s.Kept) : (execSbind d a s).Kept := by
  refine hs.issueX fun t ht => .ite ht.trap (.ite ht.trap ?_)
  split
  · exact ht.trap
  · exact .ite ht.trap (.ite ht.trap (ht.withHart _).advance)

theorem State.Kept.unbind {d} (hs : s.Kept) : (s.unbind d).Kept := by
  unfold State.unbind
  grind [State.Kept, Kept.trap, Kept.tmStore, Kept.advance]

theorem execSunb_kept {d} (hs : s.Kept) : (execSunb d s).Kept := by
  unfold execSunb
  grind [Kept.issue, Kept.block, Kept.unbind, Out.Kept]

theorem execSunbComplete_kept (hs : s.Kept) : (execSunbComplete s).Kept := by
  unfold execSunbComplete
  grind [Kept.unbind, Kept.unblock, Out.Kept]

/-! ### Scalar accesses of tile memory -/

theorem State.Kept.tmLoadX {m d a i n ext} (hs : s.Kept) : (s.tmLoadX m d a i n ext).Kept := by
  unfold State.tmLoadX
  grind [Kept.issueX, Kept.trap, Kept.advance, Kept.setX, Out.Kept]

theorem State.Kept.tmStoreX {m d a i n} (hs : s.Kept) : (s.tmStoreX m d a i n).Kept := by
  unfold State.tmStoreX
  grind [Kept.issueX, Kept.trap, Kept.advance, Kept.tmStore, Out.Kept]

theorem execLdb_kept {d a i} (hs : s.Kept) : (execLdb d a i s).Kept := hs.tmLoadX

theorem execLdbu_kept {d a i} (hs : s.Kept) : (execLdbu d a i s).Kept := hs.tmLoadX

theorem execLdh_kept {d a i} (hs : s.Kept) : (execLdh d a i s).Kept := hs.tmLoadX

theorem execLdhu_kept {d a i} (hs : s.Kept) : (execLdhu d a i s).Kept := hs.tmLoadX

theorem execLdw_kept {d a i} (hs : s.Kept) : (execLdw d a i s).Kept := hs.tmLoadX

theorem execLdwu_kept {d a i} (hs : s.Kept) : (execLdwu d a i s).Kept := hs.tmLoadX

theorem execLdd_kept {d a i} (hs : s.Kept) : (execLdd d a i s).Kept := hs.tmLoadX

theorem execStb_kept {d a i} (hs : s.Kept) : (execStb d a i s).Kept := hs.tmStoreX

theorem execSth_kept {d a i} (hs : s.Kept) : (execSth d a i s).Kept := hs.tmStoreX

theorem execStw_kept {d a i} (hs : s.Kept) : (execStw d a i s).Kept := hs.tmStoreX

theorem execStd_kept {d a i} (hs : s.Kept) : (execStd d a i s).Kept := hs.tmStoreX

/-! ### Vector integers -/

theorem State.Kept.vint {fn d a b p sc f} (hs : s.Kept) : (s.vint fn d a b p sc f).Kept := hs.vvBin

theorem State.Kept.vcmp {fn d a b p sc f} (hs : s.Kept) : (s.vcmp fn d a b p sc f).Kept := hs.vvCmp

theorem execVadd_kept {d a b p sc} (hs : s.Kept) : (execVadd d a b p sc s).Kept := hs.vint

theorem execVsub_kept {d a b p sc} (hs : s.Kept) : (execVsub d a b p sc s).Kept := hs.vint

theorem execVrsub_kept {d a b p sc} (hs : s.Kept) : (execVrsub d a b p sc s).Kept := hs.vint

theorem execVmul_kept {d a b p sc} (hs : s.Kept) : (execVmul d a b p sc s).Kept := hs.vint

theorem execVmulh_kept {d a b p sc} (hs : s.Kept) : (execVmulh d a b p sc s).Kept := hs.vint

theorem execVmulhu_kept {d a b p sc} (hs : s.Kept) : (execVmulhu d a b p sc s).Kept := hs.vint

theorem execVdiv_kept {d a b p sc} (hs : s.Kept) : (execVdiv d a b p sc s).Kept := hs.vint

theorem execVdivu_kept {d a b p sc} (hs : s.Kept) : (execVdivu d a b p sc s).Kept := hs.vint

theorem execVrem_kept {d a b p sc} (hs : s.Kept) : (execVrem d a b p sc s).Kept := hs.vint

theorem execVand_kept {d a b p sc} (hs : s.Kept) : (execVand d a b p sc s).Kept := hs.vint

theorem execVor_kept {d a b p sc} (hs : s.Kept) : (execVor d a b p sc s).Kept := hs.vint

theorem execVxor_kept {d a b p sc} (hs : s.Kept) : (execVxor d a b p sc s).Kept := hs.vint

theorem execVsll_kept {d a b p sc} (hs : s.Kept) : (execVsll d a b p sc s).Kept := hs.vint

theorem execVsrl_kept {d a b p sc} (hs : s.Kept) : (execVsrl d a b p sc s).Kept := hs.vint

theorem execVsra_kept {d a b p sc} (hs : s.Kept) : (execVsra d a b p sc s).Kept := hs.vint

theorem execVmin_kept {d a b p sc} (hs : s.Kept) : (execVmin d a b p sc s).Kept := hs.vint

theorem execVmax_kept {d a b p sc} (hs : s.Kept) : (execVmax d a b p sc s).Kept := hs.vint

theorem execVminu_kept {d a b p sc} (hs : s.Kept) : (execVminu d a b p sc s).Kept := hs.vint

theorem execVmaxu_kept {d a b p sc} (hs : s.Kept) : (execVmaxu d a b p sc s).Kept := hs.vint

theorem execVsadd_kept {d a b p sc} (hs : s.Kept) : (execVsadd d a b p sc s).Kept := hs.vint

theorem execVsaddu_kept {d a b p sc} (hs : s.Kept) : (execVsaddu d a b p sc s).Kept := hs.vint

theorem execVssub_kept {d a b p sc} (hs : s.Kept) : (execVssub d a b p sc s).Kept := hs.vint

theorem execVssubu_kept {d a b p sc} (hs : s.Kept) : (execVssubu d a b p sc s).Kept := hs.vint

theorem execVcmpEq_kept {d a b p sc} (hs : s.Kept) : (execVcmpEq d a b p sc s).Kept := hs.vcmp

theorem execVcmpNe_kept {d a b p sc} (hs : s.Kept) : (execVcmpNe d a b p sc s).Kept := hs.vcmp

theorem execVcmpLt_kept {d a b p sc} (hs : s.Kept) : (execVcmpLt d a b p sc s).Kept := hs.vcmp

theorem execVcmpLtu_kept {d a b p sc} (hs : s.Kept) : (execVcmpLtu d a b p sc s).Kept := hs.vcmp

theorem execVcmpLe_kept {d a b p sc} (hs : s.Kept) : (execVcmpLe d a b p sc s).Kept := hs.vcmp

theorem execVcmpLeu_kept {d a b p sc} (hs : s.Kept) : (execVcmpLeu d a b p sc s).Kept := hs.vcmp

theorem execVcmpGt_kept {d a b p sc} (hs : s.Kept) : (execVcmpGt d a b p sc s).Kept := hs.vcmp

theorem execVcmpGtu_kept {d a b p sc} (hs : s.Kept) : (execVcmpGtu d a b p sc s).Kept := hs.vcmp

theorem execVmerge_kept {d a b p sc} (hs : s.Kept) : (execVmerge d a b p sc s).Kept := by
  unfold execVmerge
  grind [Kept.vrun, Kept.elemLoop, Out.Kept, VEnd.Kept]

theorem execVmvV_kept {d a p} (hs : s.Kept) : (execVmvV d a p s).Kept := hs.vvUn

theorem execVmvX_kept {d b p} (hs : s.Kept) : (execVmvX d b p s).Kept := by
  unfold execVmvX
  grind [Kept.vrun, Kept.elemLoop, Out.Kept, VEnd.Kept]

theorem execVxtr_kept {d a b} (hs : s.Kept) : (execVxtr d a b s).Kept := by
  unfold execVxtr
  grind [Kept.vrun, Kept.stopZero, Kept.setX, Out.Kept, VEnd.Kept]

theorem execVins_kept {d a b} (hs : s.Kept) : (execVins d a b s).Kept := by
  unfold execVins
  grind [Kept.vrun, Kept.elemLoop, Out.Kept, VEnd.Kept]

/-! ### Permutes, reductions and scans -/

theorem execVslup_kept {d a b p} (hs : s.Kept) : (execVslup d a b p s).Kept := by
  unfold execVslup
  grind [Kept.vrun, Kept.elemLoop, Out.Kept, VEnd.Kept]

theorem execVsldn_kept {d a b p} (hs : s.Kept) : (execVsldn d a b p s).Kept := by
  unfold execVsldn
  grind [Kept.vrun, Kept.elemLoop, Out.Kept, VEnd.Kept]

theorem execVgath_kept {d a b p sc} (hs : s.Kept) : (execVgath d a b p sc s).Kept := by
  unfold execVgath
  grind [Kept.vrun, Kept.elemLoop, Out.Kept, VEnd.Kept]

theorem execVcomp_kept {d a p} (hs : s.Kept) : (execVcomp d a p s).Kept := by
  unfold execVcomp
  grind [State.Kept, Kept.vrun, Kept.stopZero, Out.Kept, VEnd.Kept]

theorem execViota_kept {d p} (hs : s.Kept) : (execViota d p s).Kept := by
  unfold execViota
  grind [Kept.vrun, Kept.elemLoop, Out.Kept, VEnd.Kept]

theorem State.Kept.vreduce {fn d a b p sc f} (hs : s.Kept) : (s.vreduce fn d a b p sc f).Kept := by
  unfold State.vreduce
  grind [State.Kept, Kept.vrun, Kept.stopZero, Kept.raise, Kept.foldl, Out.Kept, VEnd.Kept]

theorem State.Kept.vscan {fn d a b p sc f} (hs : s.Kept) : (s.vscan fn d a b p sc f).Kept := by
  unfold State.vscan
  grind [State.Kept, Kept.vrun, Kept.stopZero, Kept.raise, Kept.foldl, Out.Kept, VEnd.Kept]

theorem State.Kept.vfreduce {fn d a p wantMax} (hs : s.Kept) : (s.vfreduce fn d a p wantMax).Kept := by
  unfold State.vfreduce
  grind [State.Kept, Kept.vrun, Kept.stopZero, Kept.raise, Kept.foldl, Out.Kept, VEnd.Kept]

theorem execVfredo_kept {d a b p sc} (hs : s.Kept) : (execVfredo d a b p sc s).Kept := hs.vreduce

theorem execVfrmax_kept {d a p} (hs : s.Kept) : (execVfrmax d a p s).Kept := hs.vfreduce

theorem execVfrmin_kept {d a p} (hs : s.Kept) : (execVfrmin d a p s).Kept := hs.vfreduce

theorem execVhash_kept {d a b p sc} (hs : s.Kept) : (execVhash d a b p sc s).Kept := hs.vvBin

theorem execVredAdd_kept {d a b p sc} (hs : s.Kept) : (execVredAdd d a b p sc s).Kept := hs.vreduce

theorem execVredAnd_kept {d a b p sc} (hs : s.Kept) : (execVredAnd d a b p sc s).Kept := hs.vreduce

theorem execVredOr_kept {d a b p sc} (hs : s.Kept) : (execVredOr d a b p sc s).Kept := hs.vreduce

theorem execVredXor_kept {d a b p sc} (hs : s.Kept) : (execVredXor d a b p sc s).Kept := hs.vreduce

theorem execVredMin_kept {d a b p sc} (hs : s.Kept) : (execVredMin d a b p sc s).Kept := hs.vreduce

theorem execVredMax_kept {d a b p sc} (hs : s.Kept) : (execVredMax d a b p sc s).Kept := hs.vreduce

theorem execVredMinu_kept {d a b p sc} (hs : s.Kept) : (execVredMinu d a b p sc s).Kept := hs.vreduce

theorem execVredMaxu_kept {d a b p sc} (hs : s.Kept) : (execVredMaxu d a b p sc s).Kept := hs.vreduce

theorem execVscanAdd_kept {d a b p sc} (hs : s.Kept) : (execVscanAdd d a b p sc s).Kept := hs.vscan

theorem execVscanAnd_kept {d a b p sc} (hs : s.Kept) : (execVscanAnd d a b p sc s).Kept := hs.vscan

theorem execVscanOr_kept {d a b p sc} (hs : s.Kept) : (execVscanOr d a b p sc s).Kept := hs.vscan

theorem execVscanXor_kept {d a b p sc} (hs : s.Kept) : (execVscanXor d a b p sc s).Kept := hs.vscan

theorem execVscanMin_kept {d a b p sc} (hs : s.Kept) : (execVscanMin d a b p sc s).Kept := hs.vscan

theorem execVscanMax_kept {d a b p sc} (hs : s.Kept) : (execVscanMax d a b p sc s).Kept := hs.vscan

theorem execVscanMinu_kept {d a b p sc} (hs : s.Kept) : (execVscanMinu d a b p sc s).Kept := hs.vscan

theorem execVscanMaxu_kept {d a b p sc} (hs : s.Kept) : (execVscanMaxu d a b p sc s).Kept := hs.vscan

theorem execVscanFadd_kept {d a b p sc} (hs : s.Kept) : (execVscanFadd d a b p sc s).Kept := hs.vscan

/-! ### Dispatch -/

/-- Every instruction and every event keeps the memories canonical. -/
theorem exec_kept {i} (hs : s.Kept) : Out.Kept (exec i s) := by
  cases i
  exacts [
    execAdd_kept hs, execSub_kept hs, execAnd_kept hs, execOr_kept hs, execXor_kept hs, execAndn_kept hs,
    execOrn_kept hs, execSll_kept hs, execSrl_kept hs, execSra_kept hs, execRol_kept hs, execRor_kept hs,
    execSlt_kept hs, execSltu_kept hs, execMin_kept hs, execMax_kept hs, execMinu_kept hs, execMaxu_kept hs,
    execClz_kept hs, execCtz_kept hs, execPopc_kept hs, execSextb_kept hs, execSexth_kept hs, execSextw_kept hs,
    execZextw_kept hs, execAddi_kept hs, execAndi_kept hs, execOri_kept hs, execXori_kept hs, execSlti_kept hs,
    execSltiu_kept hs, execSlli_kept hs, execSrli_kept hs, execSrai_kept hs, execLih_kept hs, execAddpc_kept hs,
    execMul_kept hs, execMulh_kept hs, execMulhu_kept hs, execMulhsu_kept hs, execDiv_kept hs, execDivu_kept hs,
    execRem_kept hs, execRemu_kept hs, execLdb_kept hs, execLdbu_kept hs, execLdh_kept hs, execLdhu_kept hs,
    execLdw_kept hs, execLdwu_kept hs, execLdd_kept hs, execStb_kept hs, execSth_kept hs, execStw_kept hs,
    execStd_kept hs, execLdg_kept hs, execStg_kept hs, execLdsync_kept hs, execLdsyncE_kept hs, execSetf_kept hs,
    execSete_kept hs, execFence_kept hs, execAmoAdd_kept hs, execAmoAnd_kept hs, execAmoOr_kept hs,
    execAmoXor_kept hs, execAmoMin_kept hs, execAmoMax_kept hs, execAmoMinu_kept hs, execAmoMaxu_kept hs,
    execAmoSwap_kept hs, execAmoCas_kept hs, execBeq_kept hs, execBne_kept hs, execBlt_kept hs, execBge_kept hs,
    execBltu_kept hs, execBgeu_kept hs, execJ_kept hs, execJal_kept hs, execJalr_kept hs, execSetvl_kept hs,
    execVsett_kept hs, execVlmaxq_kept hs, execSetvli_kept hs, execVadd_kept hs, execVsub_kept hs, execVrsub_kept hs,
    execVmul_kept hs, execVmulh_kept hs, execVmulhu_kept hs, execVdiv_kept hs, execVdivu_kept hs, execVrem_kept hs,
    execVand_kept hs, execVor_kept hs, execVxor_kept hs, execVsll_kept hs, execVsrl_kept hs, execVsra_kept hs,
    execVmin_kept hs, execVmax_kept hs, execVminu_kept hs, execVmaxu_kept hs, execVsadd_kept hs, execVsaddu_kept hs,
    execVssub_kept hs, execVssubu_kept hs, execVcmpEq_kept hs, execVcmpNe_kept hs, execVcmpLt_kept hs,
    execVcmpLtu_kept hs, execVcmpLe_kept hs, execVcmpLeu_kept hs, execVcmpGt_kept hs, execVcmpGtu_kept hs,
    execVmerge_kept hs, execVmvV_kept hs, execVmvX_kept hs, execVxtr_kept hs, execVins_kept hs, execVfadd_kept hs,
    execVfsub_kept hs, execVfmul_kept hs, execVfdiv_kept hs, execVfsqrt_kept hs, execVfmin_kept hs, execVfmax_kept hs,
    execVfcmpEq_kept hs, execVfcmpNe_kept hs, execVfcmpLt_kept hs, execVfcmpLe_kept hs, execVfcmpGt_kept hs,
    execVfcmpGe_kept hs, execVfcmpUn_kept hs, execVfsgnJ_kept hs, execVfsgnJn_kept hs, execVfsgnJx_kept hs,
    execVfclass_kept hs, execVfcvtFf_kept hs, execVfcvtFs_kept hs, execVfcvtFu_kept hs, execVfcvtIf_kept hs,
    execVfrcpe_kept hs, execVfrcps_kept hs, execVfrsqe_kept hs, execVfrsqs_kept hs, execVfexp2_kept hs,
    execVflog2_kept hs, execVfma_kept hs, execVfms_kept hs, execVfnma_kept hs, execVfnms_kept hs, execVslup_kept hs,
    execVsldn_kept hs, execVgath_kept hs, execVcomp_kept hs, execViota_kept hs, execVfredo_kept hs,
    execVfrmax_kept hs, execVfrmin_kept hs, execVhash_kept hs, execVredAdd_kept hs, execVredAnd_kept hs,
    execVredOr_kept hs, execVredXor_kept hs, execVredMin_kept hs, execVredMax_kept hs, execVredMinu_kept hs,
    execVredMaxu_kept hs, execVscanAdd_kept hs, execVscanAnd_kept hs, execVscanOr_kept hs, execVscanXor_kept hs,
    execVscanMin_kept hs, execVscanMax_kept hs, execVscanMinu_kept hs, execVscanMaxu_kept hs, execVscanFadd_kept hs,
    execPand_kept hs, execPor_kept hs, execPxor_kept hs, execPandn_kept hs, execPset_kept hs, execPfirst_kept hs,
    execPcnt_kept hs, execPmov_kept hs, execEaclr_kept hs, execEaadd_kept hs, execEadot_kept hs, execEaaddx_kept hs,
    execEarnd_kept hs, execEamov_kept hs, execVld_kept hs, execVlds_kept hs, execVldx_kept hs, execVlseg_kept hs,
    execVst_kept hs, execVsts_kept hs, execVstx_kept hs, execVsseg_kept hs, execVldg_kept hs, execVldgs_kept hs,
    execVldgx_kept hs, execVstg_kept hs, execVstgs_kept hs, execVstgx_kept hs, execVldsync_kept hs,
    execVldsyncE_kept hs, execVspill_kept hs, execVfill_kept hs, execEaspill_kept hs, execEafill_kept hs,
    execVstm_kept hs, execVamoAdd_kept hs, execVamoAnd_kept hs, execVamoOr_kept hs, execVamoXor_kept hs,
    execVamoMin_kept hs, execVamoMax_kept hs, execVamoMinu_kept hs, execVamoMaxu_kept hs, execVamoSwap_kept hs,
    execCrd_kept hs, execCrdm_kept hs, execCwr_kept hs, execCwrm_kept hs, execVcrd_kept hs, execVcwr_kept hs,
    execCclose_kept hs, execSbind_kept hs, execSunb_kept hs, execForkl_kept hs, execJoinl_kept hs, execMshape_kept hs,
    execMpack_kept hs, execMunpk_kept hs, execMzero_kept hs, execMma_kept hs, execMdrain_kept hs, execTxin_kept hs,
    execTxout_kept hs, execTx2d_kept hs, execDpost_kept hs, execDgrant_kept hs, execDsend_kept hs, execDclose_kept hs,
    execBarrier_kept hs, execBarrierReduce_kept hs, execBarcnt_kept hs, execRdtime_kept hs, execWaitt_kept hs,
    execSafe_kept hs, execBrk_kept hs, execTcapStart_kept hs, execTcapStop_kept hs, execCsrr_kept hs,
    execCsrw_kept hs, execCsrs_kept hs, execCsrc_kept hs, execSysc_kept hs, execEret_kept hs, execIinv_kept hs,
    execTlbinv_kept hs, execHalt_kept hs, execSteepFault_kept hs, execChannelWriteUnblock_kept hs,
    execChannelReadUnblock_kept hs, execGranuleWaitComplete_kept hs, execJoinlComplete_kept hs, execWaittWake_kept hs,
    execGlobalLoadReply_kept hs, execSunbComplete_kept hs, execGranuleMarking_kept hs, execVstmAck_kept hs,
    execLeaveGrant_kept hs, execLeaveLapse_kept hs, execHartDispatch_kept hs, execStallSample_kept hs,
    execHangWatchdogExpiry_kept hs, execLaneFailure_kept hs, execTmScrubPass_kept hs, execDramScrubPass_kept hs,
    execLogEntryWrite_kept hs, execWearSample_kept hs, execLifetimeRecordWrite_kept hs, execMarginAlarmStop_kept hs,
    execQuarantineSelfTest_kept hs, execSpareSubstitution_kept hs, execTemperatureSample_kept hs,
    execPowerSample_kept hs, execPwrgoodRise_kept hs, execPtpSync_kept hs, execPtpHoldover_kept hs,
    execLaunchStage_kept hs, execLaunchGo_kept hs, execLaunchStageAndStart_kept hs, execLaunchWaitResume_kept hs,
    execLaunchChannelClose_kept hs, execRankEntryExchange_kept hs, execProcessStart_kept hs,
    execSentinelCheck_kept hs, execNetworkCompletion_kept hs, execPhaseCalendarCompute_kept hs,
    execCalendarArrival_kept hs, execArbiterHeartbeat_kept hs, execStandbyTakeover_kept hs, execPhaseStart_kept hs,
    execExchangeBytesLand_kept hs, execClosingFlit_kept hs, execBarrierCompletion_kept hs, execFlitRetry_kept hs,
    execLinkTimeout_kept hs, execSwitchTimeout_kept hs, execGroupTimeout_kept hs, execRequestPacket_kept hs,
    execGhtAck_kept hs, execGhtRetransmit_kept hs, execGhtConnectionReset_kept hs, execHostChannelSlot_kept hs,
    execHostChannelClose_kept hs, execHostMemoryWrite_kept hs, execHostMemoryRead_kept hs, execShootdown_kept hs,
    execMigrate_kept hs, execMigrationQuiesced_kept hs, execMigrationAbort_kept hs, execPeersUpdated_kept hs,
    execMulticastGroup_kept hs, execCheckpoint_kept hs, execCheckpointQuiesced_kept hs, execCheckpointAbandon_kept hs,
    execCopy_kept hs, execBuddySeal_kept hs, execRestore_kept hs, execDeviceAttestation_kept hs,
    execEndNetwork_kept hs, execEndProcess_kept hs, execPartition_kept hs, execReadRankEntries_kept hs,
    execReadHealth_kept hs, execReadCharge_kept hs, execCreate_kept hs, execDestroy_kept hs, execKeyLoad_kept hs,
    execKeyErase_kept hs, execPackageAttestation_kept hs, execLogRead_kept hs, execArchive_kept hs,
    execIslandLimits_kept hs, execSetOkek_kept hs, execConfiguration_kept hs, execFirmwareUpdate_kept hs,
    execIllegalInstruction_kept hs, execFetchProt_kept hs, execGhtFrameDropped_kept hs, execUnknownRequest_kept hs,
    execPowerLoss_kept hs, execOrderlyShutdown_kept hs, execLaneRebuildComplete_kept hs, execHartRestart_kept hs]

/-! ### What a hart does ahead of a trap (R342 to R344) -/

theorem State.Kept.resumedAt {k} (hs : s.Kept) : (s.resumedAt k).Kept := hs

theorem State.Kept.ahead {n} (hs : s.Kept) : (State.ahead n s).Kept := by
  induction n generalizing s with
  | zero => exact hs
  | succ n ih =>
    have hx {i k v} (hv : exec i (s.resumedAt k) = .next v) : v.Kept := by
      have hk := exec_kept (i := i) (hs.resumedAt (k := k))
      rwa [hv] at hk
    unfold State.ahead
    refine .ite hs ?_
    split
    · exact hs
    · split
      · exact hs
      · split
        next hv =>
          have hv := hx hv
          have hc (p f) := hv.mapProc (p := p) (f := f)
          grind [Kept.withHart]
        next => exact hs

theorem State.Kept.runAhead {s₀} (hs : s.Kept) : (State.runAhead s₀ s).Kept := by
  unfold State.runAhead
  grind [Kept.ahead]

theorem State.Kept.runNext (hs : s.Kept) : s.runNext.on.Kept := by
  unfold State.runNext
  grind [State.Kept, Kept.trap]

theorem State.Kept.hartNext (hs : s.Kept) : s.hartNext.on.Kept := by
  unfold State.hartNext
  grind [Kept.runNext, Kept.reissued]

theorem State.Kept.inside (hs : s.Kept) : s.inside.on.Kept := by
  unfold State.inside
  grind [Kept.hartNext]

/-- What a step is about is decided in a state whose memories are canonical. -/
theorem State.Kept.todo (hs : s.Kept) : s.todo.on.Kept := by
  unfold State.todo
  grind [State.Kept, Kept.inside]

/-- One step keeps the memories canonical. -/
theorem step_kept {t : State} (hs : s.Kept) (hst : step s = .next t) : t.Kept := by
  have hon := hs.todo
  unfold step at hst
  dsimp only at hst
  split at hst
  · cases hst
    exact hon.finish
  · split at hst
    · cases hst
    · split at hst
      next i hi hb _ u hu =>
        have hx := exec_kept (i := i) hon
        rw [hu] at hx
        cases hst
        exact Kept.finish (Kept.runAhead hx)
      all_goals cases hst

theorem State.kept_iff : s.Kept ↔ s.MemOk ∧ ∀ x ∈ s.shards, ∀ k ∈ x.chunks, k.cells.wf = true :=
  ⟨fun ⟨htm, hgm, hsh⟩ => ⟨⟨htm, hgm⟩, hsh⟩, fun ⟨⟨htm, hgm⟩, hsh⟩ => ⟨htm, hgm, hsh⟩⟩

/-- Settles O6: every function that a step calls keeps the memories and the shards' cells canonical. -/
theorem stepKeepsCanonical : Obligations.StepKeepsCanonical := by
  unfold Obligations.StepKeepsCanonical
  intro kept s t hs hst
  exact State.kept_iff.1 (step_kept (State.kept_iff.2 hs) hst)

end Sys2Proof.Machine
end

section
/-! SUPPORT. The laws of sorted sets of numbers, of vector storage and of its elements. -/

namespace Sys2Proof.Machine

/-! ### Sorted sets of numbers (R119) -/

theorem setWf_cons {k : Nat} : ∀ {l : List Nat}, setWf (k :: l) = true ↔ (∀ a ∈ l.head?, k < a) ∧ setWf l = true
  | [] => by simp [setWf]
  | a :: l => by simp [setWf]

/-- A set holds nothing below its first number. -/
theorem setHas_of_lt {a : Nat} {l : List Nat} (h : ∀ k ∈ l.head?, a < k) : setHas l a = false := by
  cases l with
  | nil => rfl
  | cons k l => simp [setHas, Nat.ne_of_lt (h k rfl), h k rfl]

/-- Bounds on the first number of a set stay when a number above the bound is added. -/
theorem head_setAdd {k a : Nat} (hka : k < a) : ∀ {l : List Nat}, (∀ c ∈ l.head?, k < c) →
    ∀ c ∈ (setAdd l a).head?, k < c
  | [], _ => by simpa [setAdd] using hka
  | b :: l, h => by
    have hb : k < b := h b rfl
    unfold setAdd
    split_ifs <;> simpa

theorem setWf_setAdd (a : Nat) : ∀ {l : List Nat}, setWf l = true → setWf (setAdd l a) = true
  | [], _ => rfl
  | k :: l, h => by
    obtain ⟨hk, hl⟩ := setWf_cons.1 h
    unfold setAdd
    split_ifs with h1 h2
    · exact setWf_cons.2 ⟨by simpa using h1, h⟩
    · exact h
    · exact setWf_cons.2 ⟨head_setAdd (by omega) hk, setWf_setAdd a hl⟩

theorem setHas_setAdd (a c : Nat) : ∀ {l : List Nat}, setWf l = true →
    setHas (setAdd l a) c = if c = a then true else setHas l c
  | [], _ => by simp [setAdd, setHas]
  | k :: l, h => by
    have ih := setHas_setAdd a c (setWf_cons.1 h).2
    grind [setAdd, setHas]

theorem head_setDel {k a : Nat} : ∀ {l : List Nat}, setWf l = true → (∀ c ∈ l.head?, k < c) →
    ∀ c ∈ (setDel l a).head?, k < c
  | [], _, _ => by simp [setDel]
  | b :: l, hl, h => by
    have hb : k < b := h b rfl
    unfold setDel
    split_ifs
    · simpa
    · exact fun c hc => Nat.lt_trans hb ((setWf_cons.1 hl).1 c hc)
    · simpa

theorem setWf_setDel (a : Nat) : ∀ {l : List Nat}, setWf l = true → setWf (setDel l a) = true
  | [], _ => rfl
  | k :: l, h => by
    obtain ⟨hk, hl⟩ := setWf_cons.1 h
    unfold setDel
    split_ifs
    · exact h
    · exact hl
    · exact setWf_cons.2 ⟨head_setDel hl hk, setWf_setDel a hl⟩

theorem setHas_setDel (a c : Nat) : ∀ {l : List Nat}, setWf l = true →
    setHas (setDel l a) c = if c = a then false else setHas l c
  | [], _ => by simp [setDel, setHas]
  | k :: l, h => by
    obtain ⟨hk, hl⟩ := setWf_cons.1 h
    have ih := setHas_setDel a c hl
    have hgap : c ≤ k → setHas l c = false := fun hc => setHas_of_lt fun b hb => Nat.lt_of_le_of_lt hc (hk b hb)
    grind [setDel, setHas]

theorem setWf_setPut (a : Nat) (b : Bool) {l : List Nat} (h : setWf l = true) : setWf (setPut l a b) = true := by
  cases b
  · exact setWf_setDel a h
  · exact setWf_setAdd a h

theorem setHas_setPut (a c : Nat) (b : Bool) {l : List Nat} (h : setWf l = true) :
    setHas (setPut l a b) c = if c = a then b else setHas l c := by
  cases b
  · exact setHas_setDel a c h
  · exact setHas_setAdd a c h

/-! ### Bytes of vector storage (R55, R411) -/

/-- Cells with keys strictly rising. -/
abbrev CellsRise (m : List Host.Cell) : Prop := m.Pairwise (fun a b => a.1 < b.1)

theorem Memory.rise_of_wfFrom : ∀ {m : Memory} {lo : Nat}, m.wfFrom lo = true → (∀ c ∈ m, lo ≤ c.1) ∧ CellsRise m
  | [], _, _ => ⟨by simp, .nil⟩
  | (k, b) :: m, lo, h => by
    obtain ⟨hlo, -, hm⟩ := (Memory.wfFrom_cons lo k b m).1 h
    obtain ⟨hall, hrise⟩ := Memory.rise_of_wfFrom hm
    refine ⟨?_, .cons hall hrise⟩
    rintro c (_ | ⟨_, hc⟩)
    · exact hlo
    · exact Nat.le_trans hlo (Nat.le_of_succ_le (hall c hc))

/-- A key that is written is the only one new to the list. -/
theorem mem_cellPut {a : Nat} {v : Byte} {c : Host.Cell} : ∀ {m : List Host.Cell},
    c ∈ cellPut m a v → c = (a, v) ∨ c ∈ m
  | [], h => by simpa [cellPut] using h
  | (k, b) :: m, h => by
    unfold cellPut at h
    split_ifs at h
    · simpa using h
    · rcases List.mem_cons.1 h with h | h
      · exact .inl h
      · exact .inr (.tail _ h)
    · rcases List.mem_cons.1 h with h | h
      · exact .inr (h ▸ .head _)
      · exact (mem_cellPut h).imp_right (.tail _)

theorem rise_cellPut (a : Nat) (v : Byte) : ∀ {m : List Host.Cell}, CellsRise m → CellsRise (cellPut m a v)
  | [], _ => .cons (by simp) .nil
  | (k, b) :: m, h => by
    obtain ⟨hk, hm⟩ := List.pairwise_cons.1 h
    unfold cellPut
    split_ifs with h1 h2
    · refine .cons (fun c hc => ?_) h
      rcases List.mem_cons.1 hc with rfl | hc
      · exact h1
      · exact Nat.lt_trans h1 (hk c hc)
    · exact .cons (h2 ▸ hk) hm
    · refine .cons (fun c hc => ?_) (rise_cellPut a v hm)
      rcases mem_cellPut hc with rfl | hc
      · show k < a
        omega
      · exact hk c hc

theorem cellGet_cellPut (a c : Nat) (v : Byte) : ∀ {m : List Host.Cell}, CellsRise m →
    cellGet (cellPut m a v) c = if c = a then some v else cellGet m c
  | [], _ => by simp [cellPut, cellGet]
  | (k, b) :: m, h => by
    have ih := cellGet_cellPut a c v (List.pairwise_cons.1 h).2
    grind [cellPut, cellGet]

/-- Vector storage is sorted, and canonical where an unlisted byte reads as blank. -/
def Bytes.Sorted (b : Bytes) : Prop := CellsRise b.cells ∧ (b.epoch = none → Memory.wf b.cells = true)

theorem Bytes.epoch_put (b : Bytes) (k : Nat) (v : Byte) : (b.put k v).epoch = b.epoch := by
  unfold Bytes.put
  split <;> rfl

theorem Bytes.sorted_put {b : Bytes} (h : b.Sorted) (k : Nat) (v : Byte) : (b.put k v).Sorted := by
  obtain ⟨hrise, hwf⟩ := h
  unfold Bytes.put
  split
  next he =>
    have hw := Memory.wf_write k v (hwf he)
    exact ⟨(Memory.rise_of_wfFrom hw).2, fun _ => hw⟩
  next he => exact ⟨rise_cellPut k v hrise, fun hn => by simp [he] at hn⟩

theorem Bytes.get_put {b : Bytes} (h : b.Sorted) (k c : Nat) (v : Byte) :
    (b.put k v).get c = if c = k then v else b.get c := by
  obtain ⟨hrise, hwf⟩ := h
  obtain ⟨epoch, cells⟩ := b
  cases epoch with
  | none =>
    show Memory.read (Memory.write cells k v) c = if c = k then v else Memory.read cells c
    split_ifs with hc
    · exact hc ▸ Memory.read_write_same (hwf rfl) k v
    · exact Memory.read_write_ne (hwf rfl) v hc
  | some t =>
    show (cellGet (cellPut cells k v) c).getD _ = if c = k then v else (cellGet cells c).getD _
    rw [cellGet_cellPut k c v hrise]
    split_ifs <;> rfl

/-- Vector storage with n bytes written from a key on. -/
def Bytes.putRun (b : Bytes) (k n : Nat) (v : Nat → Byte) : Bytes :=
  (upTo n).foldl (fun b j => b.put (k + j) (v j)) b

theorem Bytes.putRun_succ (b : Bytes) (k n : Nat) (v : Nat → Byte) :
    b.putRun k (n + 1) v = (b.putRun k n v).put (k + n) (v n) := by
  simp [Bytes.putRun, upTo, List.range_succ]

theorem Bytes.epoch_putRun (b : Bytes) (k n : Nat) (v : Nat → Byte) : (b.putRun k n v).epoch = b.epoch := by
  induction n with
  | zero => rfl
  | succ n ih => rw [Bytes.putRun_succ, Bytes.epoch_put, ih]

theorem Bytes.sorted_putRun {b : Bytes} (h : b.Sorted) (k n : Nat) (v : Nat → Byte) : (b.putRun k n v).Sorted := by
  induction n with
  | zero => exact h
  | succ n ih => exact Bytes.putRun_succ b k n v ▸ Bytes.sorted_put ih _ _

theorem Bytes.get_putRun {b : Bytes} (h : b.Sorted) (k n c : Nat) (v : Nat → Byte) :
    (b.putRun k n v).get c = if k ≤ c ∧ c < k + n then v (c - k) else b.get c := by
  induction n with
  | zero => rw [if_neg (by omega)]; rfl
  | succ n ih =>
    rw [Bytes.putRun_succ, Bytes.get_put (Bytes.sorted_putRun h k n v), ih]
    by_cases hc : c = k + n
    · subst hc
      simp
    · simp only [hc, if_false]
      exact if_congr (by omega) rfl rfl

/-! ### Elements of vector registers (R55, R203) -/

theorem leBytes_eq_map (n v : Nat) : leBytes n v = (upTo n).map (fun j => BitVec.ofNat 8 (v / 256 ^ j)) := by
  induction n generalizing v with
  | zero => rfl
  | succ n ih =>
    simp [leBytes, ih, upTo, List.range_succ_eq_map, Nat.pow_succ', Nat.div_div_eq_div_mul]

/-- The key of the bytes of an element by its register and its place in it: the row, the lane and the bytes before it
in the lane's word, with R rows a register and b bytes an element. -/
def Hart.slotKey (h : Hart) (R b reg e : Nat) : Nat :=
  ((reg * R + e / h.lanes / (8 / b)) * 32 + (h.lane0 + e % h.lanes)) * 8 + e / h.lanes % (8 / b) * b

/-- Two numerals of a mixed radix are equal digit by digit. -/
theorem eq_of_radix {n a b x y : Nat} (hx : x < n) (hy : y < n) (h : a * n + x = b * n + y) : a = b ∧ x = y := by
  have hd := congrArg (· / n) h
  have hm := congrArg (· % n) h
  have hn : 0 < n := Nat.zero_lt_of_lt hx
  simp only [Nat.mul_comm _ n, Nat.mul_add_div hn, Nat.div_eq_of_lt hx, Nat.div_eq_of_lt hy] at hd
  simp only [Nat.mul_comm _ n, Nat.mul_add_mod, Nat.mod_eq_of_lt hx, Nat.mod_eq_of_lt hy] at hm
  omega

/-- The key of a slot determines its register and the place in it, and the bytes of two slots are apart. -/
theorem Hart.slotKey_apart {h : Hart} {R b W p q d e : Nat} (hb : b * W = 8) (hl : 0 < h.lanes)
    (hlane : h.lane0 + h.lanes ≤ 32) (hd : d < h.lanes * (W * R)) (he : e < h.lanes * (W * R))
    (hne : (q, e) ≠ (p, d)) :
    h.slotKey R b q e + b ≤ h.slotKey R b p d ∨ h.slotKey R b p d + b ≤ h.slotKey R b q e := by
  have hb0 : 0 < b := Nat.pos_of_ne_zero (by rintro rfl; omega)
  have hW : 8 / b = W := by rw [← hb, Nat.mul_div_cancel_left _ hb0]
  have hW0 : 0 < W := Nat.pos_of_ne_zero (by rintro rfl; omega)
  have hkey (p d) : h.slotKey R b p d =
      b * (((p * R + d / h.lanes / W) * 32 + (h.lane0 + d % h.lanes)) * W + d / h.lanes % W) := by
    rw [Hart.slotKey, hW, ← hb]
    ring
  have hrow {d} (hd : d < h.lanes * (W * R)) : d / h.lanes / W < R :=
    Nat.div_lt_of_lt_mul (Nat.div_lt_of_lt_mul hd)
  have hsub (d) : d / h.lanes % W < W := Nat.mod_lt _ hW0
  have hln (d) : h.lane0 + d % h.lanes < 32 := by
    have := Nat.mod_lt d hl
    omega
  rw [hkey, hkey]
  have hcases {x y : Nat} (hxy : x ≠ y) : b * x + b ≤ b * y ∨ b * y + b ≤ b * x := by
    rcases Nat.lt_or_gt_of_ne hxy with hlt | hlt
    · exact .inl (Nat.mul_le_mul_left b hlt)
    · exact .inr (Nat.mul_le_mul_left b hlt)
  refine hcases fun heq => hne ?_
  obtain ⟨hword, hbyte⟩ := eq_of_radix (hsub e) (hsub d) heq
  obtain ⟨hrows, hlanes⟩ := eq_of_radix (hln e) (hln d) hword
  obtain ⟨hreg, hin⟩ := eq_of_radix (hrow he) (hrow hd) hrows
  have hdiv : e / h.lanes = d / h.lanes := by
    rw [← Nat.div_add_mod (e / h.lanes) W, hin, hbyte, Nat.div_add_mod]
  have hmod : e % h.lanes = d % h.lanes := Nat.add_left_cancel hlanes
  rw [hreg, ← Nat.div_add_mod e h.lanes, hdiv, hmod, Nat.div_add_mod]

/-- R59: the register counts up to 32 divide the 256 rows of a hart. -/
theorem vtRc_dvd {t : BitVec 16} (h : vtRc t ≤ 32) : ∃ R, 0 < R ∧ vtRc t * R = 256 := by
  have hlt := (t.extractLsb' 5 2).isLt
  unfold vtRc at *
  generalize (t.extractLsb' 5 2).toNat = n at *
  interval_cases n
  exacts [⟨32, by decide⟩, ⟨16, by decide⟩, ⟨8, by decide⟩, by simp at h]

/-- R37: how many elements of b bytes a register holds, and where the storage keeps an element. -/
theorem Hart.elemKey_eq_slotKey {h : Hart} {b W R : Nat} (hb : b * W = 8) (hR : vtRc h.vtype * R = 256) :
    vlenOf h.lanes (vtRc h.vtype) / (8 * b) = h.lanes * (W * R) ∧
    ∀ r i, h.elemKey (8 * b) r i =
      h.slotKey R b (r + i / (h.lanes * (W * R))) (i % (h.lanes * (W * R))) := by
  have hb0 : 0 < b := Nat.pos_of_ne_zero (by rintro rfl; omega)
  have hrc0 : 0 < vtRc h.vtype := Nat.pos_of_ne_zero fun h0 => by simp [h0] at hR
  have hW : 8 / b = W := by rw [← hb, Nat.mul_div_cancel_left _ hb0]
  have hper : vlenOf h.lanes (vtRc h.vtype) / (8 * b) = h.lanes * (W * R) := by
    have : 16384 * h.lanes = vtRc h.vtype * (8 * b * (h.lanes * (W * R))) :=
      calc 16384 * h.lanes = 8 * 8 * 256 * h.lanes := by ring
        _ = 8 * (b * W) * (vtRc h.vtype * R) * h.lanes := by rw [hb, hR]
        _ = _ := by ring
    rw [vlenOf, this, Nat.mul_div_cancel_left _ hrc0, Nat.mul_div_cancel_left _ (by omega)]
  refine ⟨hper, fun r i => ?_⟩
  have hrow (e : Nat) : e * (8 * b) / (64 * h.lanes) = e / h.lanes / W := by
    rw [show 64 * h.lanes = 8 * b * (h.lanes * W) by rw [show 64 = 8 * (b * W) by omega]; ring, Nat.mul_comm e,
      Nat.mul_div_mul_left _ _ (by omega), Nat.div_div_eq_div_mul]
  have hbytes (x : Nat) : x * (8 * b) / 8 = x * b := by
    rw [Nat.mul_left_comm, Nat.mul_div_cancel_left _ (by decide)]
  have hword : 64 / (8 * b) = W := by rw [← hW, ← Nat.div_div_eq_div_mul]
  simp only [Hart.elemKey, hper, hrow, hword, hbytes, Hart.slotKey, hW,
    Nat.div_eq_of_eq_mul_right hrc0 hR.symm]

/-- The bytes of two elements of one width are apart. -/
theorem Hart.elemKey_apart {h : Hart} {k r q i j per : Nat} (hk : k ≤ 3) (hl : 0 < h.lanes)
    (hlane : h.lane0 + h.lanes ≤ 32) (hrc : vtRc h.vtype ≤ 32)
    (hper : vlenOf h.lanes (vtRc h.vtype) / (8 * 2 ^ k) = per)
    (hne : (q + j / per, j % per) ≠ (r + i / per, i % per)) :
    h.elemKey (8 * 2 ^ k) q j + 2 ^ k ≤ h.elemKey (8 * 2 ^ k) r i ∨
    h.elemKey (8 * 2 ^ k) r i + 2 ^ k ≤ h.elemKey (8 * 2 ^ k) q j := by
  obtain ⟨R, hR0, hR⟩ := vtRc_dvd hrc
  have hb : 2 ^ k * 2 ^ (3 - k) = 8 := by rw [← Nat.pow_add, Nat.add_sub_cancel' hk]
  obtain ⟨hplaces, hkey⟩ := Hart.elemKey_eq_slotKey hb hR
  have hpos : 0 < h.lanes * (2 ^ (3 - k) * R) := Nat.mul_pos hl (Nat.mul_pos (by simp) hR0)
  rw [← hper, hplaces] at hne
  rw [hkey, hkey]
  exact Hart.slotKey_apart hb hl hlane (Nat.mod_lt _ hpos) (Nat.mod_lt _ hpos) hne

theorem Hart.elem_eq_bytes (h : Hart) (b r i : Nat) :
    h.elem (8 * b) r i = leNat ((upTo b).map fun j => h.v.get (h.elemKey (8 * b) r i + j)) := by
  rw [Hart.elem, Nat.mul_div_cancel_left _ (by decide)]

theorem Hart.setElem_v (h : Hart) (b r i v : Nat) :
    (h.setElem (8 * b) r i v).v = h.v.putRun (h.elemKey (8 * b) r i) b (fun j => BitVec.ofNat 8 (v / 256 ^ j)) := by
  rw [Hart.setElem, Nat.mul_div_cancel_left _ (by decide)]
  rfl

/-- Writing an element does not move the elements. -/
theorem Hart.elemKey_setElem (h : Hart) (w r i v u q j : Nat) :
    (h.setElem w r i v).elemKey u q j = h.elemKey u q j := rfl

/-- An element just written reads back cut to its width. -/
theorem Hart.elem_setElem_same {h : Hart} (hv : h.v.Sorted) (b r i v : Nat) :
    (h.setElem (8 * b) r i v).elem (8 * b) r i = v % 2 ^ (8 * b) := by
  rw [Nat.pow_mul, ← leNat_leBytes, leBytes_eq_map, Hart.elem_eq_bytes, Hart.setElem_v, Hart.elemKey_setElem]
  congr 1
  refine List.map_congr_left fun j hj => ?_
  rw [Bytes.get_putRun hv, if_pos ⟨Nat.le_add_right .., Nat.add_lt_add_left (List.mem_range.1 hj) _⟩,
    Nat.add_sub_cancel_left]

/-- A write leaves the elements whose bytes are apart from those written. -/
theorem Hart.elem_setElem_apart {h : Hart} (hv : h.v.Sorted) {b r q i j : Nat} (v : Nat)
    (hap : h.elemKey (8 * b) q j + b ≤ h.elemKey (8 * b) r i ∨ h.elemKey (8 * b) r i + b ≤ h.elemKey (8 * b) q j) :
    (h.setElem (8 * b) r i v).elem (8 * b) q j = h.elem (8 * b) q j := by
  rw [Hart.elem_eq_bytes, Hart.elem_eq_bytes, Hart.setElem_v, Hart.elemKey_setElem]
  congr 1
  refine List.map_congr_left fun c hc => ?_
  have hc : c < b := List.mem_range.1 hc
  rw [Bytes.get_putRun hv, if_neg (by omega)]

/-- Settles O7: the laws of the sorted lists that the model keeps, and of the keys of elements, which are apart. -/
theorem stateLaws : Obligations.StateLaws := by
  unfold Obligations.StateLaws
  refine ⟨⟨fun m a v hm => ?_, fun m n => Memory.ext_read, fun l a c b hl => ?_⟩, fun s d r v => ?_, ?_⟩
  · exact ⟨Memory.wf_write a v hm, Memory.read_write_same hm a v, fun c => Memory.read_write_ne hm v⟩
  · exact ⟨setWf_setPut a b hl, setHas_setPut a c b hl⟩
  · exact ⟨by simp [State.x], State.setX_zero s v, fun hd => by rw [State.x_setX, if_pos ⟨rfl, hd⟩],
      fun hr => by simp [State.x_setX, hr]⟩
  · intro h k r q i j v hk hl hlane hrc hrise hwf w per _ _
    have hv : h.v.Sorted := ⟨hrise, hwf⟩
    refine ⟨Hart.elem_setElem_same hv .., fun hne => ?_, ?_, ?_⟩
    · exact Hart.elem_setElem_apart hv v (Hart.elemKey_apart hk hl hlane hrc rfl hne)
    · rw [Hart.setElem_v]
      exact (Bytes.sorted_putRun hv ..).1
    · rw [Hart.setElem_v, Bytes.epoch_putRun]

end Sys2Proof.Machine
end

section
/-! SUPPORT. FORKL and JOINL: what a hart forked, forking, absorbing or leaving keeps. -/

namespace Sys2Proof.Machine

/-- The record that a child leaves goes to the one parent that waits for its front end. -/
theorem State.leaveJoin_of_parent {s : State} {m : Hart} (hm : m ∈ s.others) (ht : m.id.tile = s.hart.id.tile)
    (hc : m.child = some s.hart.id.front)
    (huniq : ∀ o ∈ s.others, o.id.tile = s.hart.id.tile → o.child = some s.hart.id.front → o = m) :
    s.leaveJoin = { s with
      hart := { m with joined := some s.hart.record }
      others := s.others.filter (fun o => decide (o ≠ m)) } := by
  have hp : ∀ o ∈ s.others,
      (o.id.tile == s.hart.id.tile && o.child == some s.hart.id.front) = decide (o = m) := by
    intro o ho
    rw [Bool.eq_iff_iff]
    simp only [Bool.and_eq_true, beq_iff_eq, decide_eq_true_eq]
    exact ⟨fun h => huniq o ho h.1 h.2, fun h => h ▸ ⟨ht, hc⟩⟩
  have hfind : s.others.find? (fun o => o.id.tile == s.hart.id.tile && o.child == some s.hart.id.front) = some m := by
    cases hf : s.others.find? (fun o => o.id.tile == s.hart.id.tile && o.child == some s.hart.id.front) with
    | none => simpa [ht, hc] using List.find?_eq_none.1 hf m hm
    | some o =>
      have ho := List.find?_some hf
      rw [hp o (List.mem_of_find?_eq_some hf)] at ho
      rw [of_decide_eq_true ho]
  unfold State.leaveJoin
  dsimp only
  rw [hfind]
  dsimp only
  rw [List.filter_congr (q := fun o => decide (o ≠ m)) fun o ho => by rw [hp o ho]; simp]

/-- A JOINL of a base hart whose child has left its record absorbs it and goes on. -/
theorem State.joinlGo_absorbs {s : State} {r : JoinRecord} (hp : s.hart.parent = none) (hj : s.hart.joined = some r) :
    s.joinlGo = State.advance { s with hart := s.hart.absorb r s.ticks } := by
  simp [State.joinlGo, hj, hp, Hart.absorb, Hart.vague, Hart.undefV]

/-- JOINL passes its tests on a hart of a forked process. -/
theorem execJoinl_pass {s : State} (hpr : s.hart.priv = .p) (hf : s.Fit 1 [])
    (hk : s.hart.parent.isSome = true ∨ s.hart.child.isSome = true) : exec .joinl s = .next (s.count 1).joinlGo := by
  have hv : (s.hart.parent.isNone && s.hart.child.isNone) = false := by
    rcases hk with h | h <;> obtain ⟨x, hx⟩ := Option.isSome_iff_exists.1 h <;> simp [hx]
  exact congrArg _ (State.issue_pass (by simp [State.atP, hpr]) hf.1 hv rfl rfl rfl)

/-- The greater of two steep counts. -/
theorem ite_ult_eq_ofNat_max (a b : BitVec 32) : (if a.ult b then b else a) = BitVec.ofNat 32 (Nat.max a.toNat b.toNat) := by
  by_cases h : a.toNat < b.toNat
  · rw [if_pos (by simpa [BitVec.ult] using h), show Nat.max a.toNat b.toNat = b.toNat from Nat.max_eq_right h.le]; simp
  · rw [if_neg (by simpa [BitVec.ult] using h), show Nat.max a.toNat b.toNat = a.toNat from Nat.max_eq_left (by omega)]; simp

/-- FORKL of a hart with lanes to give: the child stands beside it, and it goes on with the lower half (R39). -/
theorem execForkl_pass {s : State} (i : BitVec 16) (hpr : s.hart.priv = .p) (hf : s.Fit 1 []) (hl : 8 ≤ s.hart.lanes)
    (hc : s.hart.child = none) (hb : s.hart.anyBinding = false) :
    exec (.forkl i) s = .next (
      let u := s.count 1
      let c := u.hart.fork (s.hart.pc + 4 * i.signExtend 64) s.ticks
      State.advance { u with
        hart := Hart.vague { u.hart with lanes := s.hart.lanes / 2, child := some c.id.front } s.ticks 0
        others := s.others ++ [c], asyncs := s.asyncs.map (AsyncWrite.disown c.id) }) := by
  refine (congrArg Host.Outcome.next (State.issue_pass (by simp [State.atP, hpr]) hf.1 ?_ hb rfl rfl)).trans ?_
  · simp [hc]; omega
  · simp

/-- Going on changes the selected hart alone. -/
theorem State.advance_frame (s : State) : s.advance = { s with hart := s.advance.hart } := by
  unfold State.advance State.setPc
  split <;> rfl

/-- What a join leaves (R41, R42): the lanes, the flags, the draws and the greater steep count are taken over, no shape
is granted, and everything outside the hart is as before. -/
theorem State.advance_absorb (u : State) (r : JoinRecord) (n : Nat) :
    let t := State.advance { u with hart := u.hart.absorb r n }
    t.hart.pc = u.nextPc ∧ u.MemSame t ∧ t.hart.lanes = 2 * u.hart.lanes ∧ t.hart.child = none ∧ t.hart.joined = none ∧
      t.hart.fflags = u.hart.fflags ||| r.fflags ∧ t.hart.srcount = u.hart.srcount + r.draws ∧
      t.hart.steepcnt = BitVec.ofNat 32 (Nat.max u.hart.steepcnt.toNat r.steep.toNat) ∧ (∀ q, t.x q = u.x q) ∧
      t.hart.e = u.hart.e ∧ (t.hart.msm = 0 ∧ t.hart.msn = 0 ∧ t.hart.msk = 0 ∧ t.hart.msprec = u.hart.msprec ∧
        t.hart.msanchor = u.hart.msanchor) ∧ t.others = u.others ∧ t = { u with hart := t.hart } := by
  dsimp only
  simp only [← and_assoc]
  refine ⟨?_, State.advance_frame _⟩
  simp [State.advance_pc, State.nextPc, State.x, State.MemSame, Hart.absorb, Hart.vague, Hart.undefV, ← ite_ult_eq_ofNat_max]

/-- Settles O28: FORKL and JOINL pass their tests, and change the harts as `Hart.fork`, `Hart.vague`, `Hart.absorb` and
`State.leaveJoin` say. -/
theorem lanes : Obligations.Lanes := by
  unfold Obligations.Lanes
  intro s i r hpr
  dsimp only
  refine ⟨fun hf hl hc hb => ?_, fun hf hc hj => ?_, fun hf hc hp hj => ?_, fun hb hp hj => ?_,
    fun hf hc hj hp m hm ht hmc hu => ?_⟩
  · refine ⟨_, execForkl_pass i hpr hf hl hc hb, _, State.advance_others _, ?_⟩
    simp only [← and_assoc]
    refine ⟨?_, (State.advance_frame _).trans (by rw [State.advance_others, State.advance_asyncs])⟩
    simp [State.advance_pc, State.x, Hart.fork, Hart.vague, Hart.undefV, State.MemSame, Hart.powerOn, frontOf, hpr, State.nextPc]
  · rw [execJoinl_pass hpr hf (.inr hc)]
    simp [State.joinlGo, hc, hj]
  · refine ⟨_, execJoinl_pass hpr hf (.inr hc), ?_⟩
    rw [State.joinlGo_absorbs (by simpa using hp) (by simpa using hj)]
    simpa [State.MemSame] using (s.count 1).advance_absorb r (s.count 1).ticks
  · have hx : exec .joinlComplete s = .next s.unblock.joinlGo := by
      change execJoinlComplete s = _
      rw [execJoinlComplete, hb]
    refine ⟨_, hx, ?_⟩
    rw [State.joinlGo_absorbs (by simpa using hp) (by simpa using hj)]
    simpa [State.MemSame, State.x] using s.unblock.advance_absorb r s.unblock.ticks
  · refine ⟨_, execJoinl_pass hpr hf (.inl hp), ?_⟩
    have hgo : (s.count 1).joinlGo = (s.count 1).leaveJoin := by simp [State.joinlGo, hc, hj, hp]
    rw [hgo, State.leaveJoin_of_parent (m := m) (by simpa using hm) (by simpa using ht) (by simpa using hmc)
      (by simpa using hu)]
    exact ⟨rfl, by rw [State.count_others], ⟨by simp, by simp⟩, rfl⟩

end Sys2Proof.Machine
end

section
/-! SUPPORT. CSR writes: what `State.setCsr` puts where, and what it leaves as it was. -/

namespace Sys2Proof.Machine

/-- The CSRs with plain fields, each with the mask of its writable bits (R62, R331 to R337). -/
def csrMasks : List (BitVec 12 × Word) :=
  [(0x001, 0x1F), (0x009, 0xFFFF), (0x010, BitVec.allOnes 64), (0x011, BitVec.allOnes 64), (0x020, 0xFF),
    (0x021, 0xFFFF), (0x100, 0xC), (0x101, 0x1FFFFC), (0x102, BitVec.allOnes 64), (0x103, BitVec.allOnes 64),
    (0x104, 0xFF), (0x105, BitVec.allOnes 64), (0x120, 0xFFFFFFFF), (0x121, 0xFFFFFFFF), (0x122, 0xFFFFFFFFFFFF),
    (0x124, 0xFFFFFFFFFFFFC0), (0x131, 0xFF), (0x132, 0xFFFFFFFF), (0x300, 0xD), (0x301, 0x1FFFFC),
    (0x302, BitVec.allOnes 64), (0x303, BitVec.allOnes 64), (0x304, 0xFF), (0x305, BitVec.allOnes 64)]

@[simp] theorem State.csr_advance (s : State) (k : Nat) : s.advance.csr k = s.csr k := by
  rw [State.advance_eq]; rfl

/-- A CSR write that no condition stops puts its value through the CSR's map and goes on. -/
theorem State.csrWrite_pass {s : State} {a : BitVec 5} {c : BitVec 12} {v : Word} (w : IWord) (hf : s.Fit 1 [a])
    (hk : csrKind c.toNat ≠ .none) (hr : csrReadOnly c.toNat = false) (hp : csrPriv s.hart.priv c.toNat true = false)
    (hv : c = 0x009#12 → vtLegal v = true ∧ s.vtStream v = false) :
    s.csrWrite w a c v = .next ((s.count 1).setCsr c.toNat v).advance := by
  have h1 : (c == 0x009#12 && !vtLegal v) = false := by
    by_cases h : c = 0x009#12 <;> simp [h, (hv · |>.1)]
  have h2 : (c == 0x009#12 && s.vtStream v) = false := by
    by_cases h : c = 0x009#12 <;> simp [h, (hv · |>.2)]
  unfold State.csrWrite
  dsimp only
  rw [if_neg (by simp [hk, hr]), State.issueX_pass hf hp h1 h2 rfl rfl]
  rfl

/-- A hart without bindings, or one whose element layout the value keeps, may have VTYPE written. -/
theorem State.vtStream_of {s : State} {v : Word}
    (h : s.hart.anyBinding = true → v.setWidth 7 = s.hart.vtype.setWidth 7) : s.vtStream v = false := by
  unfold State.vtStream State.vtMoves
  cases hb : s.hart.anyBinding with
  | false => rfl
  | true =>
    have := h hb
    simp only [Bool.true_and, bne_eq_false_iff_eq]
    simpa [BitVec.extractLsb'_eq_extractLsb, BitVec.setWidth_eq_extractLsb'] using this

/-! ### Bit fields as masks -/

/-- The low n bits of a word. -/
theorem setWidth_extractLsb'_zero (n : Nat) (v : Word) :
    (v.extractLsb' 0 n).setWidth 64 = v &&& (BitVec.allOnes n).setWidth 64 := by
  ext i hi
  by_cases h : i < n <;> simp [h, BitVec.getElem_setWidth, hi]

/-- Bits 2 and up of the low 21 bits: where an address in tile memory that is a multiple of 4 stands. -/
theorem setWidth_tmAddr (v : Word) : (v.extractLsb' 0 21 &&& ~~~3).setWidth 64 = v &&& 0x1FFFFC := by
  rw [BitVec.setWidth_and, setWidth_extractLsb'_zero, BitVec.and_assoc]
  rfl

theorem and_bit_three (v : Word) : v &&& 8 = if v.getLsbD 3 then 8 else 0 := BitVec.and_twoPow v 3
theorem and_bit_two (v : Word) : v &&& 4 = if v.getLsbD 2 then 4 else 0 := BitVec.and_twoPow v 2

/-- Bits 3 and 2 as TSTATUS shows them. -/
theorem ofNat_bits_three_two (v : Word) :
    BitVec.ofNat 64 ((if v.getLsbD 3 then 8 else 0) + (if v.getLsbD 2 then 4 else 0)) = v &&& 0xC := by
  have h : v &&& 0xC = (v &&& 8) ||| (v &&& 4) := by rw [← BitVec.and_or_distrib_left]; rfl
  rw [h, and_bit_three, and_bit_two]
  cases v.getLsbD 3 <;> cases v.getLsbD 2 <;> rfl

/-- Bits 3, 2 and 0 as MTSTATUS shows them. -/
theorem ofNat_bits_three_two_zero (v : Word) :
    BitVec.ofNat 64 ((if v.getLsbD 3 then 8 else 0) + (if v.getLsbD 2 then 4 else 0) + (v.extractLsb' 0 1).toNat) =
      v &&& 0xD := by
  have h : v &&& 0xD = (v &&& 0xC) ||| (v &&& 1) := by rw [← BitVec.and_or_distrib_left]; rfl
  have h1 : v &&& 1 = (v.extractLsb' 0 1).setWidth 64 := (setWidth_extractLsb'_zero 1 v).symm
  rw [h, h1, ← ofNat_bits_three_two]
  rcases BitVec.eq_zero_or_eq_one (v.extractLsb' 0 1) with h0 | h0 <;> rw [h0] <;>
    cases v.getLsbD 3 <;> cases v.getLsbD 2 <;> rfl

/-! ### What a CSR write does -/

/-- The entry of a numbered list that was just written. -/
theorem numGet_numPut_same {α : Type} (l : List (Nat × α)) (i : Nat) (v : α) : numGet (numPut l i v) i = some v := by
  induction l with
  | nil => simp [numPut, numGet]
  | cons x m ih =>
    unfold numPut
    split
    · simp [numGet]
    · split
      · simp [numGet]
      · have : x.1 ≠ i := by omega
        simpa [numGet, this] using ih

/-- Writing an entry of a numbered list leaves the others. -/
theorem numGet_numPut_ne {α : Type} (l : List (Nat × α)) {i j : Nat} (v : α) (h : j ≠ i) :
    numGet (numPut l i v) j = numGet l j := by
  have hij : i ≠ j := h.symm
  induction l with
  | nil => simp [numPut, numGet, hij]
  | cons x m ih =>
    unfold numPut
    split
    · simp [numGet, hij]
    · split
      · have : x.1 ≠ j := by omega
        simp [numGet, hij, this]
      · by_cases hx : x.1 = j <;> simp_all [numGet]

@[simp] theorem State.tile_setTile_same (s : State) (n : Nat) (v : Tile) : (s.setTile n v).tile n = v := by
  simp [State.tile, State.setTile, numGet_numPut_same]

theorem State.tile_setTile_ne (s : State) {n m : Nat} (v : Tile) (h : m ≠ n) : (s.setTile n v).tile m = s.tile m := by
  simp [State.tile, State.setTile, numGet_numPut_ne _ _ h]

@[simp] theorem State.myTile_setTile (s : State) (v : Tile) : (s.setTile s.tileNo v).myTile = v :=
  s.tile_setTile_same _ v

theorem State.setVtype_hart_vtype (s : State) (v : Word) : (s.setVtype v).hart.vtype = v.extractLsb' 0 16 := by
  unfold State.setVtype
  dsimp only
  split <;> rfl

theorem State.setVtype_hart_vl (s : State) (v : Word) : (s.setVtype v).hart.vl =
    BitVec.ofNat 17 (Nat.min s.hart.vl.toNat (vlmaxOf s.hart.lanes (v.extractLsb' 0 16))) := by
  unfold State.setVtype
  dsimp only
  split <;> rfl

/-- A CSR with plain fields reads as the writable bits of what was written. -/
theorem State.csr_setCsr_same (s : State) {c : BitVec 12} {mask : Word} (hc : (c, mask) ∈ csrMasks) (v : Word) :
    (s.setCsr c.toNat v).csr c.toNat = v &&& mask := by
  have hall : v = v &&& BitVec.allOnes 64 := BitVec.and_allOnes.symm
  have field := fun n => setWidth_extractLsb'_zero n v
  generalize hx : (c, mask) = x at hc
  fin_cases hc <;> obtain ⟨rfl, rfl⟩ := Prod.mk.inj hx
  · exact field 5
  · exact (congrArg _ (s.setVtype_hart_vtype v)).trans (field 16)
  · exact hall
  · exact hall
  · exact field 8
  · exact field 16
  · exact ofNat_bits_three_two v
  · exact (congrArg (fun t : Tile => t.tvec.setWidth 64) (s.myTile_setTile _)).trans (setWidth_tmAddr v)
  · exact hall
  · exact hall
  · exact field 8
  · exact hall
  · exact field 32
  · exact field 32
  · exact field 48
  · rfl
  · exact (congrArg (fun t : Tile => BitVec.ofNat 64 (t.vdid.getD 0)) (s.myTile_setTile _)).trans
      ((BitVec.ofNat_toNat 64 _).trans (field 8))
  · exact (congrArg (fun t : Tile => t.hwdog.setWidth 64) (s.myTile_setTile _)).trans (field 32)
  · exact ofNat_bits_three_two_zero v
  · exact setWidth_tmAddr v
  · exact hall
  · exact hall
  · exact field 8
  · exact hall

/-- The CSRs that have a value of their own each, by number (R62, R331). -/
def State.csrTable (s : State) : List (Nat × Word) :=
  let h := s.hart
  let t := s.myTile
  [(0x001, h.fflags.setWidth 64), (0x008, h.vl.setWidth 64), (0x009, h.vtype.setWidth 64), (0x00A, BitVec.ofNat 64 s.vlmax),
    (0x010, h.srseed), (0x011, h.srcount), (0x018, h.telem.setWidth 64), (0x020, h.msprec.setWidth 64),
    (0x021, h.msanchor.setWidth 64), (0x022, h.msm.setWidth 64), (0x023, h.msn.setWidth 64), (0x024, h.msk.setWidth 64),
    (0xC00, s.time), (0xC01, BitVec.ofNat 64 ((h.pid.map (·.rank)).getD 0)),
    (0xC02, BitVec.ofNat 64 ((h.pid.map (·.netid)).getD 0)), (0x100, h.tstatus), (0x101, t.tvec.setWidth 64),
    (0x102, h.tscratch), (0x103, h.tpc), (0x104, h.tcause.setWidth 64), (0x105, h.tval), (0x120, h.steepcnt.setWidth 64),
    (0x121, h.steeplim.setWidth 64), (0x122, h.quantum.setWidth 64),
    (0x123, BitVec.ofNat 64 (h.prioCeil.toNat * 256 + h.prioLevel.toNat)), (0x124, h.ctxptr), (0x130, t.lpart.setWidth 64),
    (0x131, BitVec.ofNat 64 (t.vdid.getD 0)), (0x132, t.hwdog.setWidth 64),
    (0x300, BitVec.ofNat 64 ((if h.mpchild then 8 else 0) + (if h.mpfork then 4 else 0) + h.mppriv.toNat)),
    (0x301, h.mtvec.setWidth 64), (0x302, h.mtscratch), (0x303, h.mtpc), (0x304, h.mtcause.setWidth 64), (0x305, h.mtval)]

/-- The CSRs that show a part of TDONE, TPROG or TMAP each. -/
def Hart.csrRest (h : Hart) (c : Nat) : Word :=
  if 0x108 ≤ c ∧ c ≤ 0x10B then h.tdone.extractLsb' (64 * (c - 0x108)) 64
  else if 0x10C ≤ c ∧ c ≤ 0x10F then tprogWord ((h.tprog.toList.getD (c - 0x10C) none))
  else if 0x110 ≤ c ∧ c ≤ 0x113 then ((h.tprog.toList.getD (c - 0x110) none).map TProg.xa).getD 0
  else if 0x114 ≤ c ∧ c ≤ 0x117 then ((h.tprog.toList.getD (c - 0x114) none).map TProg.xb).getD 0
  else if 0x140 ≤ c ∧ c ≤ 0x14F then h.tmap.extractLsb' (64 * (c - 0x140)) 64
  else 0

/-- The value of a CSR is that of the table, or else a part of the trap state. -/
theorem State.csr_eq_table (s : State) (k : Nat) : s.csr k = (s.csrTable.lookup k).getD (s.hart.csrRest k) := by
  unfold State.csr
  split
  case h_36 =>
    rw [List.lookup_eq_none_iff.2 (by simp [State.csrTable]; and_intros <;> assumption)]
    rfl
  all_goals rfl

/-- Replacing the value of a key leaves what every other key finds. -/
theorem List.lookup_set_ne {α : Type} {k c : Nat} {w : α} (hk : k ≠ c) : ∀ {l : List (Nat × α)} {i : Nat},
    (l[i]?).map Prod.fst = some c → (l.set i (c, w)).lookup k = l.lookup k
  | [], _, h => by simp at h
  | (j, a) :: l, 0, h => by
    obtain rfl : j = c := by simpa using h
    have hb : (k == j) = false := by simp [hk]
    simp [List.lookup, hb]
  | (j, a) :: l, i + 1, h => by
    rw [List.set_cons_succ]
    cases hb : k == j with
    | true => simp [List.lookup, hb]
    | false => simpa [List.lookup, hb] using List.lookup_set_ne hk (by simpa using h)

/-- A state whose CSR table is another's with entries replaced shows the same value at every other CSR. -/
theorem State.csr_of_sets {s t : State} {k : Nat} (l : List (Nat × Nat × Word)) (hk : ∀ x ∈ l, k ≠ x.2.1)
    (hi : ∀ x ∈ l, (s.csrTable[x.1]?).map Prod.fst = some x.2.1)
    (h : t.csrTable = l.foldl (fun m x => m.set x.1 x.2) s.csrTable)
    (hr : t.hart.csrRest = s.hart.csrRest) : t.csr k = s.csr k := by
  have key : ∀ (l : List (Nat × Nat × Word)) (m : List (Nat × Word)), (∀ x ∈ l, k ≠ x.2.1) →
      (∀ x ∈ l, (m[x.1]?).map Prod.fst = some x.2.1) →
      (l.foldl (fun m x => m.set x.1 x.2) m).lookup k = m.lookup k := by
    intro l
    induction l with
    | nil => intro m _ _; rfl
    | cons x l ih =>
      intro m hk hi
      rw [List.forall_mem_cons] at hk hi
      rw [List.foldl_cons, ih _ hk.2 fun y hy => ?_, List.lookup_set_ne hk.1 hi.1]
      by_cases hxy : x.1 = y.1
      · have hy' := hi.2 y hy
        rw [← hxy, hi.1] at hy'
        have hlt : x.1 < m.length := by
          by_contra hge
          have hnone := hi.1
          rw [List.getElem?_eq_none (Nat.le_of_not_lt hge)] at hnone
          cases hnone
        simpa [← hxy, hlt] using hy'
      · rw [List.getElem?_set_ne hxy]; exact hi.2 y hy
  rw [State.csr_eq_table, State.csr_eq_table, h, key l _ hk hi, hr]

theorem State.csr_of_set {s t : State} {k c : Nat} (i : Nat) {w : Word} (hk : k ≠ c)
    (hi : (s.csrTable[i]?).map Prod.fst = some c) (h : t.csrTable = s.csrTable.set i (c, w))
    (hr : t.hart.csrRest = s.hart.csrRest) : t.csr k = s.csr k :=
  State.csr_of_sets [(i, c, w)] (by simpa using hk) (by simpa using hi) h hr

/-- Every other CSR keeps its value, but VL and VLMAX with VTYPE, and the shape with MSPREC and MSANCHOR. -/
theorem State.csr_setCsr_ne (s : State) {c : BitVec 12} {mask : Word} (hc : (c, mask) ∈ csrMasks) (v : Word) {k : Nat}
    (hk : k ≠ c.toNat) (hvl : c = 0x009 → k ≠ 0x008 ∧ k ≠ 0x00A)
    (hms : c = 0x020 ∨ c = 0x021 → k < 0x022 ∨ 0x024 < k) : (s.setCsr c.toNat v).csr k = s.csr k := by
  generalize hx : (c, mask) = x at hc
  fin_cases hc <;> obtain ⟨rfl, rfl⟩ := Prod.mk.inj hx
  · exact State.csr_of_set 0 hk rfl rfl rfl
  · obtain ⟨hl, hm⟩ := hvl rfl
    have ht : (s.setVtype v).csrTable = [(1, 0x008, (s.setVtype v).csr 0x008), (2, 0x009, (s.setVtype v).csr 0x009),
        (3, 0x00A, (s.setVtype v).csr 0x00A)].foldl (fun m x => m.set x.1 x.2) s.csrTable := by
      unfold State.setVtype
      dsimp only
      split <;> rfl
    have hr : (s.setVtype v).hart.csrRest = s.hart.csrRest := by
      unfold State.setVtype
      dsimp only
      split <;> rfl
    refine State.csr_of_sets _ ?_ ?_ ht hr
    · simpa [hl, hm] using hk
    · simp [State.csrTable]
  · exact State.csr_of_set 4 hk rfl rfl rfl
  · exact State.csr_of_set 5 hk rfl rfl rfl
  · refine State.csr_of_sets [(7, 0x020, (v.extractLsb' 0 8).setWidth 64), (9, 0x022, 0), (10, 0x023, 0), (11, 0x024, 0)] ?_ ?_ rfl rfl
    · have := hms (by simp)
      simp at hk
      simp
      omega
    · simp [State.csrTable]
  · refine State.csr_of_sets [(8, 0x021, (v.extractLsb' 0 16).setWidth 64), (9, 0x022, 0), (10, 0x023, 0), (11, 0x024, 0)] ?_ ?_ rfl rfl
    · have := hms (by simp)
      simp at hk
      simp
      omega
    · simp [State.csrTable]
  · exact State.csr_of_set 15 hk rfl rfl rfl
  · exact State.csr_of_set 16 hk rfl (by rw [State.csrTable]; erw [s.myTile_setTile]; rfl) rfl
  · exact State.csr_of_set 17 hk rfl rfl rfl
  · exact State.csr_of_set 18 hk rfl rfl rfl
  · exact State.csr_of_set 19 hk rfl rfl rfl
  · exact State.csr_of_set 20 hk rfl rfl rfl
  · exact State.csr_of_set 21 hk rfl rfl rfl
  · exact State.csr_of_set 22 hk rfl rfl rfl
  · exact State.csr_of_set 23 hk rfl rfl rfl
  · exact State.csr_of_set 25 hk rfl rfl rfl
  · exact State.csr_of_set 27 hk rfl (by rw [State.csrTable]; erw [s.myTile_setTile]; rfl) rfl
  · exact State.csr_of_set 28 hk rfl (by rw [State.csrTable]; erw [s.myTile_setTile]; rfl) rfl
  · exact State.csr_of_set 29 hk rfl rfl rfl
  · exact State.csr_of_set 30 hk rfl rfl rfl
  · exact State.csr_of_set 31 hk rfl rfl rfl
  · exact State.csr_of_set 32 hk rfl rfl rfl
  · exact State.csr_of_set 33 hk rfl rfl rfl
  · exact State.csr_of_set 34 hk rfl rfl rfl

/-- What a write of a CSR with plain fields leaves of the hart: where it goes on, its registers but the vector registers,
its accumulators, banks and streams. -/
def Hart.CsrKept (g h : Hart) : Prop :=
  h.pc = g.pc ∧ h.current = g.current ∧ h.x = g.x ∧ h.p = g.p ∧ h.e = g.e ∧ h.m = g.m ∧ h.streams = g.streams

/-- A write of a CSR with plain fields changes the hart and its tile alone. -/
theorem State.setCsr_keeps (s : State) {c : BitVec 12} {mask : Word} (hc : (c, mask) ∈ csrMasks) (v : Word) :
    s.hart.CsrKept (s.setCsr c.toNat v).hart ∧ (c ≠ 0x009 → (s.setCsr c.toNat v).hart.v = s.hart.v) ∧
      s.setCsr c.toNat v = { s with hart := (s.setCsr c.toNat v).hart, tiles := (s.setCsr c.toNat v).tiles } := by
  by_cases h9 : c = 0x009
  · subst h9
    have ht : s.hart.CsrKept (s.setVtype v).hart ∧
        s.setVtype v = { s with hart := (s.setVtype v).hart, tiles := (s.setVtype v).tiles } := by
      unfold State.setVtype
      dsimp only
      split <;> exact ⟨⟨rfl, rfl, rfl, rfl, rfl, rfl, rfl⟩, rfl⟩
    exact ⟨ht.1, fun h => absurd rfl h, ht.2⟩
  · generalize hx : (c, mask) = x at hc
    fin_cases hc <;> obtain ⟨rfl, rfl⟩ := Prod.mk.inj hx
    swap
    · exact absurd rfl h9
    all_goals exact ⟨⟨rfl, rfl, rfl, rfl, rfl, rfl, rfl⟩, fun _ => rfl, rfl⟩

/-- Only P counts units. -/
theorem State.count_of_not_p {s : State} (h : s.hart.priv ≠ .p) (u : Nat) : s.count u = s := by
  unfold State.count
  cases hp : s.hart.priv with
  | p => exact absurd hp h
  | s => rfl
  | m => rfl

/-- CSRW, CSRS and CSRC write the value, the old value with its bits set, and with its bits cleared (R187). -/
theorem State.csrForms_intro {s : State} {a : BitVec 5} (hf : s.Fit 1 [a]) {c : BitVec 12} {ok : Word → Prop}
    {Q : Word → State → Prop} (hk : csrKind c.toNat ≠ .none) (hr : csrReadOnly c.toNat = false)
    (hp : csrPriv s.hart.priv c.toNat true = false)
    (hv : ∀ v, ok v → c = 0x009#12 → vtLegal v = true ∧ s.vtStream v = false)
    (h : ∀ v, ok v → Q v ((s.count 1).setCsr c.toNat v).advance) :
    (ok (s.x a) → Answers (exec (.csrw a c) s) (Q (s.x a))) ∧
      (ok (s.csr c.toNat ||| s.x a) → Answers (exec (.csrs a c) s) (Q (s.csr c.toNat ||| s.x a))) ∧
      (ok (s.csr c.toNat &&& ~~~s.x a) → Answers (exec (.csrc a c) s) (Q (s.csr c.toNat &&& ~~~s.x a))) :=
  ⟨fun ho => ⟨_, State.csrWrite_pass _ hf hk hr hp (hv _ ho), h _ ho⟩,
    fun ho => ⟨_, State.csrWrite_pass _ hf hk hr hp (hv _ ho), h _ ho⟩,
    fun ho => ⟨_, State.csrWrite_pass _ hf hk hr hp (hv _ ho), h _ ho⟩⟩

/-- The CSRs with plain fields exist and may be written. -/
theorem csrMasks_writable {c : BitVec 12} {mask : Word} (hc : (c, mask) ∈ csrMasks) :
    csrKind c.toNat ≠ .none ∧ csrReadOnly c.toNat = false := by
  generalize hx : (c, mask) = x at hc
  fin_cases hc <;> obtain ⟨rfl, rfl⟩ := Prod.mk.inj hx <;> decide

/-! ### TPROG and PRIO (R334, R336) -/

/-- S and M may write the system CSRs that have a field for S. -/
theorem csrPriv_sys {pr : Priv} (hp : pr ≠ .p) {c : Nat} (hk : csrKind c = .sys) (hw : csrWriteS c = true) :
    csrPriv pr c true = false := by
  cases pr with
  | p => exact absurd rfl hp
  | s => simp [csrPriv, hk, hw]
  | m => simp [csrPriv, hk]

theorem toNat_tprogCsr (k : Fin 4) : (0x10C + BitVec.ofNat 12 k).toNat = 0x10C + k.val := by
  fin_cases k <;> rfl

/-- The CSRs of TPROG0 to TPROG3. -/
theorem tprogCsr_writable (k : Fin 4) : csrKind (0x10C + BitVec.ofNat 12 k).toNat = .sys ∧
    csrReadOnly (0x10C + BitVec.ofNat 12 k).toNat = false ∧ csrWriteS (0x10C + BitVec.ofNat 12 k).toNat = true ∧
    0x10C + BitVec.ofNat 12 k ≠ 0x009#12 := by
  fin_cases k <;> decide

/-- A write of TPROG changes one entry of the hart's records. -/
theorem State.setCsr_tprog (s : State) (k : Fin 4) (v : Word) : s.setCsr (0x10C + BitVec.ofNat 12 k).toNat v = { s with hart := { s.hart with
    tprog := s.hart.tprog.set k (tprogPut (decide (s.hart.priv = .m)) v s.hart.tprog[k]) } } := by
  have h : s.setCsr (0x10C + BitVec.ofNat 12 k).toNat v = { s with hart := { s.hart with
      tprog := s.hart.tprog.setIfInBounds k (tprogPut (decide (s.hart.priv = .m)) v (s.hart.tprog.toList.getD k none)) } } := by
    fin_cases k <;> rfl
  have hset : s.hart.tprog.setIfInBounds k (tprogPut (decide (s.hart.priv = .m)) v (s.hart.tprog.toList.getD k none)) =
      s.hart.tprog.set k (tprogPut (decide (s.hart.priv = .m)) v s.hart.tprog[k]) := by
    ext i hi : 1
    simp [Vector.getElem_setIfInBounds, Vector.getElem_set]
  rw [h, hset]

/-- The level that a write of PRIO gives stays below the ceiling. -/
theorem toNat_clampLevel (ceil want : BitVec 4) :
    (if ceil.ult want then ceil else want).toNat = Nat.min want.toNat ceil.toNat := by
  by_cases h : ceil.toNat < want.toNat
  · rw [if_pos (by simpa [BitVec.ult] using h)]; exact (Nat.min_eq_right h.le).symm
  · rw [if_neg (by simpa [BitVec.ult] using h)]; exact (Nat.min_eq_left (Nat.le_of_not_lt h)).symm

theorem State.mapMyProc_eq (s : State) (f : Proc → Proc) :
    s.mapMyProc f = { s with procs := s.procs.map fun q => if s.hart.pid = some q.pid then f q else q } := by
  unfold State.mapMyProc
  cases hp : s.hart.pid with
  | none => simp
  | some p => simp [State.mapProc, eq_comm]

/-- A write of PRIO changes the level and the ceiling of the hart, and the level of its process and of the process's
other harts. -/
theorem State.setCsr_prio (s : State) (v : Word) :
    let ceil := if s.hart.priv = .m then v.extractLsb' 8 4 else s.hart.prioCeil
    let level := if ceil.ult (v.extractLsb' 0 4) then ceil else v.extractLsb' 0 4
    s.setCsr 0x123 v = { s with
      hart := { s.hart with prioCeil := ceil, prioLevel := level }
      procs := s.procs.map fun q => if s.hart.pid = some q.pid then { q with level := level } else q
      others := s.others.map fun g => if g.pid = s.hart.pid ∧ s.hart.pid.isSome = true then { g with prioLevel := level } else g } := by
  intro ceil level
  have h : s.setCsr 0x123 v = { State.mapMyProc { s with hart := { s.hart with prioCeil := ceil, prioLevel := level } }
      (fun q => { q with level := level }) with
    others := (State.mapMyProc { s with hart := { s.hart with prioCeil := ceil, prioLevel := level } }
      (fun q => { q with level := level })).others.map fun g =>
        if g.pid = s.hart.pid ∧ s.hart.pid.isSome = true then { g with prioLevel := level } else g } := by
    simp only [State.setCsr, decide_eq_true_eq, ceil, level]
  rw [h, State.mapMyProc_eq]

/-! ### LPART (R33, R337) -/

/-- What a partition makes of the base hart h of a tile whose harts were old. -/
def Hart.rebase (old : List Hart) (h : Hart) : Hart :=
  match old.find? (fun o => decide (o.id = h.id)) with
  | some o => { (if o.status = .idle then h.keepM { o with priv := h.priv, pc := h.pc } else o) with
      lane0 := h.lane0, lanes := h.lanes }
  | none => h

theorem Hart.rebase_place (old : List Hart) (h : Hart) :
    (h.rebase old).id = h.id ∧ (h.rebase old).lanes = h.lanes ∧ (h.rebase old).lane0 = h.lane0 := by
  unfold Hart.rebase
  cases ho : old.find? (fun o => decide (o.id = h.id)) with
  | none => exact ⟨rfl, rfl, rfl⟩
  | some o =>
    have hid : o.id = h.id := by simpa using List.find?_some ho
    dsimp only
    split
    · exact ⟨rfl, rfl, rfl⟩
    · exact ⟨hid, rfl, rfl⟩

/-- A hart that runs monitor code keeps its state, on its new lanes. -/
theorem Hart.rebase_running {g h : Hart} (old : List Hart) (hid : g.id = h.id) (hrun : g.status = .running) :
    h.rebase (g :: old) = { g with lane0 := h.lane0, lanes := h.lanes } := by
  simp [Hart.rebase, hid, hrun]

/-- The lanes of a partition, and where its base harts stand (R33). -/
theorem mem_baseHarts {t : Nat} {lp : BitVec 2} {h : Hart} (hh : h ∈ baseHarts t lp) :
    h.id.tile = t ∧ h.lanes = 32 / 2 ^ lp.toNat ∧ h.lane0 = 4 * h.id.front ∧ h.lane0 < 32 ∧
      h.lane0 % (32 / 2 ^ lp.toNat) = 0 := by
  obtain ⟨i, hi, rfl⟩ := List.mem_map.1 hh
  have hi : i < 2 ^ lp.toNat := List.mem_range.1 hi
  refine ⟨rfl, rfl, ?_⟩
  change i * (32 / 2 ^ lp.toNat) = 4 * (i * (32 / 2 ^ lp.toNat) / 4) ∧ i * (32 / 2 ^ lp.toNat) < 32 ∧
    i * (32 / 2 ^ lp.toNat) % (32 / 2 ^ lp.toNat) = 0
  refine ⟨?_, ?_, Nat.mul_mod_left _ _⟩ <;>
    (have : lp.toNat < 4 := lp.isLt) <;> generalize lp.toNat = n at * <;> interval_cases n <;> simp at * <;> omega

/-- Every lane that a partition's harts begin at has one. -/
theorem exists_baseHarts (t : Nat) {lp : BitVec 2} {l : Nat} (hl : l < 32) (hm : l % (32 / 2 ^ lp.toNat) = 0) :
    ∃ h ∈ baseHarts t lp, h.id = ⟨t, l / 4⟩ ∧ h.lane0 = l := by
  have hdiv : l / (32 / 2 ^ lp.toNat) * (32 / 2 ^ lp.toNat) = l := Nat.div_mul_cancel (Nat.dvd_of_mod_eq_zero hm)
  refine ⟨_, List.mem_map.2 ⟨l / (32 / 2 ^ lp.toNat), List.mem_range.2 ?_, rfl⟩, ?_, hdiv⟩
  · have : lp.toNat < 4 := lp.isLt
    generalize lp.toNat = n at *
    interval_cases n <;> simp at * <;> omega
  · change (⟨t, l / (32 / 2 ^ lp.toNat) * (32 / 2 ^ lp.toNat) / 4⟩ : HartId) = _
    rw [hdiv]

/-- Whether a partition of the tile has a hart on the front end of the selected hart. -/
theorem any_baseHarts_id (h : Hart) (lp : BitVec 2) :
    (baseHarts h.id.tile lp).any (fun g => decide (g.id = h.id)) = true ↔
      4 * h.id.front % (32 / 2 ^ lp.toNat) = 0 ∧ 4 * h.id.front < 32 := by
  rw [List.any_eq_true]
  constructor
  · rintro ⟨g, hg, hid⟩
    obtain ⟨-, -, h0, hlt, hmod⟩ := mem_baseHarts hg
    rw [of_decide_eq_true hid] at h0
    exact h0 ▸ ⟨hmod, hlt⟩
  · rintro ⟨hmod, hlt⟩
    obtain ⟨g, hg, hid, -⟩ := exists_baseHarts h.id.tile hlt hmod
    refine ⟨g, hg, decide_eq_true (hid.trans ?_)⟩
    rw [Nat.mul_div_cancel_left _ (by decide)]

/-- The harts of a tile after its partition is written. -/
def State.rebased (s : State) (lp : BitVec 2) : List Hart :=
  (baseHarts s.tileNo lp).map (Hart.rebase (s.harts.filter (fun h => h.id.tile == s.tileNo)))

/-- Where the selected hart runs on a front end of the new partition, it keeps its state on its new lanes (R33). -/
theorem State.repartition_mine {s : State} {lp : BitVec 2} (hrun : s.hart.status = .running)
    (hmod : 4 * s.hart.id.front % (32 / 2 ^ lp.toNat) = 0) (hlt : 4 * s.hart.id.front < 32) :
    s.repartition s.tileNo lp = { s.setTile s.tileNo { s.tile s.tileNo with lpart := lp } with
      hart := { s.hart with lane0 := 4 * s.hart.id.front, lanes := 32 / 2 ^ lp.toNat }
      others := (s.rebased lp).filter (fun o => decide (o.id ≠ s.hart.id)) ++
        s.others.filter (fun h => h.id.tile != s.tileNo) } := by
  have hold : s.harts.filter (fun h => h.id.tile == s.tileNo) =
      s.hart :: s.others.filter (fun h => h.id.tile == s.tileNo) := by
    simp [State.harts, State.tileNo]
  have hfind : (s.rebased lp).find? (fun h => decide (h.id = s.hart.id)) =
      some { s.hart with lane0 := 4 * s.hart.id.front, lanes := 32 / 2 ^ lp.toNat } := by
    cases hf : (s.rebased lp).find? (fun h => decide (h.id = s.hart.id)) with
    | none =>
      obtain ⟨g, hg, hid⟩ := List.any_eq_true.1 ((any_baseHarts_id s.hart lp).2 ⟨hmod, hlt⟩)
      refine absurd (List.find?_eq_none.1 hf _ (List.mem_map_of_mem hg)) (not_not.2 ?_)
      rw [(Hart.rebase_place _ g).1]
      exact hid
    | some g =>
      have hid : g.id = s.hart.id := by simpa using List.find?_some hf
      obtain ⟨b, hb, rfl⟩ := List.mem_map.1 (List.mem_of_find?_eq_some hf)
      rw [(Hart.rebase_place _ b).1] at hid
      obtain ⟨-, hlanes, h0, -⟩ := mem_baseHarts hb
      rw [hold, Hart.rebase_running _ hid.symm hrun, hlanes, h0, hid]
  have h : s.repartition s.tileNo lp =
      (match (s.rebased lp).find? (fun h => decide (h.id = s.hart.id)), s.rebased lp with
      | some h, _ => { s.setTile s.tileNo { s.tile s.tileNo with lpart := lp } with
          hart := h, others := (s.rebased lp).filter (fun o => decide (o.id ≠ h.id)) ++ s.others.filter (fun h => h.id.tile != s.tileNo) }
      | none, h :: hs => { s.setTile s.tileNo { s.tile s.tileNo with lpart := lp } with
          hart := h, others := hs ++ s.others.filter (fun h => h.id.tile != s.tileNo) }
      | none, [] => s.setTile s.tileNo { s.tile s.tileNo with lpart := lp }) := if_pos rfl
  rw [h, hfind]

/-- A write of LPART to an occupied tile, or one that leaves no hart on the writer's front end, is ignored. -/
theorem State.setCsr_lpart_ignored {s : State} {v : Word}
    (h : s.tileOccupied s.tileNo = true ∨ 4 * s.hart.id.front % (32 / 2 ^ (v.extractLsb' 0 2).toNat) ≠ 0 ∨
      32 ≤ 4 * s.hart.id.front) : s.setCsr 0x130 v = s := by
  refine if_pos (h.imp_right fun h => ?_)
  rw [Bool.not_eq_true', ← Bool.not_eq_true]
  refine fun hany => ?_
  have := (any_baseHarts_id s.hart _).1 hany
  omega

/-- Any other write of LPART puts the tile under the new partition. -/
theorem State.setCsr_lpart {s : State} {v : Word} (ho : s.tileOccupied s.tileNo = false)
    (hmod : 4 * s.hart.id.front % (32 / 2 ^ (v.extractLsb' 0 2).toNat) = 0) (hlt : 4 * s.hart.id.front < 32) :
    s.setCsr 0x130 v = s.repartition s.tileNo (v.extractLsb' 0 2) := by
  refine if_neg ?_
  rw [ho, State.tileNo, (any_baseHarts_id s.hart _).2 ⟨hmod, hlt⟩]
  simp

theorem Hart.mem_rebased {s : State} {lp : BitVec 2} {h : Hart} (hh : h ∈ s.rebased lp) :
    h.id.tile = s.tileNo ∧ h.lanes = 32 / 2 ^ lp.toNat ∧ h.lane0 = 4 * h.id.front ∧ h.lane0 < 32 ∧
      h.lane0 % (32 / 2 ^ lp.toNat) = 0 := by
  obtain ⟨b, hb, rfl⟩ := List.mem_map.1 hh
  obtain ⟨hid, hlanes, hlane0⟩ := Hart.rebase_place (s.harts.filter (fun h => h.id.tile == s.tileNo)) b
  rw [hid, hlanes, hlane0]
  exact mem_baseHarts hb

/-- The harts of the package after the selected hart's tile is partitioned anew and the hart goes on. -/
theorem State.harts_repartition {s u : State} {lp : BitVec 2}
    (hmod : 4 * s.hart.id.front % (32 / 2 ^ lp.toNat) = 0) (hlt : 4 * s.hart.id.front < 32)
    (hu : u.hart = { s.hart with lane0 := 4 * s.hart.id.front, lanes := 32 / 2 ^ lp.toNat })
    (ho : u.others = (s.rebased lp).filter (fun o => decide (o.id ≠ s.hart.id)) ++
      s.others.filter (fun h => h.id.tile != s.tileNo)) :
    let t := u.advance
    (∀ h ∈ t.harts, h.id.tile = s.tileNo → h.lanes = 32 / 2 ^ lp.toNat ∧ h.lane0 = 4 * h.id.front ∧ h.lane0 < 32 ∧
      h.lane0 % (32 / 2 ^ lp.toNat) = 0) ∧
    (∀ l < 32, l % (32 / 2 ^ lp.toNat) = 0 → ∃ h ∈ t.harts, h.id = ⟨s.tileNo, l / 4⟩) ∧
    (∀ h, h.id.tile ≠ s.tileNo → (h ∈ t.harts ↔ h ∈ s.harts)) := by
  intro t
  have hid : t.hart.id = s.hart.id := by rw [State.advance_hart_id, hu]
  have hl0 : t.hart.lane0 = 4 * s.hart.id.front := by rw [State.advance_hart_lane0, hu]
  have hl : t.hart.lanes = 32 / 2 ^ lp.toNat := by rw [State.advance_hart_lanes, hu]
  have ht : t.harts = t.hart :: _ := congrArg (List.cons t.hart) ((State.advance_others u).trans ho)
  clear_value t
  refine ⟨fun h hh hti => ?_, fun l hlt hlm => ?_, fun h hti => ?_⟩
  · rw [ht, List.mem_cons, List.mem_append, List.mem_filter, List.mem_filter] at hh
    rcases hh with rfl | ⟨hh, -⟩ | ⟨-, hne⟩
    · rw [hl, hl0, hid]; exact ⟨rfl, rfl, hlt, hmod⟩
    · exact (Hart.mem_rebased hh).2
    · simp [hti] at hne
  · obtain ⟨b, hb, hbid, -⟩ := exists_baseHarts s.tileNo hlt hlm
    by_cases hme : b.id = s.hart.id
    · exact ⟨t.hart, by simp [ht], by rw [hid, ← hme, hbid]⟩
    · have hrid := (Hart.rebase_place (s.harts.filter (fun h => h.id.tile == s.tileNo)) b).1
      refine ⟨_, ?_, hrid.trans hbid⟩
      rw [ht, List.mem_cons, List.mem_append, List.mem_filter]
      exact .inr (.inl ⟨List.mem_map_of_mem hb, decide_eq_true (hrid ▸ hme)⟩)
  · have h1 : h ≠ t.hart := fun e => hti (by rw [e, hid]; rfl)
    have h2 : h ≠ s.hart := fun e => hti (by rw [e]; rfl)
    have h3 : h ∉ s.rebased lp := fun hm => hti (Hart.mem_rebased hm).1
    rw [ht, State.harts]
    simp [h1, h2, h3, hti]

/-- Settles O33: by what `State.setCsr` does to each CSR, once for each of the forms that write one. -/
theorem csrWrites : Obligations.CsrWrites := by
  unfold Obligations.CsrWrites
  intro s a hf u v mine forms
  have hforms : ∀ {c : BitVec 12} {ok : Word → Prop} {Q : Word → State → Prop}, csrKind c.toNat ≠ .none →
      csrReadOnly c.toNat = false → csrPriv s.hart.priv c.toNat true = false →
      (∀ v, ok v → c = 0x009#12 → vtLegal v = true ∧ s.vtStream v = false) →
      (∀ v, ok v → Q v ((s.count 1).setCsr c.toNat v).advance) → forms c ok Q :=
    fun {c ok Q} hk hr hp hv h => State.csrForms_intro (ok := ok) (Q := Q) hf hk hr hp hv h
  clear_value forms
  refine ⟨fun c mask hp hc => ?_, fun hp k => ⟨?_, ?_⟩, fun hp hrun => ?_⟩
  · obtain ⟨hk, hr⟩ := csrMasks_writable hc
    refine hforms hk hr hp ?_ ?_
    · exact fun v hok h9 => ⟨(hok h9).1, State.vtStream_of (hok h9).2⟩
    intro v _
    obtain ⟨⟨hpc, hcur, hx, hpr, he, hm, hst⟩, hvv, heq⟩ := u.setCsr_keeps hc v
    have hux : u.hart.x = s.hart.x := by simp [u]
    refine ⟨?_, ?_, ⟨fun k => ?_, fun k => ?_⟩, ?_, ?_, ?_, ?_, ?_, ?_, ?_, ?_, ?_, ?_⟩
    · rw [State.csr_advance, State.csr_setCsr_same _ hc]
    · rw [State.advance_pc]
      exact (State.nextPc_of hpc hcur).trans (State.nextPc_of (by simp [u]) (by simp [u]))
    · rw [State.advance_tm, heq]; simp [u]
    · rw [State.advance_gm, heq]; simp [u]
    · intro k hk hvl hms
      rw [State.csr_advance, State.csr_setCsr_ne _ hc _ hk hvl hms]
    · rintro rfl
      rw [State.csr_advance]
      change (u.setVtype v).hart.vl.setWidth 64 = _
      rw [State.setVtype_hart_vl]
      refine BitVec.eq_of_toNat_eq ?_
      simp [u, BitVec.setWidth_eq_extractLsb']
    · rintro (rfl | rfl) <;> exact ⟨(State.csr_advance _ _).trans rfl, (State.csr_advance _ _).trans rfl, (State.csr_advance _ _).trans rfl⟩
    · intro r
      rw [State.x_advance, State.x, State.x, hx.trans hux]
    · rw [State.advance_hart_p]; exact hpr.trans (by simp [u])
    · rw [State.advance_hart_e]; exact he.trans (by simp [u])
    · rw [State.advance_hart_m]; exact hm.trans (by simp [u])
    · rw [State.advance_hart_streams]; exact hst.trans (by simp [u])
    · intro h9
      rw [State.advance_hart_v]; exact (hvv h9).trans (by simp [u])
    · refine (State.advance_frame _).trans ?_
      rw [State.advance_tiles]
      exact congrArg (fun x : State => { x with hart := ((s.count 1).setCsr c.toNat v).advance.hart }) heq
  · obtain ⟨hk, hr, hw, h9⟩ := tprogCsr_writable k
    refine hforms (hk ▸ by decide) hr (csrPriv_sys hp hk hw) (fun _ _ h => absurd h h9) ?_
    intro v _
    rw [State.count_of_not_p hp, State.setCsr_tprog]
    refine ⟨State.advance_pc _, (State.advance_hart_tprog _).trans ?_, (State.advance_eq _).trans ?_⟩
    · cases hq : s.hart.priv with
      | p => exact absurd hq hp
      | s => rfl
      | m => rfl
    · rw [State.advance_hart_tprog]; rfl
  · refine hforms (by decide) (by decide) (csrPriv_sys hp (by decide) (by decide)) (fun _ _ h => absurd h (by decide)) ?_
    intro v _
    rw [State.count_of_not_p hp]
    have hset := s.setCsr_prio v
    dsimp only at hset
    rw [show (0x123 : BitVec 12).toNat = 0x123 from rfl, hset]
    refine ⟨State.advance_pc _, (State.advance_hart_prioCeil _).trans ?_, ?_, (State.advance_others _).trans ?_,
      (State.advance_procs _).trans ?_, (State.advance_eq _).trans ?_⟩
    · cases hq : s.hart.priv with
      | p => exact absurd hq hp
      | s => rfl
      | m => rfl
    · rw [State.advance_hart_prioLevel, State.advance_hart_prioCeil]
      exact (toNat_clampLevel _ _).trans (by simp)
    · rw [State.advance_hart_prioLevel]
    · rw [State.advance_hart_prioLevel]
    · rw [State.advance_hart_prioLevel, State.advance_hart_prioCeil, State.advance_others, State.advance_procs]; rfl
  · refine hforms (by decide) (by decide) (by simp [csrPriv, hp]; rfl) (fun _ _ h => absurd h (by decide)) ?_
    intro v _
    rw [State.count_of_not_p (by simp [hp])]
    intro lanes lane
    have hlanes : 32 / 2 ^ (v.extractLsb' 0 2).toNat = lanes := by simp [lanes]
    have hnum : (0x130 : BitVec 12).toNat = 0x130 := rfl
    by_cases hx : s.tileOccupied mine = true ∨ lane % lanes ≠ 0 ∨ 32 ≤ lane
    · rw [hnum, State.setCsr_lpart_ignored (hlanes ▸ hx)]
      refine ⟨s.advance_pc, ⟨by simp, by simp⟩, fun _ => s.advance_eq, fun ho hm hl => absurd hx ?_⟩
      simp [ho, hm, hl]
    · obtain ⟨ho, hm, hlt⟩ : s.tileOccupied mine = false ∧ lane % lanes = 0 ∧ lane < 32 := by
        rw [not_or, not_or, Bool.not_eq_true] at hx
        exact ⟨hx.1, by omega, by omega⟩
      have hmod : 4 * s.hart.id.front % (32 / 2 ^ (v.extractLsb' 0 2).toNat) = 0 := hlanes ▸ hm
      rw [hnum, State.setCsr_lpart ho hmod hlt, State.repartition_mine hrun hmod hlt]
      refine ⟨State.advance_pc _, ⟨by simp [State.setTile], by simp [State.setTile]⟩, fun h => absurd h hx, fun _ _ _ => ?_⟩
      rw [← hlanes]
      refine ⟨?_, congrArg State.hart (State.advance_eq _), (State.harts_repartition hmod hlt rfl rfl).1,
        (State.harts_repartition hmod hlt rfl rfl).2.1, (State.harts_repartition hmod hlt rfl rfl).2.2, fun n hn => ?_,
        (State.advance_frame _).trans ?_⟩
      · rw [State.csr_advance]
        refine (congrArg (fun t : Tile => t.lpart.setWidth 64) (s.tile_setTile_same _ _)).trans ?_
        exact setWidth_extractLsb'_zero 2 v
      · rw [State.tile, State.advance_tiles]
        exact s.tile_setTile_ne _ hn
      · rw [State.advance_others, State.advance_tiles]; rfl

end Sys2Proof.Machine
end

section
/-! SUPPORT. What stores to global memory and the waking of processes change: one frame equation for each. -/

namespace Sys2Proof.Machine

/-- A property of the state that every step of a fold keeps is that of the start. -/
theorem foldl_keeps {σ α β : Type} (π : σ → β) (f : σ → α → σ) (h : ∀ s a, π (f s a) = π s) (l : List α) (s : σ) :
    π (l.foldl f s) = π s := by
  induction l generalizing s with
  | nil => rfl
  | cons a l ih => rw [List.foldl_cons, ih, h]

/-! ### Global memory (R119, R389, R397, R401, R419) -/

/-- The state without what a store to global memory may change: its bytes, keys, stamps and poison, and the dirty logs. -/
def State.sansGm (s : State) : State := { s with gm := [], gmKey := [], gmStamp := [], gmPois := [], vdevs := [] }

/-- States that agree outside global memory. -/
theorem State.eq_of_sansGm {s t : State} (h : t.sansGm = s.sansGm) :
    t = { s with gm := t.gm, gmKey := t.gmKey, gmStamp := t.gmStamp, gmPois := t.gmPois, vdevs := t.vdevs } :=
  congrArg (fun u : State => { u with gm := t.gm, gmKey := t.gmKey, gmStamp := t.gmStamp, gmPois := t.gmPois, vdevs := t.vdevs }) h

@[simp] theorem State.sansGm_rekey (s : State) (k : XtsKey) (g : Nat) : (s.rekey k g).sansGm = s.sansGm := by
  unfold State.rekey
  split
  · rfl
  · split <;> rfl

@[simp] theorem State.sansGm_logDirty (s : State) (k n : Nat) : (s.logDirty k n).sansGm = s.sansGm := by
  unfold State.logDirty
  split <;> rfl

@[simp] theorem State.sansGm_gmStore (s : State) (p : Phys) (bs : List Byte) : (s.gmStore p bs).sansGm = s.sansGm := by
  unfold State.gmStore
  dsimp only
  rw [State.sansGm_logDirty]
  exact foldl_keeps State.sansGm _ (fun t g => t.sansGm_rekey _ g) (granulesOf p.addr bs.length) s

@[simp] theorem State.sansGm_orLeaf (s : State) (d : VDev) (e : TlbEntry) (b : Byte) : (s.orLeaf d e b).sansGm = s.sansGm := by
  unfold State.orLeaf
  dsimp only
  split
  · rfl
  · exact State.sansGm_gmStore ..

@[simp] theorem State.sansGm_setAD (s : State) (d : VDev) (n : Need) (e : TlbEntry) : (s.setAD d n e).sansGm = s.sansGm :=
  State.sansGm_orLeaf ..

/-- A store to global memory changes nothing else. -/
theorem State.gmStore_eq (s : State) (p : Phys) (bs : List Byte) : ∃ gm key stamp pois devs,
    s.gmStore p bs = { s with gm := gm, gmKey := key, gmStamp := stamp, gmPois := pois, vdevs := devs } :=
  ⟨_, _, _, _, _, State.eq_of_sansGm (s.sansGm_gmStore p bs)⟩

/-! ### Processes that may go on (R48, R192, R377) -/

/-- The state without its processes and its tiles, where the run queues stand. -/
def State.sansSched (s : State) : State := { s with procs := [], tiles := [] }

theorem State.eq_of_sansSched {s t : State} (h : t.sansSched = s.sansSched) :
    t = { s with procs := t.procs, tiles := t.tiles } :=
  congrArg (fun u : State => { u with procs := t.procs, tiles := t.tiles }) h

@[simp] theorem State.sansSched_wakeOne (s : State) (q : Proc) : (s.wakeOne q).sansSched = s.sansSched := by
  unfold State.wakeOne
  split
  · split <;> rfl
  · rfl

/-- Waking processes changes them and the run queues alone. -/
theorem State.wakeReady_frame (s : State) : s.wakeReady = { s with procs := s.wakeReady.procs, tiles := s.wakeReady.tiles } :=
  State.eq_of_sansSched (foldl_keeps State.sansSched _ State.sansSched_wakeOne _ s)

/-- Whether a process is among the state's, and each entry of it has a status of a kind. -/
def State.HasStatus (s : State) (p : Pid) (P : ProcStatus → Prop) : Prop :=
  p ∈ s.procs.map (·.pid) ∧ ∀ q ∈ s.procs, q.pid = p → P q.status

theorem State.HasStatus.proc? {s : State} {p : Pid} {P : ProcStatus → Prop} (h : s.HasStatus p P) :
    ∃ q, s.proc? p = some q ∧ P q.status := by
  obtain ⟨q, hq, hp⟩ := List.mem_map.1 h.1
  cases hf : s.proc? p with
  | none => simpa [hp] using List.find?_eq_none.1 hf q hq
  | some r => exact ⟨r, rfl, h.2 r (List.mem_of_find?_eq_some hf) (by simpa using List.find?_some hf)⟩

theorem State.HasStatus.of_procs {s t : State} {p : Pid} {P : ProcStatus → Prop} (h : s.HasStatus p P)
    (ht : t.procs = s.procs) : t.HasStatus p P := by
  unfold State.HasStatus
  rw [ht]
  exact h

/-- A process whose status is written has it. -/
theorem State.hasStatus_mapProc {s : State} {p : Pid} {f : Proc → Proc} {P : ProcStatus → Prop}
    (hp : p ∈ s.procs.map (·.pid)) (hf : ∀ q, q.pid = p → (f q).pid = p ∧ P (f q).status) :
    (s.mapProc p f).HasStatus p P := by
  constructor
  · obtain ⟨q, hq, hqp⟩ := List.mem_map.1 hp
    refine List.mem_map.2 ⟨f q, List.mem_map.2 ⟨q, hq, if_pos hqp⟩, (hf q hqp).1⟩
  · intro r hr hrp
    obtain ⟨q, -, rfl⟩ := List.mem_map.1 hr
    by_cases hq : q.pid = p
    · simpa [hq] using (hf q hq).2
    · rw [if_neg hq] at hrp
      exact absurd hrp hq

theorem mem_procIn {q x : Proc} : ∀ {l : List Proc}, x ∈ procIn q l ↔ x = q ∨ x ∈ l
  | [] => by simp [procIn]
  | y :: l => by
    unfold procIn
    split
    · simp
    · simp only [List.mem_cons, mem_procIn (l := l)]
      tauto

theorem State.mem_procsInOrder {s : State} {x : Proc} : x ∈ s.procsInOrder ↔ x ∈ s.procs := by
  unfold State.procsInOrder
  induction s.procs with
  | nil => rfl
  | cons y l ih => rw [List.foldr_cons, mem_procIn, ih, List.mem_cons]

/-- Writing one process leaves the others. -/
theorem State.HasStatus.mapProc_ne {s : State} {p r : Pid} {f : Proc → Proc} {P : ProcStatus → Prop}
    (h : s.HasStatus p P) (hr : r ≠ p) (hf : ∀ q, (f q).pid = q.pid) : (s.mapProc r f).HasStatus p P := by
  constructor
  · obtain ⟨q, hq, hqp⟩ := List.mem_map.1 h.1
    refine List.mem_map.2 ⟨q, List.mem_map.2 ⟨q, hq, if_neg ?_⟩, hqp⟩
    rw [hqp]; exact hr.symm
  · intro x hx hxp
    obtain ⟨q, hq, rfl⟩ := List.mem_map.1 hx
    by_cases hqr : q.pid = r
    · rw [if_pos hqr, hf, hqr] at hxp
      exact absurd hxp hr
    · rw [if_neg hqr] at hxp ⊢
      exact h.2 q hq hxp

/-- Waking one process. -/
theorem State.HasStatus.wakeOne {s : State} {p : Pid} {P : ProcStatus → Prop} (h : s.HasStatus p P) {x : Proc}
    (hx : x.pid = p → P x.status) (hP : ∀ w, P (.switchedOut w) → P (.ready true)) : (s.wakeOne x).HasStatus p P := by
  unfold State.wakeOne
  split
  next w hw =>
    split
    · refine State.HasStatus.of_procs (s := s.mapProc x.pid fun q => { q with status := .ready true }) ?_ rfl
      by_cases hxp : x.pid = p
      · subst hxp
        exact State.hasStatus_mapProc h.1 fun q hq => ⟨hq, hP w (hw ▸ hx rfl)⟩
      · exact h.mapProc_ne hxp fun _ => rfl
    · exact h
  · exact h

/-- Waking changes the status of a switched-out process alone, which then is ready with its context saved. -/
theorem State.HasStatus.wakeReady {s : State} {p : Pid} {P : ProcStatus → Prop} (h : s.HasStatus p P)
    (hP : ∀ w, P (.switchedOut w) → P (.ready true)) : s.wakeReady.HasStatus p P :=
  List.foldlRecOn (motive := fun t : State => t.HasStatus p P) s.procsInOrder _ h fun _ ht x hx =>
    ht.wakeOne (fun hxp => h.2 x (State.mem_procsInOrder.1 hx) hxp) hP

/-! ### The end of a process (R29, R30, R296, R348, R384) -/

theorem State.procs_sendTokens (s : State) (n : Network) (r : Nat) : (s.sendTokens n r).procs = s.procs := by
  refine foldl_keeps State.procs _ (fun t ic => ?_) _ s
  split
  · split
    · unfold State.sendSlot
      split <;> rfl
    · rfl
  · rfl

theorem State.procs_endBarrier (s : State) (netid g : Nat) (q : Group) (gone : Member → Bool) :
    (s.endBarrier netid g q gone).procs = s.procs := by
  unfold State.endBarrier
  split <;> rfl

theorem State.procs_endGroups (s : State) (netid r : Nat) : (s.endGroups netid r).procs = s.procs := by
  unfold State.endGroups
  split
  · rfl
  · exact foldl_keeps State.procs _ (fun t ig => t.procs_endBarrier ..) _ s

theorem State.procs_freeHarts (s : State) (p : Pid) : (s.freeHarts p).procs = s.procs := by
  unfold State.freeHarts
  dsimp only
  split
  · split <;> rfl
  · rfl

theorem State.pids_mapProc (s : State) {p : Pid} {f : Proc → Proc} (hf : ∀ q, (f q).pid = q.pid) :
    (s.mapProc p f).procs.map (·.pid) = s.procs.map (·.pid) := by
  rw [State.mapProc, List.map_map]
  refine List.map_congr_left fun q _ => ?_
  simp only [Function.comp_apply]
  split
  · exact hf q
  · rfl

theorem State.procs_report (s : State) (v k t n : Nat) (b : List Byte) : (s.report v k t n b).procs = s.procs := rfl
theorem State.procs_dequeue (s : State) (t : Nat) (p : Pid) : (s.dequeue t p).procs = s.procs := rfl
theorem State.procs_mapNet (s : State) (n : Nat) (f : Network → Network) : (s.mapNet n f).procs = s.procs := rfl

/-- A process that ends has ended, for the reason given. -/
theorem State.hasStatus_finishProc {s : State} {q : Proc} (hq : q.pid ∈ s.procs.map (·.pid)) (r : EndReason) (cause val : Word) :
    (s.finishProc q r cause val).HasStatus q.pid (· = .ended r) := by
  have hset : ∀ t : State, t.procs = s.procs → q.pid ∈ (t.settleCharge q.pid).procs.map (·.pid) := fun t ht => by
    rw [State.settleCharge, State.pids_mapProc _ fun q => by split <;> rfl, ht]
    exact hq
  have hcap : (if q.capture.active then s.sendCapture q else s).procs = s.procs := by split <;> rfl
  unfold State.finishProc
  refine State.HasStatus.wakeReady (State.HasStatus.of_procs (State.hasStatus_mapProc (hset _ hcap)
    (f := fun q => { q with status := .ended r, capture := { q.capture with active := false }, stopDue := false })
    fun q hq => ⟨hq, rfl⟩) ?_) (by simp)
  simp only [State.procs_endGroups, apply_ite State.procs, State.procs_report, State.procs_freeHarts, State.procs_dequeue,
    State.procs_mapNet, ite_self]
  split
  · exact State.procs_sendTokens ..
  · rfl

end Sys2Proof.Machine
end

section
/-! SUPPORT. HART_DISPATCH: what taking, restoring and leaving a hart come to. -/

namespace Sys2Proof.Machine

/-! ### Taking a process (R362, R378) -/

theorem State.evacuate_staying {s : State} {t : Nat} (h : (s.tile t).leaving = false) : s.evacuate t = s := by
  simp [State.evacuate, h]

theorem State.proc?_mapProc_ne (s : State) {p r : Pid} {f : Proc → Proc} (hf : ∀ q, (f q).pid = q.pid) (h : p ≠ r) :
    (s.mapProc r f).proc? p = s.proc? p := by
  unfold State.proc? State.mapProc
  rw [List.find?_map]
  have hfun : (fun q => decide (q.pid = p)) ∘ (fun q => if q.pid = r then f q else q) = fun q => decide (q.pid = p) := by
    funext q
    simp only [Function.comp_apply]
    split <;> simp [hf]
  rw [hfun]
  cases hq : s.procs.find? (fun q => decide (q.pid = p)) with
  | none => rfl
  | some q =>
    have hqp : q.pid = p := by simpa using List.find?_some hq
    simp [hqp, h]

theorem State.mem_pids_of_proc? {s : State} {p : Pid} {q : Proc} (h : s.proc? p = some q) :
    q.pid = p ∧ p ∈ s.procs.map (·.pid) := by
  have hp : q.pid = p := by simpa using List.find?_some h
  exact ⟨hp, List.mem_map.2 ⟨q, List.mem_of_find?_eq_some h, hp⟩⟩

/-- A process taken off a tile's run queue is at none of its levels. -/
theorem State.not_mem_dequeue (s : State) (t : Nat) (p : Pid) (l : Nat) :
    p ∉ ((s.dequeue t p).tile t).queue.toList.getD l [] := by
  rw [State.dequeue, State.tile_setTile_same]
  simp only [Vector.toList_map, List.getD_eq_getElem?_getD, List.getElem?_map]
  cases (s.tile t).queue.toList[l]? <;> simp

/-- What a hart that takes a process does beside its own registers: the process is on the hart and in no run queue of its
tile, and every other process is as before. -/
def State.Takes (s : State) (q : Proc) (t : State) : Prop :=
  (t.proc? q.pid).map (·.status) = some (.onHart s.hart.id) ∧
  (∀ l < 16, q.pid ∉ (t.tile q.tile).queue.toList.getD l []) ∧ (∀ p, p ≠ q.pid → t.proc? p = s.proc? p) ∧ s.MemSame t

theorem State.takes_occupy {s : State} {q : Proc} (hq : q.pid ∈ s.procs.map (·.pid)) (h : Hart) :
    s.Takes q (s.occupy q h) := by
  refine ⟨?_, fun l _ => State.not_mem_dequeue _ _ _ l, fun p hp => ?_, fun _ => rfl, fun _ => rfl⟩
  · have hs := State.hasStatus_mapProc (f := fun q => { q with status := .onHart s.hart.id }) (P := (· = .onHart s.hart.id))
      hq fun q hq => ⟨hq, rfl⟩
    obtain ⟨r, hr, hst⟩ := State.HasStatus.proc? hs
    exact (congrArg (Option.map (·.status)) hr).trans (congrArg some hst)
  · exact s.proc?_mapProc_ne (fun _ => rfl) hp

/-- A process that has not started is put on the hart as process start leaves it. -/
theorem State.takeNext_fresh {s : State} {q : Proc} (hq : (s.nextReady s.tileNo).bind s.proc? = some q)
    (hst : q.status = .ready false) :
    s.takeNext = s.occupy q (s.hart.begin q (s.ceilOf q) (s.debugTable s.tileNo)) := by
  unfold State.takeNext
  rw [hq]
  dsimp only
  rw [hst]

/-- A process with a saved context is restored. -/
theorem State.takeNext_saved {s : State} {q : Proc} (hq : (s.nextReady s.tileNo).bind s.proc? = some q)
    (hst : q.status = .ready true) : s.takeNext = s.restoreOn q := by
  unfold State.takeNext
  rw [hq]
  dsimp only
  rw [hst]

/-- The scalar registers at process start (R362). -/
theorem State.x_begin (s : State) (h : Hart) (q : Proc) (ceil : Nat) (dbg : List DbgEntry) (hs : s.hart.x = (h.begin q ceil dbg).x)
    (r : BitVec 5) : s.x r = if r = 2 then BitVec.ofNat 64 (q.kbase + q.klen)
      else if 20 ≤ r.toNat ∧ r.toNat ≤ 27 then q.args.getD (r.toNat - 20) 0 else 0 := by
  unfold State.x
  rw [hs]
  have hx : ∀ n (hn : n < 32), (h.begin q ceil dbg).x[n] = if n = 2 then BitVec.ofNat 64 (q.kbase + q.klen)
      else if 20 ≤ n ∧ n ≤ 27 then q.args.getD (n - 20) 0 else 0 := by
    intro n hn
    interval_cases n <;> rfl
  rw [hx]
  by_cases h0 : r = 0
  · subst h0; rfl
  · have h2 : (r.toNat = 2) = (r = 2) := by rw [← BitVec.toNat_inj]; rfl
    rw [if_neg h0]
    simp only [h2]

/-! ### Restoring a process (R354, R374, R412) -/

/-- The state without the events for its log. -/
def State.sansLog (s : State) : State := { s with logEvents := [] }

theorem State.sansLog_logRestored (s : State) : s.logRestored.sansLog = s.sansLog := by
  unfold State.logRestored
  dsimp only
  refine (foldl_keeps State.sansLog _ (fun t bm => ?_) _ _).trans ((foldl_keeps State.sansLog _ (fun t k => ?_) _ _).trans
    (foldl_keeps State.sansLog _ (fun t k => ?_) _ _))
  · exact foldl_keeps State.sansLog _ (fun t k => by rfl) _ _
  · rfl
  · rfl

theorem State.logRestored_frame (s : State) : s.logRestored = { s with logEvents := s.logRestored.logEvents } :=
  congrArg (fun u : State => { u with logEvents := s.logRestored.logEvents }) s.sansLog_logRestored

/-- A process whose area is not sealed, or names no safe point, is lost (R354). -/
theorem State.restoreOn_unsealed {s : State} {q : Proc} (h : (s.readArea q).ok q = false) :
    s.restoreOn q = s.endProc q.pid .unsealed 0 0 := by
  unfold State.restoreOn
  dsimp only
  rw [h]
  rfl

/-- The hart that a restore from the sealed area makes of the hart it starts on. -/
def State.resumed (s : State) (q : Proc) (e : SafeEntry) : Hart :=
  { (s.hart.begin q (s.ceilOf q) (s.debugTable s.hart.id.tile)).load s q (s.readArea q) e with
    pc := BitVec.ofNat 64 (q.kbase + e.stub) }

theorem State.resumed_eq {s : State} {q : Proc} {e : SafeEntry} {g : Hart}
    (h : (s.hart.begin q (s.ceilOf q) (s.debugTable s.hart.id.tile)).load s q (s.readArea q) e = g) :
    s.resumed q e = { g with pc := BitVec.ofNat 64 (q.kbase + e.stub) } := by
  subst h
  rfl

/-- A process with a sealed area that fits the hart waits until TIME exceeds SAVETIME, and then takes the hart with the
registers of the area. -/
theorem State.restoreOn_sealed {s : State} {q : Proc} {e : SafeEntry} (hok : (s.readArea q).ok q = true)
    (he : q.safeTab[field (s.readArea q).pay 0 2]? = some e)
    (hfit : field (s.readArea q).hdr 6 1 = s.hart.lanes ∨ (field (s.readArea q).hdr 7 1).testBit 0 = true) :
    (s.time.toNat ≤ field (s.readArea q).hdr 0x30 8 → s.restoreOn q = s) ∧
    (field (s.readArea q).hdr 0x30 8 < s.time.toNat → ∃ f : Proc → Proc, (∀ r, (f r).pid = r.pid) ∧
      s.restoreOn q = (((s.mapProc q.pid f).occupy q (s.resumed q e)).arrived q.pid).logRestored) := by
  unfold State.restoreOn State.tileNo
  dsimp only
  rw [if_pos hok, he]
  dsimp only
  rw [if_neg (by rcases hfit with h | h <;> simp [h])]
  refine ⟨fun ht => if_pos ht, fun ht => ⟨_, ?_, if_neg (Nat.not_le.2 ht)⟩⟩
  exact fun _ => rfl

/-- A restore takes the process as a start does, with the hart given, and beside that writes its rank entry and the log. -/
theorem State.takes_restored {s : State} {q : Proc} (hq : q.pid ∈ s.procs.map (·.pid)) (f : Proc → Proc)
    (hf : ∀ r, (f r).pid = r.pid) (h : Hart) :
    let t := (((s.mapProc q.pid f).occupy q h).arrived q.pid).logRestored
    s.Takes q t ∧ t.hart = { h with code := s.tm } ∧
      t = { s with hart := t.hart, procs := t.procs, tiles := t.tiles, nets := (s.arrived q.pid).nets, logEvents := t.logEvents } := by
  intro t
  have ht : t = _ := State.logRestored_frame _
  have hprocs : t.procs = ((s.mapProc q.pid f).occupy q h).procs := (congrArg State.procs ht).trans rfl
  have htiles : t.tiles = ((s.mapProc q.pid f).occupy q h).tiles := (congrArg State.tiles ht).trans rfl
  obtain ⟨h1, h2, h3, h4, h5⟩ := (s.mapProc q.pid f).takes_occupy (q := q) (by rw [State.pids_mapProc _ hf]; exact hq) h
  refine ⟨⟨?_, ?_, fun p hp => ?_, fun k => ?_, fun k => ?_⟩, (congrArg State.hart ht).trans rfl, ?_⟩
  · rw [State.proc?, hprocs]; exact h1
  · rw [State.tile, htiles]; exact h2
  · rw [State.proc?, hprocs]; exact (h3 p hp).trans (s.proc?_mapProc_ne hf hp)
  · exact (congrArg (fun u : State => u.tm.read k) ht).trans (h4 k)
  · exact (congrArg (fun u : State => u.gm.read k) ht).trans (h5 k)
  · rw [hprocs, htiles, congrArg State.hart ht]
    exact ht.trans rfl

/-! ### Leaving a hart (R48, R192, R353) -/

/-- A save writes global memory, with its poison and the log, and the entry of the process. -/
theorem State.saveContext_eq (s : State) (h : Hart) (q : Proc) (n : Nat) (e : SafeEntry) :
    ∃ gm key stamp pois devs evs, ∃ r : Proc, r.pid = q.pid ∧ s.saveContext h q n e = { s with
      gm := gm, gmKey := key, gmStamp := stamp, gmPois := pois, vdevs := devs, logEvents := evs
      procs := s.procs.map fun x => if x.pid = q.pid then r else x } := by
  have hpois : ∀ (t : State) (base : Nat) (offs : List Nat) (netid : Nat),
      (t.poisonAt base offs netid).sansGm.sansLog = t.sansGm.sansLog := by
    intro t base offs netid
    refine foldl_keeps (fun t : State => t.sansGm.sansLog) _ (fun t o => ?_) offs t
    unfold State.poisonGm
    split
    · rfl
    · dsimp only
      split <;> rfl
  have hstore : ∀ (place : Phys) (bs : List Byte) (base : Nat) (offs : List Nat) (netid : Nat), ∃ gm key stamp pois devs evs,
      (s.gmStore place bs).poisonAt base offs netid = { s with
        gm := gm, gmKey := key, gmStamp := stamp, gmPois := pois, vdevs := devs, logEvents := evs } := by
    intro place bs base offs netid
    generalize hu : (s.gmStore place bs).poisonAt base offs netid = u
    have hsans : u.sansGm.sansLog = s.sansGm.sansLog := by rw [← hu, hpois, State.sansGm_gmStore]
    exact ⟨u.gm, u.gmKey, u.gmStamp, u.gmPois, u.vdevs, u.logEvents, congrArg (fun t : State => { t with
      gm := u.gm, gmKey := u.gmKey, gmStamp := u.gmStamp, gmPois := u.gmPois, vdevs := u.vdevs, logEvents := u.logEvents }) hsans⟩
  unfold State.saveContext
  dsimp only
  obtain ⟨gm, key, stamp, pois, devs, evs, h⟩ := hstore _ _ _ _ _
  refine ⟨gm, key, stamp, pois, devs, evs, ?_⟩
  rw [h]
  refine ⟨_, ?_, rfl⟩
  rfl

/-- A base hart that alone holds its process is freed, and no other hart changes. -/
theorem State.freeHarts_alone {s : State} {p : Pid} (hp : s.hart.pid = some p) (hb : s.isBase s.hart = true)
    (ho : ∀ h ∈ s.others, h.pid ≠ s.hart.pid) :
    s.freeHarts p = { s with hart := s.hart.free (s.tile s.hart.id.tile).hartLanes } := by
  have hmine : ∀ h ∈ s.others, (h.pid == some p) = false := fun h hh => by simpa [hp] using ho h hh
  have hkeep : s.others.filter (fun h => !((h.pid == some p) && !s.isBase h)) = s.others := by
    rw [List.filter_eq_self]
    intro h hh
    simp [hmine h hh]
  have hmap : s.others.map (fun h => if h.pid == some p then h.free (s.tile h.id.tile).hartLanes else h) = s.others := by
    rw [List.map_congr_left (g := id) fun h hh => by simp [hmine h hh]]
    simp
  unfold State.freeHarts
  dsimp only
  rw [hkeep, hmap]
  simp [hb, hp]

/-- A process that waits at a channel-wait safe point and alone holds a wanted base hart is saved and leaves it. -/
theorem State.switchOut_alone {s : State} {q : Proc} {n : Nat} {e : SafeEntry} {st : ProcStatus}
    (hq : s.proc? q.pid = some q) (hp : s.hart.pid = some q.pid) (hb : s.isBase s.hart = true)
    (ho : ∀ h ∈ s.others, h.pid ≠ s.hart.pid) :
    let u := s.saveContext s.hart q n e
    let t := s.switchOut q n e st
    t.HasStatus q.pid (· = st) ∧ t.tiles = s.tiles ∧
      t = { u with hart := s.hart.free (s.tile s.hart.id.tile).hartLanes, procs := t.procs } ∧ u.others = s.others := by
  obtain ⟨gm, key, stamp, pois, devs, evs, r, hr, heq⟩ := s.saveContext_eq s.hart q n e
  intro u t
  have ht : t = (u.mapProc q.pid fun q => { q with status := st }).freeHarts q.pid := rfl
  have hu : u = _ := heq
  clear_value u t
  have hhart : u.hart = s.hart := by rw [hu]
  have hothers : u.others = s.others := by rw [hu]
  have htiles : u.tiles = s.tiles := by rw [hu]
  have hmem : q.pid ∈ u.procs.map (·.pid) := by
    rw [hu]
    exact List.mem_map.2 ⟨r, List.mem_map.2 ⟨q, List.mem_of_find?_eq_some hq, if_pos rfl⟩, hr⟩
  have htile : ∀ k, u.tile k = s.tile k := fun k => by rw [State.tile, State.tile, htiles]
  have hfree : t = { (u.mapProc q.pid fun q => { q with status := st }) with
      hart := s.hart.free (s.tile s.hart.id.tile).hartLanes } := by
    rw [ht, State.freeHarts_alone (s := u.mapProc q.pid fun q => { q with status := st })]
    · change { (u.mapProc q.pid fun q => { q with status := st }) with hart := u.hart.free (u.tile u.hart.id.tile).hartLanes } = _
      rw [hhart, htile]
    · exact (congrArg Hart.pid hhart).trans hp
    · change (u.hart.lane0 % (u.tile u.hart.id.tile).hartLanes == 0) = true
      rw [hhart, htile]
      exact hb
    · change ∀ h ∈ u.others, h.pid ≠ u.hart.pid
      rw [hothers, hhart]
      exact ho
  refine ⟨?_, ?_, ?_, hothers⟩
  · rw [hfree]
    exact State.HasStatus.of_procs (State.hasStatus_mapProc (f := fun q => { q with status := st }) hmem fun q hq => ⟨hq, rfl⟩) rfl
  · rw [hfree]; exact htiles
  · rw [hfree]; rfl

/-- A hart whose process may not be switched out, or that is not wanted, goes on waiting. -/
theorem State.yieldHart_stays {s : State} {w : Wait} {n : Nat} {q : Proc} {e : SafeEntry} (hc : s.hart.chanWait = some n)
    (hm : s.myProc? = some q) (hn : q.safeTab[n]? = some e) (h : w.yields = false ∨ s.wanted q e = false) :
    s.yieldHart w = s := by
  unfold State.yieldHart
  rw [hc, hm]
  dsimp only
  rw [hn]
  exact if_neg (by rcases h with h | h <;> simp [h])

theorem State.yieldHart_leaves {s : State} {w : Wait} {n : Nat} {q : Proc} {e : SafeEntry} (hc : s.hart.chanWait = some n)
    (hm : s.myProc? = some q) (hn : q.safeTab[n]? = some e) (hy : w.yields = true) (hw : s.wanted q e = true) :
    s.yieldHart w = ((s.switchOut q n e (.switchedOut w)).evacuate q.tile).wakeReady := by
  unfold State.yieldHart
  rw [hc, hm]
  dsimp only
  rw [hn]
  exact if_pos ⟨hy, hw⟩

theorem State.woken_frame {t u : State} {h : Hart} (heq : t = { u with hart := h, procs := t.procs }) :
    t.wakeReady = { u with hart := h, procs := t.wakeReady.procs, tiles := t.wakeReady.tiles } :=
  t.wakeReady_frame.trans
    (congrArg (fun v : State => { v with procs := t.wakeReady.procs, tiles := t.wakeReady.tiles }) heq)

/-- Settles O43: by what `State.occupy`, `State.restoreOn` and `State.switchOut` come to. -/
theorem hartDispatch : Obligations.HartDispatch := by
  unfold Obligations.HartDispatch
  intro s q e w n _
  dsimp only
  refine ⟨fun hidle hstay => ?_, fun hb hc hm hn hno => ?_, fun hb hc hm hn hy hwant hstay halone hbase => ?_⟩
  · have hx : exec .hartDispatch s = .next s.takeNext := by
      change execHartDispatch s = _
      rw [execHartDispatch, hidle]
      exact congrArg (fun u : State => Host.Outcome.next u.takeNext) (State.evacuate_staying hstay)
    rw [hx]
    refine ⟨fun hnone => ?_, fun hnext => ?_⟩
    · unfold State.takeNext
      rw [show s.nextReady s.tileNo = none from hnone]
      rfl
    · obtain ⟨p, hp, hq⟩ := Option.bind_eq_some_iff.1 hnext
      obtain ⟨rfl, hmem⟩ := State.mem_pids_of_proc? hq
      refine ⟨fun hst => ?_, fun hst => ⟨fun hno => ?_, fun hok he hfit => ⟨fun htime => ?_, fun htime => ?_⟩⟩⟩
      · rw [State.takeNext_fresh hnext hst]
        refine ⟨_, rfl, s.takes_occupy hmem _, rfl, rfl, rfl, rfl, rfl, rfl, fun r => ?_, rfl, rfl, rfl, rfl, rfl, rfl, rfl,
          rfl, rfl, rfl, rfl⟩
        exact State.x_begin _ s.hart q (s.ceilOf q) (s.debugTable s.tileNo) rfl r
      · rw [State.takeNext_saved hnext hst, State.restoreOn_unsealed hno]
        refine ⟨_, rfl, ?_⟩
        have hend : s.endProc q.pid .unsealed 0 0 = s.finishProc q .unsealed 0 0 := by
          unfold State.endProc
          rw [hq]
          dsimp only
          rw [hst]
          rfl
        obtain ⟨r, hr, hrs⟩ := (State.hasStatus_finishProc hmem .unsealed 0 0).proc?
        rw [hend]
        exact (congrArg (Option.map (·.status)) hr).trans (congrArg some hrs)
      · rw [State.takeNext_saved hnext hst, (State.restoreOn_sealed hok he hfit).1 htime]
      · obtain ⟨f, hf, heq⟩ := (State.restoreOn_sealed hok he hfit).2 htime
        rw [State.takeNext_saved hnext hst, heq]
        obtain ⟨htk, hh, hfr⟩ := State.takes_restored hmem f hf (s.resumed q e)
        generalize hg : (s.hart.begin q (s.ceilOf q) (s.debugTable s.hart.id.tile)).load s q (s.readArea q) e = g
        exact ⟨_, rfl, htk, hh.trans (by rw [State.resumed_eq hg]), hfr⟩
  · have hx : exec .hartDispatch s = .next (s.yieldHart w) := by
      change execHartDispatch s = _
      rw [execHartDispatch, hb]
    rw [hx, State.yieldHart_stays hc hm hn hno]
  · have hx : exec .hartDispatch s = .next (s.yieldHart w) := by
      change execHartDispatch s = _
      rw [execHartDispatch, hb]
    rw [hx, State.yieldHart_leaves hc hm hn hy hwant]
    obtain ⟨p, hp, hq⟩ := Option.bind_eq_some_iff.1 hm
    obtain ⟨rfl, -⟩ := State.mem_pids_of_proc? hq
    obtain ⟨hst, htiles, heq, hothers⟩ := State.switchOut_alone (n := n) (e := e) (st := .switchedOut w) hq hp hbase halone
    rw [State.evacuate_staying (by rw [State.tile, htiles]; exact hstay)]
    refine ⟨_, rfl, ?_⟩
    generalize s.switchOut q n e (.switchedOut w) = t at *
    generalize s.saveContext s.hart q n e = u at heq hothers ⊢
    obtain ⟨r, hr, hrs⟩ := (State.HasStatus.wakeReady (P := fun st => st = .switchedOut w ∨ st = .ready true)
      ⟨hst.1, fun x hx hxp => .inl (hst.2 x hx hxp)⟩ fun _ _ => .inr rfl).proc?
    have hv := State.woken_frame heq
    generalize t.wakeReady = v at hr hv ⊢
    have hh := congrArg State.hart hv
    refine ⟨?_, by rw [hh]; rfl, by rw [hh]; rfl, by rw [hh]; rfl, (congrArg State.others hv).trans hothers,
      ⟨fun k => by rw [hv], fun k => by rw [hv]⟩, ?_⟩
    · rw [hr]
      exact hrs.imp (congrArg some) (congrArg some)
    · exact hv.trans (by rw [hh])

end Sys2Proof.Machine
end

section
/-! SUPPORT. CHANNELS. What the operations on networks and channels leave, and what reads, writes and closes come to. -/

namespace Sys2Proof.Machine

/-! ### Networks and channels (R20, R22) -/

theorem State.net?_mapNet (s : State) {n : Nat} {f : Network → Network} (hf : ∀ q, (f q).netid = q.netid) (m : Nat) :
    (s.mapNet n f).net? m = (s.net? m).map fun q => if q.netid = n then f q else q := by
  unfold State.net? State.mapNet
  rw [List.find?_map]
  congr 2
  funext q
  simp only [Function.comp_apply]
  split
  · rw [hf]
  · rfl

theorem State.netid_of_net? {s : State} {m : Nat} {n : Network} (h : s.net? m = some n) : n.netid = m := by
  simpa using List.find?_some h

theorem State.chan?_mapChan (s : State) (n i : Nat) (f : Chan → Chan) (m j : Nat) :
    (s.mapChan n i f).chan? m j = if (m, j) = (n, i) then (s.chan? m j).map f else s.chan? m j := by
  unfold State.chan? State.mapChan
  rw [State.net?_mapNet s (f := fun q => { q with chans := q.chans.modify i f }) fun _ => rfl]
  cases hm : s.net? m with
  | none => simp
  | some q =>
    have hq := State.netid_of_net? hm
    by_cases hn : q.netid = n
    · by_cases hj : j = i
      · simp [← hq, hn, hj]
      · simp [hn, hj, Ne.symm hj]
    · simp [← hq, hn]

theorem State.chan?_mapChan_same {s : State} {n i : Nat} {f : Chan → Chan} {c : Chan} (h : s.chan? n i = some c) :
    (s.mapChan n i f).chan? n i = some (f c) := by
  rw [State.chan?_mapChan, if_pos rfl, h]
  rfl

theorem State.chan?_mapChan_ne (s : State) {n i m j : Nat} (f : Chan → Chan) (h : (m, j) ≠ (n, i)) :
    (s.mapChan n i f).chan? m j = s.chan? m j := by
  rw [State.chan?_mapChan, if_neg h]

/-- A change of a network beside its name and its channels leaves every channel. -/
theorem State.chan?_mapNet (s : State) {n : Nat} {f : Network → Network}
    (hf : ∀ q, (f q).netid = q.netid ∧ (f q).chans = q.chans) (m j : Nat) : (s.mapNet n f).chan? m j = s.chan? m j := by
  unfold State.chan?
  rw [State.net?_mapNet s fun q => (hf q).1]
  cases s.net? m with
  | none => rfl
  | some q =>
    rw [Option.map_some, Option.bind_some, Option.bind_some]
    split
    · rw [(hf q).2]
    · rfl

theorem State.chan?_of_nets {s t : State} (h : t.nets = s.nets) (m j : Nat) : t.chan? m j = s.chan? m j := by
  rw [State.chan?, State.chan?, State.net?, State.net?, h]

/-! ### A change noted, and the processes that it lets go on (R25, R377, R381) -/

/-- The state with a change of a network noted and the processes that may go on woken: how each operation on a channel
ends. -/
def State.noted (s : State) (netid : Nat) : State :=
  (s.mapNet netid fun n => { n with changedAt := s.time, deadlockTold := false }).wakeReady

theorem State.chanTake_eq (s : State) (netid i : Nat) :
    s.chanTake netid i = (s.mapChan netid i fun c => { c with rd := c.rd + 1 }).noted netid := rfl

theorem State.nets_wakeReady (s : State) : s.wakeReady.nets = s.nets := by rw [State.wakeReady_frame]

theorem State.noted_frame (s : State) (n : Nat) :
    s.noted n = { s with nets := (s.noted n).nets, procs := (s.noted n).procs, tiles := (s.noted n).tiles } := by
  have h : ∀ f : Network → Network, (s.mapNet n f).wakeReady = { s with
      nets := (s.mapNet n f).wakeReady.nets, procs := (s.mapNet n f).wakeReady.procs, tiles := (s.mapNet n f).wakeReady.tiles } := by
    intro f
    rw [State.nets_wakeReady]
    exact State.wakeReady_frame _
  exact h _

theorem State.chan?_noted (s : State) (n m j : Nat) : (s.noted n).chan? m j = s.chan? m j := by
  rw [State.noted, State.chan?_of_nets (State.nets_wakeReady _), State.chan?_mapNet]
  exact fun _ => ⟨rfl, rfl⟩

/-! ### The channel that a port names (R23, R40) -/

theorem State.portChan_names {s : State} {q : Proc} {p : Nat} {n : Network} {i : Nat} {c : Chan}
    (h : s.portChan q p = some (n, i, c)) : s.net? n.netid = some n ∧ n.chans[i]? = some c := by
  unfold State.portChan at h
  split at h
  next m r hm hr =>
    obtain ⟨d, hd, he⟩ := Option.map_eq_some_iff.1 h
    injection he with h1 h2
    injection h2 with h2 h3
    subst h1 h2 h3
    exact ⟨by rw [State.netid_of_net? hm, hm], hd⟩
  · cases h

theorem State.chan?_of {s : State} {n : Network} {i : Nat} {c : Chan} (hn : s.net? n.netid = some n)
    (hc : n.chans[i]? = some c) : s.chan? n.netid i = some c := by
  rw [State.chan?, hn, Option.bind_some, hc]

theorem State.myChan_names {s : State} {port : BitVec 3} {n : Network} {i : Nat} {c : Chan}
    (h : s.myChan port = some (n, i, c)) : s.net? n.netid = some n ∧ n.chans[i]? = some c := by
  obtain ⟨q, -, hq⟩ := Option.bind_eq_some_iff.1 h
  exact State.portChan_names hq

@[simp] theorem State.myChan_count (s : State) (u : Nat) (port : BitVec 3) : (s.count u).myChan port = s.myChan port := by
  obtain ⟨f, hf, hm⟩ := s.myProc?_count u
  unfold State.myChan
  rw [hm, Option.bind_map]
  congr 1
  funext q
  unfold State.portChan State.net? Proc.port
  rw [Function.comp_apply, hf q, State.count_nets]

@[simp] theorem State.myChan_unblock (s : State) (port : BitVec 3) : s.unblock.myChan port = s.myChan port := rfl

/-- Counting changes the hart and processes alone. -/
theorem State.count_frame (s : State) (u : Nat) :
    s.count u = { s with hart := (s.count u).hart, procs := (s.count u).procs } := by
  unfold State.count
  split
  · dsimp only
    split <;> rfl
  · rfl

@[simp] theorem State.slotRead_count (s : State) (u : Nat) (n : Network) (c : Chan) (i : BitVec 32) :
    (s.count u).slotRead n c i = s.slotRead n c i := by
  rw [State.count_frame]
  rfl

@[simp] theorem State.slotRead_unblock (s : State) (n : Network) (c : Chan) (i : BitVec 32) :
    s.unblock.slotRead n c i = s.slotRead n c i := rfl

/-! ### What a read leaves (R25, R254, R255) -/

/-- b is u with values in scalar registers and the vector storage given, and nothing else changed. -/
def State.Filled (u : State) (val : BitVec 5 → Option Word) (vs : Bytes) (b : State) : Prop :=
  b = { u with hart := { u.hart with x := b.hart.x, xPois := b.hart.xPois, v := b.hart.v } } ∧
  (∀ r, r ≠ 0 → b.x r = (val r).getD (u.x r)) ∧ b.hart.v = vs

theorem State.setPred_eq (s : State) (n : BitVec 3) (v : BitVec 65536) :
    s.setPred n v = { s with hart := { s.hart with p := (s.setPred n v).hart.p } } := by
  unfold State.setPred Hart.setP
  split <;> rfl

/-- How a read ends: what it filled, its predicate register, and a change of networks and processes at most. -/
theorem State.Filled.reads {u b g : State} {val : BitVec 5 → Option Word} {vs : Bytes} {netid idx : Nat} {pe : BitVec 3}
    {bit : Bool} {c : Chan} (h : u.Filled val vs b) {v : BitVec 65536} (hv : ∀ i < 65536, v.getLsbD i = bit)
    (hg : g = { b.setPred pe v with nets := g.nets, procs := g.procs, tiles := g.tiles })
    (hc : g.chan? netid idx = some c) (ho : ∀ m j, (m, j) ≠ (netid, idx) → g.chan? m j = u.chan? m j) :
    u.ReadsSlot netid idx pe val vs bit c g.advance := by
  obtain ⟨hb, hval, hvs⟩ := h
  have hhart : g.hart = b.hart.setP pe v := by rw [hg]; rfl
  have hpc : g.hart.pc = u.hart.pc := by rw [hg, State.setPred_hart_pc, hb]
  have hcur : g.hart.current = u.hart.current := by rw [hg, State.setPred_hart_current, hb]
  have hx : g.hart.x = b.hart.x := by rw [hg, State.setPred_hart_x]
  have hgv : g.hart.v = b.hart.v := by rw [hg, State.setPred_hart_v]
  have hp : b.hart.p = u.hart.p := by rw [hb]
  refine ⟨?_, ?_, fun r hr => ?_, fun i hi => ?_, fun n i hn => ?_, ?_, fun m j hmj => ?_, ⟨fun k => ?_, fun k => ?_⟩, ?_⟩
  · rw [State.advance_pc, State.nextPc_of hpc hcur]
  · rw [State.advance_hart_v, hgv, hvs]
  · rw [State.x_advance, State.x, hx]
    exact hval r hr
  · rw [Hart.pbit_of (State.advance_hart_p g), hhart, Hart.pbit_setP]
    by_cases hpe : pe = 0#3 <;> simp [hpe, hv i hi, Hart.pbit]
  · rw [Hart.pbit_of (State.advance_hart_p g), hhart, Hart.pbit_setP_ne hn, Hart.pbit_of hp]
  · rw [State.chan?_of_nets (State.advance_nets g), hc]
  · rw [State.chan?_of_nets (State.advance_nets g), ho m j hmj]
  · rw [State.advance_tm, hg, State.setPred_tm, hb]
  · rw [State.advance_gm, hg, State.setPred_gm, hb]
  · have hgu : g = { u with
        hart := { u.hart with x := g.hart.x, xPois := g.hart.xPois, p := g.hart.p, v := g.hart.v }
        nets := g.nets, procs := g.procs, tiles := g.tiles } := by
      rw [hx, hgv, show g.hart.xPois = b.hart.xPois by rw [hg, State.setPred_hart_xPois], hhart]
      refine hg.trans ?_
      rw [State.setPred_eq, show (b.setPred pe v).hart.p = (b.hart.setP pe v).p from rfl]
      generalize (b.hart.setP pe v).p = p
      rw [hb]
    rw [State.advance_nets, State.advance_procs, State.advance_tiles, State.advance_hart_p, State.advance_hart_v]
    refine g.advance_eq.trans ?_
    rw [Hart.xOf, State.advance_hart_x, State.advance_hart_xPois]
    generalize g.advance.hart = a
    generalize g.hart.x = x, g.hart.xPois = xp, g.hart.p = p, g.hart.v = w, g.nets = l, g.procs = r, g.tiles = q at hgu ⊢
    rw [hgu]
    rfl

/-- A read of the end-of-stream token. -/
theorem State.Filled.ends {u b : State} {val : BitVec 5 → Option Word} {vs : Bytes} {netid idx : Nat} {c : Chan}
    (h : u.Filled val vs b) (hc : u.chan? netid idx = some c) (pe : BitVec 3) :
    u.ReadsSlot netid idx pe val vs true c (b.setPred pe (BitVec.allOnes 65536)).advance := by
  have hn : (b.setPred pe (BitVec.allOnes 65536)).nets = u.nets := by rw [State.setPred_nets, h.1]
  exact h.reads (fun i hi => by rw [BitVec.getLsbD_allOnes]; exact decide_eq_true hi) rfl
    (by rw [State.chan?_of_nets hn, hc]) fun m j _ => State.chan?_of_nets hn m j

/-- A read of a slot. -/
theorem State.Filled.takes {u b : State} {val : BitVec 5 → Option Word} {vs : Bytes} {netid idx : Nat} {c : Chan}
    (h : u.Filled val vs b) (hc : u.chan? netid idx = some c) (pe : BitVec 3) :
    u.ReadsSlot netid idx pe val vs false { c with rd := c.rd + 1 } ((b.setPred pe 0).chanTake netid idx).advance := by
  have hn : (b.setPred pe 0).nets = u.nets := by rw [State.setPred_nets, h.1]
  rw [State.chanTake_eq]
  refine h.reads (v := 0) (fun i hi => by simp) ?_ ?_ fun m j hmj => ?_
  · generalize b.setPred pe 0 = w
    have hw := State.noted_frame (w.mapChan netid idx fun c => { c with rd := c.rd + 1 }) netid
    exact hw
  · rw [State.chan?_noted, State.chan?_mapChan_same (by rw [State.chan?_of_nets hn, hc])]
  · rw [State.chan?_noted, State.chan?_mapChan_ne _ _ hmj, State.chan?_of_nets hn]

/-! ### Registers filled in a row (R254) -/

/-- The state with values written to the k registers from d on. -/
def State.setRegs (s : State) (d : BitVec 5) (f : Nat → Word) (k : Nat) : State :=
  (List.range k).foldl (fun s j => s.setX (d + BitVec.ofNat 5 j) (f j)) s

theorem State.setRegs_succ (s : State) (d : BitVec 5) (f : Nat → Word) (k : Nat) :
    s.setRegs d f (k + 1) = (s.setRegs d f k).setX (d + BitVec.ofNat 5 k) (f k) := by
  simp [State.setRegs, List.range_succ]

theorem length_regsFrom (d : BitVec 5) (k : Nat) : (regsFrom d k).length = k := by simp [regsFrom, upTo]

theorem regsFrom_one (d : BitVec 5) : regsFrom d 1 = [d] := by simp [regsFrom, upTo]

theorem State.foldl_regsFrom (s : State) (d : BitVec 5) (v : Word) (k : Nat) :
    (regsFrom d k).foldl (fun s r => s.setX r v) s = s.setRegs d (fun _ => v) k := by
  rw [regsFrom, List.foldl_map]
  rfl

theorem State.foldl_mapIdx_regsFrom (s : State) (d : BitVec 5) (f : Nat → Word) (k : Nat) :
    ((regsFrom d k).mapIdx fun j x => (j, x)).foldl (fun s jr => s.setX jr.2 (f jr.1)) s = s.setRegs d f k := by
  have h : ((regsFrom d k).mapIdx fun j x => (j, x)) = (List.range k).map fun j => (j, d + BitVec.ofNat 5 j) := by
    apply List.ext_getElem <;> simp [regsFrom, upTo]
  rw [h, List.foldl_map]
  rfl

/-- Which of the k registers from d on a register is. -/
def regIndex (d : BitVec 5) (k : Nat) (r : BitVec 5) : Option Nat :=
  (List.range k).find? fun j => decide (d + BitVec.ofNat 5 j = r)

theorem regIndex_succ {d : BitVec 5} {k : Nat} (hk : k < 32) (r : BitVec 5) :
    regIndex d (k + 1) r = if r = d + BitVec.ofNat 5 k then some k else regIndex d k r := by
  unfold regIndex
  rw [List.range_succ, List.find?_append]
  by_cases hr : r = d + BitVec.ofNat 5 k
  · subst hr
    have : (List.range k).find? (fun j => decide (d + BitVec.ofNat 5 j = d + BitVec.ofNat 5 k)) = none := by
      rw [List.find?_eq_none]
      intro j hj
      have hj := List.mem_range.1 hj
      simp only [decide_eq_true_eq]
      bv_omega
    rw [this]
    simp
  · have := Ne.symm hr
    simp [hr, this]

theorem State.setRegs_frame (s : State) (d : BitVec 5) (f : Nat → Word) (k : Nat) : s.setRegs d f k =
    { s with hart := { s.hart with x := (s.setRegs d f k).hart.x, xPois := (s.setRegs d f k).hart.xPois } } := by
  induction k with
  | zero => rfl
  | succ k ih =>
    rw [State.setRegs_succ, State.setX_eq]
    generalize (s.setRegs d f k).setX (d + BitVec.ofNat 5 k) (f k) = t
    rw [ih]

theorem State.x_setRegs (s : State) (d : BitVec 5) (f : Nat → Word) {r : BitVec 5} (hr : r ≠ 0) :
    ∀ {k : Nat}, k ≤ 32 → (s.setRegs d f k).x r = ((regIndex d k r).map f).getD (s.x r)
  | 0, _ => rfl
  | k + 1, hk => by
    rw [State.setRegs_succ, State.x_setX, regIndex_succ (by omega), State.x_setRegs s d f hr (by omega)]
    by_cases h : r = d + BitVec.ofNat 5 k
    · have h0 : d + BitVec.ofNat 5 k ≠ 0 := h ▸ hr
      rw [if_pos ⟨h, h0⟩, if_pos h]
      rfl
    · rw [if_neg fun c => h c.1, if_neg h]

theorem State.filled_setRegs (u : State) (d : BitVec 5) (f : Nat → Word) {k : Nat} (hk : k ≤ 32) :
    u.Filled (fun r => (regIndex d k r).map f) u.hart.v (u.setRegs d f k) := by
  have h := u.setRegs_frame d f k
  have hv : (u.setRegs d f k).hart.v = u.hart.v := by rw [h]
  refine ⟨?_, fun r hr => u.x_setRegs d f hr hk, hv⟩
  rw [hv]
  exact h

/-! ### The translation of a ring in a caddy (R389) -/

@[simp] theorem State.sansGm_caddyUse (s : State) (n : Network) (c : Chan) (i : BitVec 32) (need : Need) :
    (s.caddyUse n c i need).sansGm = s.sansGm := by
  unfold State.caddyUse
  split
  next d _ _ =>
    have hstep : ∀ (t : State) (e : Nat × TlbEntry × Phys), (t.setAD d need e.2.1).sansGm = t.sansGm := fun t e =>
      State.sansGm_setAD ..
    split
    next l _ => exact foldl_keeps State.sansGm _ hstep l s
    · rfl
  · rfl

theorem State.caddyUse_frame (s : State) (n : Network) (c : Chan) (i : BitVec 32) (need : Need) :
    s.caddyUse n c i need = { s with gm := (s.caddyUse n c i need).gm, gmKey := (s.caddyUse n c i need).gmKey
                                     gmStamp := (s.caddyUse n c i need).gmStamp, gmPois := (s.caddyUse n c i need).gmPois
                                     vdevs := (s.caddyUse n c i need).vdevs } :=
  State.eq_of_sansGm (s.sansGm_caddyUse n c i need)

/-! ### CRD and CRDM from step 8 on (R254) -/

section
variable {u : State} {port pe : BitVec 3} {n : Network} {idx : Nat} {c : Chan} {d : BitVec 5} {k : Nat} {w : Wait}
  (hm : u.myChan port = some (n, idx, c))
include hm

theorem State.crdGo_waits (hr : c.readable = false) : u.crdGo w port pe (regsFrom d k) = u.block w := by
  simp [State.crdGo, hm, hr]

theorem State.crdGo_ends (hk : k ≤ 32) (hr : c.readable = true) (ht : c.atToken = true) :
    u.ReadsSlot n.netid idx pe (fun r => (regIndex d k r).map fun _ => 0) u.hart.v true c (u.crdGo w port pe (regsFrom d k)) := by
  have h := (u.filled_setRegs d (fun _ => 0) hk).ends (State.chan?_of (State.myChan_names hm).1 (State.myChan_names hm).2) pe
  simpa [State.crdGo, hm, hr, ht, State.foldl_regsFrom] using h

theorem State.crdGo_takes (hk : k ≤ 32) (hr : c.readable = true) (ht : c.atToken = false)
    (hclean : ∀ j < k, (u.slotRead n c c.rd).2.contains j = false) :
    (u.caddyUse n c c.rd .r).ReadsSlot n.netid idx pe
      (fun r => (regIndex d k r).map fun j => BitVec.ofNat 64 (field (u.slotRead n c c.rd).1 (8 * j) 8)) u.hart.v false
      { c with rd := c.rd + 1 } (u.crdGo w port pe (regsFrom d k)) := by
  have hfind : (upTo k).find? (fun j => (u.slotRead n c c.rd).2.contains j) = none := by
    rw [List.find?_eq_none]
    intro j hj
    simp only [hclean j (List.mem_range.1 hj)]
    decide
  have hu := u.caddyUse_frame n c c.rd .r
  have hv : (u.caddyUse n c c.rd .r).hart.v = u.hart.v := by rw [hu]
  have hc : (u.caddyUse n c c.rd .r).chan? n.netid idx = some c := by
    have hn : (u.caddyUse n c c.rd .r).nets = u.nets := by rw [hu]
    rw [State.chan?_of_nets hn, State.chan?_of (State.myChan_names hm).1 (State.myChan_names hm).2]
  have h := ((u.caddyUse n c c.rd .r).filled_setRegs d
    (fun j => BitVec.ofNat 64 (field (u.slotRead n c c.rd).1 (8 * j) 8)) hk).takes hc pe
  rw [hv] at h
  unfold State.crdGo
  simp only [hm, hr, ht, Bool.not_true, Bool.false_eq_true, if_false, length_regsFrom, hfind]
  rw [State.foldl_mapIdx_regsFrom (u.caddyUse n c c.rd .r) d fun j => BitVec.ofNat 64 (field (u.slotRead n c c.rd).1 (8 * j) 8)]
  exact h
end

/-! ### What a write to a ring leaves (R22, R24, R30) -/

/-- The selected hart and the networks, which no store to a ring's memory changes. -/
def State.hartNets (s : State) : Hart × List Network := (s.hart, s.nets)

theorem State.hartNets_of_sansGm {s t : State} (h : t.sansGm = s.sansGm) : t.hartNets = s.hartNets :=
  (congrArg State.hartNets h : t.sansGm.hartNets = s.sansGm.hartNets)

theorem State.hartNets_packet (s : State) (netid : Nat) (ws : List (Phys × Nat)) : (s.packet netid ws).hartNets = s.hartNets := by
  have hsend : (s.sendPackets netid true ws).hartNets = s.hartNets :=
    foldl_keeps State.hartNets (fun (t : State) w => t.sendPacket t.myEp netid true w) (fun _ _ => rfl) _ _
  unfold State.packet
  refine (foldl_keeps State.hartNets _ (fun t g => ?_) _ _).trans hsend
  split
  · rfl
  · unfold State.partialStoreEvent
    split <;> rfl

theorem State.hartNets_gmScatter (s : State) (netid : Nat) (ps : List Phys) (bs : List Byte) :
    (s.gmScatter netid ps bs).hartNets = s.hartNets :=
  (foldl_keeps State.hartNets (fun (t : State) (pb : Phys × Byte) => t.gmStore pb.1 [pb.2])
    (fun t pb => State.hartNets_of_sansGm (t.sansGm_gmStore pb.1 [pb.2])) _ _).trans (s.hartNets_packet netid _)

theorem State.hartNets_sendSlot (s : State) (vdid ep netid chan : Nat) (bs : List Byte) :
    (s.sendSlot vdid ep netid chan bs).hartNets = s.hartNets := by
  unfold State.sendSlot
  split <;> rfl

/-- A write to a slot changes no network but, of a ring on the host, the channel's list of slots. -/
theorem State.slotWrite_hartNets (s : State) (n : Network) (idx : Nat) (c : Chan) (i : BitVec 32) (bs : List Byte) :
    (s.slotWrite n idx c i bs).hartNets = s.hartNets ∨
    ∃ r, (s.slotWrite n idx c i bs).hartNets = (s.mapChan n.netid idx fun c => { c with ring := r }).hartNets := by
  unfold State.slotWrite
  split
  · exact .inl rfl
  · exact .inl ((State.hartNets_gmScatter ..).trans (State.hartNets_of_sansGm (s.sansGm_caddyUse n c i .w)))
  next slots _ =>
    refine .inr ⟨.host (slots ++ [bs]), ?_⟩
    split
    · exact State.hartNets_sendSlot ..
    · rfl

theorem State.hart_slotWrite (s : State) (n : Network) (idx : Nat) (c : Chan) (i : BitVec 32) (bs : List Byte) :
    (s.slotWrite n idx c i bs).hart = s.hart := by
  rcases s.slotWrite_hartNets n idx c i bs with h | ⟨r, h⟩
  · exact congrArg Prod.fst h
  · exact congrArg Prod.fst h

theorem State.chan?_slotWrite_ne (s : State) {n : Network} {idx : Nat} (c : Chan) (i : BitVec 32) (bs : List Byte) {m j : Nat}
    (hmj : (m, j) ≠ (n.netid, idx)) : (s.slotWrite n idx c i bs).chan? m j = s.chan? m j := by
  rcases s.slotWrite_hartNets n idx c i bs with h | ⟨r, h⟩
  · exact State.chan?_of_nets (congrArg Prod.snd h) m j
  · exact (State.chan?_of_nets (congrArg Prod.snd h) m j).trans (State.chan?_mapChan_ne s _ hmj)

theorem State.chan?_slotWrite {s : State} {n : Network} {idx : Nat} {c : Chan} (hc : s.chan? n.netid idx = some c)
    (i : BitVec 32) (bs : List Byte) : ∃ e, (s.slotWrite n idx c i bs).chan? n.netid idx = some e ∧ e.wr = c.wr := by
  rcases s.slotWrite_hartNets n idx c i bs with h | ⟨r, h⟩
  · exact ⟨c, (State.chan?_of_nets (congrArg Prod.snd h) _ _).trans hc, rfl⟩
  · exact ⟨_, (State.chan?_of_nets (congrArg Prod.snd h) _ _).trans (State.chan?_mapChan_same hc), rfl⟩

/-! ### Putting a slot and closing (R24, R28, R30) -/

section
variable {s : State} {n : Network} {idx : Nat} {c : Chan} (hn : s.net? n.netid = some n) (hc : n.chans[idx]? = some c)
include hn hc

theorem State.chanPut_ended (he : n.consumerEnded c = true) (bs : List Byte) : s.chanPut n.netid idx bs = s := by
  simp [State.chanPut, hn, hc, he]

theorem State.chanPut_writes (he : n.consumerEnded c = false) (bs : List Byte) : s.chanPut n.netid idx bs =
    ((s.slotWrite n idx c c.wr (padTo c.slotBytes bs)).mapChan n.netid idx fun c => { c with wr := c.wr + 1 }).noted n.netid := by
  unfold State.chanPut
  rw [hn]
  dsimp only
  rw [hc]
  dsimp only
  rw [if_neg (by simp [he])]
  rfl

theorem State.writesSlot_chanPut (bs : List Byte) : s.WritesSlot n idx c bs (s.chanPut n.netid idx bs).advance := by
  have hch := State.chan?_of hn hc
  unfold State.WritesSlot
  by_cases he : n.consumerEnded c = true
  · rw [State.chanPut_ended hn hc he]
    exact ⟨s.advance_pc, fun _ => s.advance_eq, fun h => by simp [he] at h⟩
  · have he : n.consumerEnded c = false := by simpa using he
    have hput := State.chanPut_writes hn hc he bs
    have hhart := s.hart_slotWrite n idx c c.wr (padTo c.slotBytes bs)
    obtain ⟨e, hme, hwr⟩ := State.chan?_slotWrite hch c.wr (padTo c.slotBytes bs)
    have hother := fun k j => s.chan?_slotWrite_ne (m := k) (j := j) (n := n) (idx := idx) c c.wr (padTo c.slotBytes bs)
    rw [padTo] at hput hhart hme hother
    generalize s.slotWrite n idx c c.wr (bs ++ List.replicate (c.slotBytes - bs.length) 0) = m at hput hhart hme hother ⊢
    have hfr := State.noted_frame (m.mapChan n.netid idx fun c => { c with wr := c.wr + 1 }) n.netid
    rw [← hput] at hfr
    generalize ht : s.chanPut n.netid idx bs = t at hput hfr
    have hth : t.hart = m.hart := by rw [hfr]; rfl
    refine ⟨?_, fun h => by simp [he] at h, fun _ => ⟨?_, fun k j h => ?_, fun k => ?_, fun k => ?_, ?_⟩⟩
    · exact t.advance_pc.trans (State.nextPc_of (by rw [hth, hhart]) (by rw [hth, hhart]))
    · rw [State.chan?_of_nets t.advance_nets, hput, State.chan?_noted, State.chan?_mapChan_same hme, hme, ← hwr]
      rfl
    · rw [State.chan?_of_nets t.advance_nets, hput, State.chan?_noted, State.chan?_mapChan_ne _ _ h, hother k j h]
    · rw [State.advance_tm, hfr]; rfl
    · rw [State.advance_gm, hfr]; rfl
    · refine t.advance_eq.trans ?_
      rw [State.advance_nets, State.advance_procs, State.advance_tiles, hth]
      generalize t.advance.hart = a, t.nets = l, t.procs = r, t.tiles = q at hfr ⊢
      rw [hfr]
      rfl

theorem State.chanClose_ended (he : n.consumerEnded c = true) :
    s.chanClose n.netid idx = s.mapChan n.netid idx fun c => { c with closed := true } := by
  simp [State.chanClose, hn, hc, he]

/-- Closing writes the token, which a consumer on the host gets as a message. -/
theorem State.chanClose_open (he : n.consumerEnded c = false) : ∃ l, s.chanClose n.netid idx =
    ({ s.mapChan n.netid idx Chan.close with unsent := l } : State).noted n.netid ∧ (∀ r, c.cons = .rank r → l = s.unsent) := by
  unfold State.chanClose
  rw [hn]
  dsimp only
  rw [hc]
  dsimp only
  rw [if_neg (by simp [he])]
  cases hcons : c.cons with
  | rank r => exact ⟨s.unsent, rfl, fun _ _ => rfl⟩
  | host ep =>
    dsimp only
    unfold State.sendSlot
    split
    · exact ⟨s.unsent, rfl, fun _ h => by cases h⟩
    · exact ⟨_, rfl, fun _ h => by cases h⟩

/-- Closing leaves the channel closed, the token in its next slot unless the consumer has ended, and no other changed. -/
theorem State.chanClose_leaves : ∃ l,
    s.chanClose n.netid idx = { s with nets := (s.chanClose n.netid idx).nets, procs := (s.chanClose n.netid idx).procs
                                       tiles := (s.chanClose n.netid idx).tiles, unsent := l } ∧
    (∀ r, c.cons = .rank r → l = s.unsent) ∧
    (s.chanClose n.netid idx).chan? n.netid idx = some (if n.consumerEnded c then { c with closed := true } else c.close) ∧
    ∀ k j, (k, j) ≠ (n.netid, idx) → (s.chanClose n.netid idx).chan? k j = s.chan? k j := by
  have hch := State.chan?_of hn hc
  by_cases he : n.consumerEnded c = true
  · rw [State.chanClose_ended hn hc he, if_pos he]
    exact ⟨s.unsent, rfl, fun _ _ => rfl, State.chan?_mapChan_same hch, fun k j h => State.chan?_mapChan_ne s _ h⟩
  · have he : n.consumerEnded c = false := by simpa using he
    obtain ⟨l, heq, hl⟩ := State.chanClose_open hn hc he
    have hfr := State.noted_frame ({ s.mapChan n.netid idx Chan.close with unsent := l } : State) n.netid
    rw [if_neg (by simp [he])]
    refine ⟨l, ?_, hl, ?_, fun k j h => ?_⟩
    · rw [heq]
      exact hfr
    · rw [heq, State.chan?_noted]
      exact State.chan?_mapChan_same hch
    · rw [heq, State.chan?_noted]
      exact State.chan?_mapChan_ne s _ h
end

/-! ### CWR, CWRM and CCLOSE from step 8 on (R254, R256) -/

/-- t is u after CCLOSE has closed a channel. -/
def State.ClosesSlot (u : State) (n : Network) (idx : Nat) (c : Chan) (t : State) : Prop :=
  t.hart.pc = u.nextPc ∧ u.MemSame t ∧
  t.chan? n.netid idx = some (if n.consumerEnded c then { c with closed := true } else c.close) ∧
  (∀ l j, (l, j) ≠ (n.netid, idx) → t.chan? l j = u.chan? l j) ∧
  t = { u with hart := u.hart.pcOf t.hart, nets := t.nets, procs := t.procs, tiles := t.tiles, unsent := t.unsent }

theorem State.closesSlot_chanClose {u : State} {n : Network} {idx : Nat} {c : Chan} (hn : u.net? n.netid = some n)
    (hc : n.chans[idx]? = some c) : u.ClosesSlot n idx c (u.chanClose n.netid idx).advance := by
  obtain ⟨l, hfr, -, hch, hother⟩ := State.chanClose_leaves hn hc
  generalize u.chanClose n.netid idx = t at hfr hch hother ⊢
  have hth : t.hart = u.hart := by rw [hfr]
  refine ⟨t.advance_pc.trans (State.nextPc_of (by rw [hth]) (by rw [hth])), ⟨fun k => ?_, fun k => ?_⟩, ?_, fun k j h => ?_, ?_⟩
  · rw [State.advance_tm, hfr]
  · rw [State.advance_gm, hfr]
  · rw [State.chan?_of_nets t.advance_nets, hch]
  · rw [State.chan?_of_nets t.advance_nets, hother k j h]
  · have hu : t.unsent = l := by rw [hfr]
    rw [State.advance_nets, State.advance_procs, State.advance_tiles, show t.advance.unsent = t.unsent by rw [t.advance_eq], hu]
    refine t.advance_eq.trans ?_
    rw [hth]
    generalize t.advance.hart = a, t.nets = ns, t.procs = r, t.tiles = q at hfr ⊢
    rw [hfr]

section
variable {u : State} {port : BitVec 3} {n : Network} {idx : Nat} {c : Chan} {a : BitVec 5} {k : Nat} {w : Wait}
  (hm : u.myChan port = some (n, idx, c))
include hm

theorem State.cwrGo_refused (h : c.closed = true ∨ c.slotBytes < 8 * k) :
    u.cwrGo w port (regsFrom a k) = u.trap causeChan (port.setWidth 64) := by
  unfold State.cwrGo
  simp only [hm, length_regsFrom]
  rw [if_pos (by rcases h with h | h <;> simp [h])]
  rfl

/-- A write that is in time and fits waits for room, and then is done. -/
theorem State.cwrGo_fits (hopen : c.closed = false) (hfit : 8 * k ≤ c.slotBytes)
    (hp : ∀ j < k, u.xPoisoned (a + BitVec.ofNat 5 j) = false) : u.cwrGo w port (regsFrom a k) =
    if n.writeWaits c then u.block w
    else (u.chanPut n.netid idx ((List.range k).flatMap fun j => leBytes 8 (u.x (a + BitVec.ofNat 5 j)).toNat)).advance := by
  have hfind : (upTo k).find? (fun j => ((regsFrom a k).map u.xPoisoned).getD j false) = none := by
    rw [List.find?_eq_none]
    intro j hj
    have hj := List.mem_range.1 hj
    simp [regsFrom, upTo, hj, hp j hj]
  unfold State.cwrGo
  simp only [hm, length_regsFrom, hfind]
  rw [if_neg (by simp [hopen, hfit]), regsFrom, List.flatMap_map]
  rfl

theorem State.cwrGo_puts (hopen : c.closed = false) (hfit : 8 * k ≤ c.slotBytes)
    (hp : ∀ j < k, u.xPoisoned (a + BitVec.ofNat 5 j) = false) (hw : n.writeWaits c = false) :
    u.WritesSlot n idx c ((List.range k).flatMap fun j => leBytes 8 (u.x (a + BitVec.ofNat 5 j)).toNat)
      (u.cwrGo w port (regsFrom a k)) := by
  rw [State.cwrGo_fits hm hopen hfit hp, if_neg (by simp [hw])]
  exact State.writesSlot_chanPut (State.myChan_names hm).1 (State.myChan_names hm).2 _

theorem State.ccloseGo_refused (h : c.closed = true) : u.ccloseGo port = u.trap causeChan (port.setWidth 64) := by
  simp [State.ccloseGo, hm, h, portVal]

theorem State.ccloseGo_waits (hopen : c.closed = false) (hw : n.writeWaits c = true) : u.ccloseGo port = u.block (.cclose port) := by
  simp [State.ccloseGo, hm, hopen, hw]

theorem State.ccloseGo_closes (hopen : c.closed = false) (hw : n.writeWaits c = false) :
    u.ClosesSlot n idx c (u.ccloseGo port) := by
  have h := State.closesSlot_chanClose (State.myChan_names hm).1 (State.myChan_names hm).2
  simpa [State.ccloseGo, hm, hopen, hw] using h
end

/-! ### Slots of a ring in tile memory (R22, R24) -/

theorem Memory.bytes_congr {m m' : Memory} : ∀ {n a : Nat}, (∀ j < n, m.read (a + j) = m'.read (a + j)) →
    m.bytes a n = m'.bytes a n
  | 0, _, _ => rfl
  | n + 1, a, h => by
    have h0 := h 0 (by omega)
    rw [Nat.add_zero] at h0
    have ih : m.bytes (a + 1) n = m'.bytes (a + 1) n :=
      Memory.bytes_congr fun j hj => by rw [Nat.add_assoc]; exact h (1 + j) (by omega)
    rw [Memory.bytes, Memory.bytes, h0, ih]

/-- Different places in a row of equal slots do not overlap. -/
theorem places_apart {i j len : Nat} (h : i ≠ j) : i * len + len ≤ j * len ∨ j * len + len ≤ i * len := by
  rcases Nat.lt_or_gt_of_ne h with h | h
  · exact .inl (by rw [← Nat.succ_mul]; exact Nat.mul_le_mul_right _ h)
  · exact .inr (by rw [← Nat.succ_mul]; exact Nat.mul_le_mul_right _ h)

section
variable {s : State} {n : Network} {idx tile base : Nat} {c : Chan} {i : BitVec 32} {bs : List Byte}
  (hw : s.tm.wf = true) (hring : c.ring = .tile tile base) (hlen : bs.length = c.slotBytes)
include hw hring hlen

theorem State.slotWrite_tile_read {a : Nat}
    (ha : a < tmKey tile (base + c.slotOff i) ∨ tmKey tile (base + c.slotOff i) + c.slotBytes ≤ a) :
    (s.slotWrite n idx c i bs).tm.read a = s.tm.read a := by
  rw [State.slotWrite, hring]
  exact Memory.read_store_outside bs _ hw (by rw [hlen]; exact ha)

theorem State.slotWrite_tile_same : ((s.slotWrite n idx c i bs).slotRead n c i).1 = bs := by
  simp only [State.slotRead, State.slotWrite, hring]
  have h := Memory.bytes_store bs (tmKey tile (base + c.slotOff i)) hw
  rw [hlen] at h
  exact h

theorem State.slotWrite_tile_ne {j : BitVec 32} (h : i.toNat % 2 ^ c.k ≠ j.toNat % 2 ^ c.k) :
    ((s.slotWrite n idx c i bs).slotRead n c j).1 = (s.slotRead n c j).1 := by
  have hoff := places_apart (len := c.slotBytes) h
  have hout : ∀ a, tmKey tile (base + c.slotOff j) ≤ a → a < tmKey tile (base + c.slotOff j) + c.slotBytes →
      (s.slotWrite n idx c i bs).tm.read a = s.tm.read a := fun a h1 h2 =>
    State.slotWrite_tile_read hw hring hlen (by unfold tmKey Chan.slotOff at *; omega)
  simp only [State.slotRead, hring]
  exact Memory.bytes_congr fun k hk => hout _ (by omega) (by omega)
end

/-! ### VCRD and VCWR from step 8 on (R255, R256) -/

theorem major_ch (m : BitVec 6) (d a : BitVec 5) (p : BitVec 3) (k : BitVec 5) (f : BitVec 8) :
    (ch m d a p k f).extractLsb' 26 6 = m := by
  ext i hi
  rw [BitVec.getElem_extractLsb']
  change (m ++ d ++ a ++ p ++ k ++ f : BitVec (6 + 5 + 5 + 3 + 5 + 8)).getLsbD (26 + i) = _
  rw [BitVec.getLsbD_append, if_neg (by omega), BitVec.getLsbD_append, if_neg (by omega), BitVec.getLsbD_append,
    if_neg (by omega), BitVec.getLsbD_append, if_neg (by omega), BitVec.getLsbD_append, if_neg (by omega)]
  rw [show 26 + i - 8 - 5 - 3 - 5 - 5 = i by omega, BitVec.getLsbD_eq_getElem]

/-- A channel instruction takes neither the check lane nor the leave of the governor. -/
theorem State.spin_holdLeave_chan {s : State} {w : IWord} (h : w.extractLsb' 26 6 = 0x30#6) : (s.spin w).holdLeave w = s := by
  have hl : needsLeave w (s.spin w).sew = false := by simp [needsLeave, h]
  have hs : s.spin w = s := by
    unfold State.spin
    rw [h]
    dsimp only
    rw [if_neg (by simp)]
  rw [State.holdLeave, hl, hs]
  rfl

theorem Hart.writeElems_v_congr {g h : Hart} (hv : g.v = h.v) (ht : g.vtype = h.vtype) (hl : g.lanes = h.lanes)
    (h0 : g.lane0 = h.lane0) (w r : Nat) (f : Nat → Nat) (l : List Nat) : (g.writeElems w r f l).v = (h.writeElems w r f l).v := by
  induction l generalizing g h with
  | nil => exact hv
  | cons i l ih =>
    refine ih (g := g.setElem w r i (f i)) (h := h.setElem w r i (f i)) ?_ ht hl h0
    simp [Hart.setElem, Hart.elemKey, hv, ht, hl, h0]

theorem Hart.setElems_map (h : Hart) (w r n : Nat) (f : Nat → Nat) :
    h.setElems w r ((List.range n).map f) = h.writeElems w r f (List.range n) := by
  have hz : (((List.range n).map f).mapIdx fun i v => (i, v)) = (List.range n).map fun i => (i, f i) := by
    apply List.ext_getElem <;> simp
  rw [Hart.setElems, hz, List.foldl_map]
  rfl

theorem State.filled_setElems {u : State} (hp : u.hart.vPois = []) (w r n : Nat) (f : Nat → Nat) :
    u.Filled (fun _ => none) (u.hart.writeElems w r f (List.range n)).v
      { u with hart := u.hart.setElems w r ((List.range n).map f) } := by
  rw [Hart.setElems_map]
  have h := u.hart.writeElems_eq w r f (List.range n)
  rw [Hart.writeElems_vPois hp, ← hp] at h
  generalize u.hart.writeElems w r f (List.range n) = g at h ⊢
  have hx : g.x = u.hart.x := by rw [h]
  refine ⟨?_, fun r _ => ?_, rfl⟩
  · change { u with hart := g } = { u with hart := { u.hart with x := g.x, xPois := g.xPois, v := g.v } }
    rw [h]
  · change State.x { u with hart := g } r = u.x r
    simp only [State.x, hx]

theorem State.anyStop_none {s : State} (hd : s.hart.Unwatched) {pois : Nat → Option Nat} (hp : ∀ i, pois i = none)
    (is : List Nat) : s.anyStop pois is = none := by
  unfold State.anyStop
  rw [List.findSome?_eq_none_iff]
  intro i _
  rw [State.elemStop_quiet hd (hp i)]
  rfl

section
variable {u : State} (hq : u.Quiet)
include hq

/-- On a quiet hart a vector channel instruction does its body and goes on. -/
theorem State.vgo_chan {v : VInstr} {body : State → Hart → VEnd} (hw : v.word.extractLsb' 26 6 = 0x30#6) :
    u.vgo v body = (body u u.hart).finish u.hart v := by
  rw [State.vgo_quiet hq.1 hq.2.2.2.1 (State.source_whole hq.2.2.2.2.2.2), State.spin_holdLeave_chan hw]

variable {port pe : BitVec 3} {n : Network} {idx : Nat} {c : Chan} {d a : BitVec 5} (hm : u.myChan port = some (n, idx, c))
include hm

theorem State.vcrdGo_waits (hr : c.readable = false) : u.vcrdGo d pe port = u.block (.vcrd d pe port) := by
  rw [State.vcrdGo, State.vgo_chan hq (v := u.vchInstr (ch 0x30#6 d (0#2 ++ pe) port 0#5 4#8) d false) (major_ch ..), hm]
  simp only [State.anyStop_none hq.2.1 fun _ => rfl, hr, Bool.not_false, if_true]
  rfl

theorem State.vcrdGo_ends (hr : c.readable = true) (ht : c.atToken = true) :
    u.ReadsSlot n.netid idx pe (fun _ => none) (u.hart.writeElems u.sew d.toNat (fun _ => 0) (List.range u.vlen)).v true c
      (u.vcrdGo d pe port) := by
  have h := (State.filled_setElems hq.2.2.1 u.sew d.toNat u.vlen fun _ => 0).ends
    (State.chan?_of (State.myChan_names hm).1 (State.myChan_names hm).2) pe
  rw [show (List.range u.vlen).map (fun _ => 0) = List.replicate u.vlen 0 by simp] at h
  rw [State.vcrdGo, State.vgo_chan hq (v := u.vchInstr (ch 0x30#6 d (0#2 ++ pe) port 0#5 4#8) d false) (major_ch ..), hm]
  simp only [State.anyStop_none hq.2.1 fun _ => rfl, hr, ht, Bool.not_true, Bool.false_eq_true, if_false, if_true]
  exact h

theorem State.vcrdGo_takes (hr : c.readable = true) (ht : c.atToken = false)
    (hclean : ∀ i < u.vlen, (u.slotRead n c c.rd).2.contains (i * (u.sew / 8) / 8) = false) :
    (u.caddyUse n c c.rd .r).ReadsSlot n.netid idx pe (fun _ => none)
      (u.hart.writeElems u.sew d.toNat (fun i => field (u.slotRead n c c.rd).1 (i * (u.sew / 8)) (u.sew / 8)) (List.range u.vlen)).v
      false { c with rd := c.rd + 1 } (u.vcrdGo d pe port) := by
  have hfind : (upTo u.vlen).find? (fun i => (u.slotRead n c c.rd).2.contains (i * (u.sew / 8) / 8)) = none := by
    rw [List.find?_eq_none]
    intro j hj
    simp only [hclean j (List.mem_range.1 hj)]
    decide
  have hu := u.caddyUse_frame n c c.rd .r
  have hh : (u.caddyUse n c c.rd .r).hart = u.hart := by rw [hu]
  have hvl : (u.caddyUse n c c.rd .r).vlen = u.vlen := by simp only [State.vlen, hh]
  have hn : (u.caddyUse n c c.rd .r).nets = u.nets := by rw [hu]
  have hc : (u.caddyUse n c c.rd .r).chan? n.netid idx = some c := by
    rw [State.chan?_of_nets hn, State.chan?_of (State.myChan_names hm).1 (State.myChan_names hm).2]
  have h := (State.filled_setElems (u := u.caddyUse n c c.rd .r) (by rw [hh]; exact hq.2.2.1) u.sew d.toNat u.vlen
    fun i => field (u.slotRead n c c.rd).1 (i * (u.sew / 8)) (u.sew / 8)).takes hc pe
  rw [State.vcrdGo, State.vgo_chan hq (v := u.vchInstr (ch 0x30#6 d (0#2 ++ pe) port 0#5 4#8) d false) (major_ch ..), hm]
  simp only [State.anyStop_none hq.2.1 fun _ => rfl, hr, ht, Bool.not_true, Bool.false_eq_true, if_false, hvl, hfind]
  rw [hh] at h ⊢
  exact h

theorem State.vcwrGo_fits (hopen : c.closed = false) (hfit : u.vlen * (u.sew / 8) ≤ c.slotBytes) :
    u.vcwrGo a port = if n.writeWaits c then u.block (.vcwr a port)
      else (u.chanPut n.netid idx ((List.range u.vlen).flatMap fun i => leBytes (u.sew / 8) (u.hart.elem u.sew a.toNat i))).advance := by
  have hno : (c.closed || decide (c.slotBytes < u.vlen * (u.sew / 8))) = false := by simp [hopen, hfit]
  rw [State.vcwrGo, State.vgo_chan hq (v := u.vchInstr (ch 0x30#6 0#5 a port 0#5 5#8) a true) (major_ch ..), hm]
  simp only [hno, Bool.false_eq_true, if_false, State.anyStop_none hq.2.1 (Hart.poisIn_nil hq.2.2.1 u.sew [a.toNat])]
  split <;> rfl

theorem State.vcwrGo_refused (h : c.closed = true ∨ c.slotBytes < u.vlen * (u.sew / 8)) (hp : u.hart.priv = .p)
    (hc : u.hart.current = none) : u.TrapsAtP causeChan (port.setWidth 64) (u.hart.pc + 4) (u.vcwrGo a port) := by
  have hyes : (c.closed || decide (c.slotBytes < u.vlen * (u.sew / 8))) = true := by rcases h with h | h <;> simp [h]
  rw [State.vcwrGo, State.vgo_chan hq (v := u.vchInstr (ch 0x30#6 0#5 a port 0#5 5#8) a true) (major_ch ..), hm]
  simp only [hyes, if_true]
  simp [State.stopZero, VEnd.finish, State.stopWith, State.takeTrap, hp, State.TrapsAtP, Hart.enterS, hc, State.MemSame, portVal]
end

/-! ### The early tests of channel instructions (R156, R256) -/

section
variable {s : State} {port : BitVec 3} {write : Bool} (hp : s.hart.priv = .p) (hb : s.chanBad port write = false)
include hp hb

theorem State.issue_chan (hu : s.steepOver 1 = false) (w : IWord) (body : State → State) :
    s.issue w (s.chanGate port write 1) body = body (s.count 1) :=
  State.issue_pass (g := s.chanGate port write 1) (by simp [State.chanGate, State.atP, hp]) hu rfl rfl hb rfl

theorem State.vchan_quiet (hq : s.Quiet) {v : VInstr} (hu : s.steepOver v.units = false) (hv : v.vcfg = false)
    (go : State → State) : s.vchan v port write go = .next (go (s.count v.units)) :=
  congrArg Host.Outcome.next (State.issue_pass (by simp [State.chanGate, State.atP, hp]) hu hv
    (Hart.streamBad_nil hq.1 v.srcs v.dsts) hb rfl)
end

section
variable {s : State} {port : BitVec 3} (hp : s.hart.priv = .p) (hu : s.steepOver 1 = false)
include hp hu

theorem exec_crd (hb : s.chanBad port false = false) (d : BitVec 5) (pe : BitVec 3) :
    exec (.crd d pe port) s = .next ((s.count 1).crdGo (.crd d pe port) port pe (regsFrom d 1)) := by
  rw [regsFrom_one]
  exact congrArg Host.Outcome.next (State.issue_chan hp hb hu _ _)

theorem exec_crdm (hb : s.chanBad port false = false) (d : BitVec 5) (pe : BitVec 3) (k : BitVec 5) :
    exec (.crdm d pe port k) s = .next ((s.count 1).crdGo (.crdm d pe port k) port pe (regsFrom d k.toNat)) :=
  congrArg Host.Outcome.next (State.issue_chan hp hb hu _ _)

theorem exec_cwr (hb : s.chanBad port true = false) (a : BitVec 5) :
    exec (.cwr a port) s = .next ((s.count 1).cwrGo (.cwr a port) port (regsFrom a 1)) := by
  rw [regsFrom_one]
  exact congrArg Host.Outcome.next (State.issue_chan hp hb hu _ _)

theorem exec_cwrm (hb : s.chanBad port true = false) (a k : BitVec 5) :
    exec (.cwrm a port k) s = .next ((s.count 1).cwrGo (.cwrm a port k) port (regsFrom a k.toNat)) :=
  congrArg Host.Outcome.next (State.issue_chan hp hb hu _ _)

theorem exec_cclose (hb : s.chanBad port true = false) : exec (.cclose port) s = .next ((s.count 1).ccloseGo port) :=
  congrArg Host.Outcome.next (State.issue_chan hp hb hu _ _)
end

theorem exec_vcrd {s : State} {port : BitVec 3} {d : BitVec 5} (hp : s.hart.priv = .p) (hb : s.chanBad port false = false)
    (hr : s.VReady (s.rows s.sew) [d]) (pe : BitVec 3) :
    exec (.vcrd d pe port) s = .next ((s.count (s.rows s.sew)).vcrdGo d pe port) :=
  State.vchan_quiet hp hb hr.1 (v := s.vchInstr (ch 0x30#6 d (0#2 ++ pe) port 0#5 4#8) d false) hr.2.1 (hr.2.2 d (by simp)) _

theorem exec_vcwr {s : State} {port : BitVec 3} {a : BitVec 5} (hp : s.hart.priv = .p) (hb : s.chanBad port true = false)
    (hr : s.VReady (s.rows s.sew) [a]) :
    exec (.vcwr a port) s = .next ((s.count (s.rows s.sew)).vcwrGo a port) :=
  State.vchan_quiet hp hb hr.1 (v := s.vchInstr (ch 0x30#6 0#5 a port 0#5 5#8) a true) hr.2.1 (hr.2.2 a (by simp)) _

/-! ### The end of a wait (R25) -/

theorem exec_readUnblock_crd {s : State} {d : BitVec 5} {pe port : BitVec 3} (h : s.hart.status = .blocked (.crd d pe port)) :
    exec .channelReadUnblock s = .next (s.unblock.crdGo (.crd d pe port) port pe (regsFrom d 1)) := by
  change execChannelReadUnblock s = _
  rw [execChannelReadUnblock, h, regsFrom_one]

theorem exec_readUnblock_crdm {s : State} {d k : BitVec 5} {pe port : BitVec 3}
    (h : s.hart.status = .blocked (.crdm d pe port k)) :
    exec .channelReadUnblock s = .next (s.unblock.crdGo (.crdm d pe port k) port pe (regsFrom d k.toNat)) := by
  change execChannelReadUnblock s = _
  rw [execChannelReadUnblock, h]

theorem exec_readUnblock_vcrd {s : State} {d : BitVec 5} {pe port : BitVec 3}
    (h : s.hart.status = .blocked (.vcrd d pe port)) :
    exec .channelReadUnblock s = .next (s.unblock.vcrdGo d pe port) := by
  change execChannelReadUnblock s = _
  rw [execChannelReadUnblock, h]

theorem exec_writeUnblock_cwr {s : State} {a : BitVec 5} {port : BitVec 3} (h : s.hart.status = .blocked (.cwr a port)) :
    exec .channelWriteUnblock s = .next (s.unblock.cwrGo (.cwr a port) port (regsFrom a 1)) := by
  change execChannelWriteUnblock s = _
  rw [execChannelWriteUnblock, h, regsFrom_one]

theorem exec_writeUnblock_cwrm {s : State} {a k : BitVec 5} {port : BitVec 3}
    (h : s.hart.status = .blocked (.cwrm a port k)) :
    exec .channelWriteUnblock s = .next (s.unblock.cwrGo (.cwrm a port k) port (regsFrom a k.toNat)) := by
  change execChannelWriteUnblock s = _
  rw [execChannelWriteUnblock, h]

theorem exec_writeUnblock_vcwr {s : State} {a : BitVec 5} {port : BitVec 3} (h : s.hart.status = .blocked (.vcwr a port)) :
    exec .channelWriteUnblock s = .next (s.unblock.vcwrGo a port) := by
  change execChannelWriteUnblock s = _
  rw [execChannelWriteUnblock, h]

theorem exec_writeUnblock_cclose {s : State} {port : BitVec 3} (h : s.hart.status = .blocked (.cclose port)) :
    exec .channelWriteUnblock s = .next (s.unblock.ccloseGo port) := by
  change execChannelWriteUnblock s = _
  rw [execChannelWriteUnblock, h]

/-! ### The obligation -/

/-- Settles O26: each instruction does its work from step 8 on in the counted state, and the event that ends a wait in
the unblocked one; in both the port names the same channel, whose slots read the same. -/
theorem channels : Obligations.Channels := by
  unfold Obligations.Channels
  refine ⟨fun s d a pe port k n idx c hp hd hm => ?_, fun s n idx tile base c i j bs hok hring hlen => ?_⟩
  · have hk : k.toNat ≤ 32 := by omega
    have hmc : ∀ u, (s.count u).myChan port = some (n, idx, c) := fun u => by rw [State.myChan_count, hm]
    have hmu : s.unblock.myChan port = some (n, idx, c) := hm
    have hsu : ∀ u, (s.count u).slotRead n c c.rd = s.slotRead n c c.rd := fun u => State.slotRead_count ..
    have hvu : ∀ u, (s.count u).hart.v = s.hart.v := fun u => State.count_hart_v ..
    have hsew : ∀ u, (s.count u).sew = s.sew := fun u => by simp [State.sew]
    have hvl : ∀ u, (s.count u).vlen = s.vlen := fun u => by simp [State.vlen]
    have hwr : ∀ u w r f l, ((s.count u).hart.writeElems w r f l).v = (s.hart.writeElems w r f l).v := fun u w r f l =>
      Hart.writeElems_v_congr (by simp) (by simp) (by simp) (by simp) w r f l
    dsimp only
    refine ⟨fun hf hb => ?_, fun hr ht => ?_, fun hf hb => ?_, fun hw => ?_, fun hv hb => ?_, fun hq hbl hr => ?_,
      fun hv hb => ?_, fun hq hbl hopen hfit hw => ?_⟩
    · have hx := exec_crd hp hf.1 hb d pe
      have hxm := exec_crdm hp hf.1 hb d pe k
      refine ⟨fun hr ht hcl => ⟨_, hx, ?_⟩, fun hr ht hcl => ⟨_, hxm, ?_⟩, fun hr ht => ⟨⟨_, hx, ?_⟩, ⟨_, hxm, ?_⟩⟩,
        fun hr => ⟨?_, ?_⟩⟩
      · rw [← hsu 1] at hcl ⊢
        rw [← hvu 1]
        exact State.crdGo_takes (hmc 1) (by omega) hr ht hcl
      · rw [← hsu 1] at hcl ⊢
        rw [← hvu 1]
        exact State.crdGo_takes (hmc 1) hk hr ht hcl
      · rw [← hvu 1]
        exact State.crdGo_ends (hmc 1) (by omega) hr ht
      · rw [← hvu 1]
        exact State.crdGo_ends (hmc 1) hk hr ht
      · rw [hx, State.crdGo_waits (hmc 1) hr]
      · rw [hxm, State.crdGo_waits (hmc 1) hr]
    · exact ⟨fun hcl hbl => ⟨_, exec_readUnblock_crd hbl, State.crdGo_takes hmu (by omega) hr ht hcl⟩,
        fun hcl hbl => ⟨_, exec_readUnblock_crdm hbl, State.crdGo_takes hmu hk hr ht hcl⟩⟩
    · have hx := exec_cwr hp hf.1 hb a
      have hxm := exec_cwrm hp hf.1 hb a k
      have hxc := exec_cclose hp hf.1 hb
      simp only [← State.xPoisoned_count s 1, ← State.x_count s 1]
      refine ⟨fun ⟨hopen, hfit, hpo⟩ hw => ⟨_, hx, State.cwrGo_puts (hmc 1) hopen hfit hpo hw⟩,
        fun ⟨hopen, hfit, hpo⟩ hw => ⟨_, hxm, State.cwrGo_puts (hmc 1) hopen hfit hpo hw⟩, fun ⟨hopen, hfit, hpo⟩ hw => ?_,
        fun hopen hw => ⟨_, hxc, State.ccloseGo_closes (hmc 1) hopen hw⟩, fun hopen hw => ?_, fun hcl => ⟨?_, ?_⟩,
        fun ⟨hopen, hfit, hpo⟩ hw => ?_, fun h => ?_⟩
      · rw [hx, State.cwrGo_fits (hmc 1) hopen hfit hpo, if_pos hw]
      · rw [hxc, State.ccloseGo_waits (hmc 1) hopen hw]
      · rw [hx, State.cwrGo_refused (hmc 1) (.inl hcl)]
      · rw [hxc, State.ccloseGo_refused (hmc 1) hcl]
      · rw [hxm, State.cwrGo_fits (hmc 1) hopen hfit hpo, if_pos hw]
      · rw [hxm, State.cwrGo_refused (hmc 1) h]
    · exact ⟨fun ⟨hopen, hfit, hpo⟩ hbl => ⟨_, exec_writeUnblock_cwr hbl, State.cwrGo_puts hmu hopen hfit hpo hw⟩,
        fun ⟨hopen, hfit, hpo⟩ hbl => ⟨_, exec_writeUnblock_cwrm hbl, State.cwrGo_puts hmu hopen hfit hpo hw⟩,
        fun hopen hbl => ⟨_, exec_writeUnblock_cclose hbl, State.ccloseGo_closes hmu hopen hw⟩⟩
    · have hx := exec_vcrd hp hb hv pe
      have hq := hv.1.count (s.rows s.sew)
      simp only [← hwr (s.rows s.sew), ← hsu (s.rows s.sew)]
      refine ⟨fun hr ht hcl => ⟨_, hx, ?_⟩, fun hr ht => ⟨_, hx, ?_⟩, fun hr => ?_⟩
      · have h := State.vcrdGo_takes (pe := pe) (d := d) hq (hmc _) hr ht
        rw [hsew, hvl] at h
        exact h hcl
      · have h := State.vcrdGo_ends (pe := pe) (d := d) hq (hmc _) hr ht
        rw [hsew, hvl] at h
        exact h
      · rw [hx, State.vcrdGo_waits hq (hmc _) hr]
    · have hwu : ∀ w r f l, (s.unblock.hart.writeElems w r f l).v = (s.hart.writeElems w r f l).v := fun w r f l =>
        Hart.writeElems_v_congr (g := s.unblock.hart) (h := s.hart) rfl rfl rfl rfl w r f l
      refine ⟨fun ht hcl => ⟨_, exec_readUnblock_vcrd hbl, ?_⟩, fun ht => ⟨_, exec_readUnblock_vcrd hbl, ?_⟩⟩
      · rw [← hwu]
        exact State.vcrdGo_takes (u := s.unblock) hq hmu hr ht hcl
      · rw [← hwu]
        exact State.vcrdGo_ends (u := s.unblock) hq hmu hr ht
    · have hx := exec_vcwr hp hb hv
      have hq := hv.1.count (s.rows s.sew)
      obtain ⟨hnet, hch⟩ := State.myChan_names (hmc (s.rows s.sew))
      have hgo := State.vcwrGo_fits (a := a) hq (hmc _)
      simp only [hsew, hvl, Hart.elem_count] at hgo
      refine ⟨fun hopen hfit hw => ⟨_, hx, ?_⟩, fun hopen hfit hw => ?_, fun h hcur => ⟨_, hx, ?_⟩⟩
      · rw [hgo hopen hfit, if_neg (by simp [hw])]
        exact State.writesSlot_chanPut hnet hch _
      · rw [hx, hgo hopen hfit, if_pos hw]
      · have h := State.vcwrGo_refused (a := a) hq (hmc _) (by rwa [hsew, hvl]) (by simpa using hp) (by simpa using hcur)
        rwa [State.count_hart_pc] at h
    · refine ⟨_, exec_writeUnblock_vcwr hbl, ?_⟩
      rw [State.vcwrGo_fits (u := s.unblock) hq hmu hopen hfit, if_neg (by simp [hw])]
      exact State.writesSlot_chanPut (State.myChan_names hmu).1 (State.myChan_names hmu).2 _
  · dsimp only
    exact ⟨State.slotWrite_tile_same hok.1 hring hlen, fun h => State.slotWrite_tile_ne hok.1 hring hlen h,
      fun x hx => State.slotWrite_tile_read hok.1 hring hlen hx, fun x => by rw [State.slotWrite, hring]; rfl⟩

end Sys2Proof.Machine
end

section
/-! SUPPORT. GLOBAL_MEMORY. What a reader under a key gets after stores: the granules, their keys and the bytes. -/

namespace Sys2Proof.Machine

/-! ### Granules under another key (R397) -/

theorem length_xorBytes_le (a b : List Byte) : (xorBytes a b).length ≤ b.length := by
  simp only [xorBytes, List.length_zipWith]
  omega

theorem length_xorBytes_le_left (a b : List Byte) : (xorBytes a b).length ≤ a.length := by
  simp only [xorBytes, List.length_zipWith]
  omega

theorem length_aesEnc_le (key b : List Byte) : (aesEnc key b).length ≤ 16 := by
  refine (length_xorBytes_le_left _ _).trans ?_
  simp [aesShift, upTo]

theorem length_xtsBlocks_le (f : List Byte → List Byte) : ∀ (n : Nat) (t b : List Byte), t.length ≤ 16 →
    (xtsBlocks f n t b).length ≤ 16 * n
  | 0, _, _, _ => by simp [xtsBlocks]
  | n + 1, t, b, ht => by
    have ih := length_xtsBlocks_le f n (xtsNext t) (b.drop 16) (by simp [xtsNext, length_leBytes])
    have h := length_xorBytes_le (f (xorBytes (b.take 16) t)) t
    simp only [xtsBlocks, List.length_append]
    omega

theorem length_padTo {n : Nat} {bs : List Byte} (h : bs.length ≤ n) : (padTo n bs).length = n := by
  simp only [padTo, List.length_append, List.length_replicate]
  omega

theorem State.length_under (s : State) (w key : XtsKey) (g : Nat) : (s.under w key g).length = 64 :=
  length_padTo (length_xtsBlocks_le _ 4 _ _ (length_aesEnc_le ..))

/-! ### One granule rekeyed (R397) -/

theorem mem_granulesOf {g k n : Nat} : g ∈ granulesOf k n ↔ k / 64 ≤ g ∧ g < (k + n + 63) / 64 := by
  simp only [granulesOf, upTo, List.mem_map, List.mem_range]
  constructor
  · rintro ⟨j, hj, rfl⟩
    omega
  · intro h
    exact ⟨g - k / 64, by omega, by omega⟩

theorem Memory.read_store_inside : ∀ {bs : List Byte} {m : Memory} {a j : Nat}, m.wf = true → j < bs.length →
    (m.store a bs).read (a + j) = bs.getD j 0
  | b :: bs, m, a, 0, hm, _ => by
    change ((m.write a b).store (a + 1) bs).read a = b
    rw [Memory.read_store_outside bs (a + 1) (Memory.wf_write a b hm) (.inl (by omega)), Memory.read_write_same hm]
  | b :: bs, m, a, j + 1, hm, hj => by
    rw [Memory.store, show a + (j + 1) = a + 1 + j by omega,
      Memory.read_store_inside (Memory.wf_write a b hm) (by simpa using hj)]
    rfl

/-- What a reader under a key gets depends on the byte and the key of its granule, the granule's bytes and its tweak. -/
theorem State.gmByte_congr {s t : State} {key : XtsKey} {c : Nat} (hk : numGet t.gmKey (c / 64) = numGet s.gmKey (c / 64))
    (hg : ∀ a, a / 64 = c / 64 → t.gm.read a = s.gm.read a) (ht : t.tweak (c / 64) = s.tweak (c / 64)) :
    t.gmByte key c = s.gmByte key c := by
  have hb : t.gm.bytes (64 * (c / 64)) 64 = s.gm.bytes (64 * (c / 64)) 64 :=
    Memory.bytes_congr fun j hj => hg _ (by omega)
  simp only [State.gmByte, granule, State.under, hk, hg c rfl, ht, hb]

theorem State.gmByte_keyed {s : State} {key : XtsKey} {c : Nat} (h : numGet s.gmKey (c / 64) = some key) :
    s.gmByte key c = s.gm.read c := by
  simp [State.gmByte, granule, h]

theorem State.tweak_rekey (s : State) (key : XtsKey) (g h : Nat) : (s.rekey key g).tweak h = s.tweak h := by
  unfold State.rekey
  split
  · rfl
  · split <;> rfl

theorem State.wf_rekey {s : State} (hw : s.gm.wf = true) (key : XtsKey) (g : Nat) : (s.rekey key g).gm.wf = true := by
  unfold State.rekey
  split
  · exact hw
  · split
    · exact hw
    · exact Memory.wf_store _ _ hw

/-- Rekeying a granule gives it the key. -/
theorem State.gmKey_rekey (s : State) (key : XtsKey) (g : Nat) : numGet (s.rekey key g).gmKey g = some key := by
  unfold State.rekey
  split
  · exact numGet_numPut_same ..
  next w hw =>
    split
    next h => rw [hw, h]
    · exact numGet_numPut_same ..

theorem State.gmKey_rekey_ne (s : State) (key : XtsKey) {g h : Nat} (hne : h ≠ g) :
    numGet (s.rekey key g).gmKey h = numGet s.gmKey h := by
  unfold State.rekey
  split
  · exact numGet_numPut_ne _ _ hne
  · split
    · rfl
    · exact numGet_numPut_ne _ _ hne

/-- A reader under the same key, and in another granule any reader, gets what it got before. -/
theorem State.gmByte_rekey {s : State} (hw : s.gm.wf = true) {key k : XtsKey} {g c : Nat} (h : c / 64 = g → key = k) :
    (s.rekey key g).gmByte k c = s.gmByte k c := by
  by_cases hc : c / 64 = g
  · obtain rfl := h hc
    subst hc
    rw [State.gmByte_keyed (s.gmKey_rekey ..)]
    unfold State.rekey State.gmByte granule
    split
    · rfl
    next w hk =>
      by_cases hwk : w = key
      · rw [if_pos hwk, if_pos hwk]
      · rw [if_neg hwk, if_neg hwk]
        have hj := Memory.read_store_inside (bs := s.under w key (c / 64)) (a := 64 * (c / 64)) (j := c % 64) hw
          (by rw [State.length_under]; omega)
        rwa [show 64 * (c / 64) + c % 64 = c by omega] at hj
  · refine State.gmByte_congr (s.gmKey_rekey_ne key hc) (fun a ha => ?_) (s.tweak_rekey ..)
    unfold State.rekey
    split
    · rfl
    · split
      · rfl
      · exact Memory.read_store_outside _ _ hw (by rw [State.length_under]; omega)

/-! ### The dirty log leaves the tweaks (R401) -/

theorem VDev.logWrite_keeps (d : VDev) (k : Nat) :
    (d.logWrite k).regions = d.regions ∧ (d.logWrite k).forwarding = d.forwarding := by
  unfold VDev.logWrite
  split
  · split
    · dsimp only
      split <;> exact ⟨rfl, rfl⟩
    · exact ⟨rfl, rfl⟩
  · exact ⟨rfl, rfl⟩

/-- The region that holds a key is found by the regions of the devices and by whether they forward. -/
theorem region_map {f : VDev → VDev} (hf : ∀ d, (f d).regions = d.regions ∧ (f d).forwarding = d.forwarding) (k : Nat)
    (l : List VDev) :
    ((((l.map f).filter fun d => !d.forwarding).findSome? fun d => (d.regions.find? (·.holds k)).map fun r => (d, r)).map Prod.snd) =
    (((l.filter fun d => !d.forwarding).findSome? fun d => (d.regions.find? (·.holds k)).map fun r => (d, r)).map Prod.snd) := by
  induction l with
  | nil => rfl
  | cons d l ih =>
    rw [List.map_cons, List.filter_cons, List.filter_cons, (hf d).2]
    split
    · rw [List.findSome?_cons, List.findSome?_cons, (hf d).1]
      cases d.regions.find? (·.holds k) with
      | none => exact ih
      | some r => rfl
    · exact ih

theorem State.tweak_of_region {s t : State} {g : Nat}
    (h : (t.regionAt (64 * g)).map Prod.snd = (s.regionAt (64 * g)).map Prod.snd) : t.tweak g = s.tweak g := by
  unfold State.tweak
  cases ht : t.regionAt (64 * g) <;> cases hs : s.regionAt (64 * g) <;> simp_all

theorem State.tweak_logDirty (s : State) (k n h : Nat) : (s.logDirty k n).tweak h = s.tweak h := by
  unfold State.logDirty
  split
  · refine State.tweak_of_region (region_map (fun d => ?_) (64 * h) s.vdevs)
    exact ⟨foldl_keeps VDev.regions _ (fun d u => (d.logWrite_keeps u).1) _ d,
      foldl_keeps VDev.forwarding _ (fun d u => (d.logWrite_keeps u).2) _ d⟩
  · rfl

/-! ### A store (R119, R397) -/

theorem State.slotKey_of_sansGm {s t : State} (h : t.sansGm = s.sansGm) (k : Nat) : t.slotKey k = s.slotKey k :=
  (congrArg (fun u : State => u.slotKey k) h : t.sansGm.slotKey k = s.sansGm.slotKey k)

/-- The granules that a store touches, each under the key of its page: what a store does first. -/
def State.rekeyed (s : State) (p : Phys) (gs : List Nat) : State :=
  gs.foldl (fun (s : State) g => s.rekey (s.slotKey p.slot) g) s

theorem State.sansGm_rekeyed (s : State) (p : Phys) (gs : List Nat) : (s.rekeyed p gs).sansGm = s.sansGm :=
  foldl_keeps State.sansGm _ (fun t g => t.sansGm_rekey _ g) gs s

theorem State.tweak_rekeyed (s : State) (p : Phys) (gs : List Nat) (h : Nat) : (s.rekeyed p gs).tweak h = s.tweak h :=
  foldl_keeps (fun t : State => t.tweak h) _ (fun t g => t.tweak_rekey _ g h) gs s

section
variable {s : State} (hw : s.gm.wf = true) (p : Phys)
include hw

theorem State.wf_rekeyed (gs : List Nat) : (s.rekeyed p gs).gm.wf = true :=
  List.foldlRecOn (motive := fun t : State => t.gm.wf = true) gs _ hw fun _ ht _ _ => State.wf_rekey ht ..

theorem State.gmByte_rekeyed {key : XtsKey} {c : Nat} {gs : List Nat} (h : c / 64 ∈ gs → s.slotKey p.slot = key) :
    (s.rekeyed p gs).gmByte key c = s.gmByte key c := by
  induction gs generalizing s with
  | nil => rfl
  | cons g gs ih =>
    have hs : ∀ k, (s.rekey (s.slotKey p.slot) g).slotKey k = s.slotKey k := State.slotKey_of_sansGm (s.sansGm_rekey ..)
    exact (ih (State.wf_rekey hw ..) fun hc => (hs _).trans (h (List.mem_cons_of_mem _ hc))).trans
      (State.gmByte_rekey hw fun hc => h (hc ▸ List.mem_cons_self))
end

theorem State.gmKey_rekeyed (s : State) (p : Phys) {gs : List Nat} {g : Nat} (hg : g ∈ gs) :
    numGet (s.rekeyed p gs).gmKey g = some (s.slotKey p.slot) := by
  induction gs using List.reverseRecOn with
  | nil => cases hg
  | append_singleton gs h ih =>
    have hk : (s.rekeyed p gs).slotKey p.slot = s.slotKey p.slot := State.slotKey_of_sansGm (s.sansGm_rekeyed p gs) _
    have hlast : s.rekeyed p (gs ++ [h]) = (s.rekeyed p gs).rekey (s.slotKey p.slot) h := by
      rw [← hk, State.rekeyed, List.foldl_append]
      rfl
    rw [hlast]
    by_cases hgh : g = h
    · rw [hgh, State.gmKey_rekey]
    · rw [State.gmKey_rekey_ne _ _ hgh]
      exact ih (by simpa [hgh] using hg)

theorem State.gmKey_rekeyed_ne (s : State) (p : Phys) {gs : List Nat} {g : Nat} (hg : g ∉ gs) :
    numGet (s.rekeyed p gs).gmKey g = numGet s.gmKey g := by
  induction gs generalizing s with
  | nil => rfl
  | cons h gs ih =>
    exact (ih _ fun hc => hg (List.mem_cons_of_mem _ hc)).trans
      (State.gmKey_rekey_ne s _ fun hc => hg (hc ▸ List.mem_cons_self))

theorem State.gmByte_logDirty (s : State) (k n : Nat) (key : XtsKey) (c : Nat) : (s.logDirty k n).gmByte key c = s.gmByte key c := by
  refine State.gmByte_congr ?_ (fun a _ => ?_) (s.tweak_logDirty ..)
  · unfold State.logDirty
    split <;> rfl
  · unfold State.logDirty
    split <;> rfl

/-- A store rekeys its granules and stores its bytes; what else it keeps a reader does not see. -/
theorem State.gmByte_gmStore_eq (s : State) (p : Phys) (bs : List Byte) (key : XtsKey) (c : Nat) : (s.gmStore p bs).gmByte key c =
    State.gmByte { s.rekeyed p (granulesOf p.addr bs.length) with
      gm := (s.rekeyed p (granulesOf p.addr bs.length)).gm.store p.addr bs } key c :=
  State.gmByte_logDirty ..

section
variable {s : State} (hw : s.gm.wf = true) (p : Phys) (bs : List Byte)
include hw

theorem State.wf_gmStore : (s.gmStore p bs).gm.wf = true := by
  have h : (s.gmStore p bs).gm = (s.rekeyed p (granulesOf p.addr bs.length)).gm.store p.addr bs := by
    unfold State.gmStore State.logDirty
    dsimp only
    split <;> rfl
  rw [h]
  exact Memory.wf_store _ _ (State.wf_rekeyed hw ..)

/-- Outside the bytes stored, a reader under the key of the store, and in another granule any reader, gets what it got
before. -/
theorem State.gmByte_gmStore {key : XtsKey} {c : Nat} (hout : c < p.addr ∨ p.addr + bs.length ≤ c)
    (hkey : c / 64 ∈ granulesOf p.addr bs.length → s.slotKey p.slot = key) :
    (s.gmStore p bs).gmByte key c = s.gmByte key c := by
  rw [State.gmByte_gmStore_eq, ← State.gmByte_rekeyed hw p hkey]
  have hwr := State.wf_rekeyed hw p (granulesOf p.addr bs.length)
  by_cases hc : c / 64 ∈ granulesOf p.addr bs.length
  · have hk := s.gmKey_rekeyed p hc
    rw [hkey hc] at hk
    rw [State.gmByte_keyed (s := s.rekeyed p (granulesOf p.addr bs.length)) hk]
    refine Eq.trans (State.gmByte_keyed ?_) (Memory.read_store_outside bs _ hwr hout)
    exact hk
  · refine State.gmByte_congr rfl (fun a ha => ?_) rfl
    rw [mem_granulesOf] at hc
    exact Memory.read_store_outside bs _ hwr (by omega)

/-- A byte stored is what a reader under the key of the store gets. -/
theorem State.gmByte_gmStore_inside {j : Nat} (hj : j < bs.length) :
    (s.gmStore p bs).gmByte (s.slotKey p.slot) (p.addr + j) = bs.getD j 0 := by
  rw [State.gmByte_gmStore_eq]
  have hc : (p.addr + j) / 64 ∈ granulesOf p.addr bs.length := mem_granulesOf.2 (by omega)
  refine Eq.trans (State.gmByte_keyed ?_) (Memory.read_store_inside (State.wf_rekeyed hw ..) hj)
  exact s.gmKey_rekeyed p hc
end

theorem State.slotKey_gmStore (s : State) (p : Phys) (bs : List Byte) (k : Nat) : (s.gmStore p bs).slotKey k = s.slotKey k :=
  State.slotKey_of_sansGm (s.sansGm_gmStore p bs) k

/-! ### Several stores -/

/-- t is s after stores to the listed bytes of global memory, each under the key of its page, and nothing else. -/
def State.GmStored (s : State) (ws : List (Phys × Nat)) (t : State) : Prop :=
  t.sansGm = s.sansGm ∧ t.gm.wf = true ∧ s.GmOutside ws t

theorem State.GmStored.refl {s : State} (hw : s.gm.wf = true) (ws : List (Phys × Nat)) : s.GmStored ws s :=
  ⟨rfl, hw, fun _ _ _ _ => rfl⟩

theorem State.GmStored.trans {s t u : State} {ws vs : List (Phys × Nat)} (h : s.GmStored ws t) (h' : t.GmStored vs u) :
    s.GmStored (ws ++ vs) u := by
  refine ⟨h'.1.trans h.1, h'.2.1, fun key c hout hkey => ?_⟩
  rw [h'.2.2 key c (fun x hx => hout x (List.mem_append_right _ hx)) fun x hx hc =>
      (State.slotKey_of_sansGm h.1 _).trans (hkey x (List.mem_append_right _ hx) hc),
    h.2.2 key c (fun x hx => hout x (List.mem_append_left _ hx)) fun x hx => hkey x (List.mem_append_left _ hx)]

theorem State.gmStored_gmStore {s : State} (hw : s.gm.wf = true) (p : Phys) (bs : List Byte) :
    s.GmStored [(p, bs.length)] (s.gmStore p bs) :=
  ⟨s.sansGm_gmStore p bs, State.wf_gmStore hw p bs, fun _ _ hout hkey =>
    State.gmByte_gmStore hw p bs (hout _ List.mem_cons_self) (hkey _ List.mem_cons_self)⟩

/-- Stores that follow each other store what each stores. -/
theorem State.gmStored_foldl {α : Type} {f : State → α → State} {g : α → List (Phys × Nat)}
    (hf : ∀ (s : State) x, s.gm.wf = true → s.GmStored (g x) (f s x)) {s : State} (hw : s.gm.wf = true) (l : List α) :
    s.GmStored (l.flatMap g) (l.foldl f s) := by
  induction l generalizing s with
  | nil => exact .refl hw _
  | cons x l ih => exact (hf s x hw).trans (ih (hf s x hw).2.1)

theorem State.gmStored_orLeaf {s : State} (hw : s.gm.wf = true) (d : VDev) (e : TlbEntry) (bits : Byte) :
    s.GmStored [(⟨e.leafAddr, d.keyMap.headD 0, 0⟩, 1)] (s.orLeaf d e bits) := by
  unfold State.orLeaf
  dsimp only
  split
  · exact .refl hw _
  · exact State.gmStored_gmStore hw _ [_]

/-- An engine that has used translations has stored to their leaf entries alone. -/
theorem State.gmStored_engineUse {s : State} (hw : s.gm.wf = true) (d : VDev) (n : Need) (l : List (Nat × TlbEntry × Phys)) :
    s.GmStored (l.map fun e => (⟨e.2.1.leafAddr, d.keyMap.headD 0, 0⟩, 1)) (s.engineUse d n l) := by
  have h := State.gmStored_foldl (f := fun (s : State) (e : Nat × TlbEntry × Phys) => s.setAD d n e.2.1)
    (g := fun e => [(⟨e.2.1.leafAddr, d.keyMap.headD 0, 0⟩, 1)]) (fun s e hs => State.gmStored_orLeaf hs d e.2.1 _) hw l
  rwa [← List.map_eq_flatMap] at h

/-- A store to longer runs is one to their bytes. -/
theorem State.GmStored.bytewise {s t : State} {ws vs : List (Phys × Nat)} (h : s.GmStored ws t)
    (hlen : ∀ x ∈ ws, 0 < x.2)
    (hvs : ∀ x ∈ ws, ∀ k < x.2, ∃ y ∈ vs, y.1.addr = x.1.addr + k ∧ y.1.slot = x.1.slot ∧ 0 < y.2) : s.GmStored vs t := by
  refine ⟨h.1, h.2.1, fun key c hout hkey => h.2.2 key c (fun x hx => ?_) fun x hx hc => ?_⟩
  · by_contra hin
    obtain ⟨y, hy, ha, -, hpos⟩ := hvs x hx (c - x.1.addr) (by omega)
    have := hout y hy
    omega
  · rw [mem_granulesOf] at hc
    have := hlen x hx
    obtain ⟨y, hy, ha, hs, hpos⟩ := hvs x hx (64 * (c / 64) - x.1.addr) (by omega)
    rw [← hs]
    exact hkey y hy (mem_granulesOf.2 (by omega))

/-! ### Ranges of virtual addresses (R388) -/

theorem map_of_mapM_ok {ε α β : Type} {g : α → Except ε β} {π : β → α} (hg : ∀ a r, g a = .ok r → π r = a) :
    ∀ {as : List α} {l : List β}, as.mapM g = .ok l → l.map π = as
  | [], l, h => by
    cases h
    rfl
  | a :: as, l, h => by
    rw [List.mapM_cons] at h
    cases ha : g a with
    | error e => simp [ha, bind, Except.bind] at h
    | ok r =>
      cases hm : as.mapM g with
      | error e => simp [ha, hm, bind, Except.bind] at h
      | ok k =>
        simp only [ha, hm, bind, Except.bind, pure, Except.pure, Except.ok.injEq] at h
        rw [← h, List.map_cons, hg a r ha, map_of_mapM_ok hg hm]

/-- A range that translates has a translation for the first address of each of its page pieces. -/
theorem State.xlateRange_pages {s : State} {f : State → Nat → Except XFault (TlbEntry × Phys)} {va n : Nat}
    {l : List (Nat × TlbEntry × Phys)} (h : s.xlateRange f va n = .ok l) : l.map (·.1) = pagesOf va n := by
  refine map_of_mapM_ok (fun a r hr => ?_) h
  split at hr
  · injection hr with hr
    rw [← hr]
  · cases hr

theorem pagesOf_map_page {va n : Nat} (hn : 0 < n) :
    (pagesOf va n).map (· / 4096) = (List.range ((va + n - 1) / 4096 - va / 4096 + 1)).map (va / 4096 + ·) := by
  rw [pagesOf, if_neg (by omega), List.range_succ_eq_map, List.map_cons, List.map_cons, upTo, List.map_map, List.map_map]
  congr 1
  refine List.map_congr_left fun j _ => ?_
  simp only [Function.comp_apply]
  omega

theorem nodup_pages (va n : Nat) : ((pagesOf va n).map (· / 4096)).Nodup := by
  rcases Nat.eq_zero_or_pos n with rfl | hn
  · simp [pagesOf]
  · rw [pagesOf_map_page hn]
    exact List.nodup_range.map fun a b h => by simpa using h

theorem mem_pagesOf {va n a : Nat} (h : a ∈ pagesOf va n) : va ≤ a ∧ a < va + n ∧ (a = va ∨ a % 4096 = 0) := by
  unfold pagesOf at h
  split at h
  · cases h
  · rcases List.mem_cons.1 h with rfl | h
    · omega
    · obtain ⟨j, hj, rfl⟩ := List.mem_map.1 h
      have hj := List.mem_range.1 hj
      omega

/-- Every address of a range lies in one of its page pieces, not before the piece's first address. -/
theorem page_of_range {va n j : Nat} (hj : j < n) : ∃ a ∈ pagesOf va n, a / 4096 = (va + j) / 4096 := by
  have h : (va + j) / 4096 ∈ (pagesOf va n).map (· / 4096) := by
    rw [pagesOf_map_page (by omega)]
    exact List.mem_map.2 ⟨(va + j) / 4096 - va / 4096, List.mem_range.2 (by omega), by omega⟩
  exact List.mem_map.1 h

section
variable {l : List (Nat × TlbEntry × Phys)} {va : Nat} {bs : List Byte} {e : Nat × TlbEntry × Phys}
  (hl : l.map (·.1) = pagesOf va bs.length)

/-- The bytes of a range that lie in a page piece. -/
def rangePiece (va : Nat) (bs : List Byte) (e : Nat × TlbEntry × Phys) : List Byte :=
  (bs.drop (e.1 - va)).take (Nat.min (va + bs.length) ((e.1 / 4096 + 1) * 4096) - e.1)

theorem State.gmStoreRange_eq (s : State) (l : List (Nat × TlbEntry × Phys)) (va : Nat) (bs : List Byte) :
    s.gmStoreRange l va bs = l.foldl (fun s e => s.gmStore e.2.2 (rangePiece va bs e)) s := rfl

include hl

theorem mem_range_page (he : e ∈ l) : va ≤ e.1 ∧ e.1 < va + bs.length ∧ (e.1 = va ∨ e.1 % 4096 = 0) :=
  mem_pagesOf (hl ▸ List.mem_map_of_mem he)

theorem nodup_range_pages : (l.map fun e => e.1 / 4096).Nodup := by
  have h := nodup_pages va bs.length
  rwa [← hl, List.map_map] at h

theorem length_rangePiece (he : e ∈ l) :
    (rangePiece va bs e).length = Nat.min (va + bs.length) ((e.1 / 4096 + 1) * 4096) - e.1 := by
  have h := mem_range_page hl he
  have hmin : Nat.min (va + bs.length) ((e.1 / 4096 + 1) * 4096) ≤ va + bs.length := Nat.min_le_left ..
  simp only [rangePiece, List.length_take, List.length_drop]
  omega

theorem rangePiece_pos (he : e ∈ l) : 0 < (rangePiece va bs e).length := by
  have h := mem_range_page hl he
  rw [length_rangePiece hl he]
  have : e.1 < Nat.min (va + bs.length) ((e.1 / 4096 + 1) * 4096) := Nat.lt_min.2 (by omega)
  omega

/-- A byte of a piece is one of the range, in the piece's page. -/
theorem rangePiece_index {k : Nat} (he : e ∈ l) (hk : k < (rangePiece va bs e).length) :
    e.1 - va + k < bs.length ∧ (va + (e.1 - va + k)) / 4096 = e.1 / 4096 ∧
    (rangePiece va bs e).getD k 0 = bs.getD (e.1 - va + k) 0 := by
  have h := mem_range_page hl he
  have hk' := hk
  rw [length_rangePiece hl he] at hk'
  have h1 : Nat.min (va + bs.length) ((e.1 / 4096 + 1) * 4096) ≤ va + bs.length := Nat.min_le_left ..
  have h2 : Nat.min (va + bs.length) ((e.1 / 4096 + 1) * 4096) ≤ (e.1 / 4096 + 1) * 4096 := Nat.min_le_right ..
  generalize Nat.min (va + bs.length) ((e.1 / 4096 + 1) * 4096) = m at hk' h1 h2
  refine ⟨by omega, by omega, ?_⟩
  rw [List.getD_eq_getElem _ _ hk, List.getD_eq_getElem _ _ (by omega)]
  simp [rangePiece]

theorem physIn_page {a : Nat} (he : e ∈ l) (ha : a / 4096 = e.1 / 4096) :
    physIn l a = { e.2.2 with addr := e.2.2.addr + (a - e.1) } := by
  have hf : l.find? (fun e => decide (e.1 / 4096 = a / 4096)) = some e := by
    cases hf : l.find? (fun e => decide (e.1 / 4096 = a / 4096)) with
    | none => simpa [ha] using List.find?_eq_none.1 hf e he
    | some e' =>
      have hp : e'.1 / 4096 = a / 4096 := by simpa using List.find?_some hf
      exact congrArg some (List.inj_on_of_nodup_map (nodup_range_pages hl) (List.mem_of_find?_eq_some hf) he (hp.trans ha))
  rw [physIn, hf]

theorem physIn_piece {k : Nat} (he : e ∈ l) (hk : k < (rangePiece va bs e).length) :
    physIn l (va + (e.1 - va + k)) = { e.2.2 with addr := e.2.2.addr + k } := by
  have h := mem_range_page hl he
  rw [physIn_page hl he (rangePiece_index hl he hk).2.1, show va + (e.1 - va + k) - e.1 = k by omega]

/-- Every byte of the range is one of a piece. -/
theorem exists_rangePiece {j : Nat} (hj : j < bs.length) :
    ∃ e ∈ l, ∃ k < (rangePiece va bs e).length, j = e.1 - va + k := by
  obtain ⟨a, ha, hp⟩ := page_of_range (va := va) hj
  rw [← hl] at ha
  obtain ⟨e, he, rfl⟩ := List.mem_map.1 ha
  have h := mem_range_page hl he
  refine ⟨e, he, va + j - e.1, ?_, by omega⟩
  rw [length_rangePiece hl he]
  have : va + j < Nat.min (va + bs.length) ((e.1 / 4096 + 1) * 4096) := Nat.lt_min.2 (by omega)
  omega

/-- A range stored is its bytes stored, each where its page's translation puts it. -/
theorem State.gmStored_gmStoreRange {s : State} (hw : s.gm.wf = true) :
    s.GmStored ((physRange l va bs.length).map fun p => (p, 1)) (s.gmStoreRange l va bs) := by
  refine State.GmStored.bytewise (State.gmStored_foldl (fun t e ht => State.gmStored_gmStore ht e.2.2 (rangePiece va bs e)) hw l)
    (fun x hx => ?_) fun x hx k hk => ?_
  · obtain ⟨e, he, hx⟩ := List.mem_flatMap.1 hx
    rw [List.mem_singleton.1 hx]
    exact rangePiece_pos hl he
  · obtain ⟨e, he, hx⟩ := List.mem_flatMap.1 hx
    rw [List.mem_singleton.1 hx] at hk ⊢
    refine ⟨_, List.mem_map_of_mem (List.mem_map_of_mem (List.mem_range.2 (rangePiece_index hl he hk).1)), ?_⟩
    rw [physIn_piece hl he hk]
    exact ⟨rfl, rfl, Nat.one_pos⟩
end

theorem State.gmBytes_one (s : State) (p : Phys) : (s.gmBytes p 1).headD 0 = s.gmByte (s.slotKey p.slot) p.addr := rfl

theorem physRange_inj {l : List (Nat × TlbEntry × Phys)} {va n i j : Nat} (h : ((physRange l va n).map (·.addr)).Nodup)
    (hi : i < n) (hj : j < n) (he : (physIn l (va + i)).addr = (physIn l (va + j)).addr) : i = j := by
  rw [physRange, List.map_map] at h
  exact List.inj_on_of_nodup_map h (List.mem_range.2 hi) (List.mem_range.2 hj) he

/-- Where the bytes of a range have addresses of their own, and those of a granule one key, each stands after the range is
stored: no later piece touches it. -/
theorem State.gmBytes_gmStoreRange {s : State} {l : List (Nat × TlbEntry × Phys)} {va j : Nat} {bs : List Byte}
    (hw : s.gm.wf = true) (hl : l.map (·.1) = pagesOf va bs.length)
    (hnodup : ((physRange l va bs.length).map (·.addr)).Nodup)
    (hslots : ∀ x ∈ physRange l va bs.length, ∀ y ∈ physRange l va bs.length, x.addr / 64 = y.addr / 64 → x.slot = y.slot)
    (hj : j < bs.length) : ((s.gmStoreRange l va bs).gmBytes (physIn l (va + j)) 1).headD 0 = bs.getD j 0 := by
  obtain ⟨e, he, k, hk, rfl⟩ := exists_rangePiece hl hj
  have hmem : ∀ i < bs.length, physIn l (va + i) ∈ physRange l va bs.length := fun i hi =>
    List.mem_map_of_mem (List.mem_range.2 hi)
  have hphys := physIn_piece hl he hk
  obtain ⟨l₁, l₂, hsplit⟩ := List.append_of_mem he
  have hgm := fun (t : State) (e : Nat × TlbEntry × Phys) (ht : t.gm.wf = true) =>
    State.gmStored_gmStore ht e.2.2 (rangePiece va bs e)
  have h₁ := State.gmStored_foldl hgm hw l₁
  have h₂ := State.gmStored_gmStore h₁.2.1 e.2.2 (rangePiece va bs e)
  have h₃ := State.gmStored_foldl hgm h₂.2.1 l₂
  have hin := State.gmByte_gmStore_inside h₁.2.1 e.2.2 (rangePiece va bs e) hk
  have heq : s.gmStoreRange l va bs = l₂.foldl (fun s e => s.gmStore e.2.2 (rangePiece va bs e))
      ((l₁.foldl (fun s e => s.gmStore e.2.2 (rangePiece va bs e)) s).gmStore e.2.2 (rangePiece va bs e)) := by
    rw [State.gmStoreRange_eq]
    conv_lhs => rw [hsplit]
    rw [List.foldl_append]
    rfl
  rw [State.gmBytes_one, heq, hphys, State.slotKey_of_sansGm (h₃.1.trans (h₂.1.trans h₁.1))]
  rw [State.slotKey_of_sansGm h₁.1, (rangePiece_index hl he hk).2.2] at hin
  refine Eq.trans (h₃.2.2 _ _ (fun x hx => ?_) fun x hx hc => ?_) hin
  · obtain ⟨e', he', hx⟩ := List.mem_flatMap.1 hx
    rw [List.mem_singleton.1 hx]
    have hel : e' ∈ l := hsplit ▸ List.mem_append_right _ (List.mem_cons_of_mem _ he')
    by_contra hcon
    dsimp only at hcon
    have hk' : e.2.2.addr + k - e'.2.2.addr < (rangePiece va bs e').length := by omega
    have hsame := physRange_inj hnodup (rangePiece_index hl he hk).1 (rangePiece_index hl hel hk').1 (by
      rw [hphys, physIn_piece hl hel hk']
      dsimp only
      omega)
    have hpage : e'.1 / 4096 = e.1 / 4096 := by
      rw [← (rangePiece_index hl he hk).2.1, ← (rangePiece_index hl hel hk').2.1, hsame]
    have hnot := nodup_range_pages hl
    rw [hsplit, List.map_append, List.map_cons, List.nodup_append] at hnot
    exact (List.nodup_cons.1 hnot.2.1).1 (hpage ▸ List.mem_map_of_mem he')
  · obtain ⟨e', he', hx⟩ := List.mem_flatMap.1 hx
    rw [List.mem_singleton.1 hx] at hc ⊢
    have hel : e' ∈ l := hsplit ▸ List.mem_append_right _ (List.mem_cons_of_mem _ he')
    rw [mem_granulesOf] at hc
    dsimp only at hc
    have hk' : 64 * ((e.2.2.addr + k) / 64) - e'.2.2.addr < (rangePiece va bs e').length := by
      have := rangePiece_pos hl hel
      omega
    have hslot := hslots _ (hmem _ (rangePiece_index hl hel hk').1) _ (hmem _ (rangePiece_index hl he hk).1) (by
      rw [hphys, physIn_piece hl hel hk']
      dsimp only
      omega)
    rw [hphys, physIn_piece hl hel hk'] at hslot
    dsimp only at hslot ⊢
    rw [hslot, State.slotKey_of_sansGm (h₂.1.trans h₁.1)]

end Sys2Proof.Machine
end

section
/-! SUPPORT. HOST_MESSAGES. A message on its connection, what it performs, and its answer. -/

namespace Sys2Proof.Machine

/-! ### What a read of the host gives (R453, R484) -/

/-- The bits of a map built by setting one bit after another. -/
theorem testBit_foldl_set (p : Nat → Bool) : ∀ N : Nat,
    (List.range N).foldl (fun v g => if p g then v + 2 ^ g else v) 0 < 2 ^ N ∧
    ∀ g < N, ((List.range N).foldl (fun v g => if p g then v + 2 ^ g else v) 0).testBit g = p g
  | 0 => ⟨Nat.one_pos, fun g hg => absurd hg (Nat.not_lt_zero g)⟩
  | N + 1 => by
    obtain ⟨hlt, hbits⟩ := testBit_foldl_set p N
    rw [List.range_succ, List.foldl_append]
    generalize (List.range N).foldl (fun v g => if p g then v + 2 ^ g else v) 0 = v at hlt hbits
    have hpow : 2 ^ (N + 1) = 2 ^ N + 2 ^ N := by rw [Nat.pow_succ]; omega
    simp only [List.foldl_cons, List.foldl_nil]
    refine ⟨by split <;> omega, fun g hg => ?_⟩
    by_cases hN : g = N
    · subst hN
      by_cases hp : p g = true
      · rw [if_pos hp, Nat.add_comm, Nat.testBit_two_pow_add_eq, Nat.testBit_lt_two_pow hlt, hp]
        rfl
      · rw [if_neg hp, Nat.testBit_lt_two_pow hlt]
        simpa using hp
    · have hgN : g < N := by omega
      split
      · rw [Nat.add_comm, Nat.testBit_two_pow_add_gt hgN, hbits g hgN]
      · exact hbits g hgN

theorem length_hostData (s : State) (l : List (Nat × TlbEntry × Phys)) (va n : Nat) : (s.hostData l va n).1.length = n := by
  simp [State.hostData, physRange, upTo]

theorem getD_hostData (s : State) (l : List (Nat × TlbEntry × Phys)) {va n j : Nat} (hj : j < n) :
    (s.hostData l va n).1.getD j 0 = if setHas s.gmPois ((physIn l (va + j)).addr / 64) then 0
      else (s.gmBytes (physIn l (va + j)) 1).headD 0 := by
  rw [List.getD_eq_getElem _ _ (by rw [length_hostData]; exact hj)]
  simp only [State.hostData, physRange, upTo, List.map_map, List.getElem_map, List.getElem_range, Function.comp_apply]
  rfl

theorem leNat_leBytes_of_lt {N v : Nat} (h : v < 2 ^ N) : leNat (leBytes ((N + 7) / 8) v) = v := by
  rw [leNat_leBytes]
  refine Nat.mod_eq_of_lt (h.trans_le ?_)
  rw [show 256 = 2 ^ 8 from rfl, ← Nat.pow_mul]
  exact Nat.pow_le_pow_right (by omega) (by omega)

theorem any_zip_map {α β : Type} (f : α → β) (p : β × α → Bool) (l : List α) :
    ((l.map f).zip l).any p = l.any fun x => p (f x, x) := by
  induction l with
  | nil => rfl
  | cons x l ih => rw [List.map_cons, List.zip_cons_cons, List.any_cons, List.any_cons, ih]

/-- A bit of the map is set where the range touches a poisoned granule. -/
theorem testBit_hostData (s : State) (l : List (Nat × TlbEntry × Phys)) {va n g : Nat} (hg : g < (va + n + 63) / 64 - va / 64) :
    (leNat (s.hostData l va n).2).testBit g = true ↔
      ∃ j < n, (va + j) / 64 = va / 64 + g ∧ setHas s.gmPois ((physIn l (va + j)).addr / 64) = true := by
  obtain ⟨hlt, hbits⟩ := testBit_foldl_set (fun g => ((physRange l va n).zip (List.range n)).any fun pj =>
    (va + pj.2) / 64 == va / 64 + g && setHas s.gmPois (pj.1.addr / 64)) ((va + n + 63) / 64 - va / 64)
  rw [State.hostData, upTo, upTo, List.length_range]
  rw [leNat_leBytes_of_lt hlt, hbits g hg, physRange, upTo, any_zip_map]
  simp

/-! ### A message on its connection (R451, R454) -/

/-- The connections after a change of the one that a message comes on, which its first message opens. -/
def State.connsOn (s : State) (m : HostMsg) (f : Conn → Conn) : List Conn :=
  if s.conn? m.conn = none then s.conns ++ [f ⟨m.conn, m.vdid, 0, 0, [], 0, [], [], 0⟩]
  else s.conns.map fun y => if y.id = m.conn then f y else y

/-- The connection with a message counted as performed. -/
def countMsg (m : HostMsg) (y : Conn) : Conn := if y.vdid = m.vdid then { y with rxSeq := y.rxSeq + 1 } else y

/-- The state in which a message that is due is performed: counted on its connection. -/
def State.upon (s : State) (m : HostMsg) : State := { s with conns := s.connsOn m (countMsg m) }

/-- The connection that a message comes on is open, or may be opened by it. -/
def State.Reached (s : State) (m : HostMsg) : Prop := s.conn? m.conn = none → s.mayOpen m.conn m.vdid = true

/-- The connection that a message comes on, as it stands or as the message opens it. -/
def State.connOf (s : State) (m : HostMsg) : Conn := (s.conn? m.conn).getD ⟨m.conn, m.vdid, 0, 0, [], 0, [], [], 0⟩

theorem countMsg_id (m : HostMsg) (y : Conn) : (countMsg m y).id = y.id := by
  unfold countMsg
  split <;> rfl

theorem State.ids_of_conn?_none {s : State} {c : Nat} (h : s.conn? c = none) : ∀ y ∈ s.conns, y.id ≠ c := by
  simpa [State.conn?] using h

theorem State.conn?_mapConn (s : State) (c : Nat) {f : Conn → Conn} (hf : ∀ y, (f y).id = y.id) :
    (s.mapConn c f).conn? c = (s.conn? c).map f := by
  unfold State.conn? State.mapConn
  rw [List.find?_map]
  have hp : ((fun x : Conn => x.id == c) ∘ fun x => if x.id = c then f x else x) = fun x => x.id == c := by
    funext x
    simp only [Function.comp_apply]
    split
    · rw [hf]
    · rfl
  rw [hp]
  cases h : s.conns.find? (fun x => x.id == c) with
  | none => rfl
  | some x => simp [show x.id = c by simpa using List.find?_some h]

section
variable {s : State} {m : HostMsg} (hr : s.Reached m)
include hr

theorem State.openConn_mapConn (f : Conn → Conn) :
    (s.openConn m.conn m.vdid).mapConn m.conn f = { s with conns := s.connsOn m f } := by
  unfold State.openConn State.connsOn
  cases hc : s.conn? m.conn with
  | none =>
    have hmap : s.conns.map (fun y => if y.id = m.conn then f y else y) = s.conns :=
      (List.map_congr_left fun y hy => if_neg (State.ids_of_conn?_none hc y hy)).trans (List.map_id _)
    simp [hr hc, State.mapConn, hmap]
  | some x => simp [State.mapConn]

theorem State.conn?_openConn : (s.openConn m.conn m.vdid).conn? m.conn = some (s.connOf m) := by
  unfold State.openConn State.connOf
  cases hc : s.conn? m.conn with
  | none =>
    have hf : s.conns.find? (fun x => x.id == m.conn) = none := hc
    simp [hr hc, State.conn?, List.find?_append, hf]
  | some x => simpa using hc

theorem State.conn?_connsOn {f : Conn → Conn} (hf : ∀ y, (f y).id = y.id) {t : State} (ht : t.conns = s.connsOn m f) :
    t.conn? m.conn = some (f (s.connOf m)) := by
  have h : t.conns = ((s.openConn m.conn m.vdid).mapConn m.conn f).conns :=
    ht.trans (congrArg State.conns (State.openConn_mapConn hr f)).symm
  have hc : t.conn? m.conn = ((s.openConn m.conn m.vdid).mapConn m.conn f).conn? m.conn := by
    rw [State.conn?, State.conn?, h]
  rw [hc, State.conn?_mapConn _ _ hf, State.conn?_openConn hr]
  rfl

theorem State.conns_mapConn_connsOn {f : Conn → Conn} (hf : ∀ y, (f y).id = y.id) (g : Conn → Conn) {t : State}
    (ht : t.conns = s.connsOn m f) : (t.mapConn m.conn g).conns = s.connsOn m fun y => g (f y) := by
  have h := fun f => congrArg State.conns (State.openConn_mapConn hr f)
  refine Eq.trans ?_ (h fun y => g (f y))
  rw [State.mapConn, ht, ← show _ = s.connsOn m f from h f]
  simp only [State.mapConn, List.map_map]
  refine List.map_congr_left fun y _ => ?_
  simp only [Function.comp_apply]
  by_cases hy : y.id = m.conn
  · rw [if_pos hy, if_pos hy, if_pos ((hf y).trans hy)]
  · rw [if_neg hy, if_neg hy, if_neg hy]

theorem State.counted_eq : s.counted m.conn m.vdid = s.upon m :=
  State.openConn_mapConn hr (countMsg m)
end

/-- A message that waits on its connection. -/
def holdMsg (cls : Nat) (m : HostMsg) (y : Conn) : Conn := { y with held := y.held ++ [(cls, m)] }

section
variable {s : State} {m : HostMsg} {d : VDev} (hpow : s.power = .ready) (hd : s.vdev? m.vdid = some d)
  (hfw : d.forwarding = false)
include hpow hd hfw

theorem State.receive_here (cls : Nat) : s.receive cls m =
    match (s.openConn m.conn m.vdid).conn? m.conn with
    | none => s.openConn m.conn m.vdid
    | some x =>
      if x.vdid ≠ m.vdid ∨ m.seq ≠ x.rxSeq + x.held.length + 1 then s.openConn m.conn m.vdid
      else if x.held.isEmpty then (((s.openConn m.conn m.vdid).counted m.conn m.vdid).perform cls m).getD
          ((s.openConn m.conn m.vdid).mapConn m.conn (holdMsg cls m))
        else (s.openConn m.conn m.vdid).mapConn m.conn (holdMsg cls m) := by
  unfold State.receive
  rw [if_neg (by simp [hpow, hd, hfw])]
  rfl

/-- A message on a connection that is not open, and may not be, is not received. -/
theorem State.receive_unreached (hc : s.conn? m.conn = none) (hm : s.mayOpen m.conn m.vdid = false) (cls : Nat) :
    s.receive cls m = s := by
  have ho : s.openConn m.conn m.vdid = s := by simp [State.openConn, hc, hm]
  rw [State.receive_here hpow hd hfw, ho, hc]

/-- A message of another device, or out of its order, is not received. -/
theorem State.receive_disordered {x : Conn} (hc : s.conn? m.conn = some x)
    (hx : x.vdid ≠ m.vdid ∨ m.seq ≠ x.rxSeq + x.held.length + 1) (cls : Nat) : s.receive cls m = s := by
  have ho : s.openConn m.conn m.vdid = s := by simp [State.openConn, hc]
  rw [State.receive_here hpow hd hfw, ho, hc]
  exact if_pos hx

/-- A message behind one that waits, waits. -/
theorem State.receive_behind {x : Conn} (hc : s.conn? m.conn = some x) (hv : x.vdid = m.vdid)
    (hs : m.seq = x.rxSeq + x.held.length + 1) (hh : x.held ≠ []) (cls : Nat) :
    s.receive cls m = { s with conns := s.connsOn m (holdMsg cls m) } := by
  have ho := State.openConn_mapConn (s := s) (m := m) (fun h => by rw [hc] at h; cases h) (holdMsg cls m)
  have hconn := State.conn?_openConn (s := s) (m := m) (fun h => by rw [hc] at h; cases h)
  rw [State.connOf, hc] at hconn
  rw [State.receive_here hpow hd hfw, hconn, ho]
  dsimp only [Option.getD_some]
  rw [if_neg (by simp [hv, hs]), if_neg (by simpa using hh)]

/-- A message that is due is performed, or waits. -/
theorem State.receive_due (hr : s.Reached m) (hv : (s.connOf m).vdid = m.vdid) (hs : m.seq = (s.connOf m).rxSeq + 1)
    (hh : (s.connOf m).held = []) (cls : Nat) : s.receive cls m =
    ((s.upon m).perform cls m).getD { s with conns := s.connsOn m (holdMsg cls m) } := by
  have ho : (s.openConn m.conn m.vdid).counted m.conn m.vdid = s.counted m.conn m.vdid := by
    unfold State.counted
    congr 1
    exact if_pos (by simp [State.conn?_openConn hr])
  rw [State.receive_here hpow hd hfw, State.conn?_openConn hr, State.openConn_mapConn hr, ho, State.counted_eq hr]
  dsimp only
  rw [if_neg (by simp [hv, hs, hh]), if_pos (by simp [hh])]
end

/-! ### Answers (R451, R453) -/

/-- The reply to a message, with the number that its connection gives it. -/
def State.replyTo (s : State) (m : HostMsg) (cls : Nat) (bs : List Byte) : OutMsg :=
  ⟨((s.conn? m.conn).map (·.txSeq)).getD 0 + 1, cls, m.endpoint, none, bs⟩

/-- The connection of a message that is counted and answered. -/
def State.answerMsg (s : State) (m : HostMsg) (cls : Nat) (bs : List Byte) (y : Conn) : Conn :=
  { countMsg m y with
    txSeq := y.txSeq + 1, unacked := y.unacked ++ [s.replyTo m cls bs], acked := (countMsg m y).ack }

section
variable {s : State} {m : HostMsg} (hr : s.Reached m) (hv : (s.connOf m).vdid = m.vdid)
  (hs : m.seq = (s.connOf m).rxSeq + 1) (hh : (s.connOf m).held = [])
include hr hv hs hh

/-- A reply on the connection of a message that has been counted acknowledges that message. -/
theorem State.sendOn_counted {u : State} (hu : u.conns = s.connsOn m (countMsg m)) (cls : Nat) (bs : List Byte) :
    u.sendOn m.conn cls m.endpoint bs = { u with
      conns := s.connsOn m (s.answerMsg m cls bs)
      sent := u.sent ++ ((s.replyTo m cls bs).frames m.vdid m.seq).map fun f => (m.conn, f) } := by
  have hconn := State.conn?_connsOn hr (countMsg_id m) hu
  have hid : (s.connOf m).id = m.conn := by
    unfold State.connOf
    cases hc : s.conn? m.conn with
    | none => rfl
    | some x => simpa using List.find?_some hc
  have htx : (countMsg m (s.connOf m)).txSeq = ((s.conn? m.conn).map (·.txSeq)).getD 0 := by
    unfold countMsg State.connOf
    cases s.conn? m.conn <;> dsimp <;> split <;> rfl
  have hvd : (countMsg m (s.connOf m)).vdid = m.vdid := by
    rw [countMsg, if_pos hv]
    exact hv
  have hack : (countMsg m (s.connOf m)).ack = m.seq := by
    rw [countMsg, if_pos hv, hs]
    simp [Conn.ack, hh]
  rw [State.sendOn, hconn]
  dsimp only
  rw [State.sendTo, countMsg_id, hid, htx, hvd, hack]
  have hc := State.conns_mapConn_connsOn hr (countMsg_id m) (fun y => { y with
    txSeq := y.txSeq + 1, unacked := y.unacked ++ [s.replyTo m cls bs], acked := y.ack }) hu
  have heq : (fun y => { countMsg m y with
      txSeq := (countMsg m y).txSeq + 1, unacked := (countMsg m y).unacked ++ [s.replyTo m cls bs]
      acked := (countMsg m y).ack }) = s.answerMsg m cls bs := by
    funext y
    unfold State.answerMsg countMsg
    split <;> rfl
  rw [← heq, ← hc]
  rfl
end

/-! ### Slots and tokens from a host (R24, R28, R454, R483) -/

/-- A slot put into a ring in tile memory. -/
theorem State.chanPut_tile {s : State} {n : Network} {i k b : Nat} {c : Chan} {bs : List Byte} (hw : s.tm.wf = true)
    (hn : s.net? n.netid = some n) (hc : n.chans[i]? = some c) (he : n.consumerEnded c = false) (hring : c.ring = .tile k b)
    (hlen : bs.length ≤ c.slotBytes) :
    let t := s.chanPut n.netid i bs
    t.chan? n.netid i = some { c with wr := c.wr + 1 } ∧
    t.tm.bytes (tmKey k (b + c.slotOff c.wr)) c.slotBytes = padTo c.slotBytes bs ∧
    (∀ a, a < tmKey k (b + c.slotOff c.wr) ∨ tmKey k (b + c.slotOff c.wr) + c.slotBytes ≤ a → t.tm.read a = s.tm.read a) ∧
    t = { s with tm := t.tm, tmPois := t.tmPois, nets := t.nets, procs := t.procs, tiles := t.tiles } := by
  have hpad := length_padTo hlen
  have hslot : s.slotWrite n i c c.wr (padTo c.slotBytes bs) =
      s.tmStoreKey (tmKey k (b + c.slotOff c.wr)) (padTo c.slotBytes bs) := by
    rw [State.slotWrite, hring]
  have hput := State.chanPut_writes hn hc he bs
  rw [hslot] at hput
  have hfr := State.noted_frame ((s.tmStoreKey (tmKey k (b + c.slotOff c.wr)) (padTo c.slotBytes bs)).mapChan n.netid i
    fun c => { c with wr := c.wr + 1 }) n.netid
  rw [← hput] at hfr
  have hch := congrArg (fun t : State => t.chan? n.netid i) hput
  have htm : (s.chanPut n.netid i bs).tm = s.tm.store (tmKey k (b + c.slotOff c.wr)) (padTo c.slotBytes bs) := by
    rw [hfr]
    rfl
  have htp : (s.chanPut n.netid i bs).tmPois =
      (s.tmStoreKey (tmKey k (b + c.slotOff c.wr)) (padTo c.slotBytes bs)).tmPois := by
    rw [hfr]
    rfl
  intro t
  refine ⟨?_, ?_, fun a ha => ?_, ?_⟩
  · refine hch.trans ((State.chan?_noted ..).trans (State.chan?_mapChan_same ?_))
    exact State.chan?_of hn hc
  · change (s.chanPut n.netid i bs).tm.bytes _ _ = _
    rw [htm]
    conv_lhs => rw [← hpad]
    have hb := Memory.bytes_store (padTo c.slotBytes bs) (tmKey k (b + c.slotOff c.wr)) hw
    rwa [hpad] at hb ⊢
  · change (s.chanPut n.netid i bs).tm.read _ = _
    rw [htm]
    exact Memory.read_store_outside _ _ hw (by rwa [hpad])
  · change s.chanPut n.netid i bs = _
    rw [show t.tm = _ from htm, show t.tmPois = _ from htp]
    exact hfr

/-! ### What is performed (R454, R388, R484) -/

section
variable {u : State} {m : HostMsg}

theorem State.hostSlot_unbound (h : u.hostChan m.vdid m.endpoint = none) : u.hostSlot m = some (u.discard m 3) := by
  rw [State.hostSlot, h]

section
variable {n : Network} {i : Nat} {c : Chan} (h : u.hostChan m.vdid m.endpoint = some (n, i, c))
include h

theorem State.hostSlot_closed (hc : c.closed = true) : u.hostSlot m = some (u.discard m 1) := by
  rw [State.hostSlot, h]
  exact if_pos hc

theorem State.hostSlot_long (hc : c.closed = false) (hl : c.slotBytes < m.payload.length) :
    u.hostSlot m = some (u.discard m 2) := by
  rw [State.hostSlot, h]
  dsimp only
  rw [if_neg (by simp [hc]), if_pos hl]

theorem State.hostSlot_fits (hc : c.closed = false) (hl : m.payload.length ≤ c.slotBytes) :
    u.hostSlot m = if n.writeWaits c then none else some (u.chanPut n.netid i m.payload) := by
  rw [State.hostSlot, h]
  dsimp only
  rw [if_neg (by simp [hc]), if_neg (by omega)]

theorem State.hostClose_bound : u.hostClose m =
    if c.closed then some u else if n.writeWaits c then none else some (u.chanClose n.netid i) := by
  rw [State.hostClose, h]
end

theorem State.hostClose_unbound (h : u.hostChan m.vdid m.endpoint = none) : u.hostClose m = some u := by
  rw [State.hostClose, h]

section
variable {d : VDev} (hd : u.vdev? m.vdid = some d)
include hd

theorem State.hostWrite_refused {e : XFault × Nat}
    (h : u.engineRange d .w (field m.payload 0 8) (m.payload.drop 8).length = .error e) :
    u.hostWrite m = u.sendOn m.conn 7 m.endpoint (refusal e) := by
  unfold State.hostWrite
  dsimp only
  rw [hd]
  dsimp only
  rw [h]

theorem State.hostWrite_granted {l : List (Nat × TlbEntry × Phys)}
    (h : u.engineRange d .w (field m.payload 0 8) (m.payload.drop 8).length = .ok l) :
    u.hostWrite m = ((u.engineUse d .w l).gmStoreRange l (field m.payload 0 8) (m.payload.drop 8)).sendOn m.conn 7 m.endpoint
      (leBytes 8 0) := by
  unfold State.hostWrite
  dsimp only
  rw [hd]
  dsimp only
  rw [h]

theorem State.hostRead_refused {e : XFault × Nat} (hn : field m.payload 8 8 ≤ 8192)
    (h : u.engineRange d .r (field m.payload 0 8) (field m.payload 8 8) = .error e) :
    u.hostRead m = u.sendOn m.conn 6 m.endpoint (refusal e) := by
  unfold State.hostRead
  dsimp only
  rw [if_neg (by omega), hd]
  dsimp only
  rw [h]

theorem State.hostRead_granted {l : List (Nat × TlbEntry × Phys)} (hn : field m.payload 8 8 ≤ 8192)
    (h : u.engineRange d .r (field m.payload 0 8) (field m.payload 8 8) = .ok l) :
    u.hostRead m = (u.engineUse d .r l).sendOn m.conn 6 m.endpoint
      (leBytes 8 0 ++ (u.hostData l (field m.payload 0 8) (field m.payload 8 8)).1 ++
        (u.hostData l (field m.payload 0 8) (field m.payload 8 8)).2) := by
  unfold State.hostRead
  dsimp only
  rw [if_neg (by omega), hd]
  dsimp only
  rw [h]
end

theorem State.perform_held (h : u.holdsPeers m.vdid = true) (cls : Nat) : u.perform cls m = none := if_pos h

theorem State.perform_now (h : u.holdsPeers m.vdid = false) : u.perform 2 m = u.hostSlot m ∧ u.perform 3 m = u.hostClose m ∧
    u.perform 4 m = some (u.hostWrite m) ∧ u.perform 5 m = some (u.hostRead m) := by
  simp [State.perform, h]

theorem State.holdsPeers_iff : u.holdsPeers m.vdid = true ↔ ∃ g ∈ u.migrations, g.vdid = m.vdid ∧ g.phase = .final := by
  simp [State.holdsPeers]
end

/-! ### The obligation -/

/-- A state that differs from one with other connections in global memory alone, once it has answered. -/
theorem State.answered_frame {s v : State} {l : List Conn} (h : v.sansGm = State.sansGm { s with conns := l }) (a : List Conn)
    (b : List (Nat × List Byte)) : ({ v with conns := a, sent := b } : State) = { s with
      conns := a, sent := b, gm := v.gm, gmKey := v.gmKey, gmStamp := v.gmStamp, gmPois := v.gmPois, vdevs := v.vdevs } := by
  have hv := State.eq_of_sansGm h
  generalize v.gm = g, v.gmKey = k, v.gmStamp = st, v.gmPois = p, v.vdevs = ds at hv ⊢
  rw [hv]

/-- Settles O54: a message that is due is performed in the state with its connection counted, which differs from the
first in its connections alone. -/
theorem hostMessages : Obligations.HostMessages := by
  unfold Obligations.HostMessages
  intro s m x n i ch d f bad l hok hpow hd hfw stepOf conn conns counts number held reply sends answered due leaves refuse va
    bs cnt result discards moving
  have hdue : due → s.Reached m ∧ (s.connOf m).vdid = m.vdid ∧ m.seq = (s.connOf m).rxSeq + 1 ∧ (s.connOf m).held = [] := by
    rintro (⟨hc, ho, hs⟩ | ⟨hc, hv, hs, hh⟩)
    · have hc : s.conn? m.conn = none := hc
      exact ⟨fun _ => ho, by rw [State.connOf, hc]; rfl, by rw [State.connOf, hc]; exact hs, by rw [State.connOf, hc]; rfl⟩
    · have hc : s.conn? m.conn = some x := hc
      have hx : s.connOf m = x := by rw [State.connOf, hc]; rfl
      exact ⟨fun h => by (rw [hc] at h; cases h), by rw [hx, hv], by rw [hx, hs], by rw [hx, hh]⟩
  have hmoving : moving ↔ s.holdsPeers m.vdid = true := State.holdsPeers_iff.symm
  have hrecv := fun (h : due) cls => State.receive_due hpow hd hfw (hdue h).1 (hdue h).2.1 (hdue h).2.2.1 (hdue h).2.2.2 cls
  refine ⟨fun cls hcls h1 h2 => ?_, fun hdu hmov => ?_⟩
  · have hstep : stepOf cls = .next (s.receive cls m) := by
      simp only [List.mem_cons, List.not_mem_nil, or_false] at hcls
      rcases hcls with rfl | rfl | rfl | rfl | rfl
      · obtain ⟨hep, hstage⟩ := h1 rfl
        have hm : launchMsg ⟨m.conn, m.vdid, m.seq⟩ m.payload = m := by rw [launchMsg, ← hep]
        change Host.Outcome.next (if lmStage m.payload then s.receive 1 (launchMsg ⟨m.conn, m.vdid, m.seq⟩ m.payload) else s) = _
        rw [if_pos (show lmStage m.payload = true from hstage), hm]
      · change Host.Outcome.next (s.receive (if m.payload.isEmpty then 3 else 2) m) = _
        rw [if_neg (by simpa using h2 rfl)]
      · rfl
      · rfl
      · rfl
    rw [hstep]
    refine ⟨fun hc hno => ?_, fun hc hx => ?_, fun hc hv hs hh => ?_, fun hdu hmov => ?_⟩
    · rw [State.receive_unreached hpow hd hfw hc hno]
    · rw [State.receive_disordered hpow hd hfw hc hx]
    · exact congrArg Host.Outcome.next (State.receive_behind hpow hd hfw hc hv hs hh cls)
    · refine congrArg Host.Outcome.next ((hrecv hdu cls).trans ?_)
      rw [State.perform_held (by exact hmoving.1 hmov)]
      rfl
  · obtain ⟨hr, hv, hs, hh⟩ := hdue hdu
    have hnow : s.holdsPeers m.vdid = false := by simpa [hmoving] using hmov
    obtain ⟨hslot, hclose, hwrite, hread⟩ := State.perform_now (u := s.upon m) hnow
    have hrs := hrecv hdu
    refine ⟨fun hne => ?_, fun hno => ?_, fun hb => ?_, fun he => ?_, fun he => ?_, fun hn he => ?_, fun hn he => ?_⟩
    · have hx : exec (.hostChannelSlot m) s = .next (s.receive 2 m) := by
        change Host.Outcome.next (s.receive (if m.payload.isEmpty then 3 else 2) m) = _
        rw [if_neg (by simpa using hne)]
      rw [hrs, hslot] at hx
      refine ⟨fun hno => ?_, fun hb => ⟨fun hc => ?_, fun hc hl => ?_, fun hc hl => ⟨fun hw => ?_, ?_⟩⟩⟩
      · rw [State.hostSlot_unbound (u := s.upon m) hno] at hx
        exact hx
      · rw [State.hostSlot_closed (u := s.upon m) hb hc] at hx
        exact hx
      · rw [State.hostSlot_long (u := s.upon m) hb hc hl] at hx
        exact hx
      · rw [State.hostSlot_fits (u := s.upon m) hb hc hl, if_pos hw] at hx
        exact hx
      · intro k b hw he hnet hch hring
        rw [State.hostSlot_fits (u := s.upon m) hb hc hl, if_neg (by simp [hw])] at hx
        obtain ⟨h1, h2, h3, h4⟩ := State.chanPut_tile (s := s.upon m) (bs := m.payload)
          hok.1 hnet hch he hring hl
        refine ⟨_, hx, ?_⟩
        generalize State.chanPut _ n.netid i m.payload = t at h1 h2 h3 h4 ⊢
        have hconns : t.conns = s.connsOn m (countMsg m) := by rw [h4]; rfl
        have hfr : t = { s with
            conns := t.conns, tm := t.tm, tmPois := t.tmPois, nets := t.nets, procs := t.procs, tiles := t.tiles } := by
          rw [hconns]
          exact h4
        exact ⟨hconns, h1, h2, h3, fun c => by rw [h4]; rfl, hfr⟩
    · have hx : exec (.hostChannelClose m) s = .next (s.receive 3 m) := rfl
      rw [hrs, hclose, State.hostClose_unbound (u := s.upon m) hno] at hx
      exact hx
    · have hx : exec (.hostChannelClose m) s = .next (s.receive 3 m) := rfl
      rw [hrs, hclose, State.hostClose_bound (u := s.upon m) hb] at hx
      refine ⟨fun hc => ?_, fun hc hw => ?_, fun r hc hw he hcons hnet hch => ?_⟩
      · rw [if_pos hc] at hx
        exact hx
      · rw [if_neg (by simp [hc]), if_pos hw] at hx
        exact hx
      · rw [if_neg (by simp [hc]), if_neg (by simp [hw])] at hx
        obtain ⟨k, hfr, hk, hcl, -⟩ := State.chanClose_leaves (s := s.upon m) hnet hch
        rw [hk r hcons] at hfr
        rw [he, if_neg (by simp), Chan.close, hc, if_neg (by simp)] at hcl
        refine ⟨_, hx, ?_⟩
        generalize State.chanClose _ n.netid i = t at hfr hcl ⊢
        have hconns : t.conns = s.connsOn m (countMsg m) := by rw [hfr]; rfl
        have heq : t = { s with conns := t.conns, nets := t.nets, procs := t.procs, tiles := t.tiles } := by
          rw [hconns]
          exact hfr
        exact ⟨hconns, hcl, heq⟩
    · have hx : exec (.hostMemoryWrite m) s = .next (s.receive 4 m) := rfl
      rw [hrs, hwrite, State.hostWrite_refused (u := s.upon m) (d := d) hd he,
        State.sendOn_counted (u := s.upon m) hr hv hs hh rfl] at hx
      exact ⟨_, hx, ⟨rfl, rfl⟩, rfl⟩
    · have hx : exec (.hostMemoryWrite m) s = .next (s.receive 4 m) := rfl
      rw [hrs, hwrite, State.hostWrite_granted (u := s.upon m) (d := d) hd he] at hx
      have hl : l.map (·.1) = pagesOf va bs.length := State.xlateRange_pages he
      have huse := State.gmStored_engineUse (s := s.upon m) hok.2 d .w l
      have hall := huse.trans (State.gmStored_gmStoreRange hl huse.2.1)
      have hbyte := fun h1 h2 j => State.gmBytes_gmStoreRange (j := j) huse.2.1 hl h1 h2
      generalize ((s.upon m).engineUse d .w l).gmStoreRange l va bs = v at hx hall hbyte
      have hfr := State.eq_of_sansGm hall.1
      rw [State.sendOn_counted hr hv hs hh (by rw [hfr]; rfl)] at hx
      refine ⟨_, hx, ⟨rfl, ?_⟩, fun c => ?_, ⟨hbyte, fun key c hout hkey => ?_⟩, State.answered_frame hall.1 _ _⟩
      · rw [hfr]
        rfl
      · rw [hfr]
        rfl
      · exact hall.2.2 key c (fun x hx => hout x (List.mem_append.2 (List.mem_append.1 hx).symm))
          fun x hx => hkey x (List.mem_append.2 (List.mem_append.1 hx).symm)
    · have hx : exec (.hostMemoryRead m) s = .next (s.receive 5 m) := rfl
      rw [hrs, hread, State.hostRead_refused (u := s.upon m) (d := d) hd hn he,
        State.sendOn_counted (u := s.upon m) hr hv hs hh rfl] at hx
      exact ⟨_, hx, ⟨rfl, rfl⟩, rfl⟩
    · have hx : exec (.hostMemoryRead m) s = .next (s.receive 5 m) := rfl
      rw [hrs, hread, State.hostRead_granted (u := s.upon m) (d := d) hd hn he] at hx
      have huse := State.gmStored_engineUse (s := s.upon m) hok.2 d .r l
      generalize (s.upon m).engineUse d .r l = v at hx huse
      have hfr := State.eq_of_sansGm huse.1
      rw [State.sendOn_counted hr hv hs hh (by rw [hfr]; rfl)] at hx
      refine ⟨_, hx, (s.hostData l va cnt).1, (s.hostData l va cnt).2, length_hostData .., ⟨rfl, ?_⟩,
        fun j hj => getD_hostData s l hj, fun g hg => testBit_hostData s l hg, huse.2.2, State.answered_frame huse.1 _ _⟩
      rw [hfr]
      rfl

end Sys2Proof.Machine
end

section
/-! SUPPORT. CSR reads: what CSRR of each CSR gives. -/

namespace Sys2Proof.Machine

/-- What counting changes at P (R195, R329, R478): the steep counter, the quantum count and processes. -/
theorem State.count_of_p {s : State} (hp : s.hart.priv = .p) (u : Nat) : s.count u = { s with
    hart := { s.hart with steepcnt := s.hart.steepcnt + BitVec.ofNat 32 u, qcount := s.hart.qcount + u }
    procs := (s.count u).procs } := by
  unfold State.count
  simp only [hp]
  cases s.hart.pid <;> rfl

/-- Counting units leaves every CSR that the privilege may read: at P no system CSR, and so not STEEPCNT. -/
theorem State.csr_count {s : State} {k : Nat} (h : csrPriv s.hart.priv k false = false) (u : Nat) :
    (s.count u).csr k = s.csr k := by
  by_cases hp : s.hart.priv = .p
  · have hk : k ≠ 0x120 := by rintro rfl; rw [hp] at h; exact absurd h (by decide)
    exact State.csr_of_set 21 hk rfl (by rw [State.count_of_p hp]; rfl) (by rw [State.count_of_p hp]; rfl)
  · rw [State.count_of_not_p hp]

/-- CSRR of a CSR that exists is an issue of one unit (R186, R188). -/
theorem exec_csrr {s : State} (d : BitVec 5) {c : BitVec 12} (hk : csrKind c.toNat ≠ .none) :
    exec (.csrr d c) s = .next (s.issue (encode (.csrr d c)) { gate1 with priv := csrPriv s.hart.priv c.toNat false }
      (fun s => (s.setX d (s.csr c.toNat)).advance)) :=
  congrArg Host.Outcome.next (if_neg hk)

/-- CSRR of a CSR that the privilege may read writes its value to x[d] (R186). -/
theorem exec_csrr_reads {s : State} (hf : s.Fit 1 []) (d : BitVec 5) {c : BitVec 12} (hk : csrKind c.toNat ≠ .none)
    (hp : csrPriv s.hart.priv c.toNat false = false) : Answers (exec (.csrr d c) s) (s.WritesX d (s.csr c.toNat)) := by
  rw [exec_csrr d hk, State.issue_pass hp hf.1 rfl rfl rfl rfl]
  exact ⟨_, rfl, State.csr_count hp 1 ▸ s.writesX_intro d _⟩

/-- A user CSR may be read at every privilege (R62). -/
theorem csrPriv_user {c : Nat} (hk : csrKind c = .user) (pr : Priv) (w : Bool) : csrPriv pr c w = false := by
  simp [csrPriv, hk]

/-- A system CSR may be read at S and M (R331). -/
theorem csrPriv_sys_read {pr : Priv} (hp : pr ≠ .p) {c : Nat} (hk : csrKind c = .sys) : csrPriv pr c false = false := by
  cases pr with
  | p => exact absurd rfl hp
  | s => simp [csrPriv, hk]
  | m => simp [csrPriv, hk]

/-- The CSRs that show a part of TDONE and of the TPROG entries (R334). -/
theorem State.csr_trapParts (s : State) {k : Nat} (hk : k < 4) :
    s.csr (0x108 + BitVec.ofNat 12 k).toNat = (s.hart.tdone >>> (64 * k)).setWidth 64 ∧
    s.csr (0x10C + BitVec.ofNat 12 k).toNat = tprogWord (s.hart.tprog.toList.getD k none) ∧
    s.csr (0x110 + BitVec.ofNat 12 k).toNat = ((s.hart.tprog.toList.getD k none).map TProg.xa).getD 0 ∧
    s.csr (0x114 + BitVec.ofNat 12 k).toNat = ((s.hart.tprog.toList.getD k none).map TProg.xb).getD 0 := by
  interval_cases k <;> exact ⟨rfl, rfl, rfl, rfl⟩

theorem csrKind_trapParts {k : Nat} (hk : k < 4) :
    csrKind (0x108 + BitVec.ofNat 12 k).toNat = .sys ∧ csrKind (0x10C + BitVec.ofNat 12 k).toNat = .sys ∧
    csrKind (0x110 + BitVec.ofNat 12 k).toNat = .sys ∧ csrKind (0x114 + BitVec.ofNat 12 k).toNat = .sys := by
  interval_cases k <;> exact ⟨rfl, rfl, rfl, rfl⟩

/-- Settles O32: each CSR may be read where the statement reads it, and its map gives the value. -/
theorem csrReads : Obligations.CsrReads := by
  intro s d hf h t reads id bit
  have user : ∀ {c : BitVec 12} {v : Word}, csrKind c.toNat = .user → s.csr c.toNat = v → reads c v := by
    rintro c _ hk rfl
    exact exec_csrr_reads hf d (by simp [hk]) (csrPriv_user hk _ _)
  iterate 15 refine ⟨user rfl rfl, ?_⟩
  refine ⟨fun hp => ?_, fun hm => ?_⟩
  · have sys : ∀ {c : BitVec 12} {v : Word}, csrKind c.toNat = .sys → s.csr c.toNat = v → reads c v := by
      rintro c _ hk rfl
      exact exec_csrr_reads hf d (by simp [hk]) (csrPriv_sys_read hp hk)
    iterate 6 refine ⟨sys rfl rfl, ?_⟩
    refine ⟨fun k hk => ?_, ?_⟩
    · obtain ⟨hdone, hprog, hxa, hxb⟩ := s.csr_trapParts hk
      obtain ⟨kdone, kprog, kxa, kxb⟩ := csrKind_trapParts hk
      refine ⟨sys kdone hdone, fun e he => ?_, fun he => ?_⟩ <;> rw [he] at hprog hxa hxb <;>
        exact ⟨sys kprog hprog, sys kxa hxa, sys kxb hxb⟩
    · iterate 8 refine ⟨sys rfl rfl, ?_⟩
      intro k hk
      interval_cases k <;> exact sys rfl rfl
  · have mon : ∀ {c : BitVec 12} {v : Word}, csrKind c.toNat = .mon → s.csr c.toNat = v → reads c v := by
      rintro c _ hk rfl
      exact exec_csrr_reads hf d (by simp [hk]) (by rw [show s.hart.priv = .m from hm]; simp [csrPriv, hk])
    exact ⟨mon rfl rfl, mon rfl rfl, mon rfl rfl, mon rfl rfl, mon rfl rfl, mon rfl rfl⟩

end Sys2Proof.Machine
end

section
/-! SUPPORT. EARLY TRAPS. Which trap the early tests of an instruction at P come to, and what counting changes. -/

namespace Sys2Proof.Machine

/-! ### The early tests that fail (R156) -/

section
variable {s : State} (hp : s.hart.priv = .p) (hc : s.hart.current = none) {w : IWord} {g : Gate} {body : State → State}
include hp hc

/-- A trap of the hart at P answers with the trap's record. -/
theorem State.trap_answers (c : BitVec 8) (v : Word) : Answers (.next (s.trap c v)) (s.TrapsAtP c v s.hart.pc) :=
  ⟨_, rfl, State.trapsAtP_intro hp hc c v⟩

/-- The same once units are counted. -/
theorem State.trap_count_answers (u : Nat) (c : BitVec 8) (v : Word) :
    Answers (.next ((s.count u).trap c v)) ((s.count u).TrapsAtP c v s.hart.pc) := by
  have h := State.trap_answers (s := s.count u) (by rwa [State.count_hart_priv]) (by rwa [State.count_hart_current]) c v
  rwa [State.count_hart_pc] at h

theorem State.issue_traps_priv (hg : g.priv = true) :
    Answers (.next (s.issue w g body)) (s.TrapsAtP causePriv (w.setWidth 64) s.hart.pc) := by
  rw [State.issue, if_pos hg]
  exact State.trap_answers hp hc _ _

theorem State.issue_traps_steep (hg : g.priv = false) (hu : s.steepOver g.units = true) :
    Answers (.next (s.issue w g body)) (s.TrapsAtP causeSteep 0 s.hart.pc) := by
  rw [State.issue, if_neg (by simp [hg]), if_pos hu]
  exact State.trap_answers hp hc _ _

theorem State.issue_traps_vcfg (hg : g.priv = false) (hu : s.steepOver g.units = false) (hv : g.vcfg = true) :
    Answers (.next (s.issue w g body)) ((s.count g.units).TrapsAtP causeVcfg 0 s.hart.pc) := by
  rw [State.issue, if_neg (by simp [hg]), if_neg (by simp [hu])]
  dsimp only
  rw [if_pos hv]
  exact State.trap_count_answers hp hc _ _ _

theorem State.issue_traps_stream (hg : g.priv = false) (hu : s.steepOver g.units = false) (hv : g.vcfg = false)
    (hs : g.stream = true) :
    Answers (.next (s.issue w g body)) ((s.count g.units).TrapsAtP causeStream 0 s.hart.pc) := by
  rw [State.issue, if_neg (by simp [hg]), if_neg (by simp [hu])]
  dsimp only
  rw [if_neg (by simp [hv]), if_pos hs]
  exact State.trap_count_answers hp hc _ _ _

/-- An instruction of one unit that reads a poisoned scalar register (R412). -/
theorem State.issueX_traps_poison {reads : List (BitVec 5)} (hu : s.steepOver 1 = false)
    (hx : reads.any s.xPoisoned = true) :
    Answers (.next (s.issueX w gate1 reads body)) ((s.count 1).TrapsAtP causePoison 0 s.hart.pc) := by
  have hx' : reads.any (s.count 1).xPoisoned = true := by
    simpa only [List.any_eq_true, State.xPoisoned_count] using hx
  rw [State.issueX, State.issue_pass rfl hu rfl rfl rfl rfl, gate1_units, if_pos hx']
  exact State.trap_count_answers hp hc _ _ _

end

theorem csrPriv_at_p {c : Nat} (hk : csrKind c = .sys ∨ csrKind c = .mon) (w : Bool) : csrPriv .p c w = true := by
  rcases hk with h | h <;> simp [csrPriv, h]

/-- A write of a CSR that exists and has a writable field is an issue of one unit (R187, R188). -/
theorem State.csrWrite_eq {s : State} {w : IWord} {a : BitVec 5} {c : BitVec 12} {v : Word}
    (hk : csrKind c.toNat ≠ .none) (hr : csrReadOnly c.toNat = false) :
    s.csrWrite w a c v = .next (s.issueX w { gate1 with
        priv := csrPriv s.hart.priv c.toNat true, vcfg := c == 0x009#12 && !vtLegal v
        stream := c == 0x009#12 && s.vtStream v } [a] (fun s => (s.setCsr c.toNat v).advance)) :=
  congrArg Host.Outcome.next (if_neg (by simp [hk, hr]))

/-- A CSR write at P of a CSR that is none or read-only, and of one that the privilege may not write (R187, R332). -/
theorem State.csrWrite_traps {s : State} (hp : s.hart.priv = .p) (hc : s.hart.current = none) (w : IWord) (a : BitVec 5)
    (c : BitVec 12) (v : Word) :
    (csrKind c.toNat = .none ∨ csrReadOnly c.toNat = true →
      Answers (s.csrWrite w a c v) (s.TrapsAtP causeIllegal (w.setWidth 64) s.hart.pc)) ∧
    (csrKind c.toNat = .sys ∨ csrKind c.toNat = .mon → csrReadOnly c.toNat = false →
      Answers (s.csrWrite w a c v) (s.TrapsAtP causePriv (w.setWidth 64) s.hart.pc)) := by
  refine ⟨fun h => ?_, fun hk hr => ?_⟩
  · have hx : s.csrWrite w a c v = .next (s.trap causeIllegal (w.setWidth 64)) :=
      congrArg Host.Outcome.next (if_pos (by simpa using h))
    rw [hx]
    exact State.trap_answers hp hc _ _
  · rw [State.csrWrite_eq (by rcases hk with h | h <;> simp [h]) hr]
    exact State.issue_traps_priv hp hc (by rw [hp]; exact csrPriv_at_p hk _)

/-- A CSRR at P of a CSR that is none, and of one of S or M (R186, R332). -/
theorem exec_csrr_traps {s : State} (hp : s.hart.priv = .p) (hc : s.hart.current = none) (d : BitVec 5) (c : BitVec 12) :
    (csrKind c.toNat = .none →
      Answers (exec (.csrr d c) s) (s.TrapsAtP causeIllegal ((encode (.csrr d c)).setWidth 64) s.hart.pc)) ∧
    (csrKind c.toNat = .sys ∨ csrKind c.toNat = .mon →
      Answers (exec (.csrr d c) s) (s.TrapsAtP causePriv ((encode (.csrr d c)).setWidth 64) s.hart.pc)) := by
  refine ⟨fun h => ?_, fun h => ?_⟩
  · have hx : exec (.csrr d c) s = .next (s.trap causeIllegal ((encode (.csrr d c)).setWidth 64)) :=
      congrArg Host.Outcome.next (if_pos h)
    rw [hx]
    exact State.trap_answers hp hc _ _
  · rw [exec_csrr d (by rcases h with h | h <;> simp [h])]
    exact State.issue_traps_priv hp hc (by rw [hp]; exact csrPriv_at_p h _)

section
variable {s : State} (hp : s.hart.priv = .p) (hc : s.hart.current = none)
include hp hc

/-- An instruction that writes a scalar register, where the STEEP test fails. -/
theorem State.scalar_traps_steep {w : IWord} {reads : List (BitVec 5)} {d : BitVec 5} {v : Word}
    (hu : s.steepOver 1 = true) : Answers (.next (s.scalar w reads d v)) (s.TrapsAtP causeSteep 0 s.hart.pc) := by
  unfold State.scalar
  exact State.issue_traps_steep hp hc rfl hu

/-- An instruction that writes a scalar register and reads a poisoned one. -/
theorem State.scalar_traps_poison {w : IWord} {reads : List (BitVec 5)} {d : BitVec 5} {v : Word}
    (hu : s.steepOver 1 = false) (hx : reads.any s.xPoisoned = true) :
    Answers (.next (s.scalar w reads d v)) ((s.count 1).TrapsAtP causePoison 0 s.hart.pc) := by
  unfold State.scalar
  exact State.issueX_traps_poison hp hc hu hx

/-- A vector instruction where the STEEP test fails, one with a bad VTYPE or group, and one that reads a store-bound
group or writes a load-bound one (R61, R74, R196, R259). -/
theorem State.vrun_traps {v : VInstr} {body : State → Hart → VEnd} :
    (s.steepOver v.units = true → Answers (.next (s.vrun v body)) (s.TrapsAtP causeSteep 0 s.hart.pc)) ∧
    (s.steepOver v.units = false → v.vcfg = true →
      Answers (.next (s.vrun v body)) ((s.count v.units).TrapsAtP causeVcfg 0 s.hart.pc)) ∧
    (s.steepOver v.units = false → v.vcfg = false → s.hart.streamBad v.srcs v.dsts = true →
      Answers (.next (s.vrun v body)) ((s.count v.units).TrapsAtP causeStream 0 s.hart.pc)) :=
  ⟨fun hu => State.issue_traps_steep hp hc rfl hu, fun hu hv => State.issue_traps_vcfg hp hc rfl hu hv,
    fun hu hv hs => State.issue_traps_stream hp hc rfl hu hv hs⟩

/-- The same for a binary operation. -/
theorem State.vvBin_traps {w : IWord} {d a b : BitVec 5} {p : BitVec 3} {sc : BitVec 1} {vcfg : Bool}
    {f : Nat → Nat → Nat × FFlags} :
    (s.steepOver (s.rows s.sew) = true →
      Answers (.next (s.vvBin w d a b p sc vcfg f)) (s.TrapsAtP causeSteep 0 s.hart.pc)) ∧
    (s.steepOver (s.rows s.sew) = false →
      vcfg = true ∨ s.badGroup d = true ∨ s.badGroup a = true ∨ (sc = 0 ∧ s.badGroup b = true) →
      Answers (.next (s.vvBin w d a b p sc vcfg f)) ((s.count (s.rows s.sew)).TrapsAtP causeVcfg 0 s.hart.pc)) := by
  refine ⟨fun hu => (State.vrun_traps hp hc).1 hu, fun hu h => (State.vrun_traps hp hc).2.1 hu ?_⟩
  rcases h with h | h | h | ⟨h0, h⟩ <;> simp [State.vvInstr, *]

/-- The same for a unary operation. -/
theorem State.vvUn_traps {w : IWord} {d a : BitVec 5} {p : BitVec 3} {vcfg : Bool} {f : Nat → Nat × FFlags}
    (hu : s.steepOver (s.rows s.sew) = false) :
    (vcfg = true →
      Answers (.next (s.vvUn w d a p vcfg f)) ((s.count (s.rows s.sew)).TrapsAtP causeVcfg 0 s.hart.pc)) ∧
    (vcfg = false → s.badGroup d = false → s.badGroup a = false →
      s.hart.bindings true [(a.toNat, s.grp)] ≠ [] ∨ s.hart.bindings false [(d.toNat, s.grp)] ≠ [] →
      Answers (.next (s.vvUn w d a p vcfg f)) ((s.count (s.rows s.sew)).TrapsAtP causeStream 0 s.hart.pc)) := by
  refine ⟨fun h => (State.vrun_traps hp hc).2.1 hu ?_, fun h hd ha hb => (State.vrun_traps hp hc).2.2 hu ?_ ?_⟩
  · simp [State.vvInstr, h]
  · simp [State.vvInstr, h, hd, ha]
  · simpa [State.vvInstr, Hart.streamBad] using hb

end

/-- Counting leaves every process but one of the hart with an active capture (R478). -/
theorem State.count_keeps_procs (s : State) (u : Nat) {q : Proc} (hq : q ∈ s.procs)
    (h : q.capture.active = false ∨ some q.pid ≠ s.hart.pid) : q ∈ (s.count u).procs := by
  unfold State.count
  cases s.hart.priv with
  | s => exact hq
  | m => exact hq
  | p =>
    cases hpid : s.hart.pid with
    | none => simpa [hpid] using hq
    | some r =>
      simp only [hpid]
      refine List.mem_map.2 ⟨q, hq, ?_⟩
      rcases h with h | h
      · simp [h]
      · rw [hpid, Ne, Option.some.injEq] at h
        rw [if_neg h]

/-- Settles O30: each instruction is an issue whose first failing test is the one that the statement names, and counting
changes what `State.count_of_p` says. -/
theorem earlyTraps : Obligations.EarlyTraps := by
  refine ⟨fun s d a b i p sc c hp hc => ?_, fun s u => ⟨fun hp => ?_, fun hp => ?_⟩⟩
  · dsimp only
    have steep := fun {w g body} => State.issue_traps_steep (w := w) (g := g) (body := body) hp hc
    have priv := fun {w g body} => State.issue_traps_priv (w := w) (g := g) (body := body) hp hc
    have vcfg := fun {w g body} => State.issue_traps_vcfg (w := w) (g := g) (body := body) hp hc
    have stream := fun {w g body} => State.issue_traps_stream (w := w) (g := g) (body := body) hp hc
    have poison := fun {w reads body} => State.issueX_traps_poison (w := w) (reads := reads) (body := body) hp hc
    have write := fun w => State.csrWrite_traps hp hc w a c
    have hP : s.atP = true := by simp [State.atP, hp]
    refine ⟨(exec_csrr_traps hp hc d c).1, fun h => ⟨(write _ _).1 h, (write _ _).1 h, (write _ _).1 h⟩,
      fun h => ⟨(exec_csrr_traps hp hc d c).2 h, fun hr => ⟨(write _ _).2 h hr, (write _ _).2 h hr, (write _ _).2 h hr⟩⟩,
      priv hP, priv hP, fun hu => ?_, fun hu => ?_, fun hu => ?_, fun hu => ?_⟩
    · refine ⟨State.scalar_traps_steep hp hc hu, State.scalar_traps_steep hp hc hu, State.scalar_traps_steep hp hc hu,
        steep rfl hu, steep rfl hu, steep rfl hu, steep rfl hu, ?_, steep rfl hu⟩
      rw [exec_csrr d (by decide)]
      exact steep rfl hu
    · exact ⟨(State.vvBin_traps hp hc).1 hu, (State.vvBin_traps hp hc).1 hu, (State.vrun_traps hp hc).1 hu⟩
    · refine ⟨fun hb => ⟨(State.vvBin_traps hp hc).2 hu (.inr hb), (State.vvBin_traps hp hc).2 hu (.inr hb)⟩,
        fun hw => (State.vvBin_traps hp hc).2 hu (.inl ?_), fun hw => (State.vvUn_traps hp hc hu).1 ?_,
        fun hw => (State.vvUn_traps hp hc hu).1 ?_, fun hw => (State.vrun_traps hp hc).2.1 hu ?_,
        (State.vvUn_traps hp hc hu).2 rfl⟩
      · simpa using hw
      · simpa [State.noExp] using hw
      · simpa [State.noEstimate] using hw
      · simp [State.gmInstr, State.vmInstr, hw]
    · have moves : s.hart.anyBinding = true → (s.x a).setWidth 7 ≠ s.hart.vtype.setWidth 7 → s.vtStream (s.x a) = true := by
        intro hb hm
        simpa [State.vtStream, State.vtMoves, hb, BitVec.setWidth_eq_extractLsb'] using hm
      have csrw : exec (.csrw a 0x009) s = .next (s.issueX (encode (.csrw a 0x009)) { gate1 with
          vcfg := !vtLegal (s.x a), stream := s.vtStream (s.x a) } [a] fun t => (t.setCsr 0x009 (s.x a)).advance) :=
        (State.csrWrite_eq (c := 0x009) (by decide) (by decide)).trans (by rw [hp]; rfl)
      rw [csrw]
      refine ⟨fun hl => ⟨vcfg rfl hu ?_, vcfg rfl hu ?_⟩, fun hl hb hm => ⟨stream rfl hu ?_ ?_, stream rfl hu ?_ ?_⟩,
        fun hl => vcfg ?_ hu ?_, fun hf => vcfg rfl hu ?_, fun hx => ⟨?_, poison hu ?_, poison hu ?_⟩⟩
      · simpa using hl
      · simpa using hl
      · simpa using hl
      · exact moves hb hm
      · simpa using hl
      · exact moves hb hm
      · simp [hP]
      · simp [hl]
      · simp [hP, hf]
      · exact State.scalar_traps_poison hp hc hu (by simp [hx])
      · simp [hx]
      · simp [hx]
  · exact State.count_of_not_p hp u
  · have h := State.count_of_p hp u
    exact ⟨by rw [h], by rw [h], fun q => s.count_keeps_procs u, h⟩

end Sys2Proof.Machine
end

section
/-! SUPPORT. BYTE FIELDS. Fields of byte strings that little-endian numbers make up, of chunks, and of pieces laid out one
after another. -/

namespace Sys2Proof.Machine

/-! ### Fields (R8) -/

theorem leNat_lt (bs : List Byte) : leNat bs < 256 ^ bs.length := by
  induction bs with
  | nil => simp [leNat]
  | cons b bs ih =>
    have hb := b.isLt
    rw [leNat, List.length_cons, Nat.pow_succ]
    omega

/-- Bytes are those of their number. -/
theorem leBytes_leNat (bs : List Byte) : leBytes bs.length (leNat bs) = bs := by
  induction bs with
  | nil => rfl
  | cons b bs ih =>
    have hb := b.isLt
    rw [List.length_cons, leBytes, leNat, show (b.toNat + 256 * leNat bs) / 256 = leNat bs by omega, ih]
    congr 1
    exact BitVec.eq_of_toNat_eq (by simp; omega)

theorem leNat_append (a b : List Byte) : leNat (a ++ b) = leNat a + 256 ^ a.length * leNat b := by
  induction a with
  | nil => simp [leNat]
  | cons x a ih =>
    simp only [List.cons_append, leNat, ih, List.length_cons, Nat.pow_succ]
    ring

theorem field_drop (bs : List Byte) (c off n : Nat) : field (bs.drop c) off n = field bs (c + off) n := by
  rw [field, List.drop_drop, field]

/-- A field behind the first of two strings. -/
theorem field_append_of_le {a b : List Byte} {off : Nat} (h : a.length ≤ off) (n : Nat) :
    field (a ++ b) off n = field b (off - a.length) n := by
  rw [field, List.drop_append, List.drop_eq_nil_of_le h, List.nil_append, field]

/-- A field within the first of two strings. -/
theorem field_append_of_lt {a b : List Byte} {off n : Nat} (h : off + n ≤ a.length) :
    field (a ++ b) off n = field a off n := by
  rw [field, List.drop_append_of_le_length (by omega), List.take_append_of_le_length (by simp; omega), field]

/-- The field that the first number of a string fills. -/
theorem field_leBytes_append (n v : Nat) (b : List Byte) : field (leBytes n v ++ b) 0 n = v % 256 ^ n := by
  rw [field, List.drop_zero, List.take_left' (length_leBytes n v), leNat_leBytes]

/-- A field behind the first number of a string. -/
theorem field_leBytes_append_of_le {n off : Nat} (h : n ≤ off) (v k : Nat) (b : List Byte) :
    field (leBytes n v ++ b) off k = field b (off - n) k := by
  rw [field_append_of_le (by simpa using h), length_leBytes]

theorem field_leBytes (n v : Nat) : field (leBytes n v) 0 n = v % 256 ^ n := by
  simpa using field_leBytes_append n v []

/-! ### Chunks of one length -/

theorem length_chunks (n k : Nat) (g : Nat → Nat) : ((upTo n).flatMap fun i => leBytes k (g i)).length = n * k := by
  simp [List.length_flatMap, upTo]

/-- The field of a chunk. -/
theorem field_chunks {n i : Nat} (h : i < n) (k : Nat) (g : Nat → Nat) :
    field ((upTo n).flatMap fun i => leBytes k (g i)) (i * k) k = g i % 256 ^ k := by
  induction n with
  | zero => omega
  | succ n ih =>
    have hlen := length_chunks n k g
    rw [upTo, List.range_succ, List.flatMap_append, List.flatMap_singleton, ← upTo]
    by_cases hi : i = n
    · subst hi
      rw [field_append_of_le hlen.le, hlen, Nat.sub_self, field_leBytes]
    · have hle : i * k + k ≤ n * k := by rw [← Nat.succ_mul]; exact Nat.mul_le_mul_right k (by omega)
      rw [field_append_of_lt (by rw [hlen]; exact hle), ih (by omega)]

/-! ### Pieces laid out (R75) -/

theorem field_of_prefix {bs b : List Byte} {c : Nat} (h : bs <+: b.drop c) {off n : Nat} (hn : off + n ≤ bs.length) :
    field b (c + off) n = field bs off n := by
  obtain ⟨rest, hr⟩ := h
  rw [← field_drop, ← hr, field_append_of_lt hn]

theorem length_pad8 (b : List Byte) : (pad8 b).length = (b.length + 7) / 8 * 8 := by
  simp [pad8]
  omega

/-- Where the pieces of a layout stand. -/
theorem layPieces_held (ps : List Piece) : ∀ pre : List Byte,
    List.Forall₂ (fun c bs => bs <+: (pre ++ (layPieces ps).bytes).drop c)
      (placeFrom pre.length (ps.map (·.bytes.length))) (ps.map (·.bytes)) := by
  induction ps with
  | nil => exact fun _ => .nil
  | cons p ps ih =>
    intro pre
    refine .cons ?_ ?_
    · rw [List.drop_left, layPieces]
      exact ⟨_, (List.append_assoc ..).symm.trans (congrArg (· ++ _) rfl)⟩
    · have h := ih (pre ++ pad8 p.bytes)
      rwa [List.length_append, length_pad8, List.append_assoc] at h

theorem layPieces_pois {ps : List Piece} (h : ∀ p ∈ ps, p.pois = []) : (layPieces ps).pois = [] := by
  induction ps with
  | nil => rfl
  | cons p ps ih =>
    rw [List.forall_mem_cons] at h
    simp [layPieces, h.1, ih h.2]

/-! ### Places by register -/

/-- Where the piece of each listed register stands, when the pieces of a list of registers come first. -/
theorem numGet_zip {β : Type} {R : Nat → β → Prop} {f : Nat → β} {rest : List β} : ∀ {xs offs : List Nat},
    List.Forall₂ R offs (xs.map f ++ rest) → ∀ {i : Nat}, i ∈ xs → ∃ c, numGet (xs.zip offs) i = some c ∧ R c (f i)
  | x :: xs, c :: offs, .cons hc h, i, hi => by
    by_cases hx : x = i
    · subst hx
      exact ⟨c, by simp [numGet], hc⟩
    · obtain ⟨c', hg, hr⟩ := numGet_zip h ((List.mem_cons.1 hi).resolve_left fun h => hx h.symm)
      exact ⟨c', by simpa [numGet, hx] using hg, hr⟩

theorem numGet_zip_none {xs : List Nat} (offs : List Nat) {i : Nat} (h : i ∉ xs) : numGet (xs.zip offs) i = none := by
  rw [numGet, Option.map_eq_none_iff, List.find?_eq_none]
  rintro ⟨x, c⟩ hx
  simpa using fun hxi : x = i => h (hxi ▸ (List.of_mem_zip hx).1)

theorem forall₂_drop {β : Type} {R : Nat → β → Prop} {f : Nat → β} {xs offs : List Nat} {rest : List β}
    (h : List.Forall₂ R offs (xs.map f ++ rest)) : List.Forall₂ R (offs.drop xs.length) rest := by
  simpa using List.forall₂_drop_append _ _ _ h

end Sys2Proof.Machine
end

section
/-! SUPPORT. SAVED CONTEXT. The area that a save writes, as it is read back. -/

namespace Sys2Proof.Machine

/-! ### The length of a digest -/

theorem length_shaRound {h : List (BitVec 32)} (k w : BitVec 32) : (shaRound h k w).length = h.length := by
  unfold shaRound
  split <;> rfl

theorem length_shaRounds : ∀ (ks ws h : List (BitVec 32)), (shaRounds ks ws h).length = h.length
  | [], _, _ => by simp [shaRounds]
  | _ :: _, [], _ => by simp [shaRounds]
  | k :: ks, w :: ws, h => by rw [shaRounds, length_shaRounds ks ws, length_shaRound]

theorem length_shaBlocks : ∀ (n : Nat) (bs : List Byte) (h : List (BitVec 32)), (shaBlocks n bs h).length = h.length
  | 0, _, _ => rfl
  | n + 1, bs, h => by
    rw [shaBlocks, length_shaBlocks n, List.length_zipWith, length_shaRounds, Nat.min_self]

theorem length_sha256 (msg : List Byte) : (sha256 msg).length = 32 := by
  simp [sha256, List.length_flatMap, length_shaBlocks, shaH0]

/-! ### Part of a store read back (R119, R397) -/

theorem VDev.logWrite_keyMap (d : VDev) (k : Nat) : (d.logWrite k).vdid = d.vdid ∧ (d.logWrite k).keyMap = d.keyMap := by
  unfold VDev.logWrite
  split
  · split
    · dsimp only
      split <;> exact ⟨rfl, rfl⟩
    · exact ⟨rfl, rfl⟩
  · exact ⟨rfl, rfl⟩

/-- The dirty log leaves the first key of each device. -/
theorem State.firstKey_logDirty (s : State) (k n v : Nat) :
    ((s.logDirty k n).vdev? v).map (·.keyMap.headD 0) = (s.vdev? v).map (·.keyMap.headD 0) := by
  have hid : ∀ d l, (List.foldl VDev.logWrite d l).vdid = d.vdid := fun d l =>
    foldl_keeps VDev.vdid _ (fun d k => (d.logWrite_keyMap k).1) l d
  have hmap : ∀ d l, (List.foldl VDev.logWrite d l).keyMap = d.keyMap := fun d l =>
    foldl_keeps VDev.keyMap _ (fun d k => (d.logWrite_keyMap k).2) l d
  unfold State.logDirty
  split
  · simp only [State.vdev?, List.find?_map, Function.comp_def, hid, Option.map_map, hmap]
  · rfl

theorem State.vdevs_rekeyed (s : State) (p : Phys) (gs : List Nat) : (s.rekeyed p gs).vdevs = s.vdevs := by
  refine foldl_keeps State.vdevs _ (fun t g => ?_) gs s
  unfold State.rekey
  split
  · rfl
  · split <;> rfl

/-- A store leaves the place of a process's context area. -/
theorem State.ctxPlace_gmStore (s : State) (p : Phys) (bs : List Byte) (q : Proc) :
    (s.gmStore p bs).ctxPlace q = s.ctxPlace q := by
  have h : ((s.gmStore p bs).vdev? q.vdid).map (·.keyMap.headD 0) = (s.vdev? q.vdid).map (·.keyMap.headD 0) :=
    (State.firstKey_logDirty ..).trans
      (congrArg (fun l : List VDev => (l.find? fun d => d.vdid == q.vdid).map (·.keyMap.headD 0)) (s.vdevs_rekeyed p _))
  rw [State.ctxPlace, h, State.ctxPlace]

/-- A part of a store, read under its key. -/
theorem State.gmBytes_gmStore {s : State} (hw : s.gm.wf = true) (p : Phys) {bs : List Byte} {k n : Nat}
    (h : k + n ≤ bs.length) : (s.gmStore p bs).gmBytes { p with addr := p.addr + k } n = (bs.drop k).take n := by
  refine List.ext_getElem ?_ fun j hj _ => ?_
  · simp [State.gmBytes, upTo]
    omega
  · have hj : j < n := by simpa [State.gmBytes, upTo] using hj
    have hbyte := State.gmByte_gmStore_inside hw p bs (j := k + j) (by omega)
    simp only [State.gmBytes, upTo, List.getElem_map, List.getElem_range, State.slotKey_gmStore, List.getElem_take,
      List.getElem_drop, Nat.add_assoc, hbyte]
    exact List.getD_eq_getElem _ _ (by omega)

/-! ### What a save writes (R352, R353) -/

/-- The process as a save leaves it. -/
def Hart.savedProc (h : Hart) (q : Proc) : Proc := { q with
  gen := if q.gen = BitVec.allOnes 32 then 1 else q.gen + 1
  switches := q.switches + 1
  capture := if q.capture.active then { q.capture with switches := q.capture.switches + 1 } else q.capture
  level := h.prioLevel, steeplim := h.steeplim, quantum := h.quantum
  binds := (h.streams.toList.mapIdx (fun n o => (n, o))).filterMap (fun no =>
    no.2.map (fun b => (no.1, (⟨b.reg, b.grp, b.descAddr, b.since⟩ : BindName)))) }

/-- The capture block that follows the payload, where a capture is active. -/
def Proc.capBytes (q : Proc) : List Byte := if q.capture.active then q.capture.bytes else []

/-- The area that a save writes. -/
def State.savedArea (s : State) (h : Hart) (q : Proc) (idx : Nat) (e : SafeEntry) : Area :=
  let q' := h.savedProc q
  let pay := (layPieces (h.pieces idx e)).bytes
  let hdr := ctxHeader h q' e pay.length s.time
  ⟨hdr ++ ctxSeal hdr (pay ++ q'.capBytes) q'.gen.toNat, pay, q'.capBytes, (s.ctxPlace q).addr⟩

theorem length_ctxHeader (h : Hart) (q : Proc) (e : SafeEntry) (n : Nat) (time : Word) :
    (ctxHeader h q e n time).length = 56 := by
  simp [ctxHeader]

theorem length_ctxSeal (hdr rest : List Byte) (gen : Nat) : (ctxSeal hdr rest gen).length = 8 := by
  simp [ctxSeal, length_sha256]

theorem length_savedHdr (s : State) (h : Hart) (q : Proc) (idx : Nat) (e : SafeEntry) :
    (s.savedArea h q idx e).hdr.length = 64 := by
  simp [State.savedArea, length_ctxHeader, length_ctxSeal]

/-- A save of a hart without poison stores the area, and changes its process. -/
theorem State.saveContext_clean (s : State) (h : Hart) (q : Proc) (idx : Nat) (e : SafeEntry)
    (hp : (layPieces (h.pieces idx e)).pois = []) :
    let a := s.savedArea h q idx e
    s.saveContext h q idx e = (s.gmStore (s.ctxPlace q) (a.hdr ++ (a.pay ++ a.cap))).mapProc q.pid fun _ => h.savedProc q := by
  unfold State.saveContext
  dsimp only
  rw [hp]
  rfl

/-! ### Fields of the header (R352) -/

section
variable (h : Hart) (q : Proc) (e : SafeEntry) (n : Nat) (time : Word) (rest : List Byte)

/-- What the header says of the area. -/
theorem field_ctxHeader :
    let hdr := ctxHeader h q e n time ++ rest
    field hdr 0 4 = 0x43585431 ∧ field hdr 4 2 = 1 ∧ field hdr 6 1 = h.lanes % 256 ∧
    (field hdr 7 1).testBit 2 = q.capture.active ∧ field hdr 8 4 = q.pid.netid % 2 ^ 32 ∧ field hdr 0xC 4 = q.pid.rank % 2 ^ 32 ∧
    field hdr 0x14 4 = n % 2 ^ 32 ∧ field hdr 0x18 4 = q.gen.toNat ∧ field hdr 0x20 4 = h.steeplim.toNat ∧
    field hdr 0x24 1 = h.prioLevel.toNat ∧ field hdr 0x28 8 = h.quantum.toNat ∧ field hdr 0x30 8 = time.toNat := by
  have hg := q.gen.isLt
  have hs := h.steeplim.isLt
  have hp := h.prioLevel.isLt
  have hq := h.quantum.isLt
  have ht := time.isLt
  simp only [ctxHeader, List.append_assoc]
  refine ⟨?_, ?_, ?_, ?_, ?_, ?_, ?_, ?_, ?_, ?_, ?_, ?_⟩
  all_goals
    simp (disch := decide) only [field_leBytes_append, field_leBytes_append_of_le, Nat.reduceSub, Nat.reducePow]
  · cases e.portable <;> cases e.chanwait <;> cases q.capture.active <;> decide
  all_goals omega

/-- The header of a saved area. -/
theorem State.field_savedHdr (s : State) (idx : Nat) :
    let hdr := (s.savedArea h q idx e).hdr
    field hdr 0 4 = 0x43585431 ∧ field hdr 4 2 = 1 ∧ field hdr 6 1 = h.lanes % 256 ∧
    (field hdr 7 1).testBit 2 = (h.savedProc q).capture.active ∧ field hdr 8 4 = q.pid.netid % 2 ^ 32 ∧
    field hdr 0xC 4 = q.pid.rank % 2 ^ 32 ∧ field hdr 0x14 4 = (s.savedArea h q idx e).pay.length % 2 ^ 32 ∧
    field hdr 0x18 4 = (h.savedProc q).gen.toNat ∧
    field hdr 0x20 4 = h.steeplim.toNat ∧ field hdr 0x24 1 = h.prioLevel.toNat ∧ field hdr 0x28 8 = h.quantum.toNat ∧
    field hdr 0x30 8 = s.time.toNat :=
  field_ctxHeader h (h.savedProc q) e _ s.time _

end

/-! ### The area read back (R353, R354) -/

theorem length_capBytes (q : Proc) : q.capBytes.length = if q.capture.active then 64 else 0 := by
  unfold Proc.capBytes
  split <;> simp [Capture.bytes]

section
variable {s : State} {h : Hart} {q : Proc} {idx : Nat} {e : SafeEntry}

/-- What is read back of the area that a save has written. -/
theorem State.readArea_saveContext (hw : s.gm.wf = true) (hp : (layPieces (h.pieces idx e)).pois = [])
    (h32 : (layPieces (h.pieces idx e)).bytes.length < 2 ^ 32)
    (hfit : (layPieces (h.pieces idx e)).bytes.length ≤ Config.ctxAreaBytes) :
    (s.saveContext h q idx e).readArea (h.savedProc q) = s.savedArea h q idx e := by
  have hlen := length_savedHdr s h q idx e
  have hcap : (s.savedArea h q idx e).cap.length = _ := length_capBytes (h.savedProc q)
  obtain ⟨-, -, -, hact, -, -, hn, -⟩ := s.field_savedHdr h q e idx
  change (s.savedArea h q idx e).pay.length < _ at h32
  rw [Nat.mod_eq_of_lt h32] at hn
  change (s.savedArea h q idx e).pay.length ≤ _ at hfit
  rw [State.saveContext_clean s h q idx e hp]
  have hbase : (s.savedArea h q idx e).base = (s.ctxPlace q).addr := rfl
  generalize s.savedArea h q idx e = a at *
  obtain ⟨hdr, pay, cap, base⟩ := a
  dsimp only at *
  have hread := fun k n => State.gmBytes_gmStore hw (s.ctxPlace q) (bs := hdr ++ (pay ++ cap)) (k := k) (n := n)
  have hhdr : (s.gmStore (s.ctxPlace q) (hdr ++ (pay ++ cap))).gmBytes (s.ctxPlace q) 64 = hdr := by
    have := hread 0 64 (by simp; omega)
    rwa [List.drop_zero, List.take_left' hlen] at this
  have hpay : (s.gmStore (s.ctxPlace q) (hdr ++ (pay ++ cap))).gmBytes
      { s.ctxPlace q with addr := (s.ctxPlace q).addr + 64 } pay.length = pay := by
    rw [hread 64 _ (by simp; omega), List.drop_left' hlen, List.take_left]
  have hcapr : (if (field hdr 7 1).testBit 2 then (s.gmStore (s.ctxPlace q) (hdr ++ (pay ++ cap))).gmBytes
      { s.ctxPlace q with addr := (s.ctxPlace q).addr + 64 + pay.length } 64 else []) = cap := by
    rw [hact]
    split
    · rename_i ha
      rw [if_pos ha] at hcap
      rw [Nat.add_assoc, hread (64 + pay.length) _ (by simp; omega), ← List.append_assoc,
        List.drop_left' (by simp; omega), List.take_of_length_le hcap.le]
    · rename_i ha
      rw [if_neg ha] at hcap
      exact (List.eq_nil_of_length_eq_zero hcap).symm
  have hplace : ((s.gmStore (s.ctxPlace q) (hdr ++ (pay ++ cap))).mapProc q.pid fun _ => h.savedProc q).ctxPlace
      (h.savedProc q) = s.ctxPlace q := State.ctxPlace_gmStore ..
  have hsame : ∀ p n, ((s.gmStore (s.ctxPlace q) (hdr ++ (pay ++ cap))).mapProc q.pid fun _ => h.savedProc q).gmBytes p n =
      (s.gmStore (s.ctxPlace q) (hdr ++ (pay ++ cap))).gmBytes p n := fun _ _ => rfl
  have hmin : Nat.min pay.length Config.ctxAreaBytes = pay.length := Nat.min_eq_left hfit
  unfold State.readArea
  simp only [hplace, hsame, hhdr, hn, hmin, hpay, hcapr, hbase]

theorem Hart.savedProc_gen (h : Hart) (q : Proc) : (h.savedProc q).gen ≠ 0 ∧
    (q.gen ≠ BitVec.allOnes 32 → (h.savedProc q).gen = q.gen + 1) := by
  refine ⟨?_, fun hq => if_neg hq⟩
  unfold Hart.savedProc
  dsimp only
  split
  · decide
  · rename_i hq
    intro h0
    exact hq (eq_neg_of_add_eq_zero_left h0)

end

/-- What the seal says: the digest of what is before and behind it, and the generation. -/
theorem field_ctxSeal {hdr : List Byte} (hh : hdr.length = 56) (rest : List Byte) {gen : Nat} (hg : gen < 2 ^ 32)
    (h0 : gen ≠ 0) :
    let b := hdr ++ ctxSeal hdr rest gen
    b.take 0x38 = hdr ∧ (b.drop 0x38).take 4 = (sha256 (hdr ++ rest)).take 4 ∧ field b 0x3C 4 = gen ∧ field b 0x38 8 ≠ 0 := by
  have hsha : ((sha256 (hdr ++ rest)).take 4).length = 4 := by simp [length_sha256]
  have hgen : gen % 256 ^ 4 = gen := Nat.mod_eq_of_lt hg
  have hword : field (ctxSeal hdr rest gen) 0 8 = leNat ((sha256 (hdr ++ rest)).take 4) + 256 ^ 4 * gen := by
    rw [field, List.drop_zero, List.take_of_length_le (length_ctxSeal ..).le, ctxSeal, leNat_append, hsha, leNat_leBytes, hgen]
  refine ⟨List.take_left' hh, ?_, ?_, ?_⟩
  · rw [List.drop_left' hh, ctxSeal, List.take_left' hsha]
  · rw [field_append_of_le (by omega), hh, ctxSeal, field_append_of_le hsha.le, hsha, field_leBytes, hgen]
  · rw [field_append_of_le hh.le, hh, Nat.sub_self, hword]
    omega

/-- The area is sealed, and the process's own (R352, R353). -/
theorem State.savedArea_ok (s : State) (h : Hart) {q : Proc} (idx : Nat) (e : SafeEntry) (hn : q.pid.netid < 2 ^ 32)
    (hr : q.pid.rank < 2 ^ 32) : (s.savedArea h q idx e).ok (h.savedProc q) = true := by
  obtain ⟨hmagic, hver, -, -, hnet, hrank, -, hgen, -⟩ := s.field_savedHdr h q e idx
  rw [Nat.mod_eq_of_lt hn] at hnet
  rw [Nat.mod_eq_of_lt hr] at hrank
  have hne : (h.savedProc q).gen.toNat ≠ 0 := fun h0 => (h.savedProc_gen q).1 (BitVec.eq_of_toNat_eq h0)
  obtain ⟨htake, hdigest, hseal, hword⟩ := field_ctxSeal
    (length_ctxHeader h (h.savedProc q) e (layPieces (h.pieces idx e)).bytes.length s.time)
    ((layPieces (h.pieces idx e)).bytes ++ (h.savedProc q).capBytes) (h.savedProc q).gen.isLt hne
  have hsum : ((s.savedArea h q idx e).hdr.drop 0x38).take 4 = (sha256 ((s.savedArea h q idx e).hdr.take 0x38 ++
      (s.savedArea h q idx e).pay ++ (s.savedArea h q idx e).cap)).take 4 := by
    rw [List.append_assoc]
    exact hdigest.trans (congrArg (fun b => (sha256 (b ++ _)).take 4) htake.symm)
  unfold Area.ok
  dsimp only
  simp only [Bool.and_eq_true, decide_eq_true_eq]
  exact ⟨⟨⟨⟨⟨⟨hword, hseal.trans hgen.symm⟩, hsum⟩, hmagic⟩, hver⟩, hnet⟩, hrank⟩

end Sys2Proof.Machine
end

section
/-! SUPPORT. RESTORED CONTEXT. What a restore puts into each register, by where its piece stands in the payload. -/

namespace Sys2Proof.Machine

/-! ### The registers of an entry and the places of their pieces (R75, R311) -/

/-- The scalar registers, vector registers, predicate registers, accumulators and banks that live at an entry. -/
def SafeEntry.xs (e : SafeEntry) : List Nat := (upTo 32).filter (fun i => e.xlive.getLsbD i)
def SafeEntry.vs (e : SafeEntry) : List Nat := (upTo 32).filter (fun j => e.vlive.getLsbD j)
def SafeEntry.ps (e : SafeEntry) : List Nat := (upTo 8).filter (fun n => e.plive.getLsbD n)
def SafeEntry.es (e : SafeEntry) : List Nat := (upTo 4).filter (fun n => e.emlive.getLsbD n)
def SafeEntry.ms (e : SafeEntry) : List Nat := (upTo 2).filter (fun n => e.emlive.getLsbD (4 + n))
/-- The slots whose bindings live at an entry and were bound at the save. -/
def SafeEntry.ss (e : SafeEntry) (q : Proc) : List Nat :=
  (upTo 4).filter (fun n => e.slive.getLsbD n && (numGet q.binds n).isSome)

/-- VTYPE and VL of a payload. -/
def Area.vtype (a : Area) : BitVec 16 := BitVec.ofNat 16 (field a.pay 2 2)
def Area.vl (a : Area) : Nat := field a.pay 4 4 % 2 ^ 17

/-- Elements of register j with group index below VL, on the hart that saved the area. -/
def Area.liveCount (a : Area) (j : Nat) : Nat :=
  let per := vlenOf (field a.hdr 6 1) (vtRc a.vtype) / vtSew a.vtype
  Nat.min per ((BitVec.ofNat 17 a.vl).toNat - j % vtG a.vtype * per)

/-- Where the pieces behind the fixed block stand. -/
def Area.places (a : Area) (q : Proc) (e : SafeEntry) : List Nat :=
  placeFrom 64 (e.xs.map (fun _ => 8) ++ e.vs.map (fun j => a.liveCount j * (vtSew a.vtype / 8)) ++
    e.ps.map (fun _ => (a.vl + 63) / 64 * 8) ++ e.es.map (fun _ => 536) ++ e.ms.map (fun _ => 1024 * field a.hdr 6 1) ++
    (e.ss q).map (fun _ => 64))

/-- The places of the pieces of vector registers, of predicates, of accumulators, of banks, and of bindings. -/
def Area.vPlaces (a : Area) (q : Proc) (e : SafeEntry) : List Nat := (a.places q e).drop e.xs.length
def Area.pPlaces (a : Area) (q : Proc) (e : SafeEntry) : List Nat := (a.vPlaces q e).drop e.vs.length
def Area.ePlaces (a : Area) (q : Proc) (e : SafeEntry) : List Nat := (a.pPlaces q e).drop e.ps.length
def Area.mPlaces (a : Area) (q : Proc) (e : SafeEntry) : List Nat := (a.ePlaces q e).drop e.es.length
def Area.sPlaces (a : Area) (q : Proc) (e : SafeEntry) : List Nat := (a.mPlaces q e).drop e.ms.length

/-- The elements of vector registers, from the pieces at these places; a piece that was saved poisoned is poison again. -/
def Hart.loadElems (h : Hart) (pois : Nat → Bool) (b : List Byte) (w : Nat) (cnt : Nat → Nat) (ov : List (Nat × Nat)) : Hart :=
  ov.foldl (fun (h : Hart) (c : Nat × Nat) => (upTo (cnt c.1)).foldl (fun (h : Hart) i =>
    let off := c.2 + i * (w / 8)
    let h := h.setElem w c.1 i (field b off (w / 8))
    if pois off then h.poisonElem w c.1 i else h) h) h

/-- The elements of a bank. -/
def Bank.load (pois : Nat → Bool) (b : List Byte) (n c : Nat) : Bank :=
  (upTo n).foldl (fun (bk : Bank) i =>
    let bk := bk.put i (BitVec.ofNat 128 (field b (c + 16 * i) 16))
    if pois (c + 16 * i) then { bk with pois := setAdd bk.pois i } else bk) Bank.zero

/-- Whether the granule of a byte of the payload is poisoned. -/
def State.payPois (s : State) (a : Area) (off : Nat) : Bool := setHas s.gmPois ((a.base + 64 + off) / 64)

/-- The hart of a restore before its vector registers are loaded. -/
def Hart.loadRest (g : Hart) (s : State) (q : Proc) (a : Area) (e : SafeEntry) : Hart :=
  let live := e.emlive.getLsbD 4 || e.emlive.getLsbD 5
  { g with
    vtype := a.vtype
    srseed := BitVec.ofNat 64 (field a.pay 8 8)
    srcount := BitVec.ofNat 64 (field a.pay 0x10 8)
    fflags := BitVec.ofNat 5 (field a.pay 0x18 1)
    msprec := BitVec.ofNat 8 (field a.pay 0x19 1)
    msanchor := BitVec.ofNat 16 (field a.pay 0x1A 2)
    steeplim := BitVec.ofNat 32 (field a.hdr 0x20 4)
    prioLevel := BitVec.ofNat 4 (field a.hdr 0x24 1)
    quantum := BitVec.ofNat 48 (field a.hdr 0x28 8)
    msm := if live then BitVec.ofNat 13 (field a.pay 0x1C 2) else g.msm
    msn := if live then BitVec.ofNat 13 (field a.pay 0x1E 2) else g.msn
    msk := if live then BitVec.ofNat 13 (field a.pay 0x20 2) else g.msk
    vl := BitVec.ofNat 17 (Nat.min a.vl (vlmaxOf g.lanes a.vtype))
    x := Vector.ofFn fun i : Fin 32 => match numGet (e.xs.zip (a.places q e)) i.val with
      | some c => BitVec.ofNat 64 (field a.pay c 8)
      | none => if i.val = 0 then 0 else Config.undefWord s.ticks i.val
    xPois := (e.xs.zip (a.places q e)).foldl (fun m c => if s.payPois a c.2 then m ||| ((1 : BitVec 32) <<< c.1) else m) 0
    p := Vector.ofFn fun n : Fin 8 => match numGet (e.ps.zip (a.pPlaces q e)) n.val with
      | some c => BitVec.ofNat 65536 (field a.pay c ((a.vl + 63) / 64 * 8) % 2 ^ a.vl +
        (Config.undefPred s.ticks n.val).toNat / 2 ^ a.vl * 2 ^ a.vl)
      | none => Config.undefPred s.ticks n.val
    e := Vector.ofFn fun n : Fin 4 => match numGet (e.es.zip (a.ePlaces q e)) n.val with
      | some c => { LongAcc.ofNat (field a.pay c 536) with pois := (upTo 67).any (fun j => s.payPois a (c + 8 * j)) }
      | none => LongAcc.ofNat (Config.undefAcc s.ticks n.val).toNat
    m := Vector.ofFn fun n : Fin 2 => match numGet (e.ms.zip (a.mPlaces q e)) n.val with
      | some c => Bank.load (s.payPois a) a.pay (64 * field a.hdr 6 1) c
      | none => ⟨some s.ticks, [], []⟩
    streams := Vector.ofFn fun n : Fin 4 => match numGet ((e.ss q).zip (a.sPlaces q e)) n.val with
      | some c => (numGet q.binds n.val).map fun (r : BindName) =>
          Binding.ofBytes ((a.pay.drop c).take 64) r.reg r.grp r.descAddr r.since
      | none => none }

/-- A restore loads the vector registers last. -/
theorem Hart.load_eq (g : Hart) (s : State) (q : Proc) (a : Area) (e : SafeEntry) :
    g.load s q a e = ((g.loadRest s q a e).undefV s.ticks).loadElems (s.payPois a) a.pay (vtSew a.vtype)
      a.liveCount (e.vs.zip (a.vPlaces q e)) := by
  unfold Hart.load Hart.loadRest
  cases hc : (e.emlive.getLsbD 4 || e.emlive.getLsbD 5)
  · rfl
  · rfl

end Sys2Proof.Machine
end

section
/-! SUPPORT. RESTORED ELEMENTS. What a restore leaves in the vector registers and the banks. -/

namespace Sys2Proof.Machine

/-! ### Elements of vector registers -/

/-- A fold in which the step of an entry establishes what no later step ends. -/
theorem foldl_establishes {σ α : Type} {f : σ → α → σ} {I : σ → Prop} {P : α → σ → Prop} {l : List α}
    (hI : ∀ s, ∀ a ∈ l, I s → I (f s a)) (hset : ∀ s, ∀ a ∈ l, I s → P a (f s a))
    (hkeep : ∀ s, ∀ a ∈ l, ∀ b ∈ l, I s → P a s → P a (f s b)) {s : σ} (hs : I s) : ∀ a ∈ l, P a (l.foldl f s) := by
  induction l using List.reverseRecOn with
  | nil => simp
  | append_singleton l x ih =>
    have hl : ∀ {a}, a ∈ l → a ∈ l ++ [x] := List.mem_append_left _
    have hx : x ∈ l ++ [x] := by simp
    have hi : I (l.foldl f s) := List.foldlRecOn l f hs fun t ht a ha => hI t a (hl ha) ht
    rw [List.foldl_append, List.foldl_cons, List.foldl_nil]
    intro a ha
    rcases List.mem_append.1 ha with h | h
    · exact hkeep _ a ha x hx hi (ih (fun s a ha => hI s a (hl ha)) (fun s a ha => hset s a (hl ha))
        (fun s a ha b hb => hkeep s a (hl ha) b (hl hb)) a h)
    · rw [List.mem_singleton.1 h]
      exact hset _ x hx hi

/-- Loading elements changes the vector storage and its poison alone. -/
theorem Hart.loadElems_frame (h : Hart) (pois : Nat → Bool) (b : List Byte) (w : Nat) (cnt : Nat → Nat) (ov : List (Nat × Nat)) :
    ∃ v p, h.loadElems pois b w cnt ov = { h with v := v, vPois := p } := by
  let Frame : Hart → Prop := fun g => ∃ v p, g = { h with v := v, vPois := p }
  have helem : ∀ (g : Hart) (c : Nat × Nat) i, Frame g → Frame
      (if pois (c.2 + i * (w / 8)) then (g.setElem w c.1 i (field b (c.2 + i * (w / 8)) (w / 8))).poisonElem w c.1 i
        else g.setElem w c.1 i (field b (c.2 + i * (w / 8)) (w / 8))) := by
    rintro _ c i ⟨v, p, rfl⟩
    split
    · exact ⟨_, _, rfl⟩
    · exact ⟨_, _, rfl⟩
  have hstart : Frame h := ⟨h.v, h.vPois, rfl⟩
  exact List.foldlRecOn ov _ hstart fun g hg c _ => List.foldlRecOn _ _ hg fun g hg i _ => helem g c i hg

/-- Element x.2 of register x.1.1, of the piece at x.1.2. -/
def Hart.putElem (b : List Byte) (n : Nat) (h : Hart) (x : (Nat × Nat) × Nat) : Hart :=
  h.setElem (8 * n) x.1.1 x.2 (field b (x.1.2 + x.2 * n) n)

/-- Without poison the elements are written one after another. -/
theorem Hart.loadElems_clean {pois : Nat → Bool} (hp : ∀ off, pois off = false) (h : Hart) (b : List Byte) (n : Nat)
    (cnt : Nat → Nat) (ov : List (Nat × Nat)) : h.loadElems pois b (8 * n) cnt ov =
      (ov.flatMap fun c => (upTo (cnt c.1)).map fun i => (c, i)).foldl (Hart.putElem b n) h := by
  simp only [Hart.loadElems, hp, List.foldl_flatMap, List.foldl_map, Bool.false_eq_true, if_false,
    Nat.mul_div_cancel_left n (by decide : 0 < 8)]
  rfl

/-- A hart whose vector storage is in order, with its elements where those of g are. -/
def Hart.Placed (g : Hart) (n : Nat) (h : Hart) : Prop :=
  h.v.Sorted ∧ ∀ r i, h.elemKey (8 * n) r i = g.elemKey (8 * n) r i

section
variable {g h : Hart} {b : List Byte} {n : Nat} {byte : Nat → Byte} {x : (Nat × Nat) × Nat}

theorem Hart.placed_putElem (hp : g.Placed n h) : g.Placed n (h.putElem b n x) :=
  ⟨(Hart.setElem_v ..).symm ▸ Bytes.sorted_putRun hp.1 _ _ _, hp.2⟩

/-- A byte of the storage after an element has been written whose bytes are those that a map of keys gives. -/
theorem Hart.get_putElem (hp : g.Placed n h)
    (hval : ∀ k < n, BitVec.ofNat 8 (field b (x.1.2 + x.2 * n) n / 256 ^ k) = byte (g.elemKey (8 * n) x.1.1 x.2 + k)) (K : Nat) :
    (h.putElem b n x).v.get K =
      if g.elemKey (8 * n) x.1.1 x.2 ≤ K ∧ K < g.elemKey (8 * n) x.1.1 x.2 + n then byte K else h.v.get K := by
  rw [Hart.putElem, Hart.setElem_v, Bytes.get_putRun hp.1, hp.2]
  refine ite_congr rfl (fun hK => ?_) fun _ => rfl
  rw [hval _ (by omega), Nat.add_sub_cancel' hK.1]

end

/-- The bytes that a load leaves, where the pieces give every element the bytes that some map of keys gives. -/
theorem Hart.get_loadElems {g : Hart} {pois : Nat → Bool} {b : List Byte} {n : Nat} {cnt : Nat → Nat} {ov : List (Nat × Nat)}
    (hs : g.v.Sorted) (hp : ∀ off, pois off = false) (byte : Nat → Byte)
    (hval : ∀ c ∈ ov, ∀ i < cnt c.1, ∀ k < n,
      BitVec.ofNat 8 (field b (c.2 + i * n) n / 256 ^ k) = byte (g.elemKey (8 * n) c.1 i + k))
    {c : Nat × Nat} (hc : c ∈ ov) {i k : Nat} (hi : i < cnt c.1) (hk : k < n) :
    (g.loadElems pois b (8 * n) cnt ov).v.get (g.elemKey (8 * n) c.1 i + k) = byte (g.elemKey (8 * n) c.1 i + k) := by
  rw [Hart.loadElems_clean hp]
  have hmem : ∀ x, x ∈ (ov.flatMap fun c => (upTo (cnt c.1)).map fun i => (c, i)) ↔ x.1 ∈ ov ∧ x.2 < cnt x.1.1 := by
    simp [upTo, Prod.ext_iff]
  have hget := fun (h : Hart) x hx hpl => Hart.get_putElem (h := h) (x := x) hpl
    (hval x.1 ((hmem x).1 hx).1 x.2 ((hmem x).1 hx).2)
  refine foldl_establishes (f := Hart.putElem b n) (I := g.Placed n) (P := fun x h => ∀ k < n,
    h.v.get (g.elemKey (8 * n) x.1.1 x.2 + k) = byte (g.elemKey (8 * n) x.1.1 x.2 + k)) (fun _ _ _ => Hart.placed_putElem)
    (fun h x hx hpl k hk => ?_) (fun h x _ y hy hpl hheld k hk => ?_) ⟨hs, fun _ _ => rfl⟩ (c, i) ((hmem _).2 ⟨hc, hi⟩) k hk
  · rw [hget h x hx hpl, if_pos ⟨by omega, by omega⟩]
  · rw [hget h y hy hpl, hheld k hk, ite_self]

theorem Hart.elemKey_shift {g h : Hart} (ht : g.vtype = h.vtype) (hl : g.lanes = h.lanes) (w r i : Nat) :
    g.elemKey w r i + 8 * h.lane0 = h.elemKey w r i + 8 * g.lane0 ∧ 8 * g.lane0 ≤ g.elemKey w r i := by
  simp only [Hart.elemKey, ht, hl]
  omega

/-- The bytes of an element's number are those of the storage. -/
theorem Hart.byte_elem (h : Hart) {n k : Nat} (hk : k < n) (r i : Nat) :
    BitVec.ofNat 8 (h.elem (8 * n) r i / 256 ^ k) = h.v.get (h.elemKey (8 * n) r i + k) := by
  have hbytes := leBytes_leNat ((upTo n).map fun j => h.v.get (h.elemKey (8 * n) r i + j))
  rw [← Hart.elem_eq_bytes, leBytes_eq_map] at hbytes
  simpa [upTo, hk] using congrArg (fun l : List Byte => l[k]?) hbytes

/-- An element that a load without poison leaves, where the pieces hold the elements of another hart. -/
theorem Hart.elem_loadElems {g h : Hart} {pois : Nat → Bool} {b : List Byte} {n : Nat} {cnt : Nat → Nat} {ov : List (Nat × Nat)}
    (hs : g.v.Sorted) (hp : ∀ off, pois off = false) (ht : g.vtype = h.vtype) (hl : g.lanes = h.lanes)
    (hpiece : ∀ c ∈ ov, ∀ i < cnt c.1, field b (c.2 + i * n) n = h.elem (8 * n) c.1 i)
    {c : Nat × Nat} (hc : c ∈ ov) {i : Nat} (hi : i < cnt c.1) :
    (g.loadElems pois b (8 * n) cnt ov).elem (8 * n) c.1 i = h.elem (8 * n) c.1 i := by
  have hbyte : ∀ r j k,
      h.v.get (g.elemKey (8 * n) r j + k + 8 * h.lane0 - 8 * g.lane0) = h.v.get (h.elemKey (8 * n) r j + k) := by
    intro r j k
    obtain ⟨hshift, hle⟩ := Hart.elemKey_shift ht hl (8 * n) r j
    congr 1
    omega
  have hkey : (g.loadElems pois b (8 * n) cnt ov).elemKey (8 * n) c.1 i = g.elemKey (8 * n) c.1 i := by
    obtain ⟨v, p, hframe⟩ := g.loadElems_frame pois b (8 * n) cnt ov
    rw [hframe]
    rfl
  rw [Hart.elem_eq_bytes, Hart.elem_eq_bytes, hkey]
  refine congrArg leNat (List.map_congr_left fun k hk => ?_)
  rw [Hart.get_loadElems hs hp (fun K => h.v.get (K + 8 * h.lane0 - 8 * g.lane0)) (fun c hc i hi k hk => ?_) hc hi
    (by simpa [upTo] using hk), hbyte]
  rw [hpiece c hc i hi, h.byte_elem hk, hbyte]

/-! ### Elements of banks (R34, R100) -/

theorem numGet_numDel {α : Type} (l : List (Nat × α)) (i j : Nat) :
    numGet (numDel l i) j = if j = i then none else numGet l j := by
  rw [numDel, numGet, List.find?_filter]
  split_ifs with h
  · subst h
    simp
  · rw [numGet]
    congr 2
    funext c
    by_cases hc : c.1 = j <;> simp [hc, h]

theorem Bank.get_of_defined {b : Bank} (h : b.epoch = none) (i : Nat) : b.get i = (numGet b.cells i).getD 0 := by
  unfold Bank.get numGet
  rw [h]
  cases b.cells.find? fun c => c.1 == i <;> rfl

theorem Bank.get_put {b : Bank} (h : b.epoch = none) (i j : Nat) (v : BitVec 128) :
    (b.put i v).get j = if j = i then v else b.get j := by
  rw [Bank.get_of_defined (b := b.put i v) h, Bank.get_of_defined h, Bank.put]
  dsimp only
  split_ifs with hv hj hj
  · simp [numGet_numDel, hj, hv.2]
  · simp [numGet_numDel, hj]
  · simp [hj, numGet_numPut_same]
  · simp [numGet_numPut_ne _ _ hj]

/-- An element of a bank that a load without poison leaves. -/
theorem Bank.get_load {pois : Nat → Bool} (hp : ∀ off, pois off = false) (b : List Byte) (c : Nat) {n k : Nat} (hk : k < n) :
    (Bank.load pois b n c).get k = BitVec.ofNat 128 (field b (c + 16 * k) 16) := by
  have hclean : Bank.load pois b n c =
      (upTo n).foldl (fun bk i => bk.put i (BitVec.ofNat 128 (field b (c + 16 * i) 16))) Bank.zero := by
    simp only [Bank.load, hp, Bool.false_eq_true, if_false]
  rw [hclean]
  refine foldl_establishes (f := fun bk i => Bank.put bk i (BitVec.ofNat 128 (field b (c + 16 * i) 16)))
    (I := fun bk => bk.epoch = none) (P := fun i bk => bk.get i = BitVec.ofNat 128 (field b (c + 16 * i) 16))
    (fun _ _ _ h => h) (fun bk i _ h => ?_) (fun bk i _ j _ h hi => ?_) rfl k (by simpa [upTo] using hk)
  · rw [Bank.get_put h, if_pos rfl]
  · rw [Bank.get_put h]
    split_ifs with hij
    · rw [hij]
    · exact hi

end Sys2Proof.Machine
end

section
/-! SUPPORT. PIECES OF A CONTEXT. The pieces that a save lays out, by register, and where a restore finds them. -/

namespace Sys2Proof.Machine

/-! ### The fixed block (R75) -/

theorem length_fixedBlock (h : Hart) (idx : Nat) : (h.fixedBlock idx).length = 64 := by
  simp [Hart.fixedBlock]

/-- What the fixed block says. -/
theorem field_fixedBlock (h : Hart) {idx : Nat} (hi : idx < 65536) :
    let b := h.fixedBlock idx
    field b 0 2 = idx ∧ field b 2 2 = h.vtype.toNat ∧ field b 4 4 = h.vl.toNat ∧ field b 8 8 = h.srseed.toNat ∧
    field b 0x10 8 = h.srcount.toNat ∧ field b 0x18 1 = h.fflags.toNat ∧ field b 0x19 1 = h.msprec.toNat ∧
    field b 0x1A 2 = h.msanchor.toNat ∧ field b 0x1C 2 = h.msm.toNat ∧ field b 0x1E 2 = h.msn.toNat ∧
    field b 0x20 2 = h.msk.toNat := by
  have hvt := h.vtype.isLt
  have hvl := h.vl.isLt
  have hss := h.srseed.isLt
  have hsc := h.srcount.isLt
  have hff := h.fflags.isLt
  have hmp := h.msprec.isLt
  have hma := h.msanchor.isLt
  have hmm := h.msm.isLt
  have hmn := h.msn.isLt
  have hmk := h.msk.isLt
  simp only [Hart.fixedBlock, List.append_assoc]
  refine ⟨?_, ?_, ?_, ?_, ?_, ?_, ?_, ?_, ?_, ?_, ?_⟩
  all_goals
    simp (disch := decide) only [field_leBytes_append, field_leBytes_append_of_le, Nat.reduceSub, Nat.reducePow]
    omega

/-! ### The bytes of a register's piece (R75) -/

def Hart.xBytes (h : Hart) (i : Nat) : List Byte := leBytes 8 (h.x.toList.getD i 0).toNat
def Hart.pBytes (h : Hart) (n : Nat) : List Byte :=
  leBytes ((h.vl.toNat + 63) / 64 * 8) ((h.p.toList.getD n 0).toNat % 2 ^ h.vl.toNat)
def Hart.eBytes (h : Hart) (n : Nat) : List Byte := leBytes 536 (h.e.toList.getD n LongAcc.zero).toNat
def Hart.mBytes (h : Hart) (n : Nat) : List Byte :=
  (upTo (64 * h.lanes)).flatMap fun i => leBytes 16 ((h.m.toList.getD n Bank.zero).get i).toNat
def Hart.sBytes (h : Hart) (n : Nat) : List Byte := ((h.streams.toList.getD n none).map Binding.bytes).getD []

theorem length_vPiece (h : Hart) (j : Nat) : (h.vPiece j).bytes.length = h.liveCount j * (vtSew h.vtype / 8) :=
  length_chunks ..

theorem length_mBytes (h : Hart) (n : Nat) : (h.mBytes n).length = 1024 * h.lanes := by
  rw [Hart.mBytes, length_chunks]
  omega

theorem Binding.length_bytes (b : Binding) : b.bytes.length = 64 := by
  simp [Binding.bytes]

/-! ### The streams that a save names (R76) -/

theorem numGet_append {α : Type} (l : List (Nat × α)) (i j : Nat) (v : Option α) :
    numGet (l ++ (v.map fun b => (i, b)).toList) j = (numGet l j).or (if i = j then v else none) := by
  unfold numGet
  rw [List.find?_append]
  cases l.find? fun c => c.1 == j with
  | some c => simp
  | none => cases v <;> by_cases h : i = j <;> simp [h]

/-- The name that a save keeps of a slot is that of its binding. -/
theorem numGet_named {α β : Type} (f : α → β) (l : List (Option α)) (i : Nat) :
    numGet ((l.mapIdx fun n o => (n, o)).filterMap fun no => no.2.map fun b => (no.1, f b)) i = (l.getD i none).map f := by
  induction l using List.reverseRecOn with
  | nil => rfl
  | append_singleton l o ih =>
    have hone : ([(l.length, o)].filterMap fun no : Nat × Option α => no.2.map fun b => (no.1, f b)) =
        ((o.map f).map fun b => (l.length, b)).toList := by cases o <;> rfl
    rw [List.mapIdx_append, List.filterMap_append, List.mapIdx_singleton, Nat.zero_add, hone, numGet_append, ih]
    rcases lt_trichotomy i l.length with h | h | h
    · rw [List.getD_append _ _ _ _ h, if_neg (by omega), Option.or_none]
    · subst h
      simp
    · rw [List.getD_eq_default _ _ h.le, List.getD_eq_default _ _ (by simp; omega), if_neg (by omega)]
      rfl

theorem Hart.numGet_binds (h : Hart) (q : Proc) (n : Nat) : numGet (h.savedProc q).binds n =
    (h.streams.toList.getD n none).map fun b => ⟨b.reg, b.grp, b.descAddr, b.since⟩ :=
  numGet_named ..

/-! ### The pieces together -/

theorem filterMap_map_filter {α β γ : Type} (p : α → Bool) (o : α → Option β) (f : β → γ) (d : γ) (l : List α) :
    (l.filter p).filterMap (fun a => (o a).map f) =
      (l.filter fun a => p a && (o a).isSome).map fun a => ((o a).map f).getD d := by
  induction l with
  | nil => rfl
  | cons a l ih =>
    cases hp : p a with
    | false => simpa [hp] using ih
    | true => cases ho : o a <;> simpa [hp, ho] using ih

/-- The bytes of the pieces, in order. -/
theorem Hart.bytes_pieces (h : Hart) (q : Proc) (idx : Nat) (e : SafeEntry) : (h.pieces idx e).map (·.bytes) =
    h.fixedBlock idx :: (e.xs.map h.xBytes ++ (e.vs.map (fun j => (h.vPiece j).bytes) ++ (e.ps.map h.pBytes ++
      (e.es.map h.eBytes ++ (e.ms.map h.mBytes ++ (e.ss (h.savedProc q)).map h.sBytes))))) := by
  have hss : ((upTo 4).filter fun n => e.slive.getLsbD n).filterMap (fun n => (h.streams.toList.getD n none).map Binding.bytes) =
      (e.ss (h.savedProc q)).map h.sBytes := by
    rw [filterMap_map_filter _ _ _ []]
    simp only [SafeEntry.ss, Hart.numGet_binds, Option.isSome_map]
    rfl
  simp only [Hart.pieces, List.map_append, List.map_map, List.map_filterMap, List.append_assoc, List.map_cons,
    List.singleton_append, Option.map_map, Function.comp_def]
  rw [hss]
  rfl

theorem getD_toList_fin {α : Type} {n : Nat} (v : Vector α n) (i : Fin n) (d : α) : v.toList.getD i d = v[i] :=
  (List.getD_eq_getElem _ _ (by simp)).trans (by simp)

theorem forall_getD_toList {α : Type} {n : Nat} {P : α → Prop} {v : Vector α n} {d : α} (hd : P d) (h : ∀ k : Fin n, P v[k])
    (i : Nat) : P (v.toList.getD i d) := by
  by_cases hi : i < n
  · simpa [hi] using h ⟨i, hi⟩
  · rwa [List.getD_eq_default _ _ (by simpa using hi)]

/-- Nothing is saved poisoned from a hart that has no poison. -/
theorem Hart.pois_pieces {h : Hart} (hv : h.vPois = []) (hx : h.xPois = 0) (he : ∀ k : Fin 4, h.e[k].pois = false)
    (hm : ∀ k : Fin 2, h.m[k].pois = []) (idx : Nat) (e : SafeEntry) : ∀ p ∈ h.pieces idx e, p.pois = [] := by
  have he' := forall_getD_toList (P := fun a : LongAcc => a.pois = false) (d := LongAcc.zero) rfl he
  have hm' := forall_getD_toList (P := fun b : Bank => b.pois = []) (d := Bank.zero) rfl hm
  simp only [Hart.pieces, List.mem_append, List.mem_singleton, List.mem_map, List.mem_filterMap, Option.map_eq_some_iff]
  rintro p ((((((rfl | ⟨i, -, rfl⟩) | ⟨j, -, rfl⟩) | ⟨n, -, rfl⟩) | ⟨n, -, rfl⟩) | ⟨n, -, rfl⟩) | ⟨n, -, b, -, rfl⟩)
  · rfl
  · simp [hx]
  · simp [Hart.vPiece, Hart.elemPois_nil hv]
  · rfl
  · simp only [he', Bool.false_eq_true, if_false]
  · simp only [hm', List.map_nil]
  · rfl

/-! ### The fields and the places of a saved area (R75, R352) -/

section
variable {s : State} {h : Hart} {q : Proc} {idx : Nat} {e : SafeEntry}

/-- Every piece of a saved area stands at its place. -/
theorem State.savedArea_held (s : State) (h : Hart) (q : Proc) (idx : Nat) (e : SafeEntry) :
    List.Forall₂ (fun c bs => bs <+: (s.savedArea h q idx e).pay.drop c)
      (placeFrom 0 ((h.pieces idx e).map (·.bytes.length))) ((h.pieces idx e).map (·.bytes)) :=
  layPieces_held (h.pieces idx e) []

/-- A field of the fixed block of a saved area. -/
theorem State.field_savedPay {off n : Nat} (hn : off + n ≤ 64) :
    field (s.savedArea h q idx e).pay off n = field (h.fixedBlock idx) off n := by
  have hheld := s.savedArea_held h q idx e
  rw [h.bytes_pieces q] at hheld
  obtain ⟨c, offs, hc, -, hplaces⟩ := List.forall₂_cons_right_iff.1 hheld
  have h0 : c = 0 := (List.cons.inj hplaces).1.symm
  subst h0
  simpa using field_of_prefix hc (by rw [length_fixedBlock]; exact hn)

theorem State.vtype_savedArea (hi : idx < 65536) : (s.savedArea h q idx e).vtype = h.vtype := by
  obtain ⟨-, hvt, -⟩ := field_fixedBlock h hi
  rw [Area.vtype, State.field_savedPay (by decide), hvt, BitVec.ofNat_toNat, BitVec.setWidth_eq]

theorem State.vl_savedArea (hi : idx < 65536) : (s.savedArea h q idx e).vl = h.vl.toNat := by
  obtain ⟨-, -, hvl, -⟩ := field_fixedBlock h hi
  rw [Area.vl, State.field_savedPay (by decide), hvl, Nat.mod_eq_of_lt h.vl.isLt]

theorem State.lanes_savedArea (hl : h.lanes < 256) : field (s.savedArea h q idx e).hdr 6 1 = h.lanes := by
  obtain ⟨-, -, hlanes, -⟩ := s.field_savedHdr h q e idx
  rw [hlanes, Nat.mod_eq_of_lt hl]

theorem State.liveCount_savedArea (hi : idx < 65536) (hl : h.lanes < 256) : (s.savedArea h q idx e).liveCount = h.liveCount := by
  funext j
  rw [Area.liveCount, State.vtype_savedArea hi, State.vl_savedArea hi, State.lanes_savedArea hl, BitVec.ofNat_toNat,
    BitVec.setWidth_eq]
  rfl

/-- A restore finds the pieces where the save has laid them. -/
theorem State.places_savedArea (hi : idx < 65536) (hl : h.lanes < 256) :
    let a := s.savedArea h q idx e
    List.Forall₂ (fun c bs => bs <+: a.pay.drop c) (a.places (h.savedProc q) e)
      (e.xs.map h.xBytes ++ (e.vs.map (fun j => (h.vPiece j).bytes) ++ (e.ps.map h.pBytes ++
        (e.es.map h.eBytes ++ (e.ms.map h.mBytes ++ (e.ss (h.savedProc q)).map h.sBytes))))) := by
  have hs : ∀ n ∈ e.ss (h.savedProc q), (h.sBytes n).length = 64 := by
    intro n hn
    have hbound : (numGet (h.savedProc q).binds n).isSome = true := by
      simp only [SafeEntry.ss, List.mem_filter, Bool.and_eq_true] at hn
      exact hn.2.2
    rw [Hart.numGet_binds, Option.isSome_map] at hbound
    obtain ⟨b, hb⟩ := Option.isSome_iff_exists.1 hbound
    rw [Hart.sBytes, hb]
    exact b.length_bytes
  have hlens : (h.pieces idx e).map (·.bytes.length) = 64 :: (e.xs.map (fun _ => 8) ++
      e.vs.map (fun j => h.liveCount j * (vtSew h.vtype / 8)) ++ e.ps.map (fun _ => (h.vl.toNat + 63) / 64 * 8) ++
      e.es.map (fun _ => 536) ++ e.ms.map (fun _ => 1024 * h.lanes) ++ (e.ss (h.savedProc q)).map (fun _ => 64)) := by
    rw [show (fun p : Piece => p.bytes.length) = List.length ∘ (·.bytes) from rfl, ← List.map_map, h.bytes_pieces q]
    simp only [List.map_cons, List.map_append, List.map_map, Function.comp_def, length_fixedBlock, Hart.xBytes, length_leBytes,
      length_vPiece, Hart.pBytes, Hart.eBytes, length_mBytes, List.append_assoc, List.map_congr_left hs]
  have hheld := s.savedArea_held h q idx e
  rw [hlens, h.bytes_pieces q] at hheld
  have hplaces := (List.forall₂_cons.1 hheld).2
  intro a
  rw [Area.places, State.vtype_savedArea hi, State.vl_savedArea hi, State.lanes_savedArea hl, State.liveCount_savedArea hi hl]
  exact hplaces

end

end Sys2Proof.Machine
end

section
/-! SUPPORT. REGISTERS OF A CONTEXT. What each register of a saved context holds after the restore. -/

namespace Sys2Proof.Machine

/-! ### Pieces and the registers that they stand for -/

theorem mem_zip_of_forall₂ {β : Type} {R : Nat → β → Prop} {f : Nat → β} {rest : List β} : ∀ {xs offs : List Nat},
    List.Forall₂ R offs (xs.map f ++ rest) → (∀ i ∈ xs, ∃ c, (i, c) ∈ xs.zip offs) ∧ ∀ c ∈ xs.zip offs, R c.2 (f c.1)
  | [], _, _ => by simp
  | x :: xs, c :: offs, .cons hc h => by
    obtain ⟨hex, hall⟩ := mem_zip_of_forall₂ h
    rw [List.zip_cons_cons, List.forall_mem_cons, List.forall_mem_cons]
    exact ⟨⟨⟨c, by simp⟩, fun i hi => (hex i hi).imp fun _ => List.mem_cons_of_mem _⟩, hc, hall⟩

theorem two_pow_le_bytes {w n : Nat} (h : w ≤ 8 * n) : 2 ^ w ≤ 256 ^ n :=
  (Nat.pow_le_pow_right (by decide) h).trans_eq (Nat.pow_mul 2 8 n)

theorem ofNat_toNat_mod {w n : Nat} (h : w ≤ 8 * n) (x : BitVec w) : BitVec.ofNat w (x.toNat % 256 ^ n) = x := by
  rw [Nat.mod_eq_of_lt (x.isLt.trans_le (two_pow_le_bytes h)), BitVec.ofNat_toNat, BitVec.setWidth_eq]

/-- A number with three bits above the first N. -/
theorem bits_above {N v : Nat} (hv : v < 2 ^ N) (a b c : Bool) :
    let x := v + (if a then 2 ^ N else 0) + (if b then 2 ^ (N + 1) else 0) + (if c then 2 ^ (N + 2) else 0)
    x % 2 ^ N = v ∧ x.testBit N = a ∧ x.testBit (N + 1) = b ∧ x.testBit (N + 2) = c ∧ x < 2 ^ (N + 3) := by
  have hbit : ∀ (d : Bool) n, (if d then 2 ^ n else 0) = 2 ^ n * d.toNat := fun d n => by cases d <;> simp
  obtain ⟨h0, h1, h2, hm⟩ : (a.toNat + 2 * b.toNat + 4 * c.toNat).testBit 0 = a ∧
      (a.toNat + 2 * b.toNat + 4 * c.toNat).testBit 1 = b ∧ (a.toNat + 2 * b.toNat + 4 * c.toNat).testBit 2 = c ∧
      a.toNat + 2 * b.toNat + 4 * c.toNat < 8 := by
    revert a b c
    decide
  have hx : v + (if a then 2 ^ N else 0) + (if b then 2 ^ (N + 1) else 0) + (if c then 2 ^ (N + 2) else 0) =
      2 ^ N * (a.toNat + 2 * b.toNat + 4 * c.toNat) + v := by
    rw [hbit, hbit, hbit]
    ring
  dsimp only
  rw [hx]
  generalize a.toNat + 2 * b.toNat + 4 * c.toNat = m at *
  simp only [Nat.testBit_two_pow_mul_add _ hv, lt_irrefl, Nat.not_lt.2 (Nat.le_add_right N _), if_false, Nat.sub_self,
    Nat.add_sub_cancel_left, h0, h1, h2, true_and]
  refine ⟨by rw [Nat.mul_add_mod, Nat.mod_eq_of_lt hv], ?_⟩
  calc 2 ^ N * m + v < 2 ^ N * (m + 1) := Nat.add_lt_add_left hv _
    _ ≤ 2 ^ N * 8 := Nat.mul_le_mul_left _ hm
    _ = 2 ^ (N + 3) := by ring

/-- V and the flags in an accumulator's number (R97). -/
theorem LongAcc.bits_toNat (a : LongAcc) : a.toNat % 2 ^ 4260 = a.v.toNat ∧ a.toNat.testBit 4260 = a.n ∧
    a.toNat.testBit 4261 = a.pi ∧ a.toNat.testBit 4262 = a.ni ∧ a.toNat < 2 ^ 4263 :=
  bits_above a.v.isLt a.n a.pi a.ni

/-- An accumulator without poison is the one its 536 bytes give (R97, R239). -/
theorem LongAcc.ofNat_toNat_mod {a : LongAcc} (hp : a.pois = false) : LongAcc.ofNat (a.toNat % 256 ^ 536) = a := by
  obtain ⟨hv, hn, hpi, hni, hlt⟩ := a.bits_toNat
  rw [Nat.mod_eq_of_lt (hlt.trans_le (two_pow_le_bytes (by decide))), LongAcc.ofNat, hn, hpi, hni, ← hp,
    show BitVec.ofNat 4260 a.toNat = a.v from BitVec.eq_of_toNat_eq ((BitVec.toNat_ofNat ..).trans hv)]

theorem width_and_store : ∀ (w : BitVec 2) (d : Bool), ((w.toNat + if d then 4 else 0) % 256 ^ 1).testBit 2 = d ∧
    BitVec.ofNat 2 ((w.toNat + if d then 4 else 0) % 256 ^ 1) = w := by
  decide

/-- A binding is the one its bytes give (R76). -/
theorem Binding.ofBytes_bytes {b : Binding} (hpos : b.pos < 2 ^ 64) :
    Binding.ofBytes b.bytes b.reg b.grp b.descAddr b.since = b := by
  have hbytes : b.bytes = leBytes 8 b.base.toNat ++ (leBytes 8 b.stride0.toNat ++ (leBytes 8 b.stride1.toNat ++
      (leBytes 8 b.stride2.toNat ++ (leBytes 4 b.count0.toNat ++ (leBytes 4 b.count1.toNat ++ (leBytes 4 b.count2.toNat ++
      (leBytes 1 (b.width.toNat + if b.store then 4 else 0) ++ (leBytes 3 ((b.width.toNat + if b.store then 4 else 0) / 256) ++
      (leBytes 8 b.pos ++ leBytes 8 0))))))))) := by
    simp only [Binding.bytes, List.append_assoc]
    rfl
  obtain ⟨hstore, hwidth⟩ := width_and_store b.width b.store
  rw [hbytes, Binding.ofBytes]
  simp (disch := decide) only [field_leBytes_append, field_leBytes_append_of_le, Nat.reduceSub, ofNat_toNat_mod, hstore, hwidth]
  rw [Nat.mod_eq_of_lt (show b.pos < 256 ^ 8 from hpos)]

end Sys2Proof.Machine
end

section
/-! SUPPORT. ROUND TRIP OF A CONTEXT. The registers after a restore of what a save has written. -/

namespace Sys2Proof.Machine

theorem State.gmPois_gmStore {s : State} (hp : s.gmPois = []) (p : Phys) (bs : List Byte) : (s.gmStore p bs).gmPois = [] := by
  have hlog : ∀ (t : State) k n, (t.logDirty k n).gmPois = t.gmPois := by
    intro t k n
    unfold State.logDirty
    split <;> rfl
  have hkeyed : ∀ (t : State) k g, (t.rekey k g).gmPois = t.gmPois := by
    intro t k g
    unfold State.rekey
    split
    · rfl
    · split <;> rfl
  unfold State.gmStore
  rw [hlog]
  dsimp only
  rw [foldl_keeps State.gmPois _ fun t g => hkeyed t _ g, hp]
  split <;> rfl

theorem Hart.loadRest_vtype (g : Hart) (s : State) (q : Proc) (a : Area) (e : SafeEntry) :
    (g.loadRest s q a e).vtype = a.vtype := rfl

theorem Hart.loadRest_lanes (g : Hart) (s : State) (q : Proc) (a : Area) (e : SafeEntry) :
    (g.loadRest s q a e).lanes = g.lanes := by
  simp only [Hart.loadRest]

/-- A restore gives every register before the elements of the vector registers. -/
theorem Hart.load_frame (g : Hart) (s : State) (q : Proc) (a : Area) (e : SafeEntry) :
    ∃ v p, g.load s q a e = { g.loadRest s q a e with v := v, vPois := p } := by
  rw [Hart.load_eq]
  generalize g.loadRest s q a e = r
  exact Hart.loadElems_frame (r.undefV s.ticks) ..

theorem exists_bytes_vtSew (t : BitVec 16) : ∃ n, vtSew t = 8 * n :=
  ⟨2 ^ (t.extractLsb' 0 3).toNat, Nat.shiftLeft_eq ..⟩

section
variable {s t : State} {h g : Hart} {q : Proc} {idx : Nat} {e : SafeEntry}

/-- Where a restore finds the pieces of each kind of register. -/
theorem State.placesOf_savedArea (s : State) (q : Proc) (e : SafeEntry) (hi : idx < 65536) (hl : h.lanes < 256) :
    let a := s.savedArea h q idx e
    let q' := h.savedProc q
    (∀ i ∈ e.xs, ∃ c, numGet (e.xs.zip (a.places q' e)) i = some c ∧ h.xBytes i <+: a.pay.drop c) ∧
    ((∀ j ∈ e.vs, ∃ c, (j, c) ∈ e.vs.zip (a.vPlaces q' e)) ∧
      ∀ c ∈ e.vs.zip (a.vPlaces q' e), (h.vPiece c.1).bytes <+: a.pay.drop c.2) ∧
    (∀ n ∈ e.ps, ∃ c, numGet (e.ps.zip (a.pPlaces q' e)) n = some c ∧ h.pBytes n <+: a.pay.drop c) ∧
    (∀ n ∈ e.es, ∃ c, numGet (e.es.zip (a.ePlaces q' e)) n = some c ∧ h.eBytes n <+: a.pay.drop c) ∧
    (∀ n ∈ e.ms, ∃ c, numGet (e.ms.zip (a.mPlaces q' e)) n = some c ∧ h.mBytes n <+: a.pay.drop c) ∧
    (∀ n ∈ e.ss q', ∃ c, numGet ((e.ss q').zip (a.sPlaces q' e)) n = some c ∧ h.sBytes n <+: a.pay.drop c) := by
  have hx := State.places_savedArea (s := s) (h := h) (q := q) (e := e) hi hl
  have hv := forall₂_drop hx
  have hp := forall₂_drop hv
  have he := forall₂_drop hp
  have hm := forall₂_drop he
  have hs := forall₂_drop hm
  rw [← List.append_nil (List.map h.sBytes _)] at hs
  exact ⟨fun _ => numGet_zip hx, mem_zip_of_forall₂ hv, fun _ => numGet_zip hp, fun _ => numGet_zip he, fun _ => numGet_zip hm,
    fun _ => numGet_zip hs⟩

/-! ### Each register after the restore (R354 step 4) -/

theorem SafeEntry.mem_regs (e : SafeEntry) : (∀ i : Fin 32, e.xlive.getLsbD i = true → i.val ∈ e.xs) ∧
    (∀ j < 32, e.vlive.getLsbD j = true → j ∈ e.vs) ∧ (∀ n : Fin 8, e.plive.getLsbD n = true → n.val ∈ e.ps) ∧
    (∀ n : Fin 4, e.emlive.getLsbD n = true → n.val ∈ e.es) ∧ ∀ n : Fin 2, e.emlive.getLsbD (4 + n) = true → n.val ∈ e.ms := by
  simp +contextual [SafeEntry.xs, SafeEntry.vs, SafeEntry.ps, SafeEntry.es, SafeEntry.ms, upTo]

theorem Hart.loadRest_x (g : Hart) (hi : idx < 65536) (hl : h.lanes < 256) (i : Fin 32) (hlive : e.xlive.getLsbD i = true) :
    (g.loadRest t (h.savedProc q) (s.savedArea h q idx e) e).x[i] = h.x[i] := by
  obtain ⟨hx, -⟩ := s.placesOf_savedArea q e hi hl
  obtain ⟨hregs, -⟩ := e.mem_regs
  obtain ⟨c, hc, hheld⟩ := hx i (hregs i hlive)
  refine (Vector.getElem_ofFn _).trans ?_
  have hfield := field_of_prefix hheld (off := 0) (n := 8) (by simp [Hart.xBytes])
  rw [Nat.add_zero, Hart.xBytes, field_leBytes, getD_toList_fin] at hfield
  dsimp only
  rw [hc]
  dsimp only
  rw [hfield, ofNat_toNat_mod (by decide)]

theorem Hart.loadRest_p (g : Hart) (hi : idx < 65536) (hl : h.lanes < 256) (n : Fin 8) (hlive : e.plive.getLsbD n = true)
    {k : Nat} (hk : k < h.vl.toNat) :
    (g.loadRest t (h.savedProc q) (s.savedArea h q idx e) e).p[n].getLsbD k = h.p[n].getLsbD k := by
  obtain ⟨-, -, hp, -⟩ := s.placesOf_savedArea q e hi hl
  obtain ⟨-, -, hregs, -⟩ := e.mem_regs
  obtain ⟨c, hc, hheld⟩ := hp n (hregs n hlive)
  refine (congrArg (fun b : BitVec 65536 => b.getLsbD k) (Vector.getElem_ofFn _)).trans ?_
  have hfield := field_of_prefix hheld (off := 0) (n := (h.vl.toNat + 63) / 64 * 8) (by simp [Hart.pBytes])
  have hlt : h.p[n].toNat % 2 ^ h.vl.toNat < 256 ^ ((h.vl.toNat + 63) / 64 * 8) :=
    (Nat.mod_lt _ (Nat.two_pow_pos _)).trans_le (two_pow_le_bytes (by omega))
  rw [Nat.add_zero, Hart.pBytes, field_leBytes, getD_toList_fin, Nat.mod_eq_of_lt hlt] at hfield
  dsimp only
  rw [hc]
  dsimp only
  rw [State.vl_savedArea hi, hfield, BitVec.getLsbD_ofNat, Nat.add_comm, Nat.mul_comm,
    Nat.testBit_two_pow_mul_add _ (Nat.mod_lt _ (Nat.two_pow_pos _)), if_pos hk, Nat.mod_mod, Nat.testBit_mod_two_pow,
    decide_eq_true hk, Bool.true_and]
  by_cases hk' : k < 65536
  · rw [decide_eq_true hk', Bool.true_and, BitVec.testBit_toNat]
  · rw [decide_eq_false hk', Bool.false_and, BitVec.getLsbD_of_ge _ _ (by omega)]

theorem Hart.loadRest_e (g : Hart) (hi : idx < 65536) (hl : h.lanes < 256) (ht : t.gmPois = []) (n : Fin 4)
    (hlive : e.emlive.getLsbD n = true) (hp : h.e[n].pois = false) :
    (g.loadRest t (h.savedProc q) (s.savedArea h q idx e) e).e[n] = h.e[n] := by
  obtain ⟨-, -, -, he, -⟩ := s.placesOf_savedArea q e hi hl
  obtain ⟨-, -, -, hregs, -⟩ := e.mem_regs
  obtain ⟨c, hc, hheld⟩ := he n (hregs n hlive)
  refine (Vector.getElem_ofFn _).trans ?_
  have hfield := field_of_prefix hheld (off := 0) (n := 536) (by simp [Hart.eBytes])
  rw [Nat.add_zero, Hart.eBytes, field_leBytes, getD_toList_fin] at hfield
  dsimp only
  rw [hc]
  dsimp only
  have hclean : ((upTo 67).any fun j => t.payPois (s.savedArea h q idx e) (c + 8 * j)) = false := by
    simp [State.payPois, ht, setHas]
  rw [hfield, hclean, LongAcc.ofNat_toNat_mod hp, ← hp]

theorem Hart.loadRest_m (g : Hart) (hi : idx < 65536) (hl : h.lanes < 256) (ht : t.gmPois = []) (n : Fin 2)
    (hlive : e.emlive.getLsbD (4 + n) = true) {k : Nat} (hk : k < 64 * h.lanes) :
    ((g.loadRest t (h.savedProc q) (s.savedArea h q idx e) e).m[n]).get k = (h.m[n]).get k := by
  obtain ⟨-, -, -, -, hm, -⟩ := s.placesOf_savedArea q e hi hl
  obtain ⟨-, -, -, -, hregs⟩ := e.mem_regs
  obtain ⟨c, hc, hheld⟩ := hm n (hregs n hlive)
  refine (congrArg (fun b : Bank => b.get k) (Vector.getElem_ofFn _)).trans ?_
  have hfield := field_of_prefix hheld (off := k * 16) (n := 16) (by rw [length_mBytes]; omega)
  rw [Hart.mBytes, field_chunks hk, getD_toList_fin, Nat.mul_comm k] at hfield
  dsimp only
  rw [hc]
  dsimp only
  rw [State.lanes_savedArea hl, Bank.get_load (fun off => by simp [State.payPois, ht, setHas]) _ _ hk, hfield,
    ofNat_toNat_mod (by decide)]

theorem Hart.loadRest_streams (g : Hart) (hi : idx < 65536) (hl : h.lanes < 256) (n : Fin 4)
    (hpos : ∀ b, h.streams[n] = some b → b.pos < 2 ^ 64) :
    (g.loadRest t (h.savedProc q) (s.savedArea h q idx e) e).streams[n] =
      if e.slive.getLsbD n then h.streams[n] else none := by
  obtain ⟨-, -, -, -, -, hs⟩ := s.placesOf_savedArea q e hi hl
  have hname := h.numGet_binds q n
  rw [getD_toList_fin] at hname
  refine (Vector.getElem_ofFn _).trans ?_
  dsimp only
  by_cases hmem : n.val ∈ e.ss (h.savedProc q)
  · obtain ⟨c, hc, hheld⟩ := hs n hmem
    obtain ⟨hlive, hbound⟩ : e.slive.getLsbD n = true ∧ h.streams[n].isSome = true := by
      simpa [SafeEntry.ss, upTo, hname] using hmem
    obtain ⟨b, hb⟩ := Option.isSome_iff_exists.1 hbound
    rw [Hart.sBytes, getD_toList_fin, hb] at hheld
    rw [hc, hname, hlive, hb]
    have hbytes : ((s.savedArea h q idx e).pay.drop c).take 64 = b.bytes := by
      rw [← b.length_bytes]
      exact (List.prefix_iff_eq_take.1 hheld).symm
    simp only [Option.map_some, hbytes, Binding.ofBytes_bytes (hpos b hb), if_true]
  · rw [numGet_zip_none _ hmem]
    dsimp only
    split_ifs with hlive
    · cases hb : h.streams[n] with
      | none => rfl
      | some b => exact absurd (by simp [SafeEntry.ss, upTo, hname, hb, hlive]) hmem
    · rfl

theorem Hart.load_elem (hi : idx < 65536) (hl : h.lanes < 256) (ht : t.gmPois = []) (hg : g.lanes = h.lanes) {j : Nat}
    (hj : j < 32) (hlive : e.vlive.getLsbD j = true) {k : Nat} (hk : k < h.liveCount j) :
    (g.load t (h.savedProc q) (s.savedArea h q idx e) e).elem (vtSew h.vtype) j k = h.elem (vtSew h.vtype) j k := by
  obtain ⟨-, ⟨hex, hheld⟩, -⟩ := s.placesOf_savedArea q e hi hl
  obtain ⟨-, hregs, -⟩ := e.mem_regs
  obtain ⟨c, hc⟩ := hex j (hregs j hj hlive)
  obtain ⟨n, hn⟩ := exists_bytes_vtSew h.vtype
  have hvt := (g.loadRest_vtype t (h.savedProc q) (s.savedArea h q idx e) e).trans (State.vtype_savedArea hi)
  have hlanes := (g.loadRest_lanes t (h.savedProc q) (s.savedArea h q idx e) e).trans hg
  rw [Hart.load_eq, State.vtype_savedArea hi, State.liveCount_savedArea hi hl, hn]
  generalize g.loadRest t (h.savedProc q) (s.savedArea h q idx e) e = r at hvt hlanes ⊢
  refine Hart.elem_loadElems (g := r.undefV t.ticks) (c := (j, c)) ⟨by simp [Hart.undefV, CellsRise], by simp [Hart.undefV]⟩
    (fun off => by simp [State.payPois, ht, setHas]) hvt hlanes (fun x hx i hix => ?_) hc hk
  have hlen := length_vPiece h x.1
  have hle : i * n + n ≤ h.liveCount x.1 * n := by rw [← Nat.succ_mul]; exact Nat.mul_le_mul_right n hix
  rw [hn, Nat.mul_div_cancel_left n (by decide)] at hlen
  rw [field_of_prefix (hheld x hx) (by rw [hlen]; exact hle), Hart.vPiece, hn, Nat.mul_div_cancel_left n (by decide)]
  dsimp only
  rw [field_chunks hix, Nat.mod_eq_of_lt]
  rw [Hart.elem_eq_bytes]
  exact (leNat_lt _).trans_eq (by simp [upTo])

/-- The registers of the fixed block and of the header. -/
theorem Hart.loadRest_fixed (g : Hart) (hi : idx < 65536) (hg : g.lanes = h.lanes) (hvl : h.vl.toNat ≤ vlmaxOf h.lanes h.vtype) :
    let r := g.loadRest t (h.savedProc q) (s.savedArea h q idx e) e
    r.vtype = h.vtype ∧ r.vl = h.vl ∧ r.srseed = h.srseed ∧ r.srcount = h.srcount ∧ r.fflags = h.fflags ∧
    r.msprec = h.msprec ∧ r.msanchor = h.msanchor ∧ r.steeplim = h.steeplim ∧ r.quantum = h.quantum ∧
    r.prioLevel = h.prioLevel := by
  obtain ⟨-, -, -, -, -, -, -, -, hsteep, hprio, hquantum, -⟩ := s.field_savedHdr h q e idx
  obtain ⟨-, -, -, hseed, hcount, hflags, hprec, hanchor, -⟩ := field_fixedBlock h hi
  have hmin : Nat.min h.vl.toNat (vlmaxOf g.lanes h.vtype) = h.vl.toNat := Nat.min_eq_left (hg ▸ hvl)
  simp (disch := decide) only [Hart.loadRest, State.vtype_savedArea hi, State.vl_savedArea hi, hmin, State.field_savedPay,
    hseed, hcount, hflags, hprec, hanchor, hsteep, hprio, hquantum, BitVec.ofNat_toNat, BitVec.setWidth_eq, and_self]

/-- The shape of the matrix operands, where a bank lives (R268). -/
theorem Hart.loadRest_shape (g : Hart) (hi : idx < 65536) (n : Fin 2) (hlive : e.emlive.getLsbD (4 + n) = true) :
    let r := g.loadRest t (h.savedProc q) (s.savedArea h q idx e) e
    r.msm = h.msm ∧ r.msn = h.msn ∧ r.msk = h.msk := by
  obtain ⟨-, -, -, -, -, -, -, -, hm, hn, hk⟩ := field_fixedBlock h hi
  have hany : (e.emlive.getLsbD 4 || e.emlive.getLsbD 5) = true := by
    obtain rfl | rfl : n = 0 ∨ n = 1 := by omega
    · exact Bool.or_eq_true_iff.2 (.inl hlive)
    · exact Bool.or_eq_true_iff.2 (.inr hlive)
  simp (disch := decide) only [Hart.loadRest, hany, if_true, State.field_savedPay, hm, hn, hk, BitVec.ofNat_toNat,
    BitVec.setWidth_eq, and_self]

end

/-- The process that is written. -/
theorem State.proc?_mapProc_same {s : State} {p : Pid} {q : Proc} {f : Proc → Proc} (hf : ∀ x, (f x).pid = p)
    (hq : s.proc? p = some q) : (s.mapProc p f).proc? p = some (f q) := by
  have hqp : q.pid = p := by simpa using List.find?_some hq
  have hfun : (fun x => decide (x.pid = p)) ∘ (fun x => if x.pid = p then f x else x) = fun x => decide (x.pid = p) := by
    funext x
    simp only [Function.comp_apply]
    split <;> simp [*]
  unfold State.proc? at hq ⊢
  rw [State.mapProc, List.find?_map, hfun, hq, Option.map_some, if_pos hqp]

/-- The registers that live at an entry, but for the elements of the vector registers, are those of h. -/
structure Hart.LiveSame (h : Hart) (e : SafeEntry) (r : Hart) : Prop where
  vtype : r.vtype = h.vtype
  vl : r.vl = h.vl
  srseed : r.srseed = h.srseed
  srcount : r.srcount = h.srcount
  fflags : r.fflags = h.fflags
  msprec : r.msprec = h.msprec
  msanchor : r.msanchor = h.msanchor
  steeplim : r.steeplim = h.steeplim
  quantum : r.quantum = h.quantum
  prioLevel : r.prioLevel = h.prioLevel
  x : ∀ i : Fin 32, e.xlive.getLsbD i = true → r.x[i] = h.x[i]
  p : ∀ i : Fin 8, e.plive.getLsbD i = true → ∀ k < h.vl.toNat, r.p[i].getLsbD k = h.p[i].getLsbD k
  acc : ∀ i : Fin 4, e.emlive.getLsbD i = true → r.e[i] = h.e[i]
  shape : ∀ i : Fin 2, e.emlive.getLsbD (4 + i) = true → r.msm = h.msm ∧ r.msn = h.msn ∧ r.msk = h.msk
  bank : ∀ i : Fin 2, e.emlive.getLsbD (4 + i) = true → ∀ k < 64 * h.lanes, r.m[i].get k = h.m[i].get k
  streams : ∀ i : Fin 4, r.streams[i] = if e.slive.getLsbD i then h.streams[i] else none

section
variable {s t : State} {h g : Hart} {q : Proc} {idx : Nat} {e : SafeEntry}

theorem Hart.liveSame_loadRest (hi : idx < 65536) (hl : h.lanes < 256) (hg : g.lanes = h.lanes) (ht : t.gmPois = [])
    (hvl : h.vl.toNat ≤ vlmaxOf h.lanes h.vtype) (he : ∀ k : Fin 4, h.e[k].pois = false)
    (hpos : ∀ k : Fin 4, ∀ b, h.streams[k] = some b → b.pos < 2 ^ 64) :
    h.LiveSame e (g.loadRest t (h.savedProc q) (s.savedArea h q idx e) e) := by
  obtain ⟨hvt, hvl, hseed, hcount, hflags, hprec, hanchor, hsteep, hquantum, hprio⟩ :=
    Hart.loadRest_fixed (s := s) (t := t) (q := q) (e := e) g hi hg hvl
  exact ⟨hvt, hvl, hseed, hcount, hflags, hprec, hanchor, hsteep, hquantum, hprio, Hart.loadRest_x g hi hl,
    fun i hlive _ => Hart.loadRest_p g hi hl i hlive, fun i hlive => Hart.loadRest_e g hi hl ht i hlive (he i),
    Hart.loadRest_shape g hi, fun i hlive _ => Hart.loadRest_m g hi hl ht i hlive,
    fun i => Hart.loadRest_streams g hi hl i (hpos i)⟩

/-- The vector storage plays no part. -/
theorem Hart.LiveSame.load {a : Area} (hsame : h.LiveSame e (g.loadRest t q a e)) : h.LiveSame e (g.load t q a e) := by
  obtain ⟨v, p, hr⟩ := g.load_frame t q a e
  rw [hr]
  generalize g.loadRest t q a e = l at hsame
  exact { hsame with }

end

/-- Settles O44: the pieces stand in the area where the restore looks for them, and each gives its register back. -/
theorem contextRoundTrip : Obligations.ContextRoundTrip := by
  unfold Obligations.ContextRoundTrip
  intro s q e n g hmem hgm h pay hv hx he hm hq hn hnet hrank hl hg hvl _ h32 hfit hpos t
  have hclean : pay.pois = [] := layPieces_pois (Hart.pois_pieces hv hx he hm n e)
  have hstore : t = _ := s.saveContext_clean h q n e hclean
  have ht : t.gmPois = [] := hstore ▸ State.gmPois_gmStore hgm ..
  have hproc : t.proc? q.pid = some (h.savedProc q) := by
    rw [hstore]
    refine State.proc?_mapProc_same (q := q) (fun _ => rfl) ?_
    exact (congrArg (fun u : State => u.proc? q.pid) (s.sansGm_gmStore _ _)).trans hq
  have hread : t.readArea (h.savedProc q) = s.savedArea h q n e := State.readArea_saveContext hmem.2 hclean h32 hfit
  obtain ⟨hgen, hnext⟩ := h.savedProc_gen q
  refine ⟨h.savedProc q, hproc, hgen, hnext, ?_⟩
  rw [hread]
  obtain ⟨hidx, -⟩ := field_fixedBlock h hn
  obtain ⟨-, -, -, -, -, -, -, -, -, -, -, htime⟩ := s.field_savedHdr h q e n
  have hsame : h.LiveSame e (g.load t (h.savedProc q) (s.savedArea h q n e) e) :=
    (Hart.liveSame_loadRest hn hl hg ht hvl he hpos).load
  have helem := fun j hj hlive k hk => Hart.load_elem (s := s) (q := q) (e := e) (j := j) (k := k) hn hl ht hg hj hlive hk
  dsimp only
  generalize g.load t (h.savedProc q) (s.savedArea h q n e) e = r at hsame helem ⊢
  exact ⟨s.savedArea_ok h n e hnet hrank, (State.field_savedPay (by decide)).trans hidx, htime, hsame.vtype, hsame.vl,
    hsame.srseed, hsame.srcount, hsame.fflags, hsame.msprec, hsame.msanchor, hsame.steeplim, hsame.quantum, hsame.prioLevel,
    fun i _ => hsame.x i, helem, hsame.p, hsame.acc, fun i hlive => by
      obtain ⟨hmsm, hmsn, hmsk⟩ := hsame.shape i hlive
      exact ⟨hmsm, hmsn, hmsk, hsame.bank i hlive⟩, hsame.streams⟩

end Sys2Proof.Machine
end

section
/-! SUPPORT. REDUCTIONS_AND_SCANS. What folding the active elements comes to. -/

namespace Sys2Proof.Machine

/-! ### Vector instructions that commit after reading every element (R204) -/

theorem State.raise_zero (s : State) : s.raise 0 = s := by
  unfold State.raise
  rw [show s.hart.fflags ||| 0 = s.hart.fflags from BitVec.or_zero]

/-- On a hart that nothing watches or poisons, no element of an instruction stops it. -/
theorem State.anyStop_quiet {s : State} (hd : s.hart.Unwatched) {pois : Nat → Option Nat} (hp : ∀ i, pois i = none)
    (l : List Nat) : s.anyStop pois l = none := by
  simp [State.anyStop, State.elemStop_quiet hd (hp _)]

theorem State.redStop_quiet {s : State} {h : Hart} (hd : s.hart.Unwatched) (hv : h.vPois = []) (w : Nat) (a b : BitVec 5)
    (init : Bool) (l : List Nat) : s.redStop h w a b init l = none := by
  have helem : s.elemStop (fun _ => none) 0 = none := State.elemStop_quiet hd rfl
  simp [State.redStop, helem, Hart.elemPois_nil hv, State.anyStop_quiet hd (Hart.poisIn_nil hv w [a.toNat])]

@[simp] theorem State.started_fmt (s : State) (w : IWord) (u : Nat) : (s.started w u).fmt = s.fmt := by simp [State.fmt]
@[simp] theorem State.started_rdir (s : State) (w : IWord) (u : Nat) : (s.started w u).rdir = s.rdir := by simp [State.rdir]

/-- The state with elements of a group written and their flags raised. -/
def State.putElems (s : State) (dw r : Nat) (f : Nat → Nat × FFlags) (l : List Nat) : State :=
  State.raise { s with hart := s.hart.writeElems dw r (fun i => (f i).1) l } (l.foldl (fun fl i => fl ||| (f i).2) 0)

theorem State.putElems_nil (s : State) (dw r : Nat) (f : Nat → Nat × FFlags) : s.putElems dw r f [] = s := s.raise_zero

/-- A vector instruction on a quiet hart whose body writes elements and raises their flags. -/
theorem State.vrun_writes {s : State} {v : VInstr} {body : State → Hart → VEnd} {dw : Nat} {d : BitVec 5}
    {f : Nat → Nat × FFlags} {l : List Nat} (hr : s.VReady v.units []) (hv : v.vcfg = false)
    (hb : body (s.started v.word v.units) (s.count v.units).hart =
      .done ((s.started v.word v.units).putElems dw d.toNat f l)) :
    s.WritesV v.units dw d l f (s.vrun v body) := by
  obtain ⟨hq, hsteep, -⟩ := hr
  obtain ⟨-, -, hvp, -⟩ := id hq
  rw [State.vrun_quiet hq hsteep hv, hb]
  exact s.writesV_intro v.word v.units dw d f l hvp

theorem State.actives_sorted (s : State) (p : BitVec 3) : (s.actives p).Pairwise (· < ·) :=
  List.pairwise_lt_range.filter _

theorem State.mem_actives_lt {s : State} {p : BitVec 3} {i : Nat} (hi : i ∈ s.actives p) : i < s.vlen :=
  List.mem_range.1 (List.mem_filter.1 hi).1

theorem State.actives_of_vlen_zero {s : State} (h : s.vlen = 0) (p : BitVec 3) : s.actives p = [] := by
  simp [State.actives, h, upTo]

/-! ### Folds that gather flags (R69) -/

/-- The values folded in order, with the flags of every step. -/
def foldFlags (f : Nat → Nat → Nat × FFlags) (x : Nat) (ys : List Nat) : Nat × FFlags :=
  ys.foldl (fun r y => ((f r.1 y).1, r.2 ||| (f r.1 y).2)) (x, 0)

theorem foldl_withFlags (f : Nat → Nat → Nat × FFlags) (A : Nat → Nat) (x : Nat) (l : List Nat) :
    l.foldl (fun (acc : Nat × FFlags) i => withFlags (f acc.1 (A i)) acc.2) (x, 0) = foldFlags f x (l.map A) := by
  simp only [foldFlags, List.foldl_map, withFlags, BitVec.or_comm]

theorem foldFlags_noFlags (op : Nat → Nat → Nat) (x : Nat) (ys : List Nat) :
    foldFlags (fun a b => noFlags (op a b)) x ys = (ys.foldl op x, 0) := by
  have key : ∀ (ys : List Nat) (x : Nat), ys.foldl (fun (r : Nat × FFlags) y =>
      ((noFlags (op r.1 y)).1, r.2 ||| (noFlags (op r.1 y)).2)) (x, 0) = (ys.foldl op x, 0) := by
    intro ys
    induction ys with
    | nil => exact fun x => rfl
    | cons y ys ih =>
      intro x
      simpa [noFlags] using ih (op x y)
  exact key ys x

/-- Sums cut to the element width at every step are the sum cut once. -/
theorem foldl_add_mod (w : Nat) {x : Nat} (hx : x < 2 ^ w) (ys : List Nat) :
    ys.foldl (fun a b => (a + b) % 2 ^ w) x = (x + ys.sum) % 2 ^ w := by
  induction ys generalizing x with
  | nil => simp [Nat.mod_eq_of_lt hx]
  | cons y ys ih =>
    rw [List.foldl_cons, ih (Nat.mod_lt _ (Nat.two_pow_pos w)), List.sum_cons, ← Nat.add_assoc, Nat.mod_add_mod]

/-- An element and a scalar operand fit the element width. -/
theorem State.operandB_lt (s : State) (h : Hart) (b : BitVec 5) (sc : BitVec 1) (i : Nat) :
    s.operandB h b sc s.sew i < 2 ^ s.sew := by
  unfold State.operandB
  split
  · exact Nat.mod_lt _ (Nat.two_pow_pos _)
  · obtain ⟨n, hn⟩ := exists_bytes_vtSew s.hart.vtype
    rw [State.sew, hn, Hart.elem_eq_bytes, Nat.pow_mul]
    simpa [upTo] using leNat_lt ((upTo n).map fun j => h.v.get (h.elemKey (8 * n) b.toNat i + j))

/-! ### Reductions (R220) -/

section
variable {s : State} {fn : BitVec 7} {d a b : BitVec 5} {p : BitVec 3} {sc : BitVec 1}

/-- A body that writes one value with its flags to element 0, where VL is not 0. -/
theorem State.putElems_first (t : State) (w r : Nat) (v : Nat × FFlags) :
    (if t.vlen = 0 then VEnd.done t else .done (State.raise { t with hart := t.hart.setElem w r 0 v.1 } v.2)) =
    .done (t.putElems w r (fun _ => v) (if t.vlen = 0 then [] else [0])) := by
  split
  · rw [State.putElems_nil]
  · rw [State.putElems, List.foldl_cons, List.foldl_nil, show 0 ||| v.2 = v.2 from BitVec.zero_or]
    rfl

/-- A reduction with an init folds the active elements. -/
theorem State.vreduce_writes {f : Nat → Nat → Nat × FFlags} (hr : s.VReady (s.rows s.sew) (vvGroups d a b sc)) :
    Answers (s.vreduce fn d a b p sc f) (s.WritesV (s.rows s.sew) s.sew d (if s.vlen = 0 then [] else [0]) fun _ =>
      foldFlags f (s.operandB s.hart b sc s.sew 0) ((s.actives p).map fun i => s.hart.elem s.sew a.toNat i)) := by
  obtain ⟨hq, hsteep, hgood⟩ := hr
  obtain ⟨-, hd, hvp, -⟩ := id hq
  refine ⟨_, rfl, State.vrun_writes ⟨hq, hsteep, by simp⟩ (State.vvInstr_vcfg hgood) ?_⟩
  dsimp only
  rw [State.redStop_quiet (by simpa using hd) (by simpa using hvp)]
  simp only [State.started_actives, State.started_operandB, State.operandB_count, Hart.elem_count, foldl_withFlags]
  rw [State.putElems_first, State.started_vlen]

/-- A reduction without an init folds the active elements from the canonical NaN (R103). -/
theorem State.vfreduce_writes (m : Bool) (hr : s.VReady (s.rows s.sew) [d, a]) :
    Answers (s.vfreduce fn d a p m) (s.WritesV (s.rows s.sew) s.sew d (if s.vlen = 0 then [] else [0]) fun _ =>
      foldFlags (s.fmt.minmax m) s.fmt.nanBits ((s.actives p).map fun i => s.hart.elem s.sew a.toNat i)) := by
  obtain ⟨hq, hsteep, hgood⟩ := hr
  obtain ⟨-, hd, hvp, -⟩ := id hq
  refine ⟨_, rfl, State.vrun_writes ⟨hq, hsteep, by simp⟩ (State.vvInstr_vcfg
    (word := vv 0x26#6 d a 0#5 p 0#1 fn) (p := p) (rd := false) (sc := 1) (b := a) (by simpa using hgood)) ?_⟩
  dsimp only
  rw [State.anyStop_quiet (by simpa using hd) (Hart.poisIn_nil (by simpa using hvp) _ _)]
  simp only [State.started_actives, Hart.elem_count, State.started_fmt, foldl_withFlags]
  rw [State.putElems_first, State.started_vlen]

end

/-! ### Inclusive scans (R221) -/

/-- The value and the flags that a scan puts at element i of a list: the fold over those before it, then the element. -/
def scanAt (f : Nat → Nat → Nat × FFlags) (el : Nat → Nat) (x : Nat) (l : List Nat) (i : Nat) : Nat × FFlags :=
  f (((l.filter (· < i)).map el).foldl (fun a b => (f a b).1) x) (el i)

theorem scanVals_sorted (f : Nat → Nat → Nat × FFlags) (el : Nat → Nat) {l : List Nat} (hl : l.Pairwise (· < ·)) (x : Nat)
    (fl : FFlags) : scanVals f el l x fl =
      (l.map fun i => (i, (scanAt f el x l i).1), l.foldl (fun fl i => fl ||| (scanAt f el x l i).2) fl) := by
  induction l generalizing x fl with
  | nil => rfl
  | cons i is ih =>
    obtain ⟨hi, his⟩ := List.pairwise_cons.1 hl
    have hfirst : scanAt f el x (i :: is) i = f x (el i) := by
      have : is.filter (· < i) = [] := List.filter_eq_nil_iff.2 fun j hj => by simpa using (hi j hj).le
      simp [scanAt, this]
    have hrest : ∀ j ∈ is, scanAt f el x (i :: is) j = scanAt f el (f x (el i)).1 is j := by
      intro j hj
      simp [scanAt, hi j hj]
    have hmap : is.map (fun j => (j, (scanAt f el x (i :: is) j).1)) =
        is.map (fun j => (j, (scanAt f el (f x (el i)).1 is j).1)) := List.map_congr_left fun j hj => by rw [hrest j hj]
    have hfold : ∀ fl : FFlags, is.foldl (fun fl j => fl ||| (scanAt f el x (i :: is) j).2) fl =
        is.foldl (fun fl j => fl ||| (scanAt f el (f x (el i)).1 is j).2) fl := fun fl =>
      List.foldl_ext _ _ _ fun fl j hj => by rw [hrest j hj]
    rw [scanVals, ih his, List.map_cons, List.foldl_cons, hfirst, hmap, hfold]

/-- The elements up to one in a rising list are those before it and itself. -/
theorem filter_le_sorted {l : List Nat} (hl : l.Pairwise (· < ·)) {i : Nat} (hi : i ∈ l) :
    l.filter (· ≤ i) = l.filter (· < i) ++ [i] := by
  induction l with
  | nil => simp at hi
  | cons j js ih =>
    obtain ⟨hj, hjs⟩ := List.pairwise_cons.1 hl
    rcases List.mem_cons.1 hi with rfl | hi
    · have hle : js.filter (· ≤ i) = [] := List.filter_eq_nil_iff.2 fun k hk => by simpa using hj k hk
      have hlt : js.filter (· < i) = [] := List.filter_eq_nil_iff.2 fun k hk => by simpa using (hj k hk).le
      simp [hle, hlt]
    · simp [hj i hi, (hj i hi).le, ih hjs hi]

theorem scanAt_noFlags (op : Nat → Nat → Nat) (el : Nat → Nat) (x : Nat) {l : List Nat} (hl : l.Pairwise (· < ·)) {i : Nat}
    (hi : i ∈ l) : scanAt (fun a b => noFlags (op a b)) el x l i = (((l.filter (· ≤ i)).map el).foldl op x, 0) := by
  rw [filter_le_sorted hl hi]
  simp [scanAt, noFlags]

section
variable {s : State} {fn : BitVec 7} {d a b : BitVec 5} {p : BitVec 3} {sc : BitVec 1}

/-- Only what a function gives at the listed elements matters to what is written. -/
theorem State.WritesV.congr {u w : Nat} {l : List Nat} {f g : Nat → Nat × FFlags} {t : State} (h : s.WritesV u w d l f t)
    (hfg : ∀ i ∈ l, f i = g i) : s.WritesV u w d l g t := by
  obtain ⟨hpc, hv, hvp, hfl, hmem, heq⟩ := h
  refine ⟨hpc, hv.trans ?_, hvp, hfl.trans ?_, hmem, heq⟩
  · exact congrArg Hart.v (List.foldl_ext _ _ _ fun h i hi => by simp only [hfg i hi])
  · exact List.foldl_ext _ _ _ fun fl i hi => by rw [hfg i hi]

/-- A scan puts the running value at each active element. -/
theorem State.vscan_writes {f : Nat → Nat → Nat × FFlags} (hr : s.VReady (s.rows s.sew) (vvGroups d a b sc)) :
    Answers (s.vscan fn d a b p sc f) (s.WritesV (s.rows s.sew) s.sew d (s.actives p)
      (scanAt f (fun i => s.hart.elem s.sew a.toNat i) (s.operandB s.hart b sc s.sew 0) (s.actives p))) := by
  obtain ⟨hq, hsteep, hgood⟩ := hr
  obtain ⟨-, hd, hvp, -⟩ := id hq
  refine ⟨_, rfl, State.vrun_writes ⟨hq, hsteep, by simp⟩ (State.vvInstr_vcfg hgood) ?_⟩
  dsimp only
  rw [State.redStop_quiet (by simpa using hd) (by simpa using hvp)]
  simp only [State.started_vlen, State.started_actives, State.started_operandB, State.operandB_count, Hart.elem_count,
    scanVals_sorted _ _ (s.actives_sorted p), List.foldl_map]
  split
  next h0 =>
    rw [State.actives_of_vlen_zero h0, State.putElems_nil]
  next => rfl

/-- A scan by an operation without flags puts the fold over the elements so far at each active one. -/
theorem State.vscan_folds {op : Nat → Nat → Nat} (hr : s.VReady (s.rows s.sew) (vvGroups d a b sc)) :
    Answers (s.vscan fn d a b p sc fun x y => noFlags (op x y)) (s.WritesV (s.rows s.sew) s.sew d (s.actives p) fun i =>
      ((((s.actives p).filter (· ≤ i)).map fun i => s.hart.elem s.sew a.toNat i).foldl op
        (s.operandB s.hart b sc s.sew 0), 0)) := by
  obtain ⟨t, ht, hw⟩ := State.vscan_writes (fn := fn) (p := p) (f := fun x y => noFlags (op x y)) hr
  exact ⟨t, ht, hw.congr fun i hi => scanAt_noFlags op _ _ (s.actives_sorted p) hi⟩

/-- A reduction by an operation without flags. -/
theorem State.vreduce_folds {op : Nat → Nat → Nat} (hr : s.VReady (s.rows s.sew) (vvGroups d a b sc)) :
    Answers (s.vreduce fn d a b p sc fun x y => noFlags (op x y)) (s.WritesV (s.rows s.sew) s.sew d
      (if s.vlen = 0 then [] else [0]) fun _ => (((s.actives p).map fun i => s.hart.elem s.sew a.toNat i).foldl op
        (s.operandB s.hart b sc s.sew 0), 0)) := by
  simpa only [foldFlags_noFlags] using State.vreduce_writes (fn := fn) (p := p) (f := fun x y => noFlags (op x y)) hr

end

/-- Settles O18: every reduction and scan is a fold over the active elements, in their order. -/
theorem reductionsAndScans : Obligations.ReductionsAndScans := by
  unfold Obligations.ReductionsAndScans
  refine ⟨fun s d a b p sc => ⟨fun hr => ⟨?_, ?_, ?_, ?_, ?_, ?_, ?_, ?_, ?_⟩, fun hr => ⟨?_, ?_⟩⟩, fun s d a b p sc hr =>
    ⟨?_, ?_, ?_, ?_, ?_, ?_, ?_, ?_, ?_⟩⟩
  · rw [← foldl_add_mod s.sew (s.operandB_lt s.hart b sc 0)]
    exact State.vreduce_folds (op := fun x y => (x + y) % 2 ^ s.sew) hr
  · exact State.vreduce_folds hr
  · exact State.vreduce_folds hr
  · exact State.vreduce_folds hr
  · exact State.vreduce_folds (op := fun x y => if ltS s.sew x y then x else y) hr
  · exact State.vreduce_folds (op := fun x y => if ltS s.sew x y then y else x) hr
  · exact State.vreduce_folds hr
  · exact State.vreduce_folds hr
  · exact State.vreduce_writes hr
  · exact State.vfreduce_writes true hr
  · exact State.vfreduce_writes false hr
  · simp only [← foldl_add_mod s.sew (s.operandB_lt s.hart b sc 0)]
    exact State.vscan_folds (op := fun x y => (x + y) % 2 ^ s.sew) hr
  · exact State.vscan_folds hr
  · exact State.vscan_folds hr
  · exact State.vscan_folds hr
  · exact State.vscan_folds (op := fun x y => if ltS s.sew x y then x else y) hr
  · exact State.vscan_folds (op := fun x y => if ltS s.sew x y then y else x) hr
  · exact State.vscan_folds hr
  · exact State.vscan_folds hr
  · exact State.vscan_writes hr

end Sys2Proof.Machine
end

section
/-! SUPPORT. LONG_ACCUMULATORS. What the instructions on long accumulators write. -/

namespace Sys2Proof.Machine

/-! ### Where the body of an instruction begins -/

/-- c is s with u units counted, and with no more moved than the rotor of the check lane and leave. -/
def State.Counted (s : State) (u : Nat) (c : State) : Prop :=
  c = { s.count u with hart := { (s.count u).hart with rotor := c.hart.rotor, leave := c.hart.leave } }

theorem State.counted_count (s : State) (u : Nat) : s.Counted u (s.count u) := rfl
theorem State.counted_spin (s : State) (u : Nat) (w : IWord) : s.Counted u ((s.count u).spin w) := rfl
theorem State.counted_started (s : State) (w : IWord) (u : Nat) : s.Counted u (s.started w u) := s.started_eq w u

/-! ### Accumulators of a hart (R97) -/

theorem Hart.acc_setAcc (h : Hart) (n : BitVec 2) (a : LongAcc) (k : BitVec 2) :
    (h.setAcc n a).acc k = if k = n then a else h.acc k := by
  by_cases hk : k = n
  · subst hk
    simp [Hart.acc, Hart.setAcc]
  · have hne : n.toNat ≠ k.toNat := fun he => hk (BitVec.eq_of_toNat_eq he.symm)
    simp [Hart.acc, Hart.setAcc, hk, hne]

theorem State.setAcc_self (s : State) (n : BitVec 2) : s.setAcc n (s.hart.acc n) = s := by
  simp [State.setAcc, Hart.setAcc, Hart.acc]

theorem State.setAcc_setAcc (s : State) (n : BitVec 2) (a b : LongAcc) : (s.setAcc n a).setAcc n b = s.setAcc n b := by
  simp [State.setAcc, Hart.setAcc]

theorem State.acc_setAcc_same (s : State) (n : BitVec 2) (a : LongAcc) : (s.setAcc n a).hart.acc n = a :=
  (s.hart.acc_setAcc n a n).trans (if_pos rfl)

/-- Writing an accumulator, raising flags and going on. -/
theorem State.writesE_intro {s c : State} {u : Nat} (hc : s.Counted u c) (n : BitVec 2) (a : LongAcc) (fl : FFlags) :
    s.WritesE u n a fl ((c.setAcc n a).raise fl).advance := by
  obtain ⟨r, lv, rfl⟩ : ∃ r lv, c = { s.count u with hart := { (s.count u).hart with rotor := r, leave := lv } } :=
    ⟨_, _, hc⟩
  refine ⟨?_, fun k => ?_, ?_, ⟨fun k => ?_, fun k => ?_⟩, ?_⟩
  · rw [State.advance_pc]
    exact State.nextPc_of (by simp) (by simp)
  · have he : (s.count u).hart.acc k = s.hart.acc k := by simp [Hart.acc]
    rw [← he, ← Hart.acc_setAcc]
    simp [Hart.acc, State.raise, State.setAcc, Hart.setAcc]
  · simp [State.raise]
  · simp
  · simp
  · generalize s.count u = c
    unfold State.advance State.raise State.setPc Hart.accOf Hart.pcOf State.setAcc Hart.setAcc
    dsimp only
    split <;> rfl

/-- The same without flags. -/
theorem State.writesE_plain {s c : State} {u : Nat} (hc : s.Counted u c) (n : BitVec 2) (a : LongAcc) :
    s.WritesE u n a 0 (c.setAcc n a).advance := State.raise_zero (c.setAcc n a) ▸ State.writesE_intro hc n a 0

/-- Writing a scalar register, raising flags and going on. -/
theorem State.writesXV_intro {s c : State} {u : Nat} (hc : s.Counted u c) (d : BitVec 5) (v : Word) (fl : FFlags) :
    s.WritesXV u d v fl ((c.setX d v).raise fl).advance := by
  obtain ⟨r, lv, rfl⟩ : ∃ r lv, c = { s.count u with hart := { (s.count u).hart with rotor := r, leave := lv } } :=
    ⟨_, _, hc⟩
  refine ⟨?_, fun k => ?_, fun k => ?_, ?_, ⟨fun k => ?_, fun k => ?_⟩, ?_⟩
  · rw [State.advance_pc]
    exact State.nextPc_of (by simp) (by simp)
  · rw [State.x_advance, ← s.x_count u k]
    exact State.x_setX _ d v k
  · rw [State.xPoisoned_advance, ← s.xPoisoned_count u k]
    exact State.xPoisoned_setX _ d v k
  · simp [State.raise]
  · simp
  · simp
  · generalize s.count u = c
    unfold State.advance State.raise State.setPc Hart.xvOf Hart.xOf Hart.pcOf
    by_cases hd : d = 0#5
    · subst hd
      simp only [State.setX_zero]
      split <;> rfl
    · rw [State.setX_ne hd]
      split <;> rfl

/-! ### Instructions on accumulators alone (R225, R226) -/

/-- Where none of the accumulators that it reads is poisoned, the instruction does its body. -/
theorem State.accInstr_pass {s : State} {w : IWord} {reads : List (BitVec 2)} {body : State → State} (hf : s.Fit 1 [])
    (hp : ∀ n ∈ reads, (s.hart.acc n).pois = false) :
    s.accInstr w reads body = .next (body ((s.count 1).spin w)).advance := by
  have hreads : reads.any (fun n => ((s.count 1).hart.acc n).pois) = false := by
    rw [List.any_eq_false]
    intro n hn
    simpa [Hart.acc] using hp n hn
  rw [State.accInstr, State.issue_pass (g := gate1) rfl hf.1 rfl rfl rfl rfl, gate1_units, hreads]
  rfl

@[simp] theorem State.acc_spin_count (s : State) (u : Nat) (w : IWord) (n : BitVec 2) :
    ((s.count u).spin w).hart.acc n = s.hart.acc n := by simp [Hart.acc]
@[simp] theorem State.rdir_spin_count (s : State) (u : Nat) (w : IWord) : ((s.count u).spin w).rdir = s.rdir := by
  simp [State.rdir]

section
variable {s : State} {d e : BitVec 2}

theorem execEaclr_writes (hf : s.Fit 1 []) : Answers (execEaclr d s) (s.WritesE 1 d LongAcc.zero 0) :=
  ⟨_, State.accInstr_pass hf (by simp), State.writesE_plain (s.counted_spin 1 _) d _⟩

theorem execEamov_writes (hf : s.Fit 1 []) (he : (s.hart.acc e).pois = false) :
    Answers (execEamov d e s) (s.WritesE 1 d (s.hart.acc e) 0) := by
  refine ⟨_, State.accInstr_pass hf (by simpa using he), ?_⟩
  rw [State.acc_spin_count]
  exact State.writesE_plain (s.counted_spin 1 _) d _

theorem execEaaddx_writes (hf : s.Fit 1 []) (he : (s.hart.acc e).pois = false) (hd : (s.hart.acc d).pois = false) :
    Answers (execEaaddx d e s) (s.WritesE 1 d ((s.hart.acc d).add (s.hart.acc e)) 0) := by
  refine ⟨_, State.accInstr_pass hf (by simpa using ⟨hd, he⟩), ?_⟩
  rw [State.acc_spin_count, State.acc_spin_count]
  exact State.writesE_plain (s.counted_spin 1 _) d _

theorem execEarnd_writes {x : BitVec 5} {m : BitVec 3} {f : BitVec 2} (hf : s.Fit 1 []) (he : (s.hart.acc e).pois = false) :
    let r := (s.hart.acc e).round (earndFmt f.toNat) (if m = 7 then s.rdir else .mode m.toNat)
    Answers (execEarnd x e m f s) (s.WritesXV 1 x (BitVec.ofNat 64 r.1) r.2) := by
  refine ⟨_, State.accInstr_pass hf (by simpa using he), ?_⟩
  rw [State.acc_spin_count, State.rdir_spin_count]
  exact State.writesXV_intro (s.counted_spin 1 _) x _ _

end

/-! ### Terms (R98, R204, R225) -/

/-- The terms of a list of elements added one after another. -/
def LongAcc.addAll (a : LongAcc) (T : Nat → FVal) (l : List Nat) : LongAcc := l.foldl (fun acc i => acc.addTerm (T i)) a

theorem State.accLoop_quiet {pois : Nat → Option Nat} {d : BitVec 2} {f : Nat → FVal × FFlags} (hp : ∀ i, pois i = none)
    (l : List Nat) {s : State} (fl : FFlags) (hd : s.hart.Unwatched) : s.accLoop pois d f l fl =
      .done ((s.setAcc d ((s.hart.acc d).addAll (fun i => (f i).1) l)).raise (l.foldl (fun fl i => fl ||| (f i).2) fl)) := by
  induction l generalizing s fl with
  | nil => exact congrArg (fun t => VEnd.done (State.raise t fl)) (s.setAcc_self d).symm
  | cons i l ih =>
    rw [State.accLoop, State.elemStop_quiet hd (hp i)]
    dsimp only
    rw [ih (s := s.setAcc d _) _ hd, State.acc_setAcc_same, State.setAcc_setAcc]
    rfl

/-- An instruction that adds the terms of its active elements. -/
theorem State.vrun_adds {s : State} {v : VInstr} {pois : Hart → Nat → Option Nat} {d : BitVec 2} {p : BitVec 3}
    {f : State → Hart → Nat → FVal × FFlags} {g : Nat → FVal × FFlags} (hr : s.VReady v.units []) (hv : v.vcfg = false)
    (hacc : (s.hart.acc d).pois = false) (hp : ∀ i, pois (s.count v.units).hart i = none)
    (hg : f (s.started v.word v.units) (s.count v.units).hart = g) :
    s.WritesE v.units d ((s.hart.acc d).addAll (fun i => (g i).1) (s.actives p))
      ((s.actives p).foldl (fun fl i => fl ||| (g i).2) 0)
      (s.vrun v fun s h => s.accBody (pois h) d p (f s h)) := by
  have hsame : (s.started v.word v.units).hart.acc d = s.hart.acc d := by simp [Hart.acc, State.started]
  obtain ⟨hq, hsteep, -⟩ := hr
  obtain ⟨-, hd, -⟩ := id hq
  rw [State.vrun_quiet hq hsteep hv, State.accBody, hsame, hacc, Bool.false_and, if_neg Bool.false_ne_true,
    State.accLoop_quiet hp _ _ (by simpa using hd), hsame, hg, State.started_actives]
  exact State.writesE_intro (s.counted_started v.word v.units) d _ _

/-- What a term adds to V, in units of 2^-2148 (R98). -/
def FVal.accV : FVal → BitVec 4260
  | .fin n m e => BitVec.ofInt 4260 (accUnits n m e)
  | _ => 0

/-- A term adds to V and sets the flag of its kind. -/
theorem LongAcc.addTerm_eq (a : LongAcc) (x : FVal) : a.addTerm x =
    ⟨a.v + x.accV, a.n || x.isNan, a.pi || decide (x = .inf false), a.ni || decide (x = .inf true), a.pois⟩ := by
  rcases x with _ | (_ | _) | _ <;> simp [LongAcc.addTerm, FVal.accV, FVal.isNan]

/-- The order of two terms does not matter (R98). -/
theorem LongAcc.addTerm_comm (a : LongAcc) (x y : FVal) : (a.addTerm x).addTerm y = (a.addTerm y).addTerm x := by
  simp only [LongAcc.addTerm_eq, BitVec.add_assoc, Bool.or_assoc, BitVec.add_comm x.accV, Bool.or_comm x.isNan,
    Bool.or_comm (decide (x = _))]

theorem LongAcc.addTerm_perm (a : LongAcc) {l k : List FVal} (h : l.Perm k) :
    l.foldl LongAcc.addTerm a = k.foldl LongAcc.addTerm a :=
  h.foldl_eq' (fun x _ y _ z => z.addTerm_comm x y) a

/-- EAADD: each active element is a term. -/
theorem execEaadd_adds {s : State} {d : BitVec 2} {a : BitVec 5} {p : BitVec 3} (hr : s.VReady (s.rows s.sew) [a])
    (hd : (s.hart.acc d).pois = false) :
    let X := fun i => s.fmt.decode (s.hart.elem s.sew a.toNat i)
    Answers (execEaadd d a p s) (s.WritesE (s.rows s.sew) d ((s.hart.acc d).addAll X (s.actives p))
      ((s.actives p).foldl (fun fl i => fl ||| flagIf flagNV (X i).isSig) 0)) := by
  obtain ⟨hq, hsteep, hgood⟩ := hr
  have hv := State.vvInstr_vcfg (s := s) (word := vv 0x28#6 (0#3 ++ d) a 0#5 p 0#1 1#7) (d := a) (a := a) (b := a) (p := p)
    (rd := false) (sc := 1) (by simpa using hgood)
  refine ⟨_, rfl, State.vrun_adds (pois := fun h => h.poisIn s.sew [a.toNat])
    (g := fun i => (s.fmt.decode (s.hart.elem s.sew a.toNat i),
      flagIf flagNV (s.fmt.decode (s.hart.elem s.sew a.toNat i)).isSig))
    ⟨hq, hsteep, by simp⟩ hv hd (Hart.poisIn_count hq _ _ _) ?_⟩
  simp only [State.started_fmt, Hart.elem_count]

/-- EADOT: each exact product is a term. -/
theorem execEadot_adds {s : State} {d : BitVec 2} {a b : BitVec 5} {p : BitVec 3} {sc : BitVec 1}
    (hr : s.VReady (s.rows s.sew) ([a] ++ if sc = 1 then [] else [b])) (hd : (s.hart.acc d).pois = false) :
    let P := fun i => (s.fmt.decode (s.hart.elem s.sew a.toNat i)).mul (s.fmt.decode (s.operandB s.hart b sc s.sew i))
    Answers (execEadot d a b p sc s) (s.WritesE (s.rows s.sew) d ((s.hart.acc d).addAll (fun i => (P i).1) (s.actives p))
      ((s.actives p).foldl (fun fl i => fl ||| (P i).2) 0)) := by
  obtain ⟨hq, hsteep, hgood⟩ := hr
  refine ⟨_, rfl, State.vrun_adds (pois := fun h => h.poisIn s.sew (vvRegs a a b sc false)) ⟨hq, hsteep, by simp⟩
    (State.vvInstr_vcfg (word := vv 0x28#6 (0#3 ++ d) a b p sc 2#7) (d := a) (p := p) (rd := false)
    (by simpa using hgood)) hd (Hart.poisIn_count hq _ _ _) ?_⟩
  simp only [State.started_fmt, Hart.elem_count, State.started_operandB, State.operandB_count]

/-! ### EASPILL and EAFILL (R239) -/

/-- A store of whole protection words to tile memory. -/
theorem State.storesTm_words {s : State} (hm : s.MemOk) {a : Nat} {bs : List Byte} (ha : a % 8 = 0) (hn : bs.length % 8 = 0)
    (hpos : 8 ≤ bs.length) : s.StoresTm (tmKey s.hart.id.tile a) bs ((s.count 1).tmStore a bs).advance := by
  have hk : tmKey s.hart.id.tile a % 8 = 0 := by
    unfold tmKey Config.tmBytes
    omega
  refine ⟨?_, ?_, fun c hc => ?_, fun c => ?_, ?_, ?_⟩
  · rw [State.advance_pc]
    exact State.nextPc_of (by simp [State.tmStore, State.tmStoreKey]) (by simp [State.tmStore, State.tmStoreKey])
  · simpa [State.tmStore, State.tmStoreKey, State.tileNo] using Memory.bytes_store bs (tmKey s.hart.id.tile a) hm.1
  · simpa [State.tmStore, State.tmStoreKey, State.tileNo] using
      Memory.read_store_outside bs (tmKey s.hart.id.tile a) hm.1 hc
  · simp [State.tmStore, State.tmStoreKey]
  · simp only [State.advance_tmPois, State.tmStore, State.tmStoreKey, State.count_tmPois, State.tileNo, State.count_hart_id]
    rw [if_neg (by omega), if_neg (by omega), show (tmKey s.hart.id.tile a + 7) / 8 = tmKey s.hart.id.tile a / 8 by omega,
      show (tmKey s.hart.id.tile a + bs.length) / 8 - tmKey s.hart.id.tile a / 8 = bs.length / 8 by omega]
  · generalize s.count 1 = c
    unfold State.advance State.setPc State.tmStore State.tmStoreKey Hart.pcOf
    dsimp only
    split <;> rfl

section
variable {s : State} {d : BitVec 2} {a : BitVec 5}

/-- An aligned and granted spill or fill of a hart without debug entries meets no condition but poison. -/
theorem State.eaFault_none {s : State} {ea : Word} (hd : s.hart.dbg = []) (hal : ea.toNat % 8 = 0)
    (hok : s.tmOk ea.toNat 536 = true) (store : Bool) : s.eaFault ea store = none := by
  simp [State.eaFault, hal, hok, State.watchHit_nil hd]

/-- EASPILL stores the accumulator. -/
theorem execEaspill_stores (hm : s.MemOk) (hf : s.Fit 1 [a]) (hd : s.hart.dbg = []) (hal : (s.x a).toNat % 8 = 0)
    (hok : s.tmOk (s.x a).toNat 536 = true) (hp : (s.hart.acc d).pois = false) :
    Answers (execEaspill d a s) (s.StoresTm (tmKey s.hart.id.tile (s.x a).toNat) (leBytes 536 (s.hart.acc d).toNat)) := by
  have hacc : (s.count 1).hart.acc d = s.hart.acc d := by simp [Hart.acc]
  have hfault : (s.count 1).eaFault (s.x a) true = none := State.eaFault_none (by simpa using hd) hal (by simpa using hok) _
  refine ⟨_, rfl, ?_⟩
  rw [State.issueX_one hf]
  simp only [State.x_count, hfault, hacc, hp, Bool.false_eq_true, if_false]
  exact State.storesTm_words hm hal (by simp) (by simp)

/-- EAFILL reads an accumulator. -/
theorem execEafill_writes (hf : s.Fit 1 [a]) (hd : s.hart.dbg = []) (hal : (s.x a).toNat % 8 = 0)
    (hok : s.tmOk (s.x a).toNat 536 = true) (hp : s.tmPoisoned (s.x a).toNat 536 = false) :
    Answers (execEafill d a s) (s.WritesE 1 d
      (LongAcc.ofNat (leNat (s.tm.bytes (tmKey s.hart.id.tile (s.x a).toNat) 536))) 0) := by
  have hfault : (s.count 1).eaFault (s.x a) false = none := State.eaFault_none (by simpa using hd) hal (by simpa using hok) _
  refine ⟨_, rfl, ?_⟩
  rw [State.issueX_one hf]
  simp only [State.x_count, hfault, State.tmPoisoned_count, hp, Bool.false_eq_true, if_false, State.tmLoad_count]
  exact State.writesE_plain (s.counted_count 1) d _

end

/-- Settles O20: each instruction passes its tests and writes its accumulator; the terms commute, and 536 bytes hold an
accumulator. -/
theorem longAccumulators : Obligations.LongAccumulators := by
  unfold Obligations.LongAccumulators
  refine ⟨fun s d e x a b p m sc f => ⟨execEaclr_writes, execEamov_writes, fun hf he _ => execEarnd_writes hf he,
    execEaaddx_writes, execEaadd_adds, execEadot_adds⟩, fun a l k => a.addTerm_perm,
    fun s d a hm hf hdbg hal hok => ⟨execEaspill_stores hm hf hdbg hal hok, execEafill_writes hf hdbg hal hok,
    fun acc hp => ?_⟩⟩
  rw [leNat_leBytes, LongAcc.ofNat_toNat_mod hp]

end Sys2Proof.Machine
end

section
/-! SUPPORT. MATRIX_ISSUE. How a matrix instruction on a quiet hart begins and ends. -/

namespace Sys2Proof.Machine

/-! ### The fields of a word in MX format (R149) -/

section
variable (m : BitVec 6) (d a b : BitVec 5) (p : BitVec 3) (k : BitVec 1) (am : BitVec 2) (g : BitVec 1) (fn : BitVec 4)

theorem mx_major : (mx m d a b p k am g fn).extractLsb' 26 6 = m := by
  ext i hi
  rw [BitVec.getElem_extractLsb', mx]
  simp only [BitVec.getLsbD_append]
  interval_cases i <;> simp only [Nat.reduceAdd, Nat.reduceSub, Nat.reduceLT, if_false] <;> rfl

theorem mx_function : (mx m d a b p k am g fn).toNat % 16 = fn.toNat := by
  unfold mx
  rw [BitVec.toNat_append, Nat.shiftLeft_eq, show (16 : Nat) = 2 ^ 4 from rfl, Nat.or_mod_two_pow, Nat.mul_mod_left,
    Nat.zero_or, Nat.mod_eq_of_lt fn.isLt]

end

/-- No matrix instruction but MMA needs leave (R229). -/
theorem needsLeave_mx (d a b : BitVec 5) (p : BitVec 3) (k : BitVec 1) (am : BitVec 2) (g : BitVec 1) {fn : BitVec 4}
    (hfn : fn ≠ 4) (sew : Nat) : needsLeave (mx 0x33#6 d a b p k am g fn) sew = false := by
  have hlow : ((mx 0x33#6 d a b p k am g fn).extractLsb' 0 7).toNat % 16 ≠ 4 := by
    rw [BitVec.extractLsb'_toNat, Nat.shiftRight_zero, Nat.mod_mod_of_dvd _ (by decide), mx_function]
    exact fun h => hfn (BitVec.eq_of_toNat_eq h)
  unfold needsLeave
  rw [mx_major]
  simpa using hlow

/-- Its word is not of the majors that the check lane follows (R409). -/
theorem State.spin_mx (s : State) (d a b : BitVec 5) (p : BitVec 3) (k : BitVec 1) (am : BitVec 2) (g : BitVec 1)
    (fn : BitVec 4) : s.spin (mx 0x33#6 d a b p k am g fn) = s := by
  unfold State.spin
  rw [mx_major]
  rfl

theorem State.started_mx (s : State) (d a b : BitVec 5) (p : BitVec 3) (k : BitVec 1) (am : BitVec 2) (g : BitVec 1)
    {fn : BitVec 4} (hfn : fn ≠ 4) (u : Nat) : s.started (mx 0x33#6 d a b p k am g fn) u = s.count u := by
  rw [State.started, State.spin_mx, State.holdLeave, needsLeave_mx d a b p k am g hfn]
  rfl

/-- A matrix instruction on a quiet hart that meets no early condition. -/
theorem State.mrun_quiet {s : State} {v : VInstr} {matrix : Bool} {body : State → Hart → VEnd} (hr : s.VReady v.units [])
    (hv : v.vcfg = false) (hm : matrix = false) :
    s.mrun v matrix body = (body (s.started v.word v.units) (s.count v.units).hart).finish (s.count v.units).hart v := by
  obtain ⟨hq, hsteep, -⟩ := hr
  obtain ⟨hunbound, -⟩ := id hq
  obtain ⟨hunbound', -, -, hxp, -, -, hwhole⟩ := hq.count v.units
  unfold State.mrun
  rw [State.issue_pass rfl hsteep hv (Hart.streamBad_nil hunbound _ _) rfl hm]
  exact State.vgo_quiet hunbound' hxp (State.source_whole hwhole)

/-- Where its body completes, the hart goes on. -/
theorem State.mrun_done {s t : State} {v : VInstr} {matrix : Bool} {body : State → Hart → VEnd}
    (hr : s.VReady v.units []) (hv : v.vcfg = false) (hm : matrix = false) (hw : s.started v.word v.units = s.count v.units)
    (hb : body (s.count v.units) (s.count v.units).hart = .done t) : s.mrun v matrix body = t.advance := by
  rw [State.mrun_quiet hr hv hm, hw, hb]
  rfl

/-! ### What counting units leaves of the operands -/

section
variable (s : State) (u : Nat)
@[simp] theorem State.opA_count (r : BitVec 5) : (s.count u).opA r = s.opA r := by simp [State.opA]
@[simp] theorem State.opB_count (r : BitVec 5) : (s.count u).opB r = s.opB r := by simp [State.opB]
@[simp] theorem State.sew_count : (s.count u).sew = s.sew := by simp [State.sew]
@[simp] theorem State.fmt_count : (s.count u).fmt = s.fmt := by simp [State.fmt]
@[simp] theorem State.rdir_count : (s.count u).rdir = s.rdir := by simp [State.rdir]
@[simp] theorem State.vlen_count : (s.count u).vlen = s.vlen := by simp [State.vlen]
@[simp] theorem State.anchor_count : (s.count u).anchor = s.anchor := by simp [State.anchor]
@[simp] theorem State.drawAt_count (k : Nat) : (s.count u).drawAt k = s.drawAt k := by simp [State.drawAt]
@[simp] theorem State.startElem_count : (s.count u).startElem = s.startElem := by simp [State.startElem]
@[simp] theorem State.skipped_count (i : Nat) : (s.count u).skipped i = s.skipped i := by simp [State.skipped]
@[simp] theorem State.actives_count (p : BitVec 3) : (s.count u).actives p = s.actives p := by simp [State.actives]
@[simp] theorem Hart.bank_count (k : BitVec 1) : (s.count u).hart.bank k = s.hart.bank k := by simp [Hart.bank]
end

/-! ### How an instruction that may have drawn ends (R68, R69) -/

/-- The state after n draws, where the instruction rounds stochastically. -/
def State.drewIf (s : State) (sr : Bool) (n : Nat) : State := if sr then s.drew n else s

theorem State.drewIf_zero (s : State) (sr : Bool) : s.drewIf sr 0 = s := by
  cases sr
  · rfl
  · simp [State.drewIf, State.drew]

/-- t is s after n draws where it rounds stochastically, flags raised, and going on; beside these all is as before. -/
def State.DrawnOn (s : State) (sr : Bool) (n : Nat) (fl : FFlags) (t : State) : Prop :=
  t.hart.pc = s.nextPc ∧ t.hart.fflags = s.hart.fflags ||| fl ∧
  t.hart.srcount = s.hart.srcount + (if sr then BitVec.ofNat 64 n else 0) ∧
  t = { s with hart := { s.hart.pcOf t.hart with
    fflags := t.hart.fflags, srcount := t.hart.srcount, draws := t.hart.draws } }

theorem State.drawnOn_intro (s : State) (sr : Bool) (n : Nat) (fl : FFlags) :
    s.DrawnOn sr n fl ((s.drewIf sr n).raise fl).advance := by
  have hframe : (s.drewIf sr n).raise fl = { s with hart := { s.hart with
      fflags := s.hart.fflags ||| fl, srcount := s.hart.srcount + (if sr then BitVec.ofNat 64 n else 0)
      draws := s.hart.draws + (if sr then BitVec.ofNat 64 n else 0) } } := by
    cases sr
    · simp [State.drewIf, State.raise]
    · rfl
  rw [hframe]
  refine ⟨?_, by simp, by simp, ?_⟩
  · rw [State.advance_pc]
    rfl
  · unfold State.advance State.setPc Hart.pcOf
    dsimp only
    split <;> rfl

/-- Memories and asynchronous writers are as they were. -/
theorem State.DrawnOn.fields {s t : State} {sr : Bool} {n : Nat} {fl : FFlags} (h : s.DrawnOn sr n fl t) :
    t.tm = s.tm ∧ t.gm = s.gm ∧ t.asyncs = s.asyncs := by
  obtain ⟨-, -, -, heq⟩ := h
  exact ⟨(congrArg State.tm heq).trans rfl, (congrArg State.gm heq).trans rfl, (congrArg State.asyncs heq).trans rfl⟩

/-! ### Flags of elements (R69) -/

/-- Bit k of flags gathered over a list is set where it stood before or some element sets it. -/
theorem getLsbD_foldl_or (f : Nat → FFlags) (l : List Nat) (a : FFlags) (k : Nat) :
    (l.foldl (fun fl i => fl ||| f i) a).getLsbD k = (a.getLsbD k || l.any fun i => (f i).getLsbD k) := by
  induction l generalizing a with
  | nil => simp
  | cons i l ih => rw [List.foldl_cons, ih, BitVec.getLsbD_or, List.any_cons, Bool.or_assoc]

end Sys2Proof.Machine
end

section
/-! SUPPORT. PLANE_BLOCKS. The bits of plane words, the bytes of a block in tile memory, and what MPACK and MUNPK do. -/

namespace Sys2Proof.Machine

/-! ### Sums of powers of two as bits (R92) -/

/-- The number whose bits below n a test gives. -/
def bitSum (c : Nat → Bool) (n : Nat) : Nat := ((upTo n).map fun k => if c k then 2 ^ k else 0).sum

theorem bitSum_succ (c : Nat → Bool) (n : Nat) : bitSum c (n + 1) = bitSum c n + if c n then 2 ^ n else 0 := by
  simp [bitSum, upTo, List.range_succ]

theorem bitSum_lt (c : Nat → Bool) (n : Nat) : bitSum c n < 2 ^ n := by
  induction n with
  | zero => simp [bitSum, upTo]
  | succ n ih =>
    rw [bitSum_succ]
    split <;> omega

theorem testBit_bitSum (c : Nat → Bool) {n k : Nat} (hk : k < n) : (bitSum c n).testBit k = c k := by
  induction n with
  | zero => omega
  | succ n ih =>
    have hlt := bitSum_lt c n
    have hsum : bitSum c (n + 1) = 2 ^ n * (c n).toNat + bitSum c n := by
      rw [bitSum_succ, Nat.add_comm]
      cases c n <;> simp
    rw [hsum, Nat.testBit_two_pow_mul_add _ hlt]
    by_cases hkn : k < n
    · rw [if_pos hkn, ih hkn]
    · obtain rfl : k = n := by omega
      cases c k <;> simp

theorem foldl_bits (c : Nat → Bool) (n : Nat) :
    (upTo n).foldl (fun v j => if c j then v + 2 ^ j else v) 0 = bitSum c n := by
  induction n with
  | zero => rfl
  | succ n ih =>
    rw [bitSum_succ, ← ih, upTo, List.range_succ, List.foldl_append]
    cases h : c n <;> simp [h, upTo]

/-- A plane word holds bit j of each encoding. -/
theorem planeWord_eq (j n : Nat) (f : Nat → Nat) : planeWord j ((upTo n).map f) = bitSum (fun k => (f k).testBit j) n := by
  rw [planeWord, bitSum, List.sum_eq_foldl]
  congr 1
  exact List.ext_getElem (by simp) fun i _ _ => by simp [upTo]

/-! ### Bits of bytes (R8) -/

/-- Bit i of byte k of a number is its bit 8 k + i. -/
theorem getLsbD_byte (v k : Nat) {i : Nat} (hi : i < 8) :
    (BitVec.ofNat 8 (v / 256 ^ k)).getLsbD i = v.testBit (8 * k + i) := by
  rw [BitVec.getLsbD_ofNat, show (256 : Nat) = 2 ^ 8 from rfl, ← Nat.pow_mul, Nat.testBit_div_two_pow, Nat.add_comm i]
  simp [hi]

/-- Bit k of a number is bit k mod 8 of its byte k / 8. -/
theorem testBit_leNat (bs : List Byte) {k : Nat} (hk : k / 8 < bs.length) :
    (leNat bs).testBit k = (bs[k / 8]).getLsbD (k % 8) := by
  have hbyte : bs[k / 8] = BitVec.ofNat 8 (leNat bs / 256 ^ (k / 8)) := by
    have h := leBytes_leNat bs
    rw [leBytes_eq_map] at h
    have hget := List.getElem_of_eq h (i := k / 8) (by simpa [upTo] using hk)
    rw [← hget]
    simp [upTo]
  rw [hbyte, getLsbD_byte _ _ (Nat.mod_lt _ (by decide)), Nat.div_add_mod]

/-! ### Chunks of one length laid out -/

theorem length_flatMap_chunks {α : Type} {n : Nat} (R : Nat) {c : Nat → List α} (hc : ∀ r, (c r).length = n) :
    ((upTo R).flatMap c).length = R * n := by
  simp [List.length_flatMap, upTo, hc]

theorem getElem?_flatMap_chunks {α : Type} {n R r i : Nat} {c : Nat → List α} (hc : ∀ r, (c r).length = n) (hr : r < R)
    (hi : i < n) : ((upTo R).flatMap c)[r * n + i]? = (c r)[i]? := by
  induction R with
  | zero => omega
  | succ R ih =>
    have hlen := length_flatMap_chunks R hc
    rw [upTo, List.range_succ, List.flatMap_append, List.flatMap_singleton, ← upTo]
    by_cases hrR : r = R
    · subst hrR
      rw [List.getElem?_append_right (by omega), hlen, Nat.add_sub_cancel_left]
    · have hle : (r + 1) * n ≤ R * n := Nat.mul_le_mul_right n (by omega)
      rw [List.getElem?_append_left (by rw [hlen]; rw [Nat.succ_mul] at hle; omega), ih (by omega)]

/-- Bit e of 32-bit words laid out is bit e mod 32 of word e / 32. -/
theorem getLsbD_words {R e : Nat} (g : Nat → Nat) (he : e < 32 * R) :
    (((upTo R).flatMap fun r => leBytes 4 (g r))[e / 8]?.getD 0).getLsbD (e % 8) = (g (e / 32)).testBit (e % 32) := by
  have hsplit : e / 8 = e / 32 * 4 + e % 32 / 8 := by omega
  have hbit : 8 * (e % 32 / 8) + e % 8 = e % 32 := by omega
  rw [hsplit, getElem?_flatMap_chunks (fun r => length_leBytes 4 (g r)) (by omega) (by omega), leBytes_eq_map,
    List.getElem?_map, upTo, List.getElem?_range (by omega)]
  exact (getLsbD_byte _ _ (Nat.mod_lt _ (by decide))).trans (by rw [hbit])

/-! ### Planes in memory (R268) -/

/-- Memory with the planes of a block stored, 128 bytes apart. -/
def Memory.storePlanes (m : Memory) (k : Nat) (bs : Nat → List Byte) (p : Nat) : Memory :=
  (upTo p).foldl (fun m j => m.store (k + 128 * j) (bs j)) m

section
variable {m : Memory} (k : Nat) (bs : Nat → List Byte) (p : Nat)

theorem Memory.storePlanes_succ : m.storePlanes k bs (p + 1) = (m.storePlanes k bs p).store (k + 128 * p) (bs p) := by
  simp [Memory.storePlanes, upTo, List.range_succ]

theorem Memory.wf_storePlanes (hm : m.wf = true) : (m.storePlanes k bs p).wf = true := by
  induction p with
  | zero => exact hm
  | succ p ih => exact Memory.storePlanes_succ k bs p ▸ Memory.wf_store _ _ ih

theorem Memory.read_storePlanes_outside (hm : m.wf = true) {c : Nat}
    (hc : ∀ j < p, c < k + 128 * j ∨ k + 128 * j + (bs j).length ≤ c) : (m.storePlanes k bs p).read c = m.read c := by
  induction p with
  | zero => rfl
  | succ p ih =>
    rw [Memory.storePlanes_succ, Memory.read_store_outside _ _ (Memory.wf_storePlanes k bs p hm) (hc p (by omega)),
      ih fun j hj => hc j (by omega)]

theorem Memory.read_storePlanes_inside (hm : m.wf = true) (hlen : ∀ j, (bs j).length ≤ 128) {j o : Nat} (hj : j < p)
    (ho : o < (bs j).length) : (m.storePlanes k bs p).read (k + 128 * j + o) = (bs j)[o]?.getD 0 := by
  induction p with
  | zero => omega
  | succ p ih =>
    have hw := Memory.wf_storePlanes k bs p hm
    rw [Memory.storePlanes_succ]
    by_cases hjp : j = p
    · subst hjp
      rw [Memory.read_store_inside hw ho, List.getD_eq_getElem?_getD]
    · have := hlen j
      rw [Memory.read_store_outside _ _ hw (by omega), ih (by omega)]

end

/-! ### Rows as MPACK encodes them (R93, R94, R273) -/

section
variable (bp : Nat) (dir : Nat → RDir) (val : Nat → FVal) (l : List Nat)

/-- The scale of row r: what its largest element asks for. -/
def packScale (r : Nat) : Nat := blockScale bp ((l.filter (· / 32 = r)).foldl (fun m e => maxMag m (val e).mag) none)

/-- The encoding of element e with its flags; an element that is not active is zero. -/
def packEnc (e : Nat) : Nat × FFlags :=
  if e ∈ l then toBlockInt (dir e) bp (packScale bp val l (e / 32)) (val e) else (0, 0)

theorem packScale_lt (r : Nat) : packScale bp val l r < 256 := by
  have : ∀ x : Int, (max 0 (min 254 x)).toNat < 256 := by omega
  unfold packScale blockScale
  split
  · decide
  · split
    · decide
    · exact this _

theorem packRow_eq (r : Nat) : packRow bp dir val l r = (packScale bp val l r,
    (upTo 32).map (fun k => (packEnc bp dir val l (32 * r + k)).1),
    (upTo 32).foldl (fun f k => f ||| (packEnc bp dir val l (32 * r + k)).2) 0) := by
  have hrun : l.filter (fun e => e / 32 == r) = l.filter (· / 32 = r) := List.filter_congr fun e _ => beq_eq_decide ..
  have henc : ∀ k ∈ upTo 32, (if (l.filter (· / 32 = r)).contains (32 * r + k) then
      toBlockInt (dir (32 * r + k)) bp (packScale bp val l r) (val (32 * r + k)) else (0, 0)) =
      packEnc bp dir val l (32 * r + k) := by
    intro k hk
    have hrow : (32 * r + k) / 32 = r := by have := List.mem_range.1 hk; omega
    simp [packEnc, hrow]
  have hmap := List.map_congr_left henc
  unfold packRow
  dsimp only
  rw [hrun, ← packScale, hmap, List.map_map, List.foldl_map]
  rfl

/-- The flags of every row are those of every element. -/
theorem packFlags_eq (R : Nat) (hl : ∀ e ∈ l, e < 32 * R) (f0 : FFlags) :
    f0 ||| (upTo R).foldl (fun f r => f ||| (packRow bp dir val l r).2.2) 0 =
      l.foldl (fun f e => f ||| (packEnc bp dir val l e).2) f0 := by
  ext k hk
  simp only [← BitVec.getLsbD_eq_getElem, BitVec.getLsbD_or, getLsbD_foldl_or, packRow_eq, BitVec.ofNat_eq_ofNat,
    BitVec.getLsbD_zero, Bool.false_or]
  congr 1
  rw [Bool.eq_iff_iff]
  simp only [List.any_eq_true]
  constructor
  · rintro ⟨r, -, k', -, hbit⟩
    refine ⟨32 * r + k', ?_, hbit⟩
    by_contra hmem
    simp [packEnc, hmem] at hbit
  · rintro ⟨e, he, hbit⟩
    have := hl e he
    exact ⟨e / 32, List.mem_range.2 (by omega), e % 32, List.mem_range.2 (by omega), by rwa [Nat.div_add_mod]⟩

/-- The bytes of plane j, and the scales, of R rows. -/
def packPlane (R j : Nat) : List Byte :=
  (upTo R).flatMap fun r => leBytes 4 (bitSum (fun k => (packEnc bp dir val l (32 * r + k)).1.testBit j) 32)
def packScales (R : Nat) : List Byte := (upTo R).map fun r => BitVec.ofNat 8 (packScale bp val l r)

theorem length_packPlane (R j : Nat) : (packPlane bp dir val l R j).length = R * 4 :=
  length_flatMap_chunks R fun _ => length_leBytes ..
theorem length_packScales (R : Nat) : (packScales bp val l R).length = R := by simp [packScales, upTo]

end

/-! ### A block stored (R273) -/

/-- The state with the planes and the scales of rows stored from a base on. -/
def State.packed (s : State) (base bp : Nat) (rows : List (Nat × List Nat × FFlags)) : State :=
  ((upTo bp).foldl (fun (t : State) j =>
    t.tmStore (base + 128 * j) (rows.flatMap (fun r => leBytes 4 (planeWord j r.2.1)))) s).tmStore (base + 128 * bp)
      (rows.map (fun r => BitVec.ofNat 8 r.1))

/-- The state with other bytes in tile memory. -/
def State.withTm (s : State) (m : Memory) : State := { s with tm := m }

section
variable (s : State) (m n : Memory)
@[simp] theorem State.withTm_tm : (s.withTm m).tm = m := rfl
@[simp] theorem State.withTm_tmPois : (s.withTm m).tmPois = s.tmPois := rfl
@[simp] theorem State.withTm_hart : (s.withTm m).hart = s.hart := rfl
@[simp] theorem State.withTm_withTm : (s.withTm m).withTm n = s.withTm n := rfl
theorem State.withTm_self : s.withTm s.tm = s := rfl
end

theorem State.tmStore_nil (s : State) (a : Nat) : s.tmStore a [] = s := rfl

theorem State.packed_nil (s : State) (base bp : Nat) : s.packed base bp [] = s := by
  simp [State.packed, State.tmStore_nil]

/-- A store to tile memory without poison changes its bytes alone. -/
theorem State.tmStore_clean {s : State} (hp : s.tmPois = []) (a : Nat) (bs : List Byte) :
    s.tmStore a bs = s.withTm (s.tm.store (tmKey s.hart.id.tile a) bs) := by
  simp [State.tmStore, State.tmStoreKey, hp, setClear, State.tileNo, State.withTm]

theorem tmKey_add (t a n : Nat) : tmKey t (a + n) = tmKey t a + n := (Nat.add_assoc ..).symm

theorem State.packed_clean {s : State} (hp : s.tmPois = []) (base bp : Nat) (dir : Nat → RDir) (val : Nat → FVal)
    (l : List Nat) (R : Nat) : s.packed base bp ((upTo R).map (packRow bp dir val l)) =
      s.withTm ((s.tm.storePlanes (tmKey s.hart.id.tile base) (packPlane bp dir val l R) bp).store
        (tmKey s.hart.id.tile base + 128 * bp) (packScales bp val l R)) := by
  have hplane : ∀ j, ((upTo R).map (packRow bp dir val l)).flatMap (fun r => leBytes 4 (planeWord j r.2.1)) =
      packPlane bp dir val l R j := fun j => by
    simp only [packPlane, List.flatMap_map, packRow_eq, planeWord_eq]
  have hscales : ((upTo R).map (packRow bp dir val l)).map (fun r => BitVec.ofNat 8 r.1) = packScales bp val l R := by
    simp only [packScales, List.map_map, Function.comp_def, packRow_eq]
  have hfold : ∀ n, (upTo n).foldl (fun (t : State) j => t.tmStore (base + 128 * j) (packPlane bp dir val l R j)) s =
      s.withTm (s.tm.storePlanes (tmKey s.hart.id.tile base) (packPlane bp dir val l R) n) := by
    intro n
    induction n with
    | zero => rfl
    | succ n ih =>
      rw [upTo, List.range_succ, List.foldl_append, ← upTo, ih, List.foldl_cons, List.foldl_nil,
        State.tmStore_clean (by simpa using hp)]
      simp [tmKey_add, Memory.storePlanes_succ]
  unfold State.packed
  simp only [hplane, hscales]
  rw [hfold, State.tmStore_clean (by simpa using hp)]
  simp [tmKey_add]

/-- What stands in memory after a block is stored. -/
theorem Memory.read_packed {m : Memory} (hm : m.wf = true) (k bp : Nat) (dir : Nat → RDir) (val : Nat → FVal) (l : List Nat)
    {R : Nat} (hR : R ≤ 32) :
    let n := (m.storePlanes k (packPlane bp dir val l R) bp).store (k + 128 * bp) (packScales bp val l R)
    (∀ e < 32 * R, ∀ j < bp, (n.read (k + 128 * j + e / 8)).getLsbD (e % 8) = (packEnc bp dir val l e).1.testBit j) ∧
    (∀ r < R, (n.read (k + 128 * bp + r)).toNat = packScale bp val l r) ∧
    (∀ c, ¬((∃ j < bp, k + 128 * j ≤ c ∧ c < k + 128 * j + 4 * R) ∨ (k + 128 * bp ≤ c ∧ c < k + 128 * bp + R)) →
      n.read c = m.read c) := by
  have hw := Memory.wf_storePlanes k (packPlane bp dir val l R) bp hm
  have hlen : ∀ j, (packPlane bp dir val l R j).length = R * 4 := length_packPlane bp dir val l R
  have hscl := length_packScales bp val l R
  refine ⟨fun e he j hj => ?_, fun r hr => ?_, fun c hc => ?_⟩
  · rw [Memory.read_store_outside _ _ hw (by omega), Memory.read_storePlanes_inside k _ bp hm
      (fun j => by rw [hlen]; omega) hj (by rw [hlen]; omega), packPlane, getLsbD_words _ he,
      testBit_bitSum _ (Nat.mod_lt _ (by decide)), Nat.div_add_mod]
  · rw [Memory.read_store_inside hw (by omega)]
    have := packScale_lt bp val l r
    simp [packScales, upTo, hr]
    omega
  · push Not at hc
    obtain ⟨hplanes, hscale⟩ := hc
    rw [Memory.read_store_outside _ _ hw (by rw [hscl]; by_contra h; have := hscale (by omega); omega),
      Memory.read_storePlanes_outside k _ bp hm fun j hj => by
        rw [hlen]
        by_contra h
        have := hplanes j hj (by omega)
        omega]

/-! ### MPACK (R273) -/

/-- A vector access of tile memory by a quiet hart meets nothing at an element but a poisoned index or poisoned data. -/
theorem State.tmVecData_quiet {s : State} (hd : s.hart.Unwatched) (v : TmVec) {data : State → Nat → Option Word} {i : Nat}
    (hi : v.idx i = none) (hdata : data s i = none) : s.tmVecData v data i = none := by
  have hwatch : ∀ l st a, s.watchHit true l st i a v.n = none := fun l st a => State.watchHit_nil hd.1 ..
  have hfind : (v.addrs i).findSome? (fun a => s.watchHit true (!v.store) v.store i a.toNat v.n) = none :=
    List.findSome?_eq_none_iff.2 fun a _ => hwatch ..
  simp [State.tmVecData, State.haltElem_quiet hd, hi, hfind, hdata]

theorem State.blockStop_none {s : State} {base : Word} {p : Nat} (hal : base.toNat % 32 = 0)
    (hok : s.tmOk base.toNat (128 * p + (s.vlen + 31) / 32) = true) : s.blockStop base p = none := by
  simp [State.blockStop, State.tmStop, State.tmFirstBad, cdiv, hal, hok]

/-- Neither instruction on blocks meets an early condition. -/
theorem State.blockInstr_vcfg {s : State} {d : BitVec 5} (hg : s.badGroup d = false) (word : IWord) (store : Bool)
    (a : BitVec 5) (p : BitVec 3) : (s.blockInstr word store d a p).vcfg = false := by
  simp [State.blockInstr, State.vmInstr, hg]

section
variable {s : State} {d a : BitVec 5} {q : BitVec 4} {p : BitVec 3}

/-- How an element of MPACK is rounded. -/
def State.packDir (s : State) (p : BitVec 3) (e : Nat) : RDir :=
  if vtSr s.hart.vtype then RDir.draw (s.drawAt (rankIn (s.actives p) e)) else s.rdir

/-- The value of element e of a group. -/
def State.packVal (s : State) (d : BitVec 5) (e : Nat) : FVal := s.fmt.decode (s.hart.elem s.sew d.toNat e)

/-- The rows of a block of VL elements as MPACK encodes them. -/
def State.packRows (s : State) (d : BitVec 5) (q : BitVec 4) (p : BitVec 3) : List (Nat × List Nat × FFlags) :=
  (upTo ((s.vlen + 31) / 32)).map (packRow (q.toNat + 1) (s.packDir p) (s.packVal d) (s.actives p))

/-- An aligned and granted MPACK stores its rows, draws and raises the flags of its elements. -/
theorem execMpack_stores (hr : s.VReady (s.rows s.sew) [d]) (hvl : s.vlen ≤ 1024) (hal : (s.opA a).toNat % 32 = 0)
    (hok : s.tmOk (s.opA a).toNat (128 * (q.toNat + 1) + (s.vlen + 31) / 32) = true) :
    Answers (execMpack d a q p s) (((s.count (s.rows s.sew)).packed (s.opA a).toNat (q.toNat + 1) (s.packRows d q p)).DrawnOn
      (vtSr s.hart.vtype) (s.actives p).length ((s.packRows d q p).foldl (fun f r => f ||| r.2.2) 0)) := by
  obtain ⟨hq, hsteep, hgood⟩ := hr
  obtain ⟨-, hd, -⟩ := id hq
  have hstop : (s.count (s.rows s.sew)).blockStop (s.opA a) (q.toNat + 1) = none :=
    State.blockStop_none hal (by simpa using hok)
  have hdata : ∀ e, (s.count (s.rows s.sew)).tmVecData (blockVec (s.opA a) (q.toNat + 1) true) (fun _ e =>
      ((s.count (s.rows s.sew)).hart.poisIn s.sew [d.toNat] e).map (BitVec.ofNat 64)) e = none := fun e =>
    State.tmVecData_quiet (by simpa [Hart.Unwatched] using hd) _ rfl (by
      rw [Hart.poisIn_count hq]
      rfl)
  refine ⟨_, congrArg Host.Outcome.next (State.mrun_done ⟨hq, hsteep, by simp⟩
    (State.blockInstr_vcfg (hgood d (by simp)) ..) (by simpa using hvl) (s.started_mx _ _ _ _ _ _ _ (by decide) _) ?_),
    State.drawnOn_intro ..⟩
  have hw : (s.blockInstr (mx 0x33#6 d a (0#1 ++ q) p 0#1 0#2 0#1 1#4) true d a p).units = s.rows s.sew := rfl
  rw [hw]
  simp only [State.opA_count, State.vlen_count, State.actives_count, hstop, hdata]
  split
  next h0 =>
    have hrows : upTo ((0 + 31) / 32) = [] := rfl
    rw [State.packRows, h0, State.actives_of_vlen_zero h0, hrows, List.map_nil, State.packed_nil]
    exact congrArg VEnd.done ((State.raise_zero _).trans (State.drewIf_zero _ _)).symm
  next =>
    simp only [Option.map_none, List.findSome?_eq_none_iff.2 fun _ _ => rfl, State.count_hart_vtype, State.drawAt_count,
      State.rdir_count, State.fmt_count, Hart.elem_count]
    rfl

/-- MPACK writes one plane block (R273). -/
theorem execMpack_packs (hm : s.MemOk) (hr : s.VReady (s.rows s.sew) [d]) (hvl : s.vlen ≤ 1024)
    (hal : (s.opA a).toNat % 32 = 0)
    (hok : s.tmOk (s.opA a).toNat (128 * (q.toNat + 1) + (s.vlen + 31) / 32) = true) :
    let bp := q.toNat + 1
    let rows := (s.vlen + 31) / 32
    let base := tmKey s.hart.id.tile (s.opA a).toNat
    let u := s.count (s.rows s.sew)
    let enc := packEnc bp (s.packDir p) (s.packVal d) (s.actives p)
    Answers (execMpack d a q p s) (fun t =>
      t.hart.pc = s.nextPc ∧ (∀ c, t.gm.read c = s.gm.read c) ∧
      (∀ e < 32 * rows, ∀ j < bp, (t.tm.read (base + 128 * j + e / 8)).getLsbD (e % 8) = (enc e).1.testBit j) ∧
      (∀ r < rows, (t.tm.read (base + 128 * bp + r)).toNat = packScale bp (s.packVal d) (s.actives p) r) ∧
      (∀ c, ¬((∃ j < bp, base + 128 * j ≤ c ∧ c < base + 128 * j + 4 * rows) ∨
        (base + 128 * bp ≤ c ∧ c < base + 128 * bp + rows)) → t.tm.read c = s.tm.read c) ∧
      t.hart.fflags = (s.actives p).foldl (fun f e => f ||| (enc e).2) s.hart.fflags ∧
      t.hart.srcount = s.hart.srcount + (if vtSr s.hart.vtype then BitVec.ofNat 64 (s.actives p).length else 0) ∧
      t = { u with
        hart := { u.hart.pcOf t.hart with fflags := t.hart.fflags, srcount := t.hart.srcount, draws := t.hart.draws }
        tm := t.tm }) := by
  intro bp rows base u enc
  have hpois : u.tmPois = [] := by
    obtain ⟨⟨-, -, -, -, htm, -⟩, -⟩ := hr
    simpa [u] using htm
  have hrow : ∀ e ∈ s.actives p, e < 32 * rows := fun e he => by
    have := State.mem_actives_lt he
    omega
  have hmem := Memory.read_packed hm.1 base bp (s.packDir p) (s.packVal d) (s.actives p) (R := rows) (by omega)
  obtain ⟨t, ht, hdrawn⟩ := execMpack_stores (p := p) hr hvl hal hok
  rw [State.packRows, State.packed_clean hpois] at hdrawn
  obtain ⟨htm, hgm, -⟩ := hdrawn.fields
  obtain ⟨hpc, hfl, hcount, heq⟩ := hdrawn
  have htile : u.hart.id = s.hart.id := s.count_hart_id _
  have hstored : t.tm = _ := htm
  rw [State.withTm_tm, htile, s.count_tm] at hstored
  rw [← hstored] at hmem
  obtain ⟨hbits, hscales, hout⟩ := hmem
  refine ⟨t, ht, hpc.trans ?_, fun c => ?_, hbits, hscales, hout, ?_, ?_, ?_⟩
  · exact State.nextPc_of (s.count_hart_pc _) (s.count_hart_current _)
  · rw [hgm]
    exact congrArg (fun m => Memory.read m c) (s.count_gm _)
  · rw [hfl, List.foldl_map, packFlags_eq _ _ _ _ rows hrow]
    simp [u, enc, bp]
  · rw [hcount, State.withTm_hart, s.count_hart_srcount]
  · rw [htm]
    exact heq

end

end Sys2Proof.Machine
end

section
/-! SUPPORT. MUNPK. The loop of a load of tile memory whose elements raise flags, and what MUNPK reads from a block. -/

namespace Sys2Proof.Machine

/-! ### Elements put one after another -/

theorem Hart.writeElems_fflags (h : Hart) (fl : FFlags) (w r : Nat) (f : Nat → Nat) (l : List Nat) :
    ({ h with fflags := fl } : Hart).writeElems w r f l = { h.writeElems w r f l with fflags := fl } := by
  induction l generalizing h with
  | nil => rfl
  | cons i l ih => exact ih (h.setElem w r i (f i))

/-- The state with one element of a group written and its flags raised. -/
def State.putElem (s : State) (w r : Nat) (f : Nat → Nat × FFlags) (i : Nat) : State :=
  State.raise { s with hart := s.hart.setElem w r i (f i).1 } (f i).2

theorem State.putElems_eq (s : State) (w r : Nat) (f : Nat → Nat × FFlags) (l : List Nat) :
    s.putElems w r f l = { s with hart := { s.hart.writeElems w r (fun i => (f i).1) l with
      fflags := l.foldl (fun fl i => fl ||| (f i).2) s.hart.fflags } } := by
  have hflags : (s.hart.writeElems w r (fun i => (f i).1) l).fflags = s.hart.fflags := by
    rw [Hart.writeElems_eq]
  rw [← BitVec.or_zero (x := s.hart.fflags), ← foldl_or, ← hflags]
  rfl

theorem State.putElems_cons (s : State) (w r : Nat) (f : Nat → Nat × FFlags) (i : Nat) (l : List Nat) :
    s.putElems w r f (i :: l) = (s.putElem w r f i).putElems w r f l := by
  have hwrite : (s.putElem w r f i).hart.writeElems w r (fun i => (f i).1) l =
      { (s.hart.setElem w r i (f i).1).writeElems w r (fun i => (f i).1) l with
        fflags := s.hart.fflags ||| (f i).2 } := Hart.writeElems_fflags (s.hart.setElem w r i (f i).1) _ w r _ l
  rw [State.putElems_eq, State.putElems_eq, hwrite]
  rfl

/-! ### A load of tile memory that nothing stops (R233, R234) -/

/-- t holds the tile memory that s holds, none of it poisoned, and nothing watches its hart. -/
def State.LoadsAs (s t : State) : Prop :=
  t.tm = s.tm ∧ t.tmPois = [] ∧ t.hart.id = s.hart.id ∧ t.hart.Unwatched

theorem State.LoadsAs.putElem {s t : State} (h : s.LoadsAs t) (w r : Nat) (f : Nat → Nat × FFlags) (i : Nat) :
    s.LoadsAs (t.putElem w r f i) := h

theorem loadPois_clean {t : State} (hp : t.tmPois = []) (v : TmVec) (i : Nat) : loadPois v t i = none := by
  simp [loadPois, State.tmPoisoned, State.tmPoisKey, hp, setHas]

/-- The loop of a load puts its elements. -/
theorem State.tmVecLoop_putElems {s : State} {v : TmVec} {eff : State → Nat → State} {w r : Nat} {f : Nat → Nat × FFlags}
    (hidx : ∀ i, v.idx i = none) (l : List Nat) (heff : ∀ t, s.LoadsAs t → ∀ i ∈ l, eff t i = t.putElem w r f i) :
    ∀ t, s.LoadsAs t → t.tmVecLoop v (loadPois v) eff l = .done (t.putElems w r f l) := by
  induction l with
  | nil => exact fun t _ => congrArg VEnd.done (t.putElems_nil w r f).symm
  | cons i l ih =>
    intro t ht
    obtain ⟨-, hpois, -, hd⟩ := id ht
    rw [State.tmVecLoop, State.tmVecData_quiet hd v (hidx i) (loadPois_clean hpois v i), heff t ht i List.mem_cons_self,
      State.putElems_cons]
    exact ih (fun t ht j hj => heff t ht j (List.mem_cons_of_mem _ hj)) _ (ht.putElem w r f i)

/-! ### What a block holds (R92, R268) -/

theorem Memory.getElem?_bytes (m : Memory) {a n k : Nat} (hk : k < n) : (m.bytes a n)[k]? = some (m.read (a + k)) := by
  induction n generalizing a k with
  | zero => omega
  | succ n ih =>
    cases k with
    | zero => rfl
    | succ k => rw [Memory.bytes, List.getElem?_cons_succ, ih (by omega), Nat.add_assoc, Nat.add_comm 1]

theorem State.tmLoad_byte (t : State) (a : Nat) : t.tmLoad a 1 = (t.tm.read (tmKey t.hart.id.tile a)).toNat := by
  simp [State.tmLoad, State.tmBytes, Memory.bytes, leNat, State.tileNo]

theorem State.testBit_tmLoad (t : State) (a : Nat) {n k : Nat} (hk : k / 8 < n) :
    (t.tmLoad a n).testBit k = (t.tm.read (tmKey t.hart.id.tile a + k / 8)).getLsbD (k % 8) := by
  have hget := Memory.getElem?_bytes t.tm (a := tmKey t.tileNo a) hk
  obtain ⟨hlen, hval⟩ := List.getElem?_eq_some_iff.1 hget
  exact (testBit_leNat _ hlen).trans (congrArg (BitVec.getLsbD · (k % 8)) hval)

/-- The encoding of element e of a block. -/
theorem State.planeBits_eq (t : State) (base p e : Nat) : t.planeBits base p (e / 32) (e % 32) =
    bitSum (fun j => (t.tm.read (tmKey t.hart.id.tile base + 128 * j + e / 8)).getLsbD (e % 8)) p := by
  have hbyte : 4 * (e / 32) + e % 32 / 8 = e / 8 := by omega
  have hbit : e % 32 % 8 = e % 8 := by omega
  rw [State.planeBits, foldl_bits]
  congr 1
  funext j
  rw [State.testBit_tmLoad t _ (by omega), Nat.add_assoc, tmKey_add, Nat.add_assoc, Nat.add_assoc, hbyte, hbit,
    Nat.add_assoc]

/-- The integer that an encoding of p bits means. -/
theorem blockInt_eq {p b : Nat} (hb : b < 2 ^ p) : blockInt p b = if p = 1 then 1 - 2 * (b : Int) else sextNat p b := by
  unfold blockInt
  split
  next h =>
    subst h
    obtain rfl | rfl : b = 0 ∨ b = 1 := by omega
    · rfl
    · rfl
  next => rfl

/-! ### MUNPK (R274) -/

section
variable {s : State} {d a : BitVec 5} {q : BitVec 4} {p : BitVec 3}

/-- What element e of a block reads as: the encoding's integer at its row's scale. -/
def State.unpacked (s : State) (base bp e : Nat) : Nat × FFlags :=
  let sc := (s.tm.read (base + 128 * bp + e / 32)).toNat
  let bits := bitSum (fun j => (s.tm.read (base + 128 * j + e / 8)).getLsbD (e % 8)) bp
  let int : Int := if bp = 1 then 1 - 2 * (bits : Int) else sextNat bp bits
  if sc = 255 then (s.fmt.nanBits, flagNV) else s.fmt.round s.rdir (.fin (decide (int < 0)) int.natAbs ((sc : Int) - 127))

/-- A state with the same tile memory reads the same element. -/
theorem State.unpacked_eq (s : State) {t : State} (htm : t.tm = s.tm) (hid : t.hart.id = s.hart.id) (base bp e : Nat) :
    let sc := t.tmLoad (base + 128 * bp + e / 32) 1
    let n := blockInt bp (t.planeBits base bp (e / 32) (e % 32))
    (if sc = 255 then (s.fmt.nanBits, flagNV)
      else s.fmt.round s.rdir (.fin (decide (n < 0)) n.natAbs ((sc : Int) - 127))) =
      s.unpacked (tmKey s.hart.id.tile base) bp e := by
  intro sc n
  have hsc : sc = (s.tm.read (tmKey s.hart.id.tile base + 128 * bp + e / 32)).toNat := by
    rw [← htm, ← hid, Nat.add_assoc, ← tmKey_add, ← Nat.add_assoc]
    exact t.tmLoad_byte _
  have hn : n = blockInt bp (bitSum (fun j =>
      (s.tm.read (tmKey s.hart.id.tile base + 128 * j + e / 8)).getLsbD (e % 8)) bp) :=
    htm ▸ hid ▸ congrArg (blockInt bp) (t.planeBits_eq base bp e)
  rw [blockInt_eq (bitSum_lt _ _)] at hn
  rw [hsc, hn]
  rfl

/-- MUNPK reads one plane block (R274). -/
theorem execMunpk_reads (hr : s.VReady (s.rows s.sew) [d]) (hvl : s.vlen ≤ 1024) (hal : (s.opA a).toNat % 32 = 0)
    (hok : s.tmOk (s.opA a).toNat (128 * (q.toNat + 1) + (s.vlen + 31) / 32) = true) :
    Answers (execMunpk d a q p s) (s.WritesV (s.rows s.sew) s.sew d (s.actives p)
      (s.unpacked (tmKey s.hart.id.tile (s.opA a).toNat) (q.toNat + 1))) := by
  obtain ⟨hq, hsteep, hgood⟩ := hr
  obtain ⟨-, -, hvpois, -⟩ := id hq
  obtain ⟨-, hd, -, -, hpois, -⟩ := hq.count (s.rows s.sew)
  have hloads : s.LoadsAs (s.count (s.rows s.sew)) := ⟨s.count_tm _, hpois, s.count_hart_id _, hd⟩
  have hstart := s.started_mx d a (0#1 ++ q) p 0#1 0#2 0#1 (fn := 2#4) (by decide) (s.rows s.sew)
  have hstop : (s.count (s.rows s.sew)).blockStop (s.opA a) (q.toNat + 1) = none :=
    State.blockStop_none hal (by simpa using hok)
  have hwrites := s.writesV_intro (mx 0x33#6 d a (0#1 ++ q) p 0#1 0#2 0#1 2#4) (s.rows s.sew) s.sew d
    (s.unpacked (tmKey s.hart.id.tile (s.opA a).toNat) (q.toNat + 1)) (s.actives p) hvpois
  rw [hstart] at hwrites
  refine ⟨_, congrArg Host.Outcome.next (State.mrun_done ⟨hq, hsteep, by simp⟩
    (State.blockInstr_vcfg (hgood d (by simp)) ..) (by simpa using hvl) hstart ?_), hwrites⟩
  have hw : (s.blockInstr (mx 0x33#6 d a (0#1 ++ q) p 0#1 0#2 0#1 2#4) false d a p).units = s.rows s.sew := rfl
  rw [hw]
  simp only [State.opA_count, State.vlen_count, State.actives_count, hstop]
  split
  next h0 =>
    rw [State.actives_of_vlen_zero h0]
    exact congrArg VEnd.done (State.raise_zero _).symm
  next =>
    refine State.tmVecLoop_putElems (fun _ => rfl) _ (fun t ht e _ => ?_) _ hloads
    obtain ⟨htm, -, hid, -⟩ := ht
    have hval := s.unpacked_eq htm hid (s.opA a).toNat (q.toNat + 1) e
    unfold State.putElem
    rw [← hval, ← s.fmt_count (s.rows s.sew), ← s.rdir_count (s.rows s.sew)]

end

/-- Settles O35: the rows that MPACK stores are read back plane by plane, and the loop of MUNPK puts the elements that the
block holds. -/
theorem planeBlocks : Obligations.PlaneBlocks := by
  unfold Obligations.PlaneBlocks
  intro s d a q p hm hr w bp l rows base sr val scale dir enc bit touched bits int u hvl hal hok
  exact ⟨execMpack_packs hm hr hvl hal hok, execMunpk_reads hr hvl hal hok⟩

end Sys2Proof.Machine
end

section
/-! SUPPORT. DRAIN_VALUES. What MDRAIN converts and where it puts it (R101, R280, R281). -/

namespace Sys2Proof.Machine

/-! ### Values and addresses -/

/-- The bytes that a conversion code stores for an element. -/
def drainBytes (c : BitVec 5) : Nat :=
  if c = 0 then 4 else if c = 1 ∨ c = 2 then 2 else if c = 3 ∨ c = 4 then 1 else if c.toNat < 24 then 1 else 2

/-- A bank element Q as a format's number. -/
def drainFp (r : RDir) (anch Q : Int) (f : Fmt) : Nat × FFlags :=
  if Q < -2 ^ 119 ∨ 2 ^ 119 ≤ Q then (f.signed (decide (Q < 0)) (f.overflow r (decide (Q < 0))), flagOF ||| flagNX)
  else if Q = 0 then (0, 0) else f.round r (.fin (decide (Q < 0)) Q.natAbs anch)

/-- A bank element Q as a block integer of bp bits in wd bytes. -/
def drainBi (r : RDir) (anch Q : Int) (wd bp : Nat) : Nat × FFlags :=
  let v := if Q < -2 ^ 119 ∨ 2 ^ 119 ≤ Q then ((toBlockInt r bp 127 (.inf (decide (Q < 0)))).1, flagOF ||| flagNX)
    else toBlockInt r bp (max 0 (min 254 (anch + 127))).toNat (.fin (decide (Q < 0)) Q.natAbs anch)
  (if bp = 1 then v.1 else wrapNat (8 * wd) (sextNat bp v.1), v.2)

/-- A bank element Q as a conversion code asks for it. -/
def drainCvt (c : BitVec 5) (r : RDir) (anch Q : Int) : Nat × FFlags :=
  if c = 0 then drainFp r anch Q .fp32 else if c = 1 then drainFp r anch Q .bf16
  else if c = 2 then drainFp r anch Q .fp16 else if c = 3 then drainFp r anch Q .e4m3
  else if c = 4 then drainFp r anch Q .e5m2 else drainBi r anch Q (drainBytes c) (c.toNat - 15)

theorem drainOf_bytes : ∀ {c : BitVec 5}, c.toNat ≤ 4 ∨ 16 ≤ c.toNat → (drainOf c).bytes = drainBytes c := by decide

theorem drainOf_blockInt : ∀ {c : BitVec 5}, 16 ≤ c.toNat → drainOf c = .bi (c.toNat - 15) := by decide

/-- The model's test of the range is that of R101. -/
theorem drain_inRange (Q : Int) :
    (!(decide (-(2 ^ 119) ≤ Q) && decide (Q < 2 ^ 119))) = decide (Q < -2 ^ 119 ∨ 2 ^ 119 ≤ Q) := by
  simp only [Bool.not_and, ← decide_not, ← Bool.decide_or, Int.not_le, Int.not_lt]

theorem Drain.convert_fp (f : Fmt) (r : RDir) (anch : Int) (q : BitVec 128) :
    (Drain.fp f).convert r anch q = drainFp r anch q.toInt f := by
  unfold Drain.convert drainFp
  simp only [drain_inRange, decide_eq_true_eq]
  by_cases h0 : q.toInt = 0
  · simp only [h0, if_true]
  · simp only [h0, if_false, Fmt.round, Int.natAbs_eq_zero]

theorem Drain.convert_bi (bp : Nat) (r : RDir) (anch : Int) (q : BitVec 128) :
    (Drain.bi bp).convert r anch q = drainBi r anch q.toInt (Drain.bi bp).bytes bp := by
  unfold Drain.convert drainBi
  simp only [drain_inRange, decide_eq_true_eq]

theorem drainOf_convert {c : BitVec 5} (hc : c.toNat ≤ 4 ∨ 16 ≤ c.toNat) (r : RDir) (anch : Int) (q : BitVec 128) :
    (drainOf c).convert r anch q = drainCvt c r anch q.toInt := by
  obtain hle | hge := hc
  · have : c = 0 ∨ c = 1 ∨ c = 2 ∨ c = 3 ∨ c = 4 := by bv_omega
    obtain rfl | rfl | rfl | rfl | rfl := this
    · exact Drain.convert_fp ..
    · exact Drain.convert_fp ..
    · exact Drain.convert_fp ..
    · exact Drain.convert_fp ..
    · exact Drain.convert_fp ..
  · have hne : ∀ n : BitVec 5, n.toNat ≤ 4 → c ≠ n := fun n hn h => by subst h; omega
    unfold drainCvt
    rw [drainOf_blockInt hge, Drain.convert_bi, if_neg (hne 0 (by decide)), if_neg (hne 1 (by decide)),
      if_neg (hne 2 (by decide)), if_neg (hne 3 (by decide)), if_neg (hne 4 (by decide)), ← drainOf_bytes (.inr hge),
      drainOf_blockInt hge]

section
variable (s : State) (c a b : BitVec 5) (p : BitVec 3) (k : BitVec 1) (m : BitVec 2)

/-- What MDRAIN makes of element e of a bank. -/
def State.drainConv (e : Nat) : Nat × FFlags :=
  drainCvt c (if vtSr s.hart.vtype then .draw (s.drawAt (rankIn (s.actives p) e)) else s.rdir) s.hart.msanchor.toInt
    ((s.hart.bank k).get e).toInt

/-- Where MDRAIN puts element e. -/
def State.drainAt (e : Nat) : Word :=
  if m = 0 then s.opA a + BitVec.ofNat 64 (e * drainBytes c)
  else if m = 1 then s.opA a + BitVec.ofNat 64 (e / s.hart.msn.toNat) * s.opB b +
    BitVec.ofNat 64 (e % s.hart.msn.toNat * drainBytes c)
  else s.opA a + BitVec.ofNat 64 (s.hart.elem s.sew b.toNat e)

variable {s c p k}

theorem State.drainAddr_count (hn : 0 < s.hart.msn.toNat) (u e : Nat) :
    (s.count u).drainAddr (s.count u).hart m a b (drainBytes c) e = s.drainAt c a b m e := by
  have hmax : Nat.max s.hart.msn.toNat 1 = s.hart.msn.toNat := Nat.max_eq_left hn
  simp [State.drainAddr, State.drainAt, hmax]

theorem State.drainConv_count (hc : c.toNat ≤ 4 ∨ 16 ≤ c.toNat) (u e : Nat) :
    (drainOf c).convert (if vtSr (s.count u).hart.vtype then .draw ((s.count u).drawAt (rankIn (s.actives p) e))
      else (s.count u).rdir) (s.count u).anchor (((s.count u).hart.bank k).get e) = s.drainConv c p k e := by
  rw [drainOf_convert hc]
  simp [State.drainConv, State.anchor]

end

/-! ### Stores one after another -/

/-- Memory with one run of bytes stored for each element of a list, in the list's order. -/
def Memory.storeEach (m : Memory) (key : Nat → Nat) (bs : Nat → List Byte) (l : List Nat) : Memory :=
  l.foldl (fun m e => m.store (key e) (bs e)) m

section
variable {m : Memory} {key : Nat → Nat} {bs : Nat → List Byte} {l : List Nat} {n : Nat}

theorem Memory.read_storeEach_outside (hm : m.wf = true) {x : Nat} (hx : ∀ i ∈ l, x < key i ∨ key i + (bs i).length ≤ x) :
    (m.storeEach key bs l).read x = m.read x := by
  induction l generalizing m with
  | nil => rfl
  | cons i l ih =>
    refine (ih (Memory.wf_store _ _ hm) fun j hj => hx j (List.mem_cons_of_mem _ hj)).trans ?_
    exact Memory.read_store_outside _ _ hm (hx i List.mem_cons_self)

/-- A run is read back where no later one of a sorted list touches it. -/
theorem Memory.bytes_storeEach (hm : m.wf = true) (hlen : ∀ i, (bs i).length = n) (hl : l.Pairwise (· < ·)) {i : Nat}
    (hi : i ∈ l) (hlater : ∀ j ∈ l, i < j → key j + n ≤ key i ∨ key i + n ≤ key j) :
    (m.storeEach key bs l).bytes (key i) n = bs i := by
  induction l generalizing m with
  | nil => cases hi
  | cons e l ih =>
    obtain ⟨hfirst, hrest⟩ := List.pairwise_cons.1 hl
    have hw := Memory.wf_store (bs e) (key e) hm
    obtain rfl | hi := List.mem_cons.1 hi
    · have hkept : ((m.store (key i) (bs i)).storeEach key bs l).bytes (key i) n = (m.store (key i) (bs i)).bytes (key i) n :=
        Memory.bytes_congr fun o ho => Memory.read_storeEach_outside hw fun j hj => by
          have := hlater j (List.mem_cons_of_mem _ hj) (hfirst j hj)
          rw [hlen]
          omega
      refine hkept.trans ?_
      rw [← hlen i]
      exact Memory.bytes_store _ _ hm
    · exact ih hw hrest hi fun j hj => hlater j (List.mem_cons_of_mem _ hj)

end

/-! ### The loop of a drain -/

/-- A drain that no element stops hands on every element and raises their flags. -/
theorem State.drainLoop_quiet {data : Nat → Option (BitVec 8 × Word)} {f : Nat → Nat × FFlags} {addr : Nat → Word} {wd : Nat}
    {put : State → Nat → Word → List Byte → State} {l : List Nat} (hdata : ∀ e ∈ l, data e = none) (s : State)
    (fl : FFlags) : s.drainLoop data f addr wd put l fl =
      .done ((l.foldl (fun t e => put t e (addr e) (leBytes wd (f e).1)) s).raise
        (l.foldl (fun fl e => fl ||| (f e).2) fl)) := by
  induction l generalizing s fl with
  | nil => rfl
  | cons e l ih =>
    rw [State.drainLoop, hdata e List.mem_cons_self]
    exact ih (fun e he => hdata e (List.mem_cons_of_mem _ he)) _ _

/-- A stochastic instruction that completes has drawn for every active element. -/
theorem VEnd.drew_done (t : State) (fl : FFlags) (sr : Bool) (l : List Nat) :
    (if sr then (VEnd.done (t.raise fl)).drew l else .done (t.raise fl)) = .done ((t.drewIf sr l.length).raise fl) := by
  cases sr <;> rfl

/-- Elements stored to tile memory without poison. -/
theorem State.foldl_tmStore {s : State} (hp : s.tmPois = []) (addr : Nat → Word) (bs : Nat → List Byte) (l : List Nat) :
    l.foldl (fun t e => t.tmStore (addr e).toNat (bs e)) s =
      s.withTm (s.tm.storeEach (fun e => tmKey s.hart.id.tile (addr e).toNat) bs l) := by
  induction l generalizing s with
  | nil => rfl
  | cons e l ih =>
    rw [List.foldl_cons, State.tmStore_clean hp]
    exact ih (s := s.withTm (s.tm.store _ _)) hp

end Sys2Proof.Machine
end

section
/-! SUPPORT. DRAIN_TM. MDRAIN into tile memory (R280, R281). -/

namespace Sys2Proof.Machine

section
variable {s : State} {c a b : BitVec 5} {p : BitVec 3} {k : BitVec 1} {m : BitVec 2}

/-- A drain whose index group is good meets no early condition. -/
theorem State.drainInstr_vcfg (hg : ∀ r ∈ if m = 2 then [b] else [], s.badGroup r = false) (word : IWord) :
    (s.drainInstr word a b p m).vcfg = false := by
  by_cases hm : m = 2
  · simp [State.drainInstr, hg b (by simp [hm])]
  · simp [State.drainInstr, show ¬m = 2#2 from hm]

/-- The grant covers the elements (R280). -/
theorem State.drain_shape (hvl : s.vlen ≤ s.hart.msm.toNat * s.hart.msn.toNat) (hmsm : s.hart.msm ≠ 0) :
    (s.noShape || decide (s.hart.msm.toNat * s.hart.msn.toNat < s.vlen)) = false := by
  simp [State.noShape, show ¬s.hart.msm = 0#13 from hmsm, hvl]

theorem State.idxPois_quiet {t : State} {h : Hart} (hv : h.vPois = []) (mode : Nat) (b : BitVec 5) :
    t.idxPois h mode b = fun _ => none := by
  funext e
  simp [State.idxPois, Hart.poisIn_nil hv]

/-- Elements whose addresses are aligned and granted meet no condition of their addresses. -/
theorem State.tmVecAddr_none {t : State} {v : TmVec} {addr : Nat → Word} {l : List Nat} (hv : v.addrs = fun e => [addr e])
    (hok : ∀ e ∈ l, (addr e).toNat % v.n = 0 ∧ t.tmOk (addr e).toNat v.n = true) : t.tmVecAddr v l = none := by
  have hmis : ∀ e ∈ l, ((v.addrs e).find? fun a => decide (a.toNat % v.n ≠ 0)) = none := fun e he => by
    simp [hv, (hok e he).1]
  have hprot : ∀ e ∈ l, ((v.addrs e).find? fun a => !t.tmOk a.toNat v.n) = none := fun e he => by
    simp [hv, (hok e he).2]
  unfold State.tmVecAddr
  dsimp only
  rw [List.findSome?_eq_none_iff.2 fun e he => by rw [hmis e (List.mem_of_mem_filter he)]; rfl]
  exact List.findSome?_eq_none_iff.2 fun e he => by rw [hprot e (List.mem_of_mem_filter he)]; rfl

/-- An aligned and granted MDRAIN stores the active elements of a bank. -/
theorem execMdrain_stores (hr : s.VReady (s.rows 128) (if m = 2 then [b] else [])) (hc : c.toNat ≤ 4 ∨ 16 ≤ c.toNat)
    (hn : 0 < s.hart.msn.toNat) (hvl : s.vlen ≤ s.hart.msm.toNat * s.hart.msn.toNat) (hmsm : s.hart.msm ≠ 0)
    (hclean : ∀ e ∈ s.actives p, setHas (s.hart.bank k).pois e = false)
    (hok : ∀ e ∈ s.actives p, (s.drainAt c a b m e).toNat % drainBytes c = 0 ∧
      s.tmOk (s.drainAt c a b m e).toNat (drainBytes c) = true) :
    Answers (execMdrain c a b p k m 0 s) (((s.count (s.rows 128)).withTm (s.tm.storeEach
      (fun e => tmKey s.hart.id.tile (s.drainAt c a b m e).toNat)
      (fun e => leBytes (drainBytes c) (s.drainConv c p k e).1) (s.actives p))).DrawnOn
        (vtSr s.hart.vtype) (s.actives p).length ((s.actives p).foldl (fun f e => f ||| (s.drainConv c p k e).2) 0)) := by
  obtain ⟨hq, hsteep, hgood⟩ := hr
  obtain ⟨-, hd, hvp, -, hpois, -⟩ := hq.count (s.rows 128)
  refine ⟨_, congrArg Host.Outcome.next (State.mrun_done ⟨hq, hsteep, by simp⟩
    (State.drainInstr_vcfg hgood _) (State.drain_shape hvl hmsm) (s.started_mx _ _ _ _ _ _ _ (by decide) _) ?_),
    State.drawnOn_intro ..⟩
  have hw : (s.drainInstr (mx 0x33#6 c a b p k m 0 5#4) a b p m).units = s.rows 128 := rfl
  have haddr : (s.count (s.rows 128)).drainAddr (s.count (s.rows 128)).hart m a b (drainBytes c) = s.drainAt c a b m :=
    funext (State.drainAddr_count a b m hn _)
  have hdata : ∀ e ∈ s.actives p, (s.count (s.rows 128)).tmVecData
      ⟨drainBytes c, true, fun e => [s.drainAt c a b m e], fun _ => none⟩
      (fun _ e => if setHas ((s.count (s.rows 128)).hart.bank k).pois e then some (s.drainAt c a b m e) else none) e = none :=
    fun e he => State.tmVecData_quiet hd _ rfl (by simp [hclean e he])
  rw [hw]
  simp only [State.actives_count, drainOf_bytes hc, haddr, State.drainConv_count hc, State.idxPois_quiet hvp, if_true]
  rw [State.tmVecAddr_none rfl (by simpa using hok)]
  dsimp only
  rw [State.drainLoop_quiet hdata, VEnd.drew_done, State.foldl_tmStore hpois, s.count_tm, s.count_hart_id,
    s.count_hart_vtype]

/-! ### What a drain leaves behind -/

/-- t goes on behind a drain, its flags raised and its draws counted. -/
def State.Drained (s : State) (c : BitVec 5) (p : BitVec 3) (k : BitVec 1) (t : State) : Prop :=
  t.hart.pc = s.nextPc ∧
  t.hart.fflags = (s.actives p).foldl (fun f e => f ||| (s.drainConv c p k e).2) s.hart.fflags ∧
  t.hart.srcount = s.hart.srcount + (if vtSr s.hart.vtype then BitVec.ofNat 64 (s.actives p).length else 0)

/-- The hart of t as far as a drain moves it. -/
def State.drainedHart (s t : State) : Hart :=
  { (s.count (s.rows 128)).hart.pcOf t.hart with
    fflags := t.hart.fflags, srcount := t.hart.srcount, draws := t.hart.draws }

theorem State.DrawnOn.drained {v t : State} (hv : v.hart = (s.count (s.rows 128)).hart)
    (h : v.DrawnOn (vtSr s.hart.vtype) (s.actives p).length
      ((s.actives p).foldl (fun f e => f ||| (s.drainConv c p k e).2) 0) t) :
    s.Drained c p k t ∧ t = { v with hart := s.drainedHart t } := by
  obtain ⟨hpc, hfl, hcount, heq⟩ := h
  refine ⟨⟨hpc.trans ?_, hfl.trans ?_, hcount.trans ?_⟩, ?_⟩
  · exact State.nextPc_of (by rw [hv, s.count_hart_pc]) (by rw [hv, s.count_hart_current])
  · rw [foldl_or, hv, s.count_hart_fflags]
    exact congrArg (List.foldl _ · _) BitVec.or_zero
  · rw [hv, s.count_hart_srcount]
  · rw [hv] at heq
    exact heq

/-- MDRAIN into tile memory. -/
theorem execMdrain_tm (hm : s.MemOk) (hr : s.VReady (s.rows 128) (if m = 2 then [b] else []))
    (hc : c.toNat ≤ 4 ∨ 16 ≤ c.toNat) (hn : 0 < s.hart.msn.toNat)
    (hvl : s.vlen ≤ s.hart.msm.toNat * s.hart.msn.toNat) (hmsm : s.hart.msm ≠ 0)
    (hclean : ∀ e ∈ s.actives p, setHas (s.hart.bank k).pois e = false)
    (hok : ∀ e ∈ s.actives p, (s.drainAt c a b m e).toNat % drainBytes c = 0 ∧
      s.tmOk (s.drainAt c a b m e).toNat (drainBytes c) = true) :
    let l := s.actives p; let wd := drainBytes c
    let key := fun e => tmKey s.hart.id.tile (s.drainAt c a b m e).toNat
    Answers (execMdrain c a b p k m 0 s) (fun t => s.Drained c p k t ∧
      (∀ i ∈ l, (∀ j ∈ l, i < j → key j + wd ≤ key i ∨ key i + wd ≤ key j) →
        t.tm.bytes (key i) wd = leBytes wd (s.drainConv c p k i).1) ∧
      (∀ x, (∀ i ∈ l, x < key i ∨ key i + wd ≤ x) → t.tm.read x = s.tm.read x) ∧ (∀ x, t.gm.read x = s.gm.read x) ∧
      t = { s.count (s.rows 128) with hart := s.drainedHart t, tm := t.tm }) := by
  intro l wd key
  have hlen : ∀ e, (leBytes wd (s.drainConv c p k e).1).length = wd := fun e => length_leBytes ..
  obtain ⟨t, ht, hdrawn⟩ := execMdrain_stores hr hc hn hvl hmsm hclean hok
  obtain ⟨htm, hgm, -⟩ := hdrawn.fields
  obtain ⟨hflags, heq⟩ := hdrawn.drained (State.withTm_hart ..)
  rw [State.withTm_tm] at htm
  refine ⟨t, ht, hflags, fun i hi hlater => ?_, fun x hx => ?_, fun x => ?_, ?_⟩
  · rw [htm]
    exact Memory.bytes_storeEach (key := key) hm.1 hlen (s.actives_sorted p) hi hlater
  · rw [htm]
    exact Memory.read_storeEach_outside (key := key) hm.1 fun i hi => by
      rw [hlen]
      exact hx i hi
  · rw [hgm]
    exact congrArg (fun m => Memory.read m x) (s.count_gm _)
  · rw [htm]
    exact heq

end

end Sys2Proof.Machine
end

section
/-! SUPPORT. DRAIN_GM. MDRAIN into global memory: the translations, the command's chunks, and what the probe and the use
of translations leave as it was (R119, R280, R282, R389, R390). -/

namespace Sys2Proof.Machine

/-! ### What translations leave as it was -/

/-- The hart, its tile memory and the asynchronous writers. -/
def State.own (s : State) : Hart × Memory × List AsyncWrite := (s.hart, s.tm, s.asyncs)

@[simp] theorem State.own_orLeaf (s : State) (d : VDev) (e : TlbEntry) (b : Byte) : (s.orLeaf d e b).own = s.own :=
  (congrArg State.own (s.sansGm_orLeaf d e b) : (s.orLeaf d e b).sansGm.own = s.sansGm.own)

@[simp] theorem State.own_setTile (s : State) (n : Nat) (v : Tile) : (s.setTile n v).own = s.own := rfl

@[simp] theorem State.own_mapProc (s : State) (p : Pid) (f : Proc → Proc) : (s.mapProc p f).own = s.own := rfl

@[simp] theorem State.own_touch (s : State) (tile bank : Nat) (d : VDev) (va : Nat) : (s.touch tile bank d va).own = s.own := by
  unfold State.touch
  split
  · rfl
  · split
    · rfl
    · split
      · rfl
      · dsimp only
        split <;> split <;> simp

@[simp] theorem State.own_useXlate (s : State) (tile bank : Nat) (d : VDev) (n : Need) (t : TlbEntry) :
    (s.useXlate tile bank d n t).own = s.own := by
  unfold State.useXlate
  dsimp only
  split <;> simp

@[simp] theorem State.own_laneTouch (s : State) (lane va : Nat) : (s.laneTouch lane va).own = s.own := by
  unfold State.laneTouch
  split <;> simp

@[simp] theorem State.own_laneUse (s : State) (lane : Nat) (n : Need) (t : TlbEntry) : (s.laneUse lane n t).own = s.own := by
  unfold State.laneUse
  split <;> simp

@[simp] theorem State.own_gbytes (s : State) (n : Nat) : (s.gbytes n).own = s.own := by
  unfold State.gbytes
  split
  · rfl
  · split
    · exact State.own_mapProc ..
    · rfl

@[simp] theorem State.own_gmVecProbe (s : State) (v : GmVec) (l : List Nat) : (s.gmVecProbe v l).own = s.own := by
  unfold State.gmVecProbe
  split
  · rfl
  · exact foldl_keeps State.own _ (fun t i => t.own_laneTouch _ _) _ s

@[simp] theorem State.own_gmVecUse (s : State) (v : GmVec) (l : List Nat) : (s.gmVecUse v l).own = s.own := by
  unfold State.gmVecUse
  dsimp only
  rw [State.own_gbytes]
  refine foldl_keeps State.own _ (fun t i => ?_) _ s
  split
  · exact State.own_laneUse ..
  · rfl

theorem State.own_fields {s t : State} (h : t.own = s.own) : t.hart = s.hart ∧ t.tm = s.tm ∧ t.asyncs = s.asyncs := by
  simpa [State.own] using h

/-! ### Bytes as chunks (R119) -/

theorem mem_chunkAdd {toTm : Bool} {slot : Nat} {b y : PendByte} {cs : List Chunk} :
    (∃ x ∈ chunkAdd toTm slot b cs, y ∈ x.bytes) ↔ (∃ x ∈ cs, y ∈ x.bytes) ∨ y = b := by
  induction cs with
  | nil => simp [chunkAdd]
  | cons c cs ih =>
    rw [chunkAdd]
    split
    · simp [or_right_comm]
    · simp only [List.mem_cons, exists_eq_or_imp, ih, or_assoc]

/-- A chunk of one space whose bytes lie in its granule. -/
def Chunk.Holds (toTm : Bool) (x : Chunk) : Prop := x.toTm = toTm ∧ ∀ y ∈ x.bytes, y.key / 64 = x.granule

theorem Chunk.Holds.chunkAdd {toTm : Bool} {slot : Nat} {b : PendByte} {cs : List Chunk}
    (h : ∀ x ∈ cs, x.Holds toTm) : ∀ x ∈ chunkAdd toTm slot b cs, x.Holds toTm := by
  induction cs with
  | nil => simp [Machine.chunkAdd, Chunk.Holds]
  | cons c cs ih =>
    obtain ⟨⟨hspace, hbytes⟩, hrest⟩ := List.forall_mem_cons.1 h
    rw [Machine.chunkAdd]
    split
    next hg =>
      refine List.forall_mem_cons.2 ⟨⟨hspace, fun y hy => ?_⟩, hrest⟩
      obtain hy | hy := List.mem_append.1 hy
      · exact hbytes y hy
      · rw [List.mem_singleton.1 hy]
        exact hg.symm
    next => exact List.forall_mem_cons.2 ⟨⟨hspace, hbytes⟩, ih hrest⟩

/-- Chunks with further bytes added, each with its key slot. -/
def chunksAdd (toTm : Bool) (bs : List (Nat × PendByte)) (cs : List Chunk) : List Chunk :=
  bs.foldl (fun cs b => chunkAdd toTm b.1 b.2 cs) cs

theorem mem_chunksAdd {toTm : Bool} {bs : List (Nat × PendByte)} {cs : List Chunk} {y : PendByte} :
    (∃ x ∈ chunksAdd toTm bs cs, y ∈ x.bytes) ↔ (∃ x ∈ cs, y ∈ x.bytes) ∨ ∃ b ∈ bs, y = b.2 := by
  induction bs generalizing cs with
  | nil => simp [chunksAdd]
  | cons b bs ih =>
    rw [chunksAdd, List.foldl_cons, ← chunksAdd, ih, mem_chunkAdd, List.exists_mem_cons_iff, or_assoc]

theorem Chunk.Holds.chunksAdd {toTm : Bool} {bs : List (Nat × PendByte)} {cs : List Chunk}
    (h : ∀ x ∈ cs, x.Holds toTm) : ∀ x ∈ chunksAdd toTm bs cs, x.Holds toTm := by
  induction bs generalizing cs with
  | nil => exact h
  | cons b bs ih => exact ih (Chunk.Holds.chunkAdd h)

/-! ### The translations of a vector access (R233, R388) -/

theorem mapM_of_forall_ok {ε α β : Type} {f : α → Except ε β} {g : α → β} {l : List α} (h : ∀ a ∈ l, f a = .ok (g a)) :
    l.mapM f = .ok (l.map g) := by
  induction l with
  | nil => rfl
  | cons a l ih =>
    obtain ⟨ha, hl⟩ := List.forall_mem_cons.1 h
    rw [List.mapM_cons, ha, ih hl]
    rfl

/-- Where an element's address translates to; zero where it does not. -/
def State.physOf (s : State) (v : GmVec) (e : Nat) : Phys :=
  match s.laneXlate (v.lane e) v.need (v.addr e).toNat with
  | .ok r => r.2
  | .error _ => ⟨0, 0, 0⟩

/-- The access of an element whose address translates. -/
def State.accessOf (s : State) (v : GmVec) (e : Nat) : ElemAccess := ⟨e, v.addr e, s.physOf v e⟩

theorem State.gmVecAddr_ok {s : State} {v : GmVec} {l : List Nat} (hidx : ∀ e, v.idx e = none)
    (hal : ∀ e ∈ l, (v.addr e).toNat % v.n = 0)
    (hx : ∀ e ∈ l, ∃ r, s.laneXlate (v.lane e) v.need (v.addr e).toNat = .ok r) :
    s.gmVecAddr v l = .ok (l.map (s.accessOf v)) := by
  have hmis : l.find? v.misaligned = none := List.find?_eq_none.2 fun e he => by simp [GmVec.misaligned, hal e he]
  unfold State.gmVecAddr
  rw [hmis]
  refine mapM_of_forall_ok fun e he => ?_
  obtain ⟨r, hr⟩ := hx e he
  simp [hidx, hr, State.accessOf, State.physOf]

theorem find?_accessOf (s : State) (v : GmVec) {l : List Nat} {e : Nat} (he : e ∈ l) :
    (l.map (s.accessOf v)).find? (fun x => x.elem == e) = some (s.accessOf v e) := by
  have hfind : l.find? (· == e) = some e := by
    cases hl : l.find? (· == e) with
    | none => exact absurd he fun h => by simpa using List.find?_eq_none.1 hl e h
    | some a => rw [show a = e by simpa using List.find?_some hl]
  rw [List.find?_map]
  exact congrArg (Option.map (s.accessOf v)) hfind

/-- A vector access of global memory that only stores meets nothing at an element on a quiet hart. -/
theorem State.gmVecData_quiet {s : State} (hd : s.hart.Unwatched) {v : GmVec} {x : ElemAccess} (hidx : v.idx x.elem = none)
    (hsrc : v.src x.elem = none) (hload : v.load = false) : s.gmVecData v x = none := by
  obtain ⟨hdbg, -⟩ := id hd
  simp [State.gmVecData, State.haltElem_quiet hd, hidx, State.watchHit_nil hdbg, hsrc, hload]

/-! ### The command of a drain (R282) -/

/-- The bytes of an element on their way to global memory, with their key slot. -/
def drainPend (p : Phys) (va : Word) (wd v e : Nat) : List (Nat × PendByte) :=
  (upTo wd).map fun j => (p.slot, ⟨p.addr + j, .lit (BitVec.ofNat 8 (v / 256 ^ j)), va + BitVec.ofNat 64 j, e, j⟩)

theorem mapIdx_leBytes (wd v : Nat) {α : Type} (f : Nat → Byte → α) :
    (leBytes wd v).mapIdx f = (upTo wd).map fun j => f j (BitVec.ofNat 8 (v / 256 ^ j)) := by
  rw [leBytes_eq_map]
  exact List.ext_getElem (by simp) fun i _ _ => by simp [upTo]

theorem modify_last {α : Type} (l : List α) (a : α) (f : α → α) : (l ++ [a]).modify l.length f = l ++ [f a] := by
  induction l with
  | nil => rfl
  | cons b l ih => simp [ih]

/-- The state with one more asynchronous writer, of these chunks. -/
def State.withCmd (s : State) (cmd : AsyncWrite) (cs : List Chunk) : State :=
  { s with asyncs := s.asyncs ++ [{ cmd with chunks := cs }] }

theorem State.drainGm_withCmd (s : State) (cmd : AsyncWrite) (cs : List Chunk) {es : List ElemAccess} {e : Nat}
    {x : ElemAccess} (hx : es.find? (fun x => x.elem == e) = some x) (va : Word) (wd v : Nat) :
    State.drainGm es (s.withCmd cmd cs) e va (leBytes wd v) =
      s.withCmd cmd (chunksAdd false (drainPend x.phys va wd v e) cs) := by
  have hlast : (s.withCmd cmd cs).asyncs.length - 1 = s.asyncs.length := by simp [State.withCmd]
  unfold State.drainGm
  rw [hx]
  dsimp only
  rw [hlast, mapIdx_leBytes, chunksAdd, drainPend, List.foldl_map]
  unfold State.withCmd
  dsimp only
  rw [modify_last, List.foldl_map]

/-- Every byte of the elements of a list. -/
def drainBytesOf (phys : Nat → Phys) (addr : Nat → Word) (wd : Nat) (val : Nat → Nat) (l : List Nat) :
    List (Nat × PendByte) := l.flatMap fun e => drainPend (phys e) (addr e) wd (val e) e

theorem State.foldl_drainGm (s : State) (cmd : AsyncWrite) (cs : List Chunk) {es : List ElemAccess} {acc : Nat → ElemAccess}
    (addr : Nat → Word) (wd : Nat) (val : Nat → Nat) {l : List Nat}
    (hes : ∀ e ∈ l, es.find? (fun x => x.elem == e) = some (acc e)) :
    l.foldl (fun t e => State.drainGm es t e (addr e) (leBytes wd (val e))) (s.withCmd cmd cs) =
      s.withCmd cmd (chunksAdd false (drainBytesOf (fun e => (acc e).phys) addr wd val l) cs) := by
  induction l generalizing cs with
  | nil => rfl
  | cons e l ih =>
    obtain ⟨he, hl⟩ := List.forall_mem_cons.1 hes
    rw [List.foldl_cons, State.drainGm_withCmd s cmd cs he, ih _ hl]
    simp only [drainBytesOf, List.flatMap_cons, chunksAdd, List.foldl_append]

section
variable {s : State} {c a b : BitVec 5} {p : BitVec 3} {k : BitVec 1} {m : BitVec 2}

/-- MDRAIN as a vector access of global memory, with what marks its poisoned sources. -/
def State.drainVec (s : State) (c a b : BitVec 5) (m : BitVec 2) (src : Nat → Option Nat) : GmVec :=
  ⟨drainBytes c, .w, false, false, 2, s.drainAt c a b m, fun e => if m = 0 then 0 else e % s.hart.lanes, fun _ => none, src⟩

/-- The state in which MDRAIN translates, and the state after it has used the translations. -/
def State.drainProbe (s : State) (c a b : BitVec 5) (p : BitVec 3) (m : BitVec 2) : State :=
  (s.count (s.rows 128)).gmVecProbe (s.drainVec c a b m fun _ => none) (s.actives p)
def State.drainUse (s : State) (c a b : BitVec 5) (p : BitVec 3) (m : BitVec 2) : State :=
  (s.drainProbe c a b p m).gmVecUse (s.drainVec c a b m fun _ => none) (s.actives p)

theorem State.own_drainProbe : (s.drainProbe c a b p m).own = (s.count (s.rows 128)).own := State.own_gmVecProbe ..
theorem State.own_drainUse : (s.drainUse c a b p m).own = (s.count (s.rows 128)).own :=
  (State.own_gmVecUse ..).trans State.own_drainProbe

/-- The command that MDRAIN hands on, before it holds any byte. -/
def State.drainCmd (s : State) : AsyncWrite :=
  ⟨.drain, some s.hart.id, s.hart.pid, s.instrPc.toNat, [], none, 0, none, [], []⟩

/-- The bytes that MDRAIN hands on. -/
def State.drainPends (s : State) (c a b : BitVec 5) (p : BitVec 3) (k : BitVec 1) (m : BitVec 2) : List (Nat × PendByte) :=
  drainBytesOf ((s.drainProbe c a b p m).physOf (s.drainVec c a b m fun _ => none)) (s.drainAt c a b m) (drainBytes c)
    (fun e => (s.drainConv c p k e).1) (s.actives p)

/-- The elements handed to the command one after another. -/
theorem State.foldl_drainUse : (s.actives p).foldl (fun t e => State.drainGm
      ((s.actives p).map ((s.drainProbe c a b p m).accessOf (s.drainVec c a b m fun _ => none))) t e (s.drainAt c a b m e)
      (leBytes (drainBytes c) (s.drainConv c p k e).1))
      ((s.drainUse c a b p m).withCmd (s.drainProbe c a b p m).drainCmd []) =
    (s.drainUse c a b p m).withCmd (s.drainProbe c a b p m).drainCmd (chunksAdd false (s.drainPends c a b p k m) []) :=
  State.foldl_drainGm _ _ [] _ _ (fun e => (s.drainConv c p k e).1) fun _ he => find?_accessOf _ _ he

/-- An aligned and translating MDRAIN hands the active elements of a bank to one asynchronous writer. -/
theorem execMdrain_hands (hr : s.VReady (s.rows 128) (if m = 2 then [b] else [])) (hc : c.toNat ≤ 4 ∨ 16 ≤ c.toNat)
    (hn : 0 < s.hart.msn.toNat) (hvl : s.vlen ≤ s.hart.msm.toNat * s.hart.msn.toNat) (hmsm : s.hart.msm ≠ 0)
    (hclean : ∀ e ∈ s.actives p, setHas (s.hart.bank k).pois e = false)
    (hal : ∀ e ∈ s.actives p, (s.drainAt c a b m e).toNat % drainBytes c = 0)
    (hx : ∀ e ∈ s.actives p, ∃ r, (s.drainProbe c a b p m).laneXlate (if m = 0 then 0 else e % s.hart.lanes) .w
      (s.drainAt c a b m e).toNat = .ok r) :
    Answers (execMdrain c a b p k m 1 s) (((s.drainUse c a b p m).withCmd (s.drainProbe c a b p m).drainCmd
      (chunksAdd false (s.drainPends c a b p k m) [])).DrawnOn (vtSr s.hart.vtype) (s.actives p).length
        ((s.actives p).foldl (fun f e => f ||| (s.drainConv c p k e).2) 0)) := by
  obtain ⟨hq, hsteep, hgood⟩ := hr
  obtain ⟨-, hd, hvp, -⟩ := hq.count (s.rows 128)
  refine ⟨_, congrArg Host.Outcome.next (State.mrun_done ⟨hq, hsteep, by simp⟩
    (State.drainInstr_vcfg hgood _) (State.drain_shape hvl hmsm) (s.started_mx _ _ _ _ _ _ _ (by decide) _) ?_),
    State.drawnOn_intro ..⟩
  obtain ⟨hhart, -⟩ := State.own_fields (s.own_drainProbe (c := c) (a := a) (b := b) (p := p) (m := m))
  have hunw : (s.drainProbe c a b p m).hart.Unwatched := by rwa [hhart]
  have hsrc : ∀ e ∈ s.actives p, ¬setHas ((s.count (s.rows 128)).hart.bank k).pois e = true := fun e he => by
    rw [Hart.bank_count, hclean e he]
    exact Bool.false_ne_true
  have hw : (s.drainInstr (mx 0x33#6 c a b p k m 1 5#4) a b p m).units = s.rows 128 := rfl
  have haddr : (s.count (s.rows 128)).drainAddr (s.count (s.rows 128)).hart m a b (drainBytes c) = s.drainAt c a b m :=
    funext (State.drainAddr_count a b m hn _)
  have hlane : (s.count (s.rows 128)).elemLane m.toNat = fun e => if m = 0 then 0 else e % s.hart.lanes := by
    funext e
    have hm0 : m.toNat = 0 ↔ m = 0 := by bv_omega
    simp [State.elemLane, hm0]
  rw [hw]
  simp only [State.actives_count, drainOf_bytes hc, haddr, hlane, State.drainConv_count hc, State.idxPois_quiet hvp]
  rw [if_neg (by decide)]
  have haddrs (src : Nat → Option Nat) : (s.drainProbe c a b p m).gmVecAddr (s.drainVec c a b m src) (s.actives p) =
      .ok ((s.actives p).map ((s.drainProbe c a b p m).accessOf (s.drainVec c a b m fun _ => none))) :=
    State.gmVecAddr_ok (fun _ => rfl) hal hx
  split
  next t h => exact nomatch (haddrs _).symm.trans h
  next es h =>
    obtain rfl := Except.ok.inj ((haddrs _).symm.trans h)
    rw [State.drainLoop_quiet, VEnd.drew_done]
    · rw [s.count_hart_vtype]
      exact congrArg (fun t : State => VEnd.done ((t.drewIf (vtSr s.hart.vtype) (s.actives p).length).raise
        ((s.actives p).foldl (fun f e => f ||| (s.drainConv c p k e).2) 0))) s.foldl_drainUse
    · intro e he
      rw [find?_accessOf _ _ he]
      exact State.gmVecData_quiet hunw rfl (congrArg (Option.map fun _ => 0) (if_neg (hsrc e he))) rfl

theorem State.mem_drainPends (hx : ∀ e ∈ s.actives p, ∃ r,
      (s.drainProbe c a b p m).laneXlate (if m = 0 then 0 else e % s.hart.lanes) .w (s.drainAt c a b m e).toNat = .ok r)
    {y : PendByte} : (∃ z ∈ s.drainPends c a b p k m, y = z.2) ↔ ∃ e ∈ s.actives p, ∃ j < drainBytes c, ∃ r,
      (s.drainProbe c a b p m).laneXlate (if m = 0 then 0 else e % s.hart.lanes) .w (s.drainAt c a b m e).toNat = .ok r ∧
      y = ⟨r.2.addr + j, .lit (BitVec.ofNat 8 ((s.drainConv c p k e).1 / 256 ^ j)),
        s.drainAt c a b m e + BitVec.ofNat 64 j, e, j⟩ := by
  have hphys : ∀ {e r}, (s.drainProbe c a b p m).laneXlate (if m = 0 then 0 else e % s.hart.lanes) .w
      (s.drainAt c a b m e).toNat = .ok r →
      (s.drainProbe c a b p m).physOf (s.drainVec c a b m fun _ => none) e = r.2 := fun {e r} h => by
    unfold State.physOf State.drainVec
    dsimp only
    rw [h]
  simp only [State.drainPends, drainBytesOf, drainPend, List.mem_flatMap, List.mem_map, upTo, List.mem_range]
  constructor
  · rintro ⟨z, ⟨e, he, j, hj, rfl⟩, rfl⟩
    obtain ⟨r, hr⟩ := hx e he
    exact ⟨e, he, j, hj, r, hr, by rw [hphys hr]⟩
  · rintro ⟨e, he, j, hj, r, hr, rfl⟩
    exact ⟨_, ⟨e, he, j, hj, rfl⟩, by rw [hphys hr]⟩

/-- MDRAIN into global memory. -/
theorem execMdrain_gm (hr : s.VReady (s.rows 128) (if m = 2 then [b] else []))
    (hc : c.toNat ≤ 4 ∨ 16 ≤ c.toNat) (hn : 0 < s.hart.msn.toNat)
    (hvl : s.vlen ≤ s.hart.msm.toNat * s.hart.msn.toNat) (hmsm : s.hart.msm ≠ 0)
    (hclean : ∀ e ∈ s.actives p, setHas (s.hart.bank k).pois e = false)
    (hal : ∀ e ∈ s.actives p, (s.drainAt c a b m e).toNat % drainBytes c = 0)
    (hx : ∀ e ∈ s.actives p, ∃ r, (s.drainProbe c a b p m).laneXlate (if m = 0 then 0 else e % s.hart.lanes) .w
      (s.drainAt c a b m e).toNat = .ok r) :
    let g := s.drainUse c a b p m
    Answers (execMdrain c a b p k m 1 s) (fun t => s.Drained c p k t ∧ (∀ x, t.tm.read x = s.tm.read x) ∧
      (∀ x, t.gm.read x = g.gm.read x) ∧
      (∃ cmd : AsyncWrite, t.asyncs = s.asyncs ++ [cmd] ∧ cmd.writer = .drain ∧ cmd.owner = some s.hart.id ∧
        cmd.pid = s.hart.pid ∧ cmd.stopped = false ∧
        (∀ x ∈ cmd.chunks, x.Holds false) ∧
        (∀ y, (∃ x ∈ cmd.chunks, y ∈ x.bytes) ↔ ∃ e ∈ s.actives p, ∃ j < drainBytes c, ∃ r,
          (s.drainProbe c a b p m).laneXlate (if m = 0 then 0 else e % s.hart.lanes) .w (s.drainAt c a b m e).toNat = .ok r ∧
          y = ⟨r.2.addr + j, .lit (BitVec.ofNat 8 ((s.drainConv c p k e).1 / 256 ^ j)),
            s.drainAt c a b m e + BitVec.ofNat 64 j, e, j⟩)) ∧
      t = { g with hart := s.drainedHart t, asyncs := t.asyncs }) := by
  intro g
  obtain ⟨hhart, htm, hasyncs⟩ := State.own_fields (s.own_drainUse (c := c) (a := a) (b := b) (p := p) (m := m))
  obtain ⟨hprobe, -⟩ := State.own_fields (s.own_drainProbe (c := c) (a := a) (b := b) (p := p) (m := m))
  obtain ⟨t, ht, hdrawn⟩ := execMdrain_hands hr hc hn hvl hmsm hclean hal hx
  obtain ⟨htm', hgm', hasyncs'⟩ := hdrawn.fields
  obtain ⟨hflags, heq⟩ := hdrawn.drained (v := g.withCmd _ _) hhart
  refine ⟨t, ht, hflags, fun x => ?_, fun x => ?_,
    ⟨{ (s.drainProbe c a b p m).drainCmd with chunks := chunksAdd false (s.drainPends c a b p k m) [] },
      ?_, rfl, ?_, ?_, rfl, ?_, fun y => ?_⟩, ?_⟩
  · rw [htm']
    exact congrArg (Memory.read · x) (htm.trans (s.count_tm _))
  · rw [hgm']
    rfl
  · rw [hasyncs']
    exact congrArg (· ++ [_]) (hasyncs.trans (s.count_asyncs _))
  · exact congrArg (fun h : Hart => some h.id) hprobe |>.trans (congrArg some (s.count_hart_id _))
  · exact (congrArg Hart.pid hprobe).trans (s.count_hart_pid _)
  · exact Chunk.Holds.chunksAdd (by simp)
  · exact mem_chunksAdd.trans (by simpa using State.mem_drainPends hx)
  · rw [hasyncs']
    exact heq

end

/-- Settles O36: a drain that no element stops is a loop of stores to tile memory, or of bytes added to one command. -/
theorem drains : Obligations.Drains := by
  unfold Obligations.Drains
  intro s c a b p k m hm hr l n wd cvt sr conv addr key u flags hart lane gv v g _ hc hn hvl hmsm hclean
  exact ⟨execMdrain_tm hm hr hc hn hvl hmsm hclean, execMdrain_gm hr hc hn hvl hmsm hclean⟩

end Sys2Proof.Machine
end

section
/-! SUPPORT. WIDE_ELEMENTS. Two statements about VLDSYNC speak of the granule of an element's first byte alone. They quantify
over every VTYPE, and at width code 7, which `vtLegal` (R59) never lets into VTYPE, an element has 128 bytes and lies in two
granules, both of which the instruction asks for (R232). -/

namespace Sys2Proof.Machine

/-- A hart at P whose VTYPE holds the width code 7 and whose VL is 1; of the two granules at address 0 of its tile memory the
first alone is full. -/
def wideState : State :=
  let s := State.reset.placeWord 0
  { s with tmFull := [0], hart := { s.hart with vtype := 7, vl := 1 } }

/-- The same hart where its VLDSYNC waits. -/
def wideWaiting : State := wideState.block (.vldsync false 0 0 0 [])

theorem wideState_quiet : wideState.Quiet := ⟨rfl, ⟨rfl, rfl⟩, rfl, rfl, rfl, rfl, rfl⟩

theorem wideState_actives : wideState.actives 0 = [0] := by rfl

theorem wideState_granted : ∀ i ∈ wideState.actives 0,
    (wideState.opA 0 + BitVec.ofNat 64 (i * (wideState.sew / 8))).toNat % (wideState.sew / 8) = 0 ∧
    wideState.tmOk (wideState.opA 0 + BitVec.ofNat 64 (i * (wideState.sew / 8))).toNat (wideState.sew / 8) = true := by
  rw [wideState_actives]
  intro i hi
  obtain rfl := List.mem_singleton.1 hi
  exact ⟨by rfl, by rfl⟩

/-- The granules of the elements' first bytes are full. -/
theorem wideState_firstGranules_full : (((wideState.actives 0).map fun i => tmKey wideState.hart.id.tile
    (wideState.opA 0 + BitVec.ofNat 64 (i * (wideState.sew / 8))).toNat / 64).eraseDups).all (setHas wideState.tmFull) = true := by
  rw [wideState_actives]
  rfl

/-- VLDSYNC stays where it is, since the second granule of its element is empty. -/
theorem wideState_vldsync_stays : ∃ t, exec (.vldsync 0 0 0) wideState = .next t ∧ t.hart.pc = 0 := ⟨_, rfl, by rfl⟩

/-- Tried again, it still stays. -/
theorem wideWaiting_retry_stays : ∃ t, exec .granuleWaitComplete wideWaiting = .next t ∧ t.hart.pc = 0 := ⟨_, rfl, by rfl⟩

/-- Refutes O23: at VTYPE 7 an element of a VLDSYNC lies in two granules, and with the first full and the second empty the
instruction waits, where the statement has it load. It lacks the hypothesis that VTYPE is legal (R59), or that SEW is at
most 64. -/
theorem not_fullEmptySync : ¬ Obligations.FullEmptySync := by
  unfold Obligations.FullEmptySync
  rintro ⟨-, h⟩
  obtain ⟨htm, -⟩ := h wideState 0 0 0 [] ⟨wideState_quiet, by rfl, by simp; rfl⟩
  obtain ⟨hfull, -⟩ := htm (by decide) wideState_granted
  obtain ⟨⟨t, ht, ⟨hpc, -⟩, -⟩, -⟩ := hfull wideState_firstGranules_full
  obtain ⟨u, hu, hupc⟩ := wideState_vldsync_stays
  cases hu.symm.trans ht
  exact absurd (hupc.symm.trans hpc) (by decide)

/-- Refutes O41: at VTYPE 7 a VLDSYNC that waits and is tried again with the first granule of its element full and the second
empty waits on, where the statement has it complete. It lacks the hypothesis that VTYPE is legal (R59), or that SEW is at
most 64. -/
theorem not_repliesAndGranules : ¬ Obligations.RepliesAndGranules := by
  unfold Obligations.RepliesAndGranules
  intro h
  obtain ⟨-, -, -, htm⟩ := h wideWaiting 0 0 0 0 .add 0 0 0 0 false false ⟨0, 0, ⟨0, 0, 0⟩⟩ ⟨0, 0, ⟨0, 0, 0⟩⟩ [] [] [] 0 0 0
    ⟨0, 0, 0⟩ none ⟨rfl, rfl⟩ rfl rfl
  obtain ⟨hfull, -⟩ := htm wideState_quiet rfl (by decide) wideState_granted
  obtain ⟨t, ht, hpc, -⟩ := hfull wideState_firstGranules_full
  obtain ⟨u, hu, hupc⟩ := wideWaiting_retry_stays
  cases hu.symm.trans ht
  exact absurd (hupc.symm.trans hpc) (by decide)

end Sys2Proof.Machine
end

section
/-! SUPPORT. DOUBLED_GRANULE. The full granules are a rising list (`setWf`), from which `setDel` takes one entry. The statement
about request packets holds no such hypothesis: of a list that names a granule twice the mark stays after SETE. -/

namespace Sys2Proof.Machine

/-- A device of one region, the first byte of endpoint 0. -/
def oneByteDevice : VDev :=
  { vdid := 0, tiles := [], regions := [⟨0, 0, 0, 1⟩], macs := [], keyMap := [1], ceil := 0, rootEp := 0, rootAddr := 0
    homeDie := 0, hbase := 0, hlen := 0, hwdog := 0, tvec := 0, vdcfg := [], waiting := [], doomed := [], logging := false
    dirty := [], forwarding := false, peers := [], destroyTag := none }

/-- The part ready, with that device, and with granule 0 twice among the full granules. -/
def doubledFull : State := { State.reset with power := .ready, vdevs := [oneByteDevice], gmFull := [0, 0] }

/-- A packet of package 1 that empties the granule of the device's byte. -/
def emptyPacket : Packet := ⟨4, 0, 0, 0, 0, 0, 0, .setEmpty⟩

theorem doubledFull_setEmpty : ∃ t, exec (.requestPacket emptyPacket) doubledFull = .next t ∧ setHas t.gmFull 0 = true :=
  ⟨_, rfl, by rfl⟩

/-- Refutes O52: a packet that empties a granule takes one of its entries out of the list of the full ones, and where the list
names it twice it stays full. The statement lacks the hypothesis that the list rises (`setWf s.gmFull`). -/
theorem not_requestPackets : ¬ Obligations.RequestPackets := by
  unfold Obligations.RequestPackets
  intro h
  obtain ⟨-, hhere⟩ := h doubledFull emptyPacket oneByteDevice ⟨0, 0, 0, 1⟩ 0 1 [] 0 0 probeNet 0 0
    ⟨0, 0, .rank 0, .rank 0, 0, 0, false, none, .host []⟩ ⟨rfl, rfl⟩
  obtain ⟨-, hmem, -⟩ := hhere rfl rfl
  obtain ⟨-, hdev⟩ := hmem rfl trivial
  obtain ⟨-, -, -, -, hperform⟩ := hdev rfl
  obtain ⟨-, -, -, -, hempty, -⟩ := hperform rfl (by simp [doubledFull, State.reset])
    ⟨_, List.mem_singleton_self _, by decide⟩ rfl
  obtain ⟨t, ht, -, -, hmarks⟩ := hempty rfl
  obtain ⟨u, hu, hfull⟩ := doubledFull_setEmpty
  cases hu.symm.trans ht
  have hcleared := hmarks 0
  rw [hfull] at hcleared
  exact absurd hcleared (by decide)

end Sys2Proof.Machine
end

section
/-! SUPPORT. SCALAR_GLOBAL. What translating and using a translation leave as it was, and what a scalar access of global
memory comes to on a hart without debug entries (R241, R246, R389, R390). -/

namespace Sys2Proof.Machine

/-! ### What an access leaves as it was -/

/-- The state without what translating, using a translation and counting its bytes may change: global memory with the dirty
logs, the tiles' caches and the capture blocks. -/
def State.sansUse (s : State) : State := { s.sansGm with tiles := [], procs := [] }

theorem State.sansUse_of_sansGm {s t : State} (h : t.sansGm = s.sansGm) : t.sansUse = s.sansUse :=
  congrArg (fun u : State => { u with tiles := [], procs := [] }) h

@[simp] theorem State.sansUse_setTile (s : State) (n : Nat) (v : Tile) : (s.setTile n v).sansUse = s.sansUse := rfl

@[simp] theorem State.sansUse_orLeaf (s : State) (d : VDev) (e : TlbEntry) (b : Byte) : (s.orLeaf d e b).sansUse = s.sansUse :=
  State.sansUse_of_sansGm (s.sansGm_orLeaf d e b)

@[simp] theorem State.sansUse_laneTouch (s : State) (lane va : Nat) : (s.laneTouch lane va).sansUse = s.sansUse := by
  unfold State.laneTouch State.touch
  split
  · split
    · rfl
    · split
      · rfl
      · split
        · rfl
        · dsimp only
          split <;> split <;> simp
  · rfl

@[simp] theorem State.sansUse_laneUse (s : State) (lane : Nat) (n : Need) (t : TlbEntry) :
    (s.laneUse lane n t).sansUse = s.sansUse := by
  unfold State.laneUse State.useXlate
  split
  · dsimp only
    split <;> simp
  · rfl

@[simp] theorem State.sansUse_gbytes (s : State) (n : Nat) : (s.gbytes n).sansUse = s.sansUse := by
  unfold State.gbytes
  split
  · rfl
  · split <;> rfl

@[simp] theorem State.sansUse_probe (s : State) (ea : Word) (n : Nat) : (s.probe ea n).sansUse = s.sansUse := by
  unfold State.probe
  split
  · exact State.sansUse_laneTouch ..
  · rfl

@[simp] theorem State.sansUse_myUse (s : State) (n : Need) (t : TlbEntry) : (s.myUse n t).sansUse = s.sansUse :=
  State.sansUse_laneUse ..

theorem State.hart_of_sansUse {s t : State} (h : t.sansUse = s.sansUse) : t.hart = s.hart :=
  (congrArg State.hart h : t.sansUse.hart = s.sansUse.hart)

@[simp] theorem State.hart_probe (s : State) (ea : Word) (n : Nat) : (s.probe ea n).hart = s.hart :=
  State.hart_of_sansUse (s.sansUse_probe ea n)

@[simp] theorem State.hart_myUse (s : State) (n : Need) (t : TlbEntry) : (s.myUse n t).hart = s.hart :=
  State.hart_of_sansUse (s.sansUse_myUse n t)

@[simp] theorem State.hart_gbytes (s : State) (n : Nat) : (s.gbytes n).hart = s.hart :=
  State.hart_of_sansUse (s.sansUse_gbytes n)

theorem State.remote_of_sansUse {s t : State} (h : t.sansUse = s.sansUse) (p : Phys) : t.remote p = s.remote p := by
  have hpkg : t.pkg = s.pkg := (congrArg State.pkg h : t.sansUse.pkg = s.sansUse.pkg)
  rw [State.remote, hpkg, State.remote]

/-! ### The canonical form of global memory -/

theorem State.gm_gbytes (s : State) (n : Nat) : (s.gbytes n).gm = s.gm := by
  unfold State.gbytes
  split
  · rfl
  · split <;> rfl

theorem State.wf_orLeaf {s : State} (hw : s.gm.wf = true) (d : VDev) (e : TlbEntry) (b : Byte) : (s.orLeaf d e b).gm.wf = true :=
  (State.gmStored_orLeaf hw d e b).2.1

theorem State.wf_laneTouch {s : State} (hw : s.gm.wf = true) (lane va : Nat) : (s.laneTouch lane va).gm.wf = true := by
  unfold State.laneTouch State.touch
  split
  · split
    · exact hw
    · split
      · exact hw
      · split
        · exact hw
        · dsimp only
          split <;> split
          · exact hw
          · exact hw
          · exact State.wf_orLeaf hw ..
          · exact State.wf_orLeaf (s := s.setTile _ _) hw ..
  · exact hw

theorem State.wf_laneUse {s : State} (hw : s.gm.wf = true) (lane : Nat) (n : Need) (t : TlbEntry) :
    (s.laneUse lane n t).gm.wf = true := by
  unfold State.laneUse State.useXlate
  split
  · dsimp only
    split
    · exact State.wf_orLeaf hw ..
    · exact hw
  · exact hw

theorem State.wf_probe {s : State} (hw : s.gm.wf = true) (ea : Word) (n : Nat) : (s.probe ea n).gm.wf = true := by
  unfold State.probe
  split
  · exact State.wf_laneTouch hw ..
  · exact hw

/-- Global memory is canonical after a scalar access has used its translation. -/
theorem State.wf_accessed {s : State} (hw : s.gm.wf = true) (ea : Word) (n k : Nat) (need : Need) (e : TlbEntry) :
    (((s.probe ea n).myUse need e).gbytes k).gm.wf = true := by
  rw [State.gm_gbytes]
  exact State.wf_laneUse (State.wf_probe hw ea n) ..

/-! ### A scalar access (R241, R246) -/

theorem State.gmTest_granted {s : State} (hd : s.hart.dbg = []) {ea : Word} {n : Nat} {need : Need} {r : TlbEntry × Phys}
    (hal : ea.toNat % n = 0) (hx : s.myXlate need ea.toNat = .ok r) (load store : Bool) :
    s.gmTest ea n need load store = .ok r := by
  unfold State.gmTest
  rw [if_neg (not_not.2 hal), hx, State.watchHit_nil hd]

/-- An access of this package's memory that nothing stops has its effect at once. -/
theorem State.gmReply_here {s : State} (hd : s.hart.dbg = []) {word : IWord} {use : ReplyUse} {ea : Word} {n : Nat} {need : Need}
    {store : Bool} {r : TlbEntry × Phys} (hal : ea.toNat % n = 0) (hx : (s.probe ea n).myXlate need ea.toNat = .ok r)
    (hhere : s.remote r.2 = false) (hclean : (((s.probe ea n).myUse need r.1).gbytes n).gmPoisoned r.2 n = false) :
    s.gmReply word use ea n need store =
      ((((s.probe ea n).myUse need r.1).gbytes n).replyDone use n ⟨0, ea, r.2⟩).advance := by
  have hhere' : (((s.probe ea n).myUse need r.1).gbytes n).remote r.2 = false := by
    rw [State.remote_of_sansUse (s := s) (by simp), hhere]
  unfold State.gmReply
  dsimp only
  rw [State.gmTest_granted (by simpa using hd) hal hx]
  dsimp only
  rw [hhere', hclean]
  rfl

/-! ### What the accesses write -/

/-- What writing a register and going on come to. -/
theorem State.goesOnX_intro (u : State) (d : BitVec 5) (v : Word) : u.GoesOnX d v (u.setX d v).advance := by
  refine ⟨?_, fun r => ?_, fun r => ?_, ⟨fun k => ?_, fun k => ?_⟩, ?_⟩
  · rw [State.advance_pc]
    exact State.nextPc_of (by simp) (by simp)
  · rw [State.x_advance, State.x_setX]
  · rw [State.xPoisoned_advance, State.xPoisoned_setX]
  · simp
  · simp
  · unfold State.advance State.setPc Hart.xOf Hart.pcOf
    by_cases hd : d = 0#5
    · subst hd
      simp only [State.setX_zero]
      split <;> rfl
    · rw [State.setX_ne hd]
      split <;> rfl

theorem State.vdevs_gmStore {s : State} (h : s.vdevs.any (·.logging) = false) (p : Phys) (bs : List Byte) :
    (s.gmStore p bs).vdevs = s.vdevs := by
  have hk := s.vdevs_rekeyed p (granulesOf p.addr bs.length)
  unfold State.gmStore State.logDirty
  dsimp only
  change (if (s.rekeyed p (granulesOf p.addr bs.length)).vdevs.any (·.logging) then _ else _ : State).vdevs = _
  rw [hk, h]
  exact hk

theorem State.hart_gmStore (s : State) (p : Phys) (bs : List Byte) : (s.gmStore p bs).hart = s.hart :=
  (congrArg State.hart (s.sansGm_gmStore p bs) : (s.gmStore p bs).sansGm.hart = s.sansGm.hart)

/-- A store of less than a granule ends no poison (R419). -/
theorem State.gmPois_gmStore_part (s : State) (p : Phys) {bs : List Byte} (hlen : bs.length < 64) :
    (s.gmStore p bs).gmPois = s.gmPois := by
  have hlog : ∀ (t : State) k n, (t.logDirty k n).gmPois = t.gmPois := fun t k n => by
    unfold State.logDirty
    split <;> rfl
  have hkeyed : ∀ (t : State) g, (t.rekey (t.slotKey p.slot) g).gmPois = t.gmPois := fun t g => by
    unfold State.rekey
    split
    · rfl
    · split <;> rfl
  unfold State.gmStore
  rw [hlog]
  exact (if_pos hlen).trans (foldl_keeps State.gmPois _ hkeyed _ s)

/-- What a store of less than a granule to global memory and going on come to. -/
theorem State.storesGm_intro {u : State} (hw : u.gm.wf = true) (p : Phys) {bs : List Byte} (hlen : bs.length < 64) :
    u.StoresGm p bs (u.gmStore p bs).advance := by
  have hframe := State.eq_of_sansGm (u.sansGm_gmStore p bs)
  have hhart := u.hart_gmStore p bs
  refine ⟨?_, ?_, ?_, fun c => ?_, fun g hg => ?_, fun hlog => ?_, ?_⟩
  · rw [State.advance_pc]
    exact State.nextPc_of (congrArg Hart.pc hhart) (congrArg Hart.current hhart)
  · have hbytes := State.gmBytes_gmStore hw p (bs := bs) (k := 0) (n := bs.length) (by omega)
    rw [State.advance_eq]
    exact hbytes.trans (by simp)
  · intro key c hout hkey
    rw [State.advance_eq]
    exact (State.gmStored_gmStore hw p bs).2.2 key c hout hkey
  · rw [State.advance_tm]
    rw [hframe]
  · rwa [State.advance_gmPois, State.gmPois_gmStore_part u p hlen] at hg
  · rw [State.advance_vdevs, State.vdevs_gmStore hlog]
  · refine (State.advance_eq _).trans ?_
    simp only [hhart, State.advance_gm, State.advance_gmKey, State.advance_gmStamp, State.advance_gmPois, State.advance_vdevs]
    exact congrArg (fun t : State => { t with hart := u.hart.pcOf (u.gmStore p bs).advance.hart }) hframe

/-! ### Atomics (R131, R246) -/

theorem pow_256 (n : Nat) : 256 ^ n = 2 ^ (8 * n) := by rw [Nat.pow_mul]

theorem amoNew_add (n x y c : Nat) : amoNew .add n x y c = some ((x + y) % 2 ^ (8 * n)) := by rw [← pow_256]; rfl

/-- t is s after an atomic that is performed in the state u: the new value stored, and the old one, sign-extended from n
bytes, in x[d]. -/
def State.AmoDone (s u : State) (d : BitVec 5) (p : Phys) (n new : Nat) (t : State) : Prop :=
  ∃ m, u.StoresGm p (leBytes n new) m ∧
    (∀ k, t.x k = if k = d ∧ d ≠ 0 then BitVec.ofInt 64 (sextNat (8 * n) (leNat (u.gmBytes p n))) else s.x k) ∧
    t.hart.pc = s.nextPc ∧ t = { m with hart := m.hart.xOf t.hart }

theorem State.amoDone_intro {s u : State} (hu : u.hart = (s.count 1).hart) (hw : u.gm.wf = true) (d : BitVec 5) (p : Phys)
    {n : Nat} (hn : n < 64) (new : Nat) :
    s.AmoDone u d p n new
      ((u.gmStore p (leBytes n new)).setX d (BitVec.ofInt 64 (sextNat (8 * n) (leNat (u.gmBytes p n))))).advance := by
  have hhart := (u.hart_gmStore p (leBytes n new)).trans hu
  obtain ⟨hpc, hx, -, -, hframe⟩ := (u.gmStore p (leBytes n new)).goesOnX_intro d
    (BitVec.ofInt 64 (sextNat (8 * n) (leNat (u.gmBytes p n))))
  refine ⟨_, State.storesGm_intro hw p (by simpa using hn), fun k => ?_, ?_, ?_⟩
  · rw [hx k]
    simp [State.x, hhart]
  · rw [hpc]
    exact State.nextPc_of (by simp [hhart]) (by simp [hhart])
  · conv_lhs => rw [hframe]
    rw [State.advance_eq (u.gmStore p (leBytes n new))]
    rfl

/-- What an atomic of this package's memory comes to by the new value that its operation gives. -/
theorem State.amo_performs {s : State} (hm : s.MemOk) {d a b : BitVec 5} {z q l : BitVec 1} {r : TlbEntry × Phys} (op : AmoOp)
    (opc : BitVec 6) (hf : s.Fit 1 [a, b, d]) (hd : s.hart.dbg = []) {n : Nat} (hn : n = 4 * 2 ^ z.toNat)
    (hal : (s.x a).toNat % n = 0) {c u : State} (hc : c = (s.count 1).probe (s.x a) n) (hu : u = (c.myUse .rw r.1).gbytes n)
    (hx : c.myXlate .rw (s.x a).toNat = .ok r) (hhere : s.remote r.2 = false) (hclean : u.gmPoisoned r.2 n = false) {new : Option Nat}
    (hnew : amoNew op n (leNat (u.gmBytes r.2 n)) ((s.x b).toNat % 2 ^ (8 * n)) ((s.x d).toNat % 2 ^ (8 * n)) = new) :
    Answers (s.amo op opc d a b z q l) (fun t => match new with
      | some v => s.AmoDone u d r.2 n v t
      | none => u.GoesOnX d (BitVec.ofInt 64 (sextNat (8 * n) (leNat (u.gmBytes r.2 n)))) t) := by
  have hreads : s.Fit 1 ([a, b] ++ if op = .cas then [d] else []) := ⟨hf.1, fun x hx => hf.2 x (by
    split at hx <;> simp at hx ⊢ <;> tauto)⟩
  have hz : z.toNat ≤ 1 := by have := z.isLt; omega
  have hlt : n < 64 := by
    have : 2 ^ z.toNat ≤ 2 ^ 1 := Nat.pow_le_pow_right (by omega) hz
    omega
  subst hc hu hn
  have hwf := State.wf_accessed (s := s.count 1) (by simpa using hm.2) (s.x a) (4 * 2 ^ z.toNat) (4 * 2 ^ z.toNat) .rw r.1
  refine ⟨_, rfl, ?_⟩
  rw [State.issueX_one hreads, State.x_count, State.x_count, State.x_count]
  rw [State.gmReply_here (by simpa using hd) hal hx (by simpa [State.remote] using hhere) hclean]
  simp only [State.replyDone, State.gmAmo, pow_256, hnew]
  cases new with
  | none => exact State.goesOnX_intro ..
  | some v => exact State.amoDone_intro (by simp) hwf d r.2 hlt v

/-- Settles O24: every atomic of this package's memory is an access that has its effect at once, by the new value that its
operation gives. -/
theorem atomics : Obligations.Atomics := by
  unfold Obligations.Atomics
  intro s d a b z q l r hm hf hd n w ea c u old src hal hx hhere hclean amo lt
  have hop := fun op opc new => State.amo_performs (new := new) (q := q) (l := l) hm op opc hf hd rfl hal rfl rfl hx hhere hclean
  refine ⟨hop .add _ (some _) (amoNew_add ..), hop .and _ (some _) rfl, hop .or _ (some _) rfl, hop .xor _ (some _) rfl,
    fun hlt => ⟨hop .min _ (some _) ?_, hop .max _ (some _) ?_⟩, fun hge => ⟨hop .min _ (some _) ?_, hop .max _ (some _) ?_⟩,
    hop .minu _ (some _) rfl, hop .maxu _ (some _) rfl, hop .swap _ (some _) rfl,
    fun heq => hop .cas _ (some _) (if_pos heq), fun hne => hop .cas _ none (if_neg hne)⟩
  · exact congrArg some (if_pos (decide_eq_true hlt))
  · exact congrArg some (if_pos (decide_eq_true hlt))
  · exact congrArg some (if_neg fun h => hge (of_decide_eq_true h))
  · exact congrArg some (if_neg fun h => hge (of_decide_eq_true h))

end Sys2Proof.Machine
end

section
/-! SUPPORT. SYSTEM. Time, safe points, software traps, captures, invalidation, and what HALT at P ends. -/

namespace Sys2Proof.Machine

/-! ### Issue and counting -/

/-- Passing the early tests for an instruction of one unit that reads no register. -/
theorem State.issue_one {s : State} {w : IWord} {body : State → State} (hu : s.steepOver 1 = false) :
    s.issue w gate1 body = body (s.count 1) := State.issue_pass rfl hu rfl rfl rfl rfl

/-- Counting no unit changes nothing. -/
theorem State.count_zero (s : State) : s.count 0 = s := by
  unfold State.count
  split
  · have hproc : (fun q : Proc => if q.capture.active then
        { q with capture := { q.capture with steep := q.capture.steep + BitVec.ofNat 64 0 } } else q) = id := by
      funext q
      simp
    dsimp only
    split
    · simp
    · exact (congrArg (fun f => State.mapProc _ _ f) hproc).trans (by simp [State.mapProc])
  · rfl

/-- Counting and going on. -/
theorem State.count_advance_pc (s : State) (u : Nat) : (s.count u).advance.hart.pc = s.nextPc := by
  rw [State.advance_pc, State.nextPc_of (s.count_hart_pc u) (s.count_hart_current u)]

theorem State.jumpsTo_next (s : State) : s.JumpsTo s.nextPc (s.count 1).advance :=
  ⟨s.count_advance_pc 1, ⟨fun _ => by simp, fun _ => by simp⟩, State.advance_eq _⟩

theorem State.fetchWord_iinv (s : State) : { s with hart := { s.hart with code := s.tm } }.advance.fetchWord =
    BitVec.ofNat 32 (s.tmLoad s.nextPc.toNat 4) := by
  have hpc : ({ s with hart := { s.hart with code := s.tm } } : State).advance.hart.pc = s.nextPc := State.advance_pc _
  unfold State.fetchWord
  rw [hpc]
  simp only [State.advance_hart_code, State.advance_hart_id]
  rfl

/-! ### Processes -/

/-- A process after one of them is changed. -/
theorem State.proc?_mapProc (s : State) (p : Pid) {f : Proc → Proc} (hf : ∀ q, (f q).pid = q.pid) :
    (s.mapProc p f).proc? p = (s.proc? p).map f := by
  have hfun : (fun q => decide (q.pid = p)) ∘ (fun q => if q.pid = p then f q else q) = fun q => decide (q.pid = p) := by
    funext q
    simp only [Function.comp_apply]
    split <;> simp [hf]
  unfold State.proc? State.mapProc
  rw [List.find?_map, hfun]
  cases hq : s.procs.find? (fun q => decide (q.pid = p)) with
  | none => rfl
  | some q => simp [show q.pid = p by simpa using List.find?_some hq]

/-- A process with u units counted in its capture block (R478). -/
def Proc.countSteep (u : Nat) (q : Proc) : Proc :=
  if q.capture.active then { q with capture := { q.capture with steep := q.capture.steep + BitVec.ofNat 64 u } } else q

theorem Proc.countSteep_keeps (u : Nat) (q : Proc) : (q.countSteep u).pid = q.pid ∧ (q.countSteep u).vdid = q.vdid ∧
    (q.countSteep u).status = q.status ∧ (q.countSteep u).capture.active = q.capture.active := by
  unfold Proc.countSteep
  split <;> simp

/-- At P counting changes the process of the hart alone, and that in its capture block; else nothing. -/
theorem State.proc?_count (s : State) (u : Nat) {p : Pid} (hp : s.hart.pid = some p) :
    (∀ r, r ≠ p → (s.count u).proc? r = s.proc? r) ∧
    ((s.count u).proc? p = s.proc? p ∨ (s.count u).proc? p = (s.proc? p).map (Proc.countSteep u)) := by
  have hpid := fun q => (Proc.countSteep_keeps u q).1
  unfold State.count
  split
  · dsimp only
    rw [hp]
    exact ⟨fun r hr => State.proc?_mapProc_ne _ hpid hr, .inr (State.proc?_mapProc _ p hpid)⟩
  · exact ⟨fun _ _ => rfl, .inl rfl⟩

theorem State.proc?_advance (s : State) (p : Pid) : s.advance.proc? p = s.proc? p := by
  unfold State.proc?
  rw [State.advance_procs]

/-! ### Time (R189 to R192) -/

/-- WAITT_WAKE of a hart that waits for a time (R191). -/
theorem exec_waittWake {s : State} {target : Word} (h : s.hart.status = .blocked (.waitt target)) :
    exec .waittWake s = .next (if target.toNat ≤ s.time.toNat then s.wakeReady.unblock.advance else s.wakeReady) := by
  have hs : s.wakeReady.hart = s.hart := by rw [State.wakeReady_frame]
  have ht : s.wakeReady.time = s.time := by rw [State.wakeReady_frame]
  change Host.Outcome.next (match s.wakeReady.hart.status with
    | .blocked (.waitt t) => if t.toNat ≤ s.wakeReady.time.toNat then s.wakeReady.unblock.advance else s.wakeReady
    | _ => s.wakeReady) = _
  rw [hs, h, ht]

theorem exec_waittWake_answers {s : State} {target : Word} (h : s.hart.status = .blocked (.waitt target)) :
    Answers (exec .waittWake s) (fun t => s.MemSame t ∧
      (target.toNat ≤ s.time.toNat → t.hart.status = .running ∧ t.hart.pc = s.nextPc) ∧
      (s.time.toNat < target.toNat → t.hart = s.hart) ∧
      t = { s with hart := { s.hart.pcOf t.hart with status := t.hart.status }, procs := t.procs, tiles := t.tiles }) := by
  refine ⟨_, exec_waittWake h, ?_⟩
  rw [State.wakeReady_frame]
  split
  next hle =>
    refine ⟨⟨fun _ => by simp, fun _ => by simp⟩, fun _ => ⟨State.advance_hart_status _, State.advance_pc _⟩,
      fun hlt => absurd hle (by omega), ?_⟩
    unfold State.advance State.setPc State.unblock Hart.pcOf
    dsimp only
    split <;> rfl
  next hgt => exact ⟨⟨fun _ => rfl, fun _ => rfl⟩, fun hle => absurd hle hgt, fun _ => rfl, rfl⟩

/-! ### Safe points (R171, R193) -/

/-- The steep counter is not among what makes a switch due. -/
theorem State.freeOn_steepcnt (s : State) (c : BitVec 32) (t : Nat) :
    State.freeOn { s with hart := { s.hart with steepcnt := c } } t = s.freeOn t := by
  unfold State.freeOn State.harts
  simp only [List.filter_cons]
  unfold State.isBase State.tile
  split <;> rfl

theorem State.due_steepcnt (s : State) (c : BitVec 32) (q : Proc) (e : SafeEntry) :
    State.due { s with hart := { s.hart with steepcnt := c } } q e = s.due q e := by
  unfold State.due State.aboveLevel
  simp only [State.freeOn_steepcnt]
  rfl

section
variable {s : State} {i : BitVec 16} (hp : s.hart.priv = .p) (hf : s.forked = false)
include hp hf

/-- SAFE passes the early tests and counts no unit (R193). -/
theorem execSafe_eq : exec (.safe i) s = .next (match s.safeEntry i.toNat with
    | none => s.trap causeIllegal ((encode (.safe i)).setWidth 64)
    | some (q, e) =>
      let s := { s with hart := { s.hart with steepcnt := 0 } }
      match s.due q e with
      | .nothing =>
        let t := s.advance
        { t with hart := { t.hart with chanWait := if e.chanwait then some i.toNat else none } }
      | d => s.switchAt q.countInstr i.toNat e d) := by
  have hpass := fun body => State.issue_pass (s := s) (w := ri 0x38#6 0#5 0#5 i)
    (g := { gate1 with units := 0, priv := !s.atP, vcfg := s.forked }) (body := body) (by simp [State.atP, hp])
    (by simp [State.steepOver]) hf rfl rfl rfl
  refine (congrArg Host.Outcome.next (hpass _)).trans ?_
  rw [State.count_zero]
  rfl

theorem execSafe_nothing_due {q : Proc} {e : SafeEntry} (he : s.safeEntry i.toNat = some (q, e)) (hdue : s.due q e = .nothing) :
    Answers (exec (.safe i) s) (fun t => t.hart.pc = s.nextPc ∧ t.hart.steepcnt = 0 ∧
      t.hart.chanWait = (if e.chanwait then some i.toNat else none) ∧ s.MemSame t ∧
      t = { s with hart := { s.hart.pcOf t.hart with steepcnt := 0 } }) := by
  refine ⟨_, execSafe_eq hp hf, ?_⟩
  rw [he]
  dsimp only
  rw [State.due_steepcnt, hdue]
  refine ⟨State.advance_pc _, by simp, rfl, ⟨fun _ => by simp, fun _ => by simp⟩, ?_⟩
  unfold State.advance State.setPc Hart.pcOf
  dsimp only
  split <;> rfl

theorem execSafe_no_entry (he : s.safeEntry i.toNat = none) (hc : s.hart.current = none) :
    Answers (exec (.safe i) s) (s.TrapsAtP causeIllegal ((encode (.safe i)).setWidth 64) s.hart.pc) := by
  rw [execSafe_eq hp hf, he]
  exact ⟨_, rfl, State.trapsAtP_intro hp hc _ _⟩
end

/-! ### Software traps (R197) -/

/-- A trap at P of an instruction that is over has the next instruction's address. -/
theorem State.trapsAtP_after {s : State} (hp : s.hart.priv = .p) (hc : s.hart.current = none) (c : BitVec 8) (v : Word) :
    s.TrapsAtP c v (s.hart.pc + 4) (s.trapAfter c v 0 0) := by
  simp [State.trapAfter, State.takeTrap, State.TrapsAtP, hp, Hart.enterS, hc, State.MemSame, State.advance, State.setPc,
    State.myTile, State.tile]

/-! ### Captures (R477) -/

/-- A capture's report. -/
theorem State.sendCapture_eq (s : State) (q : Proc) : ∃ r : Report, s.sendCapture q = { s with reports := s.reports ++ [r] } ∧
    r.kind = 10 ∧ r.vdid = q.vdid ∧ r.netid = q.pid.netid := ⟨_, rfl, rfl, rfl, rfl⟩

section
variable {s : State} {p : Pid} {q : Proc} (hu : s.steepOver 1 = false) (hp : s.hart.pid = some p)
include hu hp

theorem execTcapStart_answers : Answers (exec .tcapStart s) (fun t => (t.hart.pc = s.nextPc ∧ s.MemSame t ∧
      t.proc? p = ((s.count 1).proc? p).map (fun q => { q with capture := { Capture.zero with start := s.time, active := true } }) ∧
      ∀ r, r ≠ p → t.proc? r = s.proc? r) ∧
    t = { s.count 1 with hart := (s.count 1).hart.pcOf t.hart, procs := t.procs }) := by
  refine ⟨_, congrArg Host.Outcome.next (State.issue_one hu), ?_⟩
  have hmine : ∀ f, (s.count 1).mapMyProc f = (s.count 1).mapProc p f := fun f => by
    rw [State.mapMyProc, State.count_hart_pid, hp]
  rw [hmine, State.count_time]
  refine ⟨⟨?_, ⟨fun _ => by simp [State.mapProc], fun _ => by simp [State.mapProc]⟩, ?_, fun r hr => ?_⟩, ?_⟩
  · rw [State.advance_pc]
    exact State.nextPc_of (s.count_hart_pc 1) (s.count_hart_current 1)
  · rw [State.proc?_advance]
    exact State.proc?_mapProc _ p fun _ => rfl
  · rw [State.proc?_advance]
    refine (State.proc?_mapProc_ne _ ?_ hr).trans ((State.proc?_count s 1 hp).1 r hr)
    exact fun _ => rfl
  · refine (State.advance_eq _).trans ?_
    rw [State.advance_procs]
    rfl

/-- TCAP 0 in the counted state u: with no capture active it goes on, and else it reports the capture's block. -/
theorem execTcapStop_answers (hq : s.proc? p = some q) : Answers (exec .tcapStop s) (fun t =>
    (t.hart.pc = s.nextPc ∧ s.MemSame t ∧
      t.proc? p = ((s.count 1).proc? p).map (fun q => { q with capture := { q.capture with active := false } }) ∧
      ∀ r, r ≠ p → t.proc? r = s.proc? r) ∧
    (q.capture.active = false → t.reports = s.reports) ∧
    (q.capture.active = true → ∃ r, t.reports = s.reports ++ [r] ∧ r.kind = 10 ∧ r.vdid = q.vdid ∧ r.netid = p.netid) ∧
    t = { s.count 1 with hart := (s.count 1).hart.pcOf t.hart, procs := t.procs, reports := t.reports }) := by
  obtain ⟨hothers, hmine⟩ := s.proc?_count 1 hp
  obtain ⟨c, hc, hpid, hvdid, hact⟩ : ∃ c, (s.count 1).proc? p = some c ∧ c.pid = p ∧ c.vdid = q.vdid ∧
      c.capture.active = q.capture.active := by
    obtain ⟨hcp, hcv, -, hca⟩ := Proc.countSteep_keeps 1 q
    have hqp := (State.mem_pids_of_proc? hq).1
    rcases hmine with h | h
    · exact ⟨q, h.trans hq, hqp, rfl, rfl⟩
    · exact ⟨_, h.trans (by rw [hq]; rfl), hcp.trans hqp, hcv, hca⟩
  have hmy : (s.count 1).myProc? = some c := by rw [State.myProc?, State.count_hart_pid, hp, Option.bind_some, hc]
  refine ⟨_, congrArg Host.Outcome.next (State.issue_one hu), ?_⟩
  rw [hmy]
  dsimp only
  have hpc : ∀ t : State, t.hart = (s.count 1).hart → t.advance.hart.pc = s.nextPc := fun t ht => by
    rw [State.advance_pc, State.nextPc, ht]
    exact State.nextPc_of (s.count_hart_pc 1) (s.count_hart_current 1)
  split
  next ha =>
    obtain ⟨r, hr, hkind, hrv, hrn⟩ := (s.count 1).sendCapture_eq c
    rw [hpid, hr]
    refine ⟨⟨hpc _ rfl, ⟨fun _ => by simp [State.mapProc], fun _ => by simp [State.mapProc]⟩, ?_, fun r' hr' => ?_⟩,
      fun h => absurd ((hact.symm.trans ha).symm.trans h) (by simp),
      fun _ => ⟨r, ?_, hkind, hrv.trans hvdid, hrn.trans (by rw [hpid])⟩, ?_⟩
    · rw [State.proc?_advance]
      exact State.proc?_mapProc _ p fun _ => rfl
    · rw [State.proc?_advance]
      refine (State.proc?_mapProc_ne _ ?_ hr').trans (hothers r' hr')
      exact fun _ => rfl
    · simp [State.mapProc]
    · refine (State.advance_eq _).trans ?_
      rw [State.advance_procs, State.advance_reports]
      rfl
  next ha =>
    have hsame : { c with capture := { c.capture with active := false } } = c := by
      rw [← Bool.eq_false_iff.2 ha]
    refine ⟨⟨hpc _ rfl, ⟨fun _ => by simp, fun _ => by simp⟩, ?_, fun r hr => ?_⟩, fun _ => by simp,
      fun h => absurd (hact.trans h) ha, ?_⟩
    · rw [State.proc?_advance, hc, Option.map_some, hsame]
    · rw [State.proc?_advance]
      exact hothers r hr
    · refine (State.advance_eq _).trans ?_
      rw [State.advance_procs, State.advance_reports]
end

/-! ### TLBINV (R359) -/

theorem Tile.mem_walks_invalidate (t : Tile) (v : Nat) (va : Word) (x : WalkEntry) :
    x ∈ (t.invalidate v va).walks ↔ x ∈ t.walks ∧ x.vdid ≠ v := by simp [Tile.invalidate]

theorem Tile.mem_tlb_invalidate (t : Tile) (v : Nat) (va : Word) (x : TlbEntry) : x ∈ (t.invalidate v va).tlb ↔ x ∈ t.tlb ∧
    ¬(x.vdid = v ∧ (va = BitVec.allOnes 64 ∨ (x.base ≤ va.toNat ∧ va.toNat < x.base + x.size))) := by
  simp only [Tile.invalidate, List.mem_filter, Bool.not_eq_true', ← Bool.not_eq_true, Bool.and_eq_true, Bool.or_eq_true,
    beq_iff_eq, decide_eq_true_eq]

/-- The tiles after TLBINV, in a state that has them as it leaves them. -/
theorem State.tile_invalidated {s t : State} (v : Nat) (va : Word)
    (h : t.tiles = (s.setTile s.tileNo (s.myTile.invalidate v va)).tiles) :
    (∀ k, k ≠ s.tileNo → t.tile k = s.tile k) ∧
    (∀ x, x ∈ (t.tile s.tileNo).walks ↔ x ∈ s.myTile.walks ∧ x.vdid ≠ v) ∧
    (∀ x, x ∈ (t.tile s.tileNo).tlb ↔ x ∈ s.myTile.tlb ∧
      ¬(x.vdid = v ∧ (va = BitVec.allOnes 64 ∨ (x.base ≤ va.toNat ∧ va.toNat < x.base + x.size)))) := by
  have hall : ∀ k, t.tile k = (s.setTile s.tileNo (s.myTile.invalidate v va)).tile k := fun k => by
    rw [State.tile, h, State.tile]
  have hmine := (hall s.tileNo).trans (State.tile_setTile_same ..)
  refine ⟨fun k hk => (hall k).trans (State.tile_setTile_ne s _ hk), fun x => ?_, fun x => ?_⟩
  · rw [hmine, Tile.mem_walks_invalidate]
  · rw [hmine, Tile.mem_tlb_invalidate]

/-- TLBINV past its tests invalidates, and completes or waits. -/
theorem State.tlbinvGo_eq (s : State) (va : Word) : s.tlbinvGo va =
    if s.inFlight s.tileNo (s.pageOf s.tileNo (s.myTile.vdid.getD 0) va) then
      (s.setTile s.tileNo (s.myTile.invalidate (s.myTile.vdid.getD 0) va)).block
        (.tlbinv (s.pageOf s.tileNo (s.myTile.vdid.getD 0) va))
    else (s.setTile s.tileNo (s.myTile.invalidate (s.myTile.vdid.getD 0) va)).advance := rfl

section
variable {s : State} {a : BitVec 5} (hf : s.Fit 1 [a]) (hp : s.hart.priv ≠ .p)
include hf hp

theorem execTlbinv_eq : exec (.tlbinv a) s = .next (s.tlbinvGo (s.x a)) := by
  refine congrArg Host.Outcome.next ((State.issueX_pass hf ?_ rfl rfl rfl rfl).trans ?_)
  · simpa [State.atP] using hp
  · rw [State.count_of_not_p hp]

theorem execTlbinv_answers : Answers (exec (.tlbinv a) s) (fun t =>
    let mine := s.hart.id.tile; let v := (s.tile mine).vdid.getD 0; let page := s.pageOf mine v (s.x a)
    (s.inFlight mine page = false → t.hart.pc = s.nextPc ∧ t.hart.status = s.hart.status) ∧
    (s.inFlight mine page = true → t.hart.pc = s.hart.pc ∧ t.hart.status = .blocked (.tlbinv page)) ∧
    s.MemSame t ∧ (∀ k, k ≠ mine → t.tile k = s.tile k) ∧
    (∀ x, x ∈ (t.tile mine).walks ↔ x ∈ (s.tile mine).walks ∧ x.vdid ≠ v) ∧
    (∀ x, x ∈ (t.tile mine).tlb ↔ x ∈ (s.tile mine).tlb ∧ ¬(x.vdid = v ∧
      (s.x a = BitVec.allOnes 64 ∨ (x.base ≤ (s.x a).toNat ∧ (s.x a).toNat < x.base + x.size)))) ∧
    t = { s with hart := { s.hart.pcOf t.hart with status := t.hart.status }, tiles := t.tiles }) := by
  refine ⟨_, execTlbinv_eq hf hp, ?_⟩
  dsimp only
  rw [State.tlbinvGo_eq]
  split
  next hfl =>
    obtain ⟨hother, hwalks, htlb⟩ := s.tile_invalidated (t := (s.setTile _ _).block _) (s.myTile.vdid.getD 0) (s.x a) rfl
    exact ⟨fun h => absurd (hfl.symm.trans h) (by simp), fun _ => ⟨rfl, rfl⟩, ⟨fun _ => rfl, fun _ => rfl⟩, hother,
      hwalks, htlb, rfl⟩
  next hfl =>
    obtain ⟨hother, hwalks, htlb⟩ := s.tile_invalidated (t := (s.setTile _ _).advance) (s.myTile.vdid.getD 0) (s.x a)
      (State.advance_tiles _)
    refine ⟨fun _ => ⟨State.advance_pc _, State.advance_hart_status _⟩, fun h => absurd h hfl,
      ⟨fun _ => by rw [State.advance_tm]; rfl, fun _ => by rw [State.advance_gm]; rfl⟩, hother, hwalks, htlb, ?_⟩
    refine (State.advance_eq _).trans ?_
    rw [State.advance_hart_status, State.advance_tiles]
    rfl
end

/-! ### HALT (R348, R360) -/

theorem execHalt_at_m {s : State} (hf : s.Fit 1 []) (hm : s.hart.priv = .m) : Answers (exec .halt s) (fun t =>
    t.hart.status = .parked ∧ t.hart.pc = s.nextPc ∧ s.MemSame t ∧
    t = { s with hart := { s.hart.pcOf t.hart with status := .parked } }) := by
  refine ⟨{ s.advance with hart := { s.advance.hart with status := .parked } }, ?_, rfl, State.advance_pc s,
    ⟨fun _ => by simp, fun _ => by simp⟩, ?_⟩
  · refine congrArg Host.Outcome.next ((State.issue_pass rfl hf.1 ?_ rfl rfl rfl).trans ?_)
    · simp [State.atP, hm]
    · rw [State.count_of_not_p (by rw [hm]; decide), hm]
  · conv_lhs => rw [State.advance_eq]
    rfl

/-- What a rank's end does to its network: its entry is ENDED and the channels that it produces are closed (R29, R348). -/
def Network.endRank (r : Nat) (time : Word) (n : Network) : Network :=
  { n with
    chans := n.chans.map (fun c => if c.prod = .rank r then c.close else c)
    entries := n.entries.modify r (fun e => (e ||| 0x400000000#64) &&& ~~~0x200000000#64)
    changedAt := time, deadlockTold := false }

/-- The harts of a process freed, its barriers ended, and what that lets proceed made ready. -/
def State.release (s : State) (p : Pid) : State := ((s.freeHarts p).endGroups p.netid p.rank).wakeReady

/-- A process that ends by HALT, as far as the tokens of its channels: its capture sent, its charge settled (R29, R477). -/
def State.haltTold (s : State) (q : Proc) : State :=
  let s := if q.capture.active then s.sendCapture q else s
  let s := (s.settleCharge q.pid).mapProc q.pid (fun q => { q with
    status := .ended .halt, capture := { q.capture with active := false }, stopDue := false })
  match s.net? q.pid.netid with
  | some n => s.sendTokens n q.pid.rank
  | none => s

/-- The end of a process by HALT, as one change of the networks and what frees its harts after it. -/
theorem State.finishProc_halt (s : State) (q : Proc) (cause val : Word) : s.finishProc q .halt cause val =
    (((s.haltTold q).mapNet q.pid.netid (Network.endRank q.pid.rank (s.haltTold q).time)).dequeue q.tile q.pid).release
      q.pid := rfl

/-- Both memories and the networks. -/
def State.stores (s : State) : Memory × Memory × List Network := (s.tm, s.gm, s.nets)

theorem State.stores_haltTold (s : State) (q : Proc) : (s.haltTold q).stores = s.stores := by
  have htok : ∀ (t : State) (n : Network), (t.sendTokens n q.pid.rank).stores = t.stores := fun t n => by
    refine foldl_keeps State.stores _ (fun u ic => ?_) _ t
    split
    · split
      · unfold State.sendSlot
        split <;> rfl
      · rfl
    · rfl
  have hcap : (if q.capture.active then s.sendCapture q else s).stores = s.stores := by split <;> rfl
  unfold State.haltTold
  dsimp only
  split
  · exact (htok ..).trans hcap
  · exact hcap

theorem State.stores_freeHarts (s : State) (p : Pid) : (s.freeHarts p).stores = s.stores := by
  unfold State.freeHarts
  dsimp only
  split
  · split <;> rfl
  · rfl

/-- No hart has a process whose harts have been freed. -/
theorem State.pid_freeHarts (s : State) (p : Pid) : ∀ h ∈ (s.freeHarts p).harts, h.pid ≠ some p := by
  have hfr : ∀ h : Hart, (if h.pid == some p then h.free (s.tile h.id.tile).hartLanes else h).pid ≠ some p := fun h => by
    split
    next => exact nofun
    next hne => simpa using hne
  have hall : ∀ (x : Hart) (l : List Hart), ∀ h ∈ (if x.pid == some p then x.free (s.tile x.id.tile).hartLanes else x) ::
      l.map (fun h => if h.pid == some p then h.free (s.tile h.id.tile).hartLanes else h), h.pid ≠ some p := fun x l => by
    rw [← List.map_cons (f := fun h : Hart => if h.pid == some p then h.free (s.tile h.id.tile).hartLanes else h)]
    exact List.forall_mem_map.2 fun h _ => hfr h
  unfold State.freeHarts
  dsimp only
  split
  · split
    · exact hall _ _
    · exact hall s.hart []
  · exact hall _ _

/-- A network but for its groups. -/
def Network.sansGroups (n : Network) : Network := { n with groups := [] }

/-- What the end of barriers leaves as it was: both memories, the processes that harts have, and of a network all but its
groups. -/
def State.sansBarriers (s : State) (k : Nat) : Memory × Memory × List (Option Pid) × Option Network :=
  (s.tm, s.gm, s.harts.map (·.pid), (s.net? k).map Network.sansGroups)

/-- A change of groups alone. -/
theorem State.sansGroups_mapNet (s : State) (netid k : Nat) {f : Network → Network} (hid : ∀ n, (f n).netid = n.netid)
    (hf : ∀ n, (f n).sansGroups = n.sansGroups) :
    ((s.mapNet netid f).net? k).map Network.sansGroups = (s.net? k).map Network.sansGroups := by
  rw [State.net?_mapNet _ hid, Option.map_map]
  refine congrArg (fun g => Option.map g (s.net? k)) (funext fun n => ?_)
  simp only [Function.comp_apply]
  split
  · exact hf n
  · rfl

theorem State.pids_mapHarts (s : State) {f : Hart → Hart} (hf : ∀ h, (f h).pid = h.pid) :
    (s.mapHarts f).harts.map (·.pid) = s.harts.map (·.pid) := by
  simp [State.mapHarts, State.harts, hf, Function.comp_def]

theorem State.sansBarriers_endBarrier (s : State) (k netid g : Nat) (q : Group) (gone : Member → Bool) :
    (s.endBarrier netid g q gone).sansBarriers k = s.sansBarriers k := by
  unfold State.endBarrier
  split
  · rfl
  next j _ =>
    have hpids : ∀ ranks, (s.barrierEnded netid g j ranks).harts.map (·.pid) = s.harts.map (·.pid) := fun ranks => by
      refine State.pids_mapHarts _ fun h => ?_
      split
      · split <;> rfl
      · rfl
    exact Prod.ext rfl (Prod.ext rfl (Prod.ext (hpids _)
      ((s.barrierEnded netid g j _).sansGroups_mapNet netid k (fun _ => rfl) (fun _ => rfl))))

theorem State.sansBarriers_endGroups (s : State) (k netid r : Nat) : (s.endGroups netid r).sansBarriers k = s.sansBarriers k := by
  unfold State.endGroups
  split
  · rfl
  · exact foldl_keeps (State.sansBarriers · k) _ (fun t ig => t.sansBarriers_endBarrier ..) _ s

theorem State.sansBarriers_wakeReady (s : State) (k : Nat) : s.wakeReady.sansBarriers k = s.sansBarriers k := by
  rw [State.wakeReady_frame]
  rfl

theorem State.release_frees (s : State) (p : Pid) :
    (s.release p).tm = s.tm ∧ (s.release p).gm = s.gm ∧ (∀ h ∈ (s.release p).harts, h.pid ≠ some p) ∧
    ∀ k, ((s.release p).net? k).map Network.sansGroups = (s.net? k).map Network.sansGroups := by
  have hview : ∀ k, (s.release p).sansBarriers k = (s.freeHarts p).sansBarriers k := fun k =>
    (State.sansBarriers_wakeReady _ k).trans ((s.freeHarts p).sansBarriers_endGroups k p.netid p.rank)
  simp only [State.sansBarriers, Prod.mk.injEq] at hview
  have hfree := s.stores_freeHarts p
  simp only [State.stores, Prod.mk.injEq] at hfree
  obtain ⟨htm, hgm, hpids, -⟩ := hview 0
  obtain ⟨htm', hgm', hnets'⟩ := hfree
  refine ⟨htm.trans htm', hgm.trans hgm', fun h hh hpid => ?_, fun k => ?_⟩
  · have hmem := List.mem_map_of_mem (f := fun x : Hart => x.pid) hh
    rw [hpids] at hmem
    obtain ⟨g, hg, hgp⟩ := List.mem_map.1 hmem
    exact s.pid_freeHarts p g hg (hgp.trans hpid)
  · rw [(hview k).2.2.2, State.net?, hnets', State.net?]

/-- A network of which a rank has ended. -/
theorem Network.endRank_ends {n m : Network} {r : Nat} {time : Word} (h : m.sansGroups = (n.endRank r time).sansGroups)
    (hr : r < n.entries.length) : entryEnded (m.entry r) = true ∧ ∀ c ∈ m.chans, c.prod = .rank r → c.closed = true := by
  have hentries : m.entries = (n.endRank r time).entries := (congrArg Network.entries h : m.sansGroups.entries = _)
  have hchans : m.chans = (n.endRank r time).chans := (congrArg Network.chans h : m.sansGroups.chans = _)
  constructor
  · rw [entryEnded, Network.entry, hentries]
    simp [Network.endRank, List.getD_eq_getElem?_getD, hr]
  · rw [hchans]
    refine List.forall_mem_map.2 fun c _ => ?_
    split
    next => exact fun _ => by unfold Chan.close; split <;> simp_all
    next hne => exact fun h => absurd h hne

/-- The end of the selected hart's process, once a unit is counted. -/
theorem State.endProc_count {s : State} {p : Pid} {q : Proc} (hp : s.hart.pid = some p) (hq : s.proc? p = some q)
    (hlive : ∀ r, q.status ≠ .ended r) : ∃ c, (s.count 1).proc? p = some c ∧ c.pid = p ∧
      (s.count 1).endProc p .halt 0 0 = (s.count 1).finishProc c .halt 0 0 := by
  obtain ⟨c, hc, hcpid, hcst⟩ : ∃ c, (s.count 1).proc? p = some c ∧ c.pid = p ∧ c.status = q.status := by
    obtain ⟨hpid, -, hstatus, -⟩ := Proc.countSteep_keeps 1 q
    have hqp := (State.mem_pids_of_proc? hq).1
    rcases (s.proc?_count 1 hp).2 with h | h
    · exact ⟨q, h.trans hq, hqp, rfl⟩
    · exact ⟨_, h.trans (by rw [hq]; rfl), hpid.trans hqp, hstatus⟩
  refine ⟨c, hc, hcpid, ?_⟩
  unfold State.endProc
  rw [hc]
  dsimp only
  split
  next h => exact absurd (hcst.symm.trans h) (hlive _)
  next => rfl

theorem execHalt_at_p {s : State} {p : Pid} {q : Proc} {n : Network} (hf : s.Fit 1 []) (hpriv : s.hart.priv = .p)
    (hfork : s.forked = false) (hp : s.hart.pid = some p) (hq : s.proc? p = some q) (hlive : ∀ r, q.status ≠ .ended r)
    (hn : s.net? p.netid = some n) (hrank : p.rank < n.entries.length) :
    Answers (exec .halt s) (fun t => (t.proc? p).map (·.status) = some (.ended .halt) ∧ s.MemSame t ∧
      (∀ h ∈ t.harts, h.pid ≠ some p) ∧ (∃ m, t.net? p.netid = some m ∧ entryEnded (m.entry p.rank) = true ∧
        ∀ ch ∈ m.chans, ch.prod = .rank p.rank → ch.closed = true)) := by
  obtain ⟨c, hc, hcpid, hend⟩ := State.endProc_count hp hq hlive
  subst hcpid
  refine ⟨(s.count 1).finishProc c .halt 0 0, ?_, ?_, ?_⟩
  · refine congrArg Host.Outcome.next ((State.issue_pass rfl hf.1 ?_ rfl rfl rfl).trans ?_)
    · simp [hfork]
    · rw [State.count_hart_priv, State.count_hart_pid, hpriv, hp]
      exact hend
  · obtain ⟨d, hd, hst⟩ := (State.hasStatus_finishProc (State.mem_pids_of_proc? hc).2 .halt 0 0).proc?
    rw [hd, Option.map_some, hst]
  · have htold := (s.count 1).stores_haltTold c
    simp only [State.stores, Prod.mk.injEq, State.count_tm, State.count_gm, State.count_nets] at htold
    obtain ⟨htm, hgm, hnets⟩ := htold
    obtain ⟨htm', hgm', hfree, hnet⟩ := State.release_frees ((((s.count 1).haltTold c).mapNet c.pid.netid
      (Network.endRank c.pid.rank ((s.count 1).haltTold c).time)).dequeue c.tile c.pid) c.pid
    rw [State.finishProc_halt]
    refine ⟨⟨fun k => ?_, fun k => ?_⟩, hfree, ?_⟩
    · rw [htm']
      exact congrArg (·.read k) htm
    · rw [hgm']
      exact congrArg (·.read k) hgm
    · have hnet' := (hnet c.pid.netid).trans (congrArg _ (State.net?_mapNet _ (f := Network.endRank _ _) (fun _ => rfl) _))
      rw [show ((s.count 1).haltTold c).net? c.pid.netid = some n from (congrArg (List.find? _) hnets).trans hn] at hnet'
      obtain ⟨m, hm, hms⟩ := Option.map_eq_some_iff.1 hnet'
      refine ⟨m, hm, Network.endRank_ends (time := ((s.count 1).haltTold c).time) ?_ hrank⟩
      simpa [show n.netid = c.pid.netid by simpa using List.find?_some hn] using hms

/-! ### The obligation -/

/-- Settles O31, clause by clause: each instruction or event by its lemma above. -/
theorem system : Obligations.System := by
  unfold Obligations.System
  intro s d a i c at_ p q n e tile front u capture
  refine ⟨fun hf => ⟨State.scalar_writes hf, _, congrArg Host.Outcome.next (State.issue_one hf.1), ?_⟩, fun hf hle => ?_,
    fun hf hlt => ?_, exec_waittWake_answers, fun hp hf => ⟨execSafe_nothing_due hp hf, execSafe_no_entry hp hf⟩,
    fun hf hp hc => ⟨?_, ?_⟩,
    fun hf hp hq => ⟨execTcapStart_answers hf.1 hp, execTcapStop_answers hf.1 hp hq⟩,
    execTlbinv_answers, execHalt_at_p, execHalt_at_m, rfl, rfl, rfl⟩
  · refine ⟨?_, ⟨fun _ => by simp, fun _ => by simp⟩, ?_, ?_⟩
    · exact (State.advance_pc _).trans (State.nextPc_of (s.count_hart_pc 1) (s.count_hart_current 1))
    · rw [State.fetchWord_iinv, State.tmLoad_count, State.nextPc_of (s.count_hart_pc 1) (s.count_hart_current 1)]
    · conv_rhs => rw [← s.count_tm 1]
      exact State.advance_eq _
  · refine ⟨(s.count 1).advance, congrArg Host.Outcome.next ((State.issueX_one hf).trans ?_), s.jumpsTo_next⟩
    rw [State.x_count, State.count_time, if_pos hle]
  · refine congrArg Host.Outcome.next ((State.issueX_one hf).trans ?_)
    rw [State.x_count, State.count_time, if_neg (by omega)]
  · exact Eq.mpr (congrArg (fun t => Answers (.next t) _) (State.issue_one hf.1)) (State.trap_count_answers hp hc 1 causeBrk _)
  · refine ⟨_, congrArg Host.Outcome.next (State.issue_one hf.1), ?_⟩
    have h := State.trapsAtP_after (s := u) (by rwa [State.count_hart_priv]) (by rwa [State.count_hart_current]) causeSysc
      (c.setWidth 64)
    rwa [State.count_hart_pc] at h

end Sys2Proof.Machine
end

section
/-! SUPPORT. STREAMS. Binding and unbinding, and what VMV pops from and appends to a stream (R139, R237, R258 to R262). -/

namespace Sys2Proof.Machine

/-! ### What accesses do not read of the hart -/

/-- The state with the vector storage, the flags and the marks of issue that another hart has: nothing that an access of
global memory reads. -/
def State.wear (s : State) (k : Hart) : State :=
  { s with hart := { s.hart with v := k.v, vPois := k.vPois, fflags := k.fflags, rotor := k.rotor, leave := k.leave } }

section
variable (s : State) (k : Hart)

theorem State.rekey_wear (key : XtsKey) (g : Nat) : (s.wear k).rekey key g = (s.rekey key g).wear k := by
  unfold State.rekey State.wear State.under
  dsimp only
  split
  · rfl
  · split <;> rfl

theorem State.logDirty_wear (a n : Nat) : (s.wear k).logDirty a n = (s.logDirty a n).wear k := by
  unfold State.logDirty State.wear
  dsimp only
  split <;> rfl

theorem State.gmStore_wear (p : Phys) (bs : List Byte) : (s.wear k).gmStore p bs = (s.gmStore p bs).wear k := by
  unfold State.gmStore
  dsimp only
  rw [List.foldl_hom (State.wear · k) fun t g => by rw [State.rekey_wear], ← State.logDirty_wear]
  rfl

theorem State.orLeaf_wear (d : VDev) (e : TlbEntry) (b : Byte) : (s.wear k).orLeaf d e b = (s.orLeaf d e b).wear k := by
  unfold State.orLeaf
  dsimp only
  rw [show (s.wear k).gmBytes _ 1 = s.gmBytes _ 1 from rfl]
  split
  · rfl
  · exact s.gmStore_wear ..

theorem State.myUse_wear (n : Need) (e : TlbEntry) : (s.wear k).myUse n e = (s.myUse n e).wear k := by
  unfold State.myUse State.laneUse
  rw [show (s.wear k).myVdev? = s.myVdev? from rfl]
  split
  · unfold State.useXlate
    dsimp only
    split
    · rw [State.orLeaf_wear]
      rfl
    · rfl
  · rfl

theorem State.useStrip_wear (b : Binding) : (s.wear k).useStrip b = (s.useStrip b).wear k := by
  unfold State.useStrip
  rw [show (s.wear k).vlen = s.vlen from rfl]
  refine List.foldl_hom (State.wear · k) fun t e => ?_
  rw [show (t.wear k).myXlate = t.myXlate from rfl]
  split
  · exact t.myUse_wear ..
  · rfl

theorem State.packet_wear (netid : Nat) (ws : List (Phys × Nat)) : (s.wear k).packet netid ws = (s.packet netid ws).wear k := by
  have hsend : (s.wear k).sendPackets netid true ws = (s.sendPackets netid true ws).wear k :=
    (List.foldl_hom (State.wear · k) (g₁ := fun (t : State) w => t.sendPacket t.myEp netid true w)
      (g₂ := fun (t : State) w => t.sendPacket t.myEp netid true w) (init := { s with
        outbound := s.outbound.filter (fun o => decide (s.time.toNat < o.sentAt.toNat + groupTimeout)) }) fun t w => rfl :)
  unfold State.packet
  rw [hsend]
  refine List.foldl_hom (State.wear · k) fun t g => ?_
  split
  · rfl
  · unfold State.partialStoreEvent
    rw [show (t.wear k).pkg = t.pkg from rfl]
    split <;> rfl

theorem State.gbytes_wear (n : Nat) : (s.wear k).gbytes n = (s.gbytes n).wear k := by
  unfold State.gbytes
  rw [show (s.wear k).hart.pid = s.hart.pid from rfl, show (s.wear k).atP = s.atP from rfl]
  split
  · rfl
  · split <;> rfl
end

/-! ### SBIND (R260) -/

theorem setIfInBounds_fin {α : Type} {n : Nat} (v : Vector α n) (j : Fin n) (x : α) : v.setIfInBounds j.val x = v.set j x := by
  ext i hi
  simp [Vector.getElem_setIfInBounds, Vector.getElem_set]

/-- A descriptor that is good has a slot, the lowest that is free. -/
theorem State.freeSlot_of_descBad {s : State} {b : Binding} {bs : List Byte} (h : s.descBad b bs = false) :
    ∃ j : Fin 4, s.hart.freeSlot = j.val ∧ s.hart.streams[j] = none ∧ ∀ l : Fin 4, l < j → s.hart.streams[l] ≠ none := by
  have hfree : s.hart.streams.toList.all (·.isSome) = false := by
    simp only [State.descBad, Bool.or_eq_false_iff] at h
    tauto
  have hlt : s.hart.freeSlot < s.hart.streams.toList.length := by
    obtain ⟨o, ho, hnone⟩ := List.all_eq_false.1 hfree
    exact List.findIdx_lt_length_of_exists ⟨o, ho, by simpa using hnone⟩
  refine ⟨⟨s.hart.freeSlot, by simpa using hlt⟩, rfl, ?_, fun l hl => ?_⟩
  · exact (Vector.getElem_toList hlt).symm.trans (Option.isNone_iff_eq_none.1 (List.findIdx_getElem (w := hlt)))
  · have := List.not_of_lt_findIdx (show l.val < s.hart.streams.toList.findIdx (·.isNone) from hl)
    simpa [Option.isSome_iff_ne_none] using this

theorem execSbind_answers {s : State} {d a : BitVec 5} (hw : s.hart.Unwatched) (hf : s.Fit 1 [a]) (hp : s.hart.priv = .p)
    (hd : s.badGroup d = false) (hparent : s.hart.parent = none) (halign : (s.x a).toNat % 64 = 0)
    (hok : s.tmOk (s.x a).toNat 64 = true) (hclean : s.tmPoisoned (s.x a).toNat 64 = false) {bs : List Byte} {desc : Binding}
    (hbs : s.tmBytes (s.x a).toNat 64 = bs) (hdesc : Binding.ofBytes bs d.toNat s.grp (s.x a) s.ticks = desc)
    (hgood : s.descBad desc bs = false) :
    Answers (exec (.sbind d a) s) (fun t => t.hart.pc = s.nextPc ∧ s.MemSame t ∧
      (∃ j : Fin 4, t.hart.streams = s.hart.streams.set j (some desc) ∧ s.hart.streams[j] = none ∧
        ∀ l : Fin 4, l < j → s.hart.streams[l] ≠ none) ∧
      t = { s.count 1 with hart := { (s.count 1).hart.pcOf t.hart with streams := t.hart.streams } }) := by
  obtain ⟨j, hj, hnone, hbelow⟩ := State.freeSlot_of_descBad hgood
  refine ⟨State.advance { s.count 1 with hart := { (s.count 1).hart with
    streams := s.hart.streams.set j (some desc) } }, ?_, ?_, ⟨fun _ => by simp, fun _ => by simp⟩, ⟨j, ?_, hnone, hbelow⟩, ?_⟩
  · refine congrArg Host.Outcome.next ((State.issueX_pass hf ?_ hd ?_ rfl rfl).trans ?_)
    · simp [State.atP, hp]
    · simp [hparent]
    · have hwatch : (s.count 1).watchHit true true false 0 (s.x a).toNat 64 = none := State.watchHit_nil (by simpa using hw.1) ..
      have hbs' : (s.count 1).tmBytes (s.x a).toNat 64 = bs := by
        rw [← hbs, State.tmBytes, State.tmBytes, State.count_tm, State.tileNo, State.count_hart_id, ← State.tileNo]
      have hbad : ∀ b, (s.count 1).descBad b bs = s.descBad b bs := fun b => by simp [State.descBad]
      have hdesc' : Binding.ofBytes bs d.toNat s.grp (s.x a) (s.count 1).ticks = desc := by rw [State.count_ticks, hdesc]
      have hgrp : (s.count 1).grp = s.grp := by simp [State.grp]
      have hslot : (s.count 1).hart.freeSlot = j.val := by simpa [Hart.freeSlot] using hj
      rw [show gate1.units = 1 from rfl, State.x_count, if_neg (not_not_intro halign), State.tmOk_count, hok,
        hwatch, State.tmPoisoned_count, hclean, hbs', hgrp]
      dsimp only
      rw [hdesc', hbad, hgood, hslot, setIfInBounds_fin, State.count_hart_streams]
      rfl
  · exact (State.advance_pc _).trans (State.nextPc_of (s.count_hart_pc 1) (s.count_hart_current 1))
  · simp
  · refine (State.advance_eq _).trans ?_
    simp [Hart.pcOf]

/-! ### SUNB (R262) -/

/-- t is u with the binding in slot i gone and its position stored at a key, in its descriptor. -/
def State.Frees (u : State) (i : Fin 4) (b : Binding) (pos : Nat) (t : State) : Prop :=
  t.hart.pc = u.nextPc ∧ t.tm.bytes pos 8 = leBytes 8 b.pos ∧
  (∀ c, c < pos ∨ pos + 8 ≤ c → t.tm.read c = u.tm.read c) ∧ (∀ c, t.gm.read c = u.gm.read c) ∧
  t.hart.streams = u.hart.streams.set i none ∧
  t = { u with hart := { u.hart.pcOf t.hart with streams := t.hart.streams }, tm := t.tm, tmPois := t.tmPois }

theorem State.frees_unbind {u : State} {d : BitVec 5} {i : Fin 4} {b : Binding} (hm : u.tm.wf = true) (hdbg : u.hart.dbg = [])
    (hb : u.hart.boundSlot d = some (i.val, b)) : u.Frees i b (tmKey u.hart.id.tile (b.descAddr.toNat + 0x30)) (u.unbind d) := by
  have hbytes := Memory.bytes_store (leBytes 8 b.pos) (tmKey u.hart.id.tile (b.descAddr.toNat + 0x30)) hm
  have hread := fun c => Memory.read_store_outside (c := c) (leBytes 8 b.pos) (tmKey u.hart.id.tile (b.descAddr.toNat + 0x30)) hm
  rw [length_leBytes] at hbytes hread
  unfold State.unbind
  rw [hb]
  dsimp only
  rw [State.watchHit_nil hdbg]
  dsimp only
  rw [show (u.tmStore (b.descAddr.toNat + 0x30) (leBytes 8 b.pos)).hart.streams = u.hart.streams from rfl, setIfInBounds_fin]
  refine ⟨(State.advance_pc _).trans (State.nextPc_of rfl rfl), ?_, fun c hc => ?_, fun c => ?_, ?_, ?_⟩
  · rw [State.advance_tm]
    exact hbytes
  · rw [State.advance_tm]
    exact hread c hc
  · rw [State.advance_gm]
    rfl
  · rw [State.advance_hart_streams]
  · refine (State.advance_eq _).trans ?_
    rw [State.advance_hart_streams, State.advance_tm, State.advance_tmPois]
    rfl

section
variable {s : State} {d : BitVec 5} {i : Fin 4} {b : Binding} (hm : s.MemOk) (hw : s.hart.Unwatched)
  (hb : s.hart.boundSlot d = some (i.val, b))
include hm hw hb

theorem execSunb_answers (hf : s.Fit 1 []) (hp : s.hart.priv = .p) (hd : s.badGroup d = false) :
    (b.store = false → Answers (exec (.sunb d) s)
      ((s.count 1).Frees i b (tmKey s.hart.id.tile (b.descAddr.toNat + 0x30)))) ∧
    (b.store = true → exec (.sunb d) s = .next ((s.count 1).block (.sunb d))) := by
  have hb' : (s.count 1).hart.boundSlot d = some (i.val, b) := by
    rw [Hart.boundSlot, State.count_hart_streams]
    exact hb
  have hexec : exec (.sunb d) s = .next (if b.store then (s.count 1).block (.sunb d) else (s.count 1).unbind d) := by
    refine congrArg Host.Outcome.next ((State.issue_pass ?_ hf.1 hd ?_ rfl rfl).trans ?_)
    · simp [State.atP, hp]
    · simp [hb]
    · dsimp only
      rw [show gate1.units = 1 from rfl, hb']
  refine ⟨fun hs => ⟨_, hexec, ?_⟩, fun hs => by rw [hexec, if_pos hs]⟩
  rw [hs]
  have hfree := State.frees_unbind (by rw [State.count_tm]; exact hm.1) (by rw [State.count_hart_dbg]; exact hw.1) hb'
  rwa [State.count_hart_id] at hfree

theorem execSunbComplete_answers (hblocked : s.hart.status = .blocked (.sunb d)) :
    Answers (exec .sunbComplete s) (s.unblock.Frees i b (tmKey s.hart.id.tile (b.descAddr.toNat + 0x30))) := by
  refine ⟨s.unblock.unbind d, ?_, State.frees_unbind hm.1 hw.1 hb⟩
  refine congrArg Host.Outcome.next ?_
  rw [hblocked]
end

/-! ### Elements of groups -/

/-- Elements written from the first on, as the listed writes that they are. -/
theorem Hart.setElems_eq_writeElems (h : Hart) (w r : Nat) (vals : List Nat) :
    h.setElems w r vals = h.writeElems w r (vals.getD · 0) (List.range vals.length) := by
  rw [← Hart.setElems_map]
  congr 1
  exact List.ext_getElem (by simp) fun i h1 h2 => by simp [List.getD_eq_getElem?_getD, h1]

theorem Hart.setElems_eq (h : Hart) (w r : Nat) (vals : List Nat) :
    h.setElems w r vals = { h with v := (h.setElems w r vals).v, vPois := (h.setElems w r vals).vPois } := by
  rw [Hart.setElems_eq_writeElems]
  exact Hart.writeElems_eq ..

theorem Hart.setElems_v_congr {g h : Hart} (hv : g.v = h.v) (ht : g.vtype = h.vtype) (hl : g.lanes = h.lanes)
    (h0 : g.lane0 = h.lane0) (w r : Nat) (vals : List Nat) : (g.setElems w r vals).v = (h.setElems w r vals).v := by
  rw [Hart.setElems_eq_writeElems, Hart.setElems_eq_writeElems]
  exact Hart.writeElems_v_congr hv ht hl h0 ..

theorem Hart.setElems_keeps (h : Hart) (w r : Nat) (vals : List Nat) : (h.setElems w r vals).vtype = h.vtype ∧
    (h.setElems w r vals).lanes = h.lanes ∧ (h.setElems w r vals).lane0 = h.lane0 ∧ (h.setElems w r vals).fflags = h.fflags := by
  rw [Hart.setElems_eq]
  exact ⟨rfl, rfl, rfl, rfl⟩

theorem Hart.writeElems_keeps (h : Hart) (w r : Nat) (f : Nat → Nat) (l : List Nat) : (h.writeElems w r f l).vtype = h.vtype ∧
    (h.writeElems w r f l).lanes = h.lanes ∧ (h.writeElems w r f l).lane0 = h.lane0 ∧
    (h.writeElems w r f l).fflags = h.fflags := by
  rw [Hart.writeElems_eq]
  exact ⟨rfl, rfl, rfl, rfl⟩

/-! ### The ends of strips (R261) -/

theorem State.trace_nil {s : State} (h : s.hart.dbg = []) (kind : Nat) (stopped : Bool) (width : Nat) (es : List (Nat × Word)) :
    s.trace kind stopped width es = s := by
  have hentry : s.traceEntry = none := by
    unfold State.traceEntry
    rw [h]
    split <;> rfl
  unfold State.trace
  rw [hentry]

@[simp] theorem State.sansUse_useStrip (s : State) (b : Binding) : (s.useStrip b).sansUse = s.sansUse := by
  refine foldl_keeps State.sansUse _ (fun t e => ?_) _ s
  split
  · exact t.sansUse_myUse ..
  · rfl

@[simp] theorem State.sansUse_touchStrips (s : State) (srcs dsts : List (Nat × Nat)) :
    (s.touchStrips srcs dsts).sansUse = s.sansUse :=
  foldl_keeps State.sansUse _ (fun t va => t.sansUse_laneTouch 0 va) _ s

theorem State.tm_of_sansUse {s t : State} (h : t.sansUse = s.sansUse) : t.tm = s.tm :=
  (congrArg State.tm h : t.sansUse.tm = s.sansUse.tm)

theorem State.wear_writeElems (s : State) (k : Hart) (w r : Nat) (f : Nat → Nat) (l : List Nat) :
    { s.wear k with hart := (s.wear k).hart.writeElems w r f l } = s.wear ((s.wear k).hart.writeElems w r f l) := by
  have h := (s.wear k).hart.writeElems_eq w r f l
  generalize (s.wear k).hart.writeElems w r f l = g at h ⊢
  rw [h]
  rfl

theorem State.wear_setElems (s : State) (k : Hart) (w r : Nat) (vals : List Nat) :
    { s.wear k with hart := (s.wear k).hart.setElems w r vals } = s.wear ((s.wear k).hart.setElems w r vals) := by
  rw [Hart.setElems_eq_writeElems]
  exact s.wear_writeElems ..

/-- Elements stored while the hart is as it is. -/
theorem State.foldl_gmStore_wear (k : Hart) (f : Hart → ElemAccess → List Byte) (es : List ElemAccess) (m : State) :
    es.foldl (fun (t : State) e => t.gmStore e.phys (f t.hart e)) (m.wear k) =
      (es.foldl (fun (t : State) e => t.gmStore e.phys (f (m.wear k).hart e)) m).wear k := by
  induction es generalizing m with
  | nil => rfl
  | cons e es ih =>
    have hhart : ((m.gmStore e.phys (f (m.wear k).hart e)).wear k).hart = (m.wear k).hart := by
      rw [State.wear, State.hart_gmStore, State.wear]
    rw [List.foldl_cons, List.foldl_cons, State.gmStore_wear, ih, hhart]

theorem State.hart_foldl_gmStore (f : ElemAccess → List Byte) (es : List ElemAccess) (m : State) :
    (es.foldl (fun (t : State) e => t.gmStore e.phys (f e)) m).hart = m.hart :=
  foldl_keeps State.hart _ (fun t e => t.hart_gmStore e.phys (f e)) es m

theorem State.hart_packet (s : State) (netid : Nat) (ws : List (Phys × Nat)) : (s.packet netid ws).hart = s.hart :=
  congrArg Prod.fst (s.hartNets_packet netid ws)

/-- The state once a strip's elements, of which `val` gives the values, are stored (R237, R261). -/
def State.appended (c : State) (b : Binding) (es : List ElemAccess) (val : Nat → Nat) : State :=
  es.foldl (fun (t : State) e => t.gmStore e.phys (leBytes (c.sew / 8) (val e.elem)))
    ((c.useStrip b).packet c.myNet (es.map fun e => (e.phys, c.sew / 8)))

section
variable {c : State} (hdbg : c.hart.dbg = []) (k : Hart) (p : Strip)
include hdbg

/-- The end of a popped strip. -/
theorem State.popStrip_wear : (c.wear k).popStrip p = (((c.useStrip p.binding).gbytes (p.elems.length * (c.sew / 8))).wear
    (((c.useStrip p.binding).wear k).hart.setElems c.sew p.binding.reg p.vals)).moveOn p := by
  have hhart : (c.useStrip p.binding).hart = c.hart := State.hart_of_sansUse (c.sansUse_useStrip _)
  have hsew : (c.useStrip p.binding).sew = c.sew := congrArg (fun h : Hart => vtSew h.vtype) hhart
  have hnil : ∀ g, ((c.useStrip p.binding).wear g).hart.dbg = [] := fun _ => (congrArg Hart.dbg hhart).trans hdbg
  unfold State.popStrip
  dsimp only
  rw [State.useStrip_wear, show ((c.useStrip p.binding).wear k).sew = c.sew from hsew, State.wear_setElems,
    State.trace_nil (hnil _), State.gbytes_wear]
  rfl

/-- The end of a strip that is appended. -/
theorem State.appendStrip_wear : (c.wear k).appendStrip p = (((c.appended p.binding p.elems
    ((c.wear k).hart.elem c.sew p.binding.reg)).gbytes (p.elems.length * (c.sew / 8))).wear k).moveOn p := by
  have hhart : ((c.useStrip p.binding).packet c.myNet (p.elems.map fun e => (e.phys, c.sew / 8))).hart = c.hart :=
    (State.hart_packet ..).trans (State.hart_of_sansUse (c.sansUse_useStrip _))
  have happ : p.elems.foldl (fun (t : State) e => t.gmStore e.phys (leBytes (c.sew / 8) (t.hart.elem c.sew p.binding.reg e.elem)))
      (((c.useStrip p.binding).packet c.myNet (p.elems.map fun e => (e.phys, c.sew / 8))).wear k) =
      (c.appended p.binding p.elems ((c.wear k).hart.elem c.sew p.binding.reg)).wear k := by
    refine (State.foldl_gmStore_wear k (fun h e => leBytes (c.sew / 8) (h.elem c.sew p.binding.reg e.elem)) ..).trans ?_
    rw [show (State.wear (State.packet _ _ _) k).hart = (c.wear k).hart by rw [State.wear, hhart]; rfl]
    rfl
  have hnil : ((c.appended p.binding p.elems ((c.wear k).hart.elem c.sew p.binding.reg)).wear k).hart.dbg = [] :=
    (congrArg Hart.dbg ((State.hart_foldl_gmStore ..).trans hhart)).trans hdbg
  unfold State.appendStrip
  dsimp only
  rw [State.useStrip_wear, State.packet_wear]
  refine (congrArg (fun t : State => ((t.trace 5 false (c.sew / 8) (p.elems.map fun e => (e.elem, e.va))).gbytes
    (p.elems.length * (c.sew / 8))).moveOn p) happ).trans ?_
  rw [State.trace_nil hnil, State.gbytes_wear]
end

/-! ### VMV under a binding (R208, R261) -/

/-- What issue leaves to a body. -/
theorem State.holdLeave_spin (s : State) (w : IWord) : (s.spin w).holdLeave w = s.wear ((s.spin w).holdLeave w).hart := by
  unfold State.holdLeave State.spin
  dsimp only
  split <;> split <;> rfl

/-- The element loop of an instruction that raises no flag, in the state that issue leaves. -/
theorem State.elemLoop_wear {c : State} (hw : c.hart.Unwatched) {pois : Nat → Option Nat} (hp : ∀ i, pois i = none)
    (w : IWord) (dw r : Nat) (f : Nat → Nat) (l : List Nat) :
    ∃ k : Hart, ((c.spin w).holdLeave w).elemLoop pois dw r (fun i => noFlags (f i)) l 0 = .done (c.wear k) ∧
      k.v = (c.hart.writeElems dw r f l).v ∧ k.fflags = c.hart.fflags := by
  have hflags : l.foldl (fun (fl : FFlags) i => fl ||| (noFlags (f i)).2) 0 = 0 := by
    induction l with
    | nil => rfl
    | cons i l ih =>
      change l.foldl (fun (fl : FFlags) i => fl ||| (noFlags (f i)).2) (0 ||| 0) = 0
      rwa [show (0 : FFlags) ||| 0 = 0 from BitVec.or_zero]
  have hv : ((c.spin w).holdLeave w).hart.v = c.hart.v ∧ ((c.spin w).holdLeave w).hart.fflags = c.hart.fflags := by simp
  rw [State.elemLoop_quiet hp l _ 0 (by simpa [Hart.Unwatched] using hw), hflags, State.holdLeave_spin]
  generalize ((c.spin w).holdLeave w).hart = g at hv
  obtain ⟨hv, hf⟩ := hv
  rw [State.wear_writeElems]
  refine ⟨(c.wear g).hart.writeElems dw r f l, congrArg VEnd.done (State.raise_zero _),
    Hart.writeElems_v_congr (g := (c.wear g).hart) hv rfl rfl rfl .., ?_⟩
  · exact (Hart.writeElems_keeps ..).2.2.2.trans hf

/-- A vector instruction that reads no scalar register, whose strips open and whose body completes. -/
theorem State.vgo_strips {s t : State} {v : VInstr} {body : State → Hart → VEnd} {st : Strips}
    (hopen : (s.touchStrips v.srcs v.dsts).openStrips v.srcs v.dsts = .ok st) (hreads : v.reads = [])
    (hawait : (s.touchStrips v.srcs v.dsts).awaited st = [])
    (hbody : body (((s.touchStrips v.srcs v.dsts).spin v.word).holdLeave v.word) ((s.touchStrips v.srcs v.dsts).view st) =
      .done t) :
    s.vgo v body = (t.closeStrips st).advance := by
  unfold State.vgo
  dsimp only
  rw [hopen]
  dsimp only
  rw [hreads, hawait, hbody]
  simp

/-- The hart as strips leave it to the elements that are read. -/
def Hart.popped (h : Hart) (w : Nat) (pops : List Strip) : Hart := pops.foldl (fun h p => h.setElems w p.binding.reg p.vals) h

theorem Hart.popped_vPois {h : Hart} (hv : h.vPois = []) (w : Nat) (pops : List Strip) : (h.popped w pops).vPois = [] := by
  induction pops generalizing h with
  | nil => exact hv
  | cons p pops ih =>
    refine ih ?_
    change (h.setElems w p.binding.reg p.vals).vPois = []
    rw [Hart.setElems_eq_writeElems]
    exact Hart.writeElems_vPois hv ..

/-- What counting units and walking the pages of strips leave as it was. -/
theorem State.touched {s c : State} {u : Nat} {srcs dsts : List (Nat × Nat)} (hc : (s.count u).touchStrips srcs dsts = c) :
    c.hart = (s.count u).hart ∧ c.tm = s.tm ∧ c.sew = s.sew ∧ c.hart.dbg = s.hart.dbg ∧
    ∀ store regs, c.hart.bindings store regs = s.hart.bindings store regs := by
  have hhart : c.hart = (s.count u).hart := hc ▸ State.hart_of_sansUse (State.sansUse_touchStrips ..)
  refine ⟨hhart, hc ▸ (State.tm_of_sansUse (State.sansUse_touchStrips ..)).trans (s.count_tm u), ?_, ?_, fun store regs => ?_⟩
  · rw [State.sew, hhart, State.count_hart_vtype, ← State.sew]
  · rw [hhart, State.count_hart_dbg]
  · rw [Hart.bindings, hhart, State.count_hart_streams, ← Hart.bindings]

/-- What strips hold is the same of harts that agree in vector storage. -/
theorem Hart.elem_popped {g h : Hart} (hv : g.v = h.v) (ht : g.vtype = h.vtype) (hl : g.lanes = h.lanes) (h0 : g.lane0 = h.lane0)
    (w r : Nat) (pops : List Strip) : (g.popped w pops).elem w r = (h.popped w pops).elem w r := by
  induction pops generalizing g h with
  | nil => exact funext fun i => Hart.elem_of hv ht hl h0 ..
  | cons p pops ih =>
    obtain ⟨gt, gl, g0, -⟩ := g.setElems_keeps w p.binding.reg p.vals
    obtain ⟨ht', hl', h0', -⟩ := h.setElems_keeps w p.binding.reg p.vals
    exact ih (Hart.setElems_v_congr hv ht hl h0 ..) (gt.trans (ht.trans ht'.symm)) (gl.trans (hl.trans hl'.symm))
      (g0.trans (h0.trans h0'.symm))

section
variable {s c : State} {d a : BitVec 5} {st : Strips} (hw : s.hart.Unwatched) (hu : s.steepOver (s.rows s.sew) = false)
  (hpois : s.hart.vPois = []) (hd : s.badGroup d = false) (ha : s.badGroup a = false)
  (hwhole : s.hart.current.all (fun r => r.entry.kept.shadow.isEmpty) = true)
  (hsrc : s.hart.bindings true [(a.toNat, s.grp)] = []) (hdst : s.hart.bindings false [(d.toNat, s.grp)] = [])
  (hc : (s.count (s.rows s.sew)).touchStrips [(a.toNat, s.grp)] [(d.toNat, s.grp)] = c)
  (hopen : c.openStrips [(a.toNat, s.grp)] [(d.toNat, s.grp)] = .ok st) (hawait : c.awaited st = [])
include hw hu hpois hd ha hwhole hsrc hdst hc hopen hawait

/-- VMV whose strips open: its elements are written from what its view of them holds, and its strips are closed. -/
theorem execVmvV_strips (p : BitVec 3) : ∃ k : Hart, exec (.vmvV d a p) s = .next (((c.wear k).closeStrips st).advance) ∧
    k.v = (s.hart.writeElems s.sew d.toNat ((s.hart.popped s.sew st.pops).elem s.sew a.toNat) (s.actives p)).v ∧
    k.fflags = s.hart.fflags := by
  obtain ⟨hhart, -, hsew, -, -⟩ := State.touched hc
  have hview : c.view st = c.hart.popped s.sew st.pops := by
    rw [State.view, State.source_whole (by rw [hhart, State.count_hart_current]; exact hwhole), hsew, Hart.popped]
  have hnone := Hart.poisIn_nil (h := c.view st) (by
    rw [hview]
    exact Hart.popped_vPois (by rw [hhart, State.count_hart_vPois]; exact hpois) ..) s.sew [a.toNat]
  obtain ⟨k, hk, hkv, hkf⟩ := State.elemLoop_wear (c := c) (by rw [hhart]; simpa [Hart.Unwatched] using hw) hnone
    (vv 0x23#6 d a 0#5 p 0#1 0x21#7) s.sew d.toNat ((c.view st).elem s.sew a.toNat) (s.actives p)
  have hactive : ((c.spin (vv 0x23#6 d a 0#5 p 0#1 0x21#7)).holdLeave (vv 0x23#6 d a 0#5 p 0#1 0x21#7)).actives p =
      s.actives p := by
    rw [State.holdLeave_spin]
    unfold State.actives State.vlen State.startElem State.skipped Hart.pbit State.wear
    simp [hhart]
  rw [← hactive] at hk
  have hv : c.hart.v = s.hart.v ∧ c.hart.vtype = s.hart.vtype ∧ c.hart.lanes = s.hart.lanes ∧ c.hart.lane0 = s.hart.lane0 := by
    simp [hhart]
  obtain ⟨hv, ht, hl, h0⟩ := hv
  have hvals : k.v = (s.hart.writeElems s.sew d.toNat ((s.hart.popped s.sew st.pops).elem s.sew a.toNat) (s.actives p)).v := by
    rw [hkv, hview, Hart.elem_popped hv ht hl h0]
    exact Hart.writeElems_v_congr hv ht hl h0 ..
  refine ⟨k, congrArg Host.Outcome.next ?_, hvals, by rw [hkf, hhart, State.count_hart_fflags]⟩
  unfold State.vvUn State.vrun
  dsimp only
  rw [State.issue_pass rfl (by exact hu) (by simp [State.vvInstr, hd, ha]) (by simp [Hart.streamBad, State.vvInstr, hsrc, hdst])
    rfl rfl]
  subst hc
  exact State.vgo_strips hopen rfl hawait hk
end

/-! ### Opening one strip (R259, R261) -/

section
variable {c : State} {b : Binding} {i : Nat} {srcs dsts : List (Nat × Nat)} (hstop : c.stripStop b c.sew = none)
include hstop

theorem State.openStrips_pop (hsrc : c.hart.bindings false srcs = [(i, b)]) (hdst : c.hart.bindings true dsts = []) :
    c.openStrips srcs dsts = .ok ⟨[⟨i, b, c.stripVals b c.sew, c.stripElems b⟩], []⟩ := by
  simp [State.openStrips, hsrc, hdst, hstop]

theorem State.openStrips_append (hsrc : c.hart.bindings false srcs = []) (hdst : c.hart.bindings true dsts = [(i, b)]) :
    c.openStrips srcs dsts = .ok ⟨[], [⟨i, b, [], c.stripElems b⟩]⟩ := by
  simp [State.openStrips, hsrc, hdst, hstop]
end

/-- A byte of a stream that has not been stored to since the stream was bound (R139). -/
theorem State.streamByte_unstored {c : State} {b : Binding} {a : Nat}
    (h : (numGet c.gmStamp a).all (fun t => decide (t < b.since)) = true) (n j : Nat) (key : XtsKey) :
    c.streamByte b n j key a = c.gmByte key a := by
  unfold State.streamByte
  split
  next => rfl
  next t ht =>
    rw [ht] at h
    rw [if_neg (by simpa using h)]

/-- The values of a popped strip, from what memory holds within the stream. -/
theorem State.stripVals_eq {c : State} {b : Binding} {w : Nat} {vals : List Nat} (hlen : vals.length = c.vlen)
    (hpast : ∀ j < c.vlen, b.total ≤ b.pos + j → vals[j]? = some 0)
    (hin : ∀ j < c.vlen, b.pos + j < b.total → ∃ r, c.myXlate .r (b.addr (b.pos + j)).toNat = .ok r ∧
      (∀ m < w / 8, (numGet c.gmStamp (r.2.addr + m)).all (fun t => decide (t < b.since)) = true) ∧
      vals[j]? = some (leNat (c.gmBytes r.2 (w / 8)))) : c.stripVals b w = vals := by
  refine List.ext_getElem (by simp [State.stripVals, upTo, hlen]) fun j h1 h2 => ?_
  have hj : j < c.vlen := hlen ▸ h2
  simp only [State.stripVals, upTo, List.getElem_map, List.getElem_range]
  split
  next hlt =>
    obtain ⟨r, hr, hstamp, hval⟩ := hin j hj hlt
    rw [hr, Option.some_inj.1 ((List.getElem?_eq_getElem h2).symm.trans hval), State.gmBytes]
    exact congrArg leNat (List.map_congr_left fun m hm => State.streamByte_unstored (hstamp m (List.mem_range.1 hm)) ..)
  next hge => exact (Option.some_inj.1 ((List.getElem?_eq_getElem h2).symm.trans (hpast j hj (by omega)))).symm

/-- The elements of a strip to be appended, from their indices and translations. -/
theorem State.stripElems_eq {c : State} {b : Binding} {es : List ElemAccess} (hstore : b.store = true)
    (helem : es.map (·.elem) = (List.range c.vlen).filter fun j => b.pos + j < b.total)
    (hphys : ∀ e ∈ es, e.va = b.addr (b.pos + e.elem) ∧ ∃ r, c.myXlate .w e.va.toNat = .ok r ∧ e.phys = r.2) :
    c.stripElems b = es := by
  rw [State.stripElems, Binding.strip, upTo, ← helem, List.map_map, List.filterMap_map]
  refine (List.filterMap_congr fun e he => ?_).trans List.filterMap_some
  obtain ⟨hva, r, hr, hp⟩ := hphys e he
  simp only [Function.comp_apply, hstore, if_true]
  rw [← hva, hr]
  change some (⟨e.elem, e.va, r.2⟩ : ElemAccess) = some e
  rw [← hp]

/-! ### The end of VMV under a binding -/

theorem State.advance_hart_only (s : State) : s.advance = { s with hart := s.advance.hart } := by
  unfold State.advance State.setPc
  dsimp only
  split <;> rfl

theorem State.tm_gbytes (s : State) (n : Nat) : (s.gbytes n).tm = s.tm := State.tm_of_sansUse (s.sansUse_gbytes n)

theorem State.tm_packet (s : State) (netid : Nat) (ws : List (Phys × Nat)) : (s.packet netid ws).tm = s.tm := by
  have hsend : (s.sendPackets netid true ws).tm = s.tm :=
    foldl_keeps State.tm (fun (t : State) w => t.sendPacket t.myEp netid true w) (fun _ _ => rfl) _ _
  refine (foldl_keeps State.tm _ (fun t g => ?_) _ _).trans hsend
  split
  · rfl
  · unfold State.partialStoreEvent
    split <;> rfl

theorem State.tm_appended (c : State) (b : Binding) (es : List ElemAccess) (val : Nat → Nat) :
    (c.appended b es val).tm = c.tm := by
  have hstore : ∀ (t : State) (e : ElemAccess), (t.gmStore e.phys (leBytes (c.sew / 8) (val e.elem))).tm = t.tm := fun t e =>
    (congrArg State.tm (t.sansGm_gmStore ..) : (t.gmStore _ _).sansGm.tm = t.sansGm.tm)
  exact (foldl_keeps State.tm _ hstore es _).trans ((State.tm_packet ..).trans (State.tm_of_sansUse (c.sansUse_useStrip b)))

theorem State.hart_appended (c : State) (b : Binding) (es : List ElemAccess) (val : Nat → Nat) :
    (c.appended b es val).hart = c.hart :=
  (State.hart_foldl_gmStore (fun e => leBytes (c.sew / 8) (val e.elem)) ..).trans
    ((State.hart_packet ..).trans (State.hart_of_sansUse (c.sansUse_useStrip b)))

/-- t is s past a vector instruction that moves one strip of the binding in slot i. -/
def State.PastStrip (s : State) (i : Fin 4) (b : Binding) (t : State) : Prop :=
  t.hart.pc = s.nextPc ∧ (∀ k, t.tm.read k = s.tm.read k) ∧
  t.hart.streams = s.hart.streams.set i (some { b with pos := Nat.min (b.pos + s.vlen) b.total }) ∧
  t.hart.fflags = s.hart.fflags ∧ (∀ r, t.x r = s.x r) ∧ t.hart.p = s.hart.p ∧ t.hart.e = s.hart.e

/-- Past its one strip VMV goes on, with the strip's binding moved past it. -/
theorem State.moveOn_advance {s u : State} {U : Nat} {k : Hart} {p : Strip} {i : Fin 4} (hu : u.hart = (s.count U).hart)
    (htm : u.tm = s.tm) (hk : k.fflags = s.hart.fflags) (hslot : p.slot = i.val) :
    s.PastStrip i p.binding ((u.wear k).moveOn p).advance ∧ ((u.wear k).moveOn p).advance.hart.v = k.v ∧
    ((u.wear k).moveOn p).advance.gm = u.gm ∧
    ((u.wear k).moveOn p).advance = { u with hart := ((u.wear k).moveOn p).advance.hart } := by
  have hvlen : (u.wear k).vlen = s.vlen := by
    unfold State.vlen State.wear
    simp [hu]
  have hstreams : ((u.wear k).moveOn p).hart.streams = s.hart.streams.set i (some (p.binding.after s.vlen)) := by
    rw [State.moveOn, hslot, hvlen, setIfInBounds_fin, State.wear, hu, State.count_hart_streams]
  refine ⟨⟨?_, fun a => ?_, ?_, ?_, fun r => ?_, ?_, ?_⟩, ?_, ?_, ?_⟩
  · exact (State.advance_pc _).trans (State.nextPc_of ((congrArg Hart.pc hu).trans (s.count_hart_pc U))
      ((congrArg Hart.current hu).trans (s.count_hart_current U)))
  · rw [State.advance_tm]
    exact congrArg (·.read a) htm
  · exact (State.advance_hart_streams _).trans hstreams
  · exact (State.advance_hart_fflags _).trans hk
  · rw [State.x_advance]
    exact (congrArg (fun h : Hart => if r = 0 then 0 else h.x[r.toNat]) hu).trans (s.x_count U r)
  · exact (State.advance_hart_p _).trans ((congrArg Hart.p hu).trans (s.count_hart_p U))
  · exact (State.advance_hart_e _).trans ((congrArg Hart.e hu).trans (s.count_hart_e U))
  · exact State.advance_hart_v _
  · exact State.advance_gm _
  · exact State.advance_hart_only _

section
variable {s c : State} {d a : BitVec 5} {i : Fin 4} {b : Binding} (hw : s.hart.Unwatched)
  (hu : s.steepOver (s.rows s.sew) = false) (hpois : s.hart.vPois = []) (hd : s.badGroup d = false) (ha : s.badGroup a = false)
  (hwhole : s.hart.current.all (fun r => r.entry.kept.shadow.isEmpty) = true)
  (hsrc : s.hart.bindings true [(a.toNat, s.grp)] = []) (hdst : s.hart.bindings false [(d.toNat, s.grp)] = [])
  (hc : (s.count (s.rows s.sew)).touchStrips [(a.toNat, s.grp)] [(d.toNat, s.grp)] = c)
  (hstop : c.stripStop b s.sew = none)
include hw hu hpois hd ha hwhole hsrc hdst hc hstop

theorem execVmvV_pops (p : BitVec 3) {vals : List Nat} (hpop : s.hart.bindings false [(a.toNat, s.grp)] = [(i.val, b)])
    (happ : s.hart.bindings true [(d.toNat, s.grp)] = [])
    (hawait : c.awaited ⟨[⟨i.val, b, [], c.stripElems b⟩], []⟩ = []) (hvals : c.stripVals b s.sew = vals) :
    Answers (exec (.vmvV d a p) s) (fun t => s.PastStrip i b t ∧
      (∀ k, t.gm.read k = (c.useStrip b).gm.read k) ∧
      t.hart.v = ((s.hart.writeElems s.sew d.toNat ((s.hart.setElems s.sew b.reg vals).elem s.sew a.toNat) (s.actives p)).setElems
        s.sew b.reg vals).v) := by
  obtain ⟨hhart, htm, hsew, hdbg, hbind⟩ := State.touched hc
  have hopen := State.openStrips_pop (by rw [hsew]; exact hstop) ((hbind ..).trans hpop) ((hbind ..).trans happ)
  rw [hsew, hvals] at hopen
  obtain ⟨k, hexec, hkv, hkf⟩ := execVmvV_strips hw hu hpois hd ha hwhole hsrc hdst hc hopen hawait p
  have huse : (c.useStrip b).hart = c.hart := State.hart_of_sansUse (c.sansUse_useStrip b)
  have hend := State.popStrip_wear (hdbg.trans hw.1) k ⟨i.val, b, vals, c.stripElems b⟩
  obtain ⟨kt, kl, k0, kf⟩ := ((c.useStrip b).wear k).hart.setElems_keeps c.sew b.reg vals
  refine ⟨_, hexec, ?_⟩
  rw [show (c.wear k).closeStrips ⟨[⟨i.val, b, vals, c.stripElems b⟩], []⟩ = _ from hend]
  obtain ⟨hsame, hv, hgm, -⟩ := State.moveOn_advance (s := s) (U := s.rows s.sew)
    (u := (c.useStrip b).gbytes ((c.stripElems b).length * (c.sew / 8)))
    (k := ((c.useStrip b).wear k).hart.setElems c.sew b.reg vals) (p := ⟨i.val, b, vals, c.stripElems b⟩) (i := i)
    (by rw [State.hart_gbytes, huse, hhart])
    (by rw [State.tm_gbytes, State.tm_of_sansUse (c.sansUse_useStrip b), htm]) (kf.trans hkf) rfl
  refine ⟨hsame, fun a => ?_, hv.trans ?_⟩
  · exact congrArg (·.read a) (hgm.trans (State.gm_gbytes ..))
  · obtain ⟨wt, wl, w0, -⟩ := s.hart.writeElems_keeps s.sew d.toNat ((s.hart.setElems s.sew b.reg vals).elem s.sew a.toNat)
      (s.actives p)
    have hworn := huse.trans hhart
    rw [hsew]
    exact Hart.setElems_v_congr (g := ((c.useStrip b).wear k).hart) hkv
      ((congrArg Hart.vtype hworn).trans ((s.count_hart_vtype _).trans wt.symm))
      ((congrArg Hart.lanes hworn).trans ((s.count_hart_lanes _).trans wl.symm))
      ((congrArg Hart.lane0 hworn).trans ((s.count_hart_lane0 _).trans w0.symm)) ..

theorem execVmvV_appends (p : BitVec 3) {es : List ElemAccess} (hpop : s.hart.bindings false [(a.toNat, s.grp)] = [])
    (happ : s.hart.bindings true [(d.toNat, s.grp)] = [(i.val, b)]) (hreg : b.reg = d.toNat) (hes : c.stripElems b = es) :
    Answers (exec (.vmvV d a p) s) (fun t => s.PastStrip i b t ∧
      t.hart.v = (s.hart.writeElems s.sew d.toNat (s.hart.elem s.sew a.toNat) (s.actives p)).v ∧
      t = { (es.foldl (fun (t : State) e => t.gmStore e.phys (leBytes (s.sew / 8)
          ((s.hart.writeElems s.sew d.toNat (s.hart.elem s.sew a.toNat) (s.actives p)).elem s.sew d.toNat e.elem)))
        ((c.useStrip b).packet s.myNet (es.map fun e => (e.phys, s.sew / 8)))).gbytes (es.length * (s.sew / 8)) with
          hart := t.hart }) := by
  obtain ⟨hhart, htm, hsew, hdbg, hbind⟩ := State.touched hc
  have hnet : c.myNet = s.myNet := by rw [State.myNet, hhart, State.count_hart_pid, ← State.myNet]
  have hopen := State.openStrips_append (by rw [hsew]; exact hstop) ((hbind ..).trans hpop) ((hbind ..).trans happ)
  rw [hes] at hopen
  obtain ⟨k, hexec, hkv, hkf⟩ := execVmvV_strips hw hu hpois hd ha hwhole hsrc hdst hc hopen (by simp [State.awaited]) p
  have hend := State.appendStrip_wear (hdbg.trans hw.1) k ⟨i.val, b, [], es⟩
  obtain ⟨wt, wl, w0, -⟩ := s.hart.writeElems_keeps s.sew d.toNat (s.hart.elem s.sew a.toNat) (s.actives p)
  have helem : (c.wear k).hart.elem c.sew b.reg = (s.hart.writeElems s.sew d.toNat (s.hart.elem s.sew a.toNat)
      (s.actives p)).elem s.sew d.toNat := funext fun j => by
    rw [hsew, hreg]
    exact Hart.elem_of (g := (c.wear k).hart) hkv ((congrArg Hart.vtype hhart).trans ((s.count_hart_vtype _).trans wt.symm))
      ((congrArg Hart.lanes hhart).trans ((s.count_hart_lanes _).trans wl.symm))
      ((congrArg Hart.lane0 hhart).trans ((s.count_hart_lane0 _).trans w0.symm)) ..
  refine ⟨_, hexec, ?_⟩
  rw [show (c.wear k).closeStrips ⟨[], [⟨i.val, b, [], es⟩]⟩ = _ from hend]
  dsimp only
  rw [helem]
  obtain ⟨hsame, hv, -, ht⟩ := State.moveOn_advance (s := s) (U := s.rows s.sew) (u := (c.appended b es
      ((s.hart.writeElems s.sew d.toNat (s.hart.elem s.sew a.toNat) (s.actives p)).elem s.sew d.toNat)).gbytes
      (es.length * (c.sew / 8))) (k := k) (p := ⟨i.val, b, [], es⟩) (i := i)
    (by rw [State.hart_gbytes, State.hart_appended, hhart]) (by rw [State.tm_gbytes, State.tm_appended, htm]) hkf rfl
  refine ⟨hsame, hv.trans hkv, ht.trans ?_⟩
  rw [State.appended, hsew, hnet]
end

/-- Settles O27: SBIND, SUNB and VMV by their lemmas above. -/
theorem streams : Obligations.Streams := by
  unfold Obligations.Streams
  intro s d a p i b hm hw w ea bs word desc pos frees c0 c1 total addr moved
  have hdesc : Binding.ofBytes bs d.toNat s.grp (s.x a) s.ticks = desc := rfl
  refine ⟨fun hf hp hd hparent halign hok hclean hgood => ?_, fun hb => ⟨fun hf hp hd => ?_, fun hblocked => ?_⟩, ?_⟩
  · exact execSbind_answers hw hf hp hd hparent halign hok hclean (show s.tmBytes ea 64 = bs from rfl) hdesc hgood
  · exact execSunb_answers hm hw hb hf hp hd
  · exact execSunbComplete_answers hm hw hb hblocked
  · intro hu hpois hd ha hwhole hsrc hdst c u same hstop
    have hvlen : c.vlen = s.vlen := by
      rw [State.vlen, (State.touched (c := c) rfl).1, State.count_hart_current, State.count_hart_vl, ← State.vlen]
    refine ⟨fun hpop happ hreg hload hawait vals hlen hpast hin => ?_, fun hpop happ hreg hstore es helem hphys => ?_⟩
    · exact execVmvV_pops hw hu hpois hd ha hwhole hsrc hdst rfl hstop p hpop happ hawait
        (State.stripVals_eq (hlen.trans hvlen.symm) (hvlen ▸ hpast) (hvlen ▸ hin))
    · exact execVmvV_appends hw hu hpois hd ha hwhole hsrc hdst rfl hstop p hpop happ hreg
        (State.stripElems_eq hstore (by rw [hvlen]; exact helem) hphys)

end Sys2Proof.Machine
end
